-- ==== Sys2Proof/Word.lean ====
section
/-! DEFINITION. Word types of the GZ-8100 and the shape of a sparse map.
Bits are numbered from 0 at the least significant bit and memory is little-endian (R5). -/

namespace Sys2Proof

/-- One byte. -/
abbrev Byte := BitVec 8
/-- One 32-bit register of one lane, or one scalar register (R31). -/
abbrev Word := BitVec 32
/-- A 64-bit operand: an even register and the odd one above it (R32). -/
abbrev DWord := BitVec 64
/-- A mask of the 32 lanes of a warp, lane k in bit k (R10, R17). -/
abbrev Mask := BitVec 32
/-- A 128-byte line, byte i in bits [8i + 7:8i] (R80, R99). -/
abbrev Line := BitVec 1024
/-- An instruction word (R23). -/
abbrev CodeWord := BitVec 96

/-- Sparse data by key. The canonical form has strictly rising keys and lists no entry equal to what
an unlisted key reads as; the operations are in Machine/Sparse.lean. -/
abbrev SMap (α : Type) := List (Nat × α)

end Sys2Proof
end

