-- ==== Sys2Proof/Machine/Sparse.lean ====
section
/-! DEFINITION. Sparse maps in canonical form: reading a key, writing a key, and the form itself. d is the value that an
unlisted key reads as. -/

namespace Sys2Proof.Machine

/-- What key a reads as.
Log 1 (DESIGN CHOICE). -/
def mget {α : Type} (d : α) : SMap α → Nat → α
  | [], _ => d
  | (k, v) :: t, a => if a = k then v else mget d t a

/-- The map with an entry for key a put in its place. -/
def mput {α : Type} : SMap α → Nat → α → SMap α
  | [], a, x => [(a, x)]
  | (k, v) :: t, a, x =>
    if a < k then (a, x) :: (k, v) :: t else if a = k then (a, x) :: t else (k, v) :: mput t a x

/-- The map with key a holding x; writing the default removes the entry.
Log 1 (DESIGN CHOICE). -/
def mset {α : Type} [DecidableEq α] (d : α) (m : SMap α) (a : Nat) (x : α) : SMap α :=
  if x = d then m.filter fun e => decide (e.1 ≠ a) else mput m a x

/-- Every key of the map is at least lo, keys rise strictly, and no entry equals the default. -/
def mwfFrom {α : Type} [DecidableEq α] (d : α) : Nat → SMap α → Bool
  | _, [] => true
  | lo, (k, v) :: t => decide (lo ≤ k) && decide (v ≠ d) && mwfFrom d (k + 1) t

/-- The canonical form.
Log 1 (DESIGN CHOICE). -/
def mwf {α : Type} [DecidableEq α] (d : α) (m : SMap α) : Bool := mwfFrom d 0 m

/-- The form of a memory: addresses strictly rising, and no byte listed that reads as an unlisted one, which is 0 (R73).
Log 1 (DESIGN CHOICE). -/
def Memory.wf (m : SMap Byte) : Bool := mwf 0 m

/-- The map with the listed bytes (or words) written from key a upwards. -/
def msetRange {α : Type} [DecidableEq α] (d : α) (m : SMap α) (a : Nat) : List α → SMap α
  | [] => m
  | x :: t => msetRange d (mset d m a x) (a + 1) t

/-- n consecutive keys from a. -/
def mgetRange {α : Type} (d : α) (m : SMap α) (a n : Nat) : List α := (List.range n).map fun i => mget d m (a + i)

/-- The map without the keys from lo to hi - 1. -/
def mdrop {α : Type} (m : SMap α) (lo hi : Nat) : SMap α := m.filter fun e => e.1 < lo || hi ≤ e.1

/-- Bytes as a number, the lowest address least significant (R5). -/
def natOfBytes : List Byte → Nat
  | [] => 0
  | b :: t => b.toNat + 256 * natOfBytes t

/-- The n low bytes of a number, least significant first (R5). -/
def bytesOfNat : Nat → Nat → List Byte
  | 0, _ => []
  | n + 1, x => BitVec.ofNat 8 x :: bytesOfNat n (x / 256)

/-- Bits hi down to lo of x. -/
def bitsOf (x hi lo : Nat) : Nat := (x / 2 ^ lo) % 2 ^ (hi + 1 - lo)

/-- x read as two's complement of w bits. -/
def sextNat (w x : Nat) : Int := (BitVec.ofNat w x).toInt

/-- The lanes of a mask, ascending (R10). -/
def lanesOf (m : Mask) : List Nat := (List.range 32).filter fun k => m.getLsbD k

/-- Lane k alone. -/
def laneBit (k : Nat) : Mask := BitVec.ofNat 32 (2 ^ k)

/-- The mask whose lane k is f k. -/
def maskOf (f : Nat → Bool) : Mask :=
  BitVec.ofNat 32 ((List.range 32).foldl (fun a k => if f k then a + 2 ^ k else a) 0)

end Sys2Proof.Machine
end

