-- ==== Sys2Proof/Syntax.lean ====
section
/-! DEFINITION. The syntax of the GZ-8100: the operand forms of the instruction word (R23 to R40), and the ONE inductive
Instr with a constructor for every row of the table of operations and events. Instruction forms carry the fields of
their entry; packets are named by the identifier under which the front end accepted them; register writes, firmware
services and the internal events of the device carry what their source presents. -/

namespace Sys2Proof

/-- Type codes of FMT (R28), in code order. -/
inductive Fmt where
  | i32 | n32 | i64 | n64 | i16 | n16 | i8 | n8 | f32 | f64 | f16 | bf16 | k8e4 | k8e5 | w8 | untyped
deriving DecidableEq, Repr

/-- Rounding modes of MOD[1:0] (R30). -/
inductive RMode where
  | rne | rz | ru | rd
deriving DecidableEq, Repr

/-- Scopes of MOD[7:5] (R7, R30). -/
inductive Scope where
  | wp | cw | co | cl | pk | dm | sy
deriving DecidableEq, Repr

/-- Special operand selectors 0x710 to 0x71F (R35), in code order. -/
inductive Sel where
  | zero | laneid | quadid | warpid | crewid | coreid | sectorid | pkgid | gtc | ip | amask | emask | hmask | cls | vi
  | launchid
deriving DecidableEq, Repr

/-- An operand code that names a register, a selector or a short immediate (R31, R35, R37). -/
inductive Opnd where
  | v (n : Fin 1536)
  | s (n : Fin 256)
  | p (n : Fin 16)
  | sel (x : Sel)
  | imm (i : BitVec 11)
deriving DecidableEq, Repr

/-- A tile operand: an index code, or a scalar register that holds the tile number (R34). -/
inductive TileOp where
  | idx (t : Fin 128)
  | reg (n : Fin 256)
deriving DecidableEq, Repr

/-- Guard and scheduling hints, the part every instruction word shares (R39, R40). -/
structure Ctl where
  gneg : Bool
  gpred : Fin 16
  wmask : BitVec 7
  wslot : BitVec 3
  stall : BitVec 5
  yld : Bool
deriving DecidableEq, Repr

/-- Comparison kinds of ICMP (R216). -/
inductive ICmpKind where
  | eq | ne | lt | le | gt | ge
deriving DecidableEq, Repr

/-- Comparison kinds of FCMP (R233). -/
inductive FCmpKind where
  | eq | ne | lt | le | gt | ge | un | ord
deriving DecidableEq, Repr

/-- Address scales of LEA: the shift of .x1 to .x16 (R210). -/
inductive LeaScale where
  | x1 | x2 | x4 | x8 | x16
deriving DecidableEq, Repr

/-- Variants of SHFL (R220). -/
inductive ShflKind where
  | idx | up | down | xor
deriving DecidableEq, Repr

/-- Segment widths of SHFL (R220). -/
inductive ShflSeg where
  | w32 | w16 | w8 | w4 | w2
deriving DecidableEq, Repr

/-- Variants of QSWP (R220). -/
inductive QswpKind where
  | h | v | d
deriving DecidableEq, Repr

/-- Operations of QRED (R220). -/
inductive QredOp where
  | add | min | max
deriving DecidableEq, Repr

/-- Operations of LRED (R220). -/
inductive LredOp where
  | add | min | max | and | or | xor
deriving DecidableEq, Repr

/-- Variants of VOTE (R220). -/
inductive VoteKind where
  | some | every | same | mask
deriving DecidableEq, Repr

/-- Operations of ATOM and ATMS (R198). -/
inductive AtomOp where
  | add | min | max | and | or | xor | exch | cas
deriving DecidableEq, Repr

/-- Orders of ATOM and ATMS, MOD[3:2] (R198). -/
inductive AtomOrd where
  | relaxed | acq | rel | ar
deriving DecidableEq, Repr

/-- Element counts of LD, ST, LDS and STS (R195). -/
inductive Count where
  | x1 | x2 | x4
deriving DecidableEq, Repr

/-- Variants of FNCE (R283). -/
inductive FnceKind where
  | acq | rel | ar | un
deriving DecidableEq, Repr

/-- Conditions of WAITE.word (R348). -/
inductive WordCond where
  | eq | ne | geu | ltu | ges | lts
deriving DecidableEq, Repr

/-- Row counts of MRDA and MWRA (R259). -/
inductive RowCount where
  | x1 | x2 | x4 | x8
deriving DecidableEq, Repr

/-- Tile swizzles TSWZ (R129, R257); 0b11 is reserved. -/
inductive Tswz where
  | sw0 | sw1 | sw2
deriving DecidableEq, Repr

/-- Copy sizes of ACPY (R175). -/
inductive AcpySize where
  | sz4 | sz8 | sz16 | sz32
deriving DecidableEq, Repr

/-- Targets of FWD (R351). -/
inductive FwdTarget where
  | core (a : Opnd)
  | sect (a : Opnd)
  | pkg (a : Opnd)
  | any
deriving DecidableEq, Repr

/-- Operations of a host AtomicOp on the device-memory window (R390, R392). -/
inductive HostAtomic where
  | fetchAdd | swap | cas
deriving DecidableEq, Repr

/-- The wide BAR0 registers that are written in pieces (R391). -/
inductive PieceReg where
  | invreq | pgdone | mbox
deriving DecidableEq, Repr

/-- Soft errors, by the detail code that MCHK carries (R371). -/
inductive SoftErr where
  | residue | regParity | sram
deriving DecidableEq, Repr

/-- The bytes of a line that a write covers, and the line that holds their values (R102). -/
structure PartWrite where
  mask : BitVec 128
  data : Line
deriving DecidableEq, Repr

/-- The fields of the signature that the participants of a collective exchange (R300, R307). The contents of PLIST
and of SPLV, and the repartition's key parameters, are given as lists. -/
structure CollSig where
  collid : Word
  var : BitVec 2
  eop : BitVec 4
  count : Word
  npart : Nat
  plist : List (BitVec 16)
  params : List DWord
deriving DecidableEq, Repr

/-- The triple that orders the items of a repartition (R306). -/
structure Triple where
  key : DWord
  rank : BitVec 16
  index : Word
deriving DecidableEq, Repr

/-- A keyed item as a peer reports it while splitters are refined: its triple and its FP32 load weight (R309). -/
structure RpItem where
  triple : Triple
  weight : Word
deriving DecidableEq, Repr

/-- Machine operations and events of the GZ-8100, one constructor for each row of the opcode table. -/
inductive Instr where
  -- Control (R344)
  | ill
  | nop (c : Ctl)
  | braRel (c : Ctl) (prio : BitVec 4) (off : BitVec 27)
  | braAny (c : Ctl) (prio : BitVec 4) (off : BitVec 27)
  | braAll (c : Ctl) (prio : BitVec 4) (off : BitVec 27)
  | jumpLane (c : Ctl) (prio : BitVec 4) (a : Opnd)
  | jumpWarp (c : Ctl) (prio : BitVec 4) (a : Opnd)
  | callRel (c : Ctl) (prio : BitVec 4) (d : Opnd) (off : BitVec 27)
  | callS (c : Ctl) (prio : BitVec 4) (d a : Opnd)
  | ret (c : Ctl) (prio : BitVec 4) (a : Opnd)
  | split (c : Ctl)
  | exit (c : Ctl)
  | yield (c : Ctl)
  | waiteTile (c : Ctl) (t : TileOp)
  | waiteBatch (c : Ctl) (b : Opnd)
  | waiteWord (c : Ctl) (cond : WordCond) (w64 : Bool) (br : Fin 64) (b r : Opnd)
  | waiteJoin (c : Ctl) (a : Opnd)
  | waiteBar (c : Ctl) (bar : BitVec 4) (cl : Bool) (a : Opnd)
  | waiteGtc (c : Ctl) (a : Opnd)
  | waitePage (c : Ctl) (br : Fin 64) (b : Opnd)
  | waiteColl (c : Ctl) (a : Opnd)
  | spawnNode (c : Ctl) (na : BitVec 4) (d a b : Opnd)
  | spawnStage (c : Ctl) (na : BitVec 4) (k : BitVec 3) (d a b r : Opnd)
  | joinc (c : Ctl)
  | joinUpdatePageReady (asid vpn : Nat)
  | fwd (c : Ctl) (t : FwdTarget)
  | barWait (c : Ctl) (bar : BitVec 4) (cl : Bool)
  | barPost (c : Ctl) (bar : BitVec 4) (cl : Bool) (d : Opnd)
  | refill (c : Ctl) (sc : Scope) (d a b p : Opnd)
  | trap (c : Ctl) (detail : Byte)
  | tret (c : Ctl) (a : Opnd)
  | tretKill (c : Ctl) (a : Opnd)
  | srd (c : Ctl) (w64 : Bool) (num : Byte) (d : Opnd)
  | swr (c : Ctl) (w64 : Bool) (num : Byte) (a : Opnd)
  -- Integer and logic (R210)
  | iadd (c : Ctl) (t : Fmt) (sat : Bool) (d a b : Opnd)
  | isub (c : Ctl) (t : Fmt) (sat : Bool) (d a b : Opnd)
  | addc (c : Ctl) (t : Fmt) (sub : Bool) (cp : Fin 16) (d a b ci : Opnd)
  | imul (c : Ctl) (t : Fmt) (d a b : Opnd)
  | imulh (c : Ctl) (t : Fmt) (d a b : Opnd)
  | imad (c : Ctl) (t : Fmt) (wide : Bool) (d a b e : Opnd)
  | imin (c : Ctl) (t : Fmt) (d a b : Opnd)
  | imax (c : Ctl) (t : Fmt) (d a b : Opnd)
  | iabs (c : Ctl) (t : Fmt) (sat : Bool) (d a : Opnd)
  | and (c : Ctl) (t : Fmt) (notb : Bool) (d a b : Opnd)
  | or (c : Ctl) (t : Fmt) (notb : Bool) (d a b : Opnd)
  | xor (c : Ctl) (t : Fmt) (notb : Bool) (d a b : Opnd)
  | shl (c : Ctl) (t : Fmt) (d a b : Opnd)
  | shr (c : Ctl) (t : Fmt) (d a b : Opnd)
  | rot (c : Ctl) (t : Fmt) (right : Bool) (d a b : Opnd)
  | popc (c : Ctl) (t : Fmt) (d a : Opnd)
  | clz (c : Ctl) (t : Fmt) (d a : Opnd)
  | brev (c : Ctl) (t : Fmt) (d a : Opnd)
  | bfx (c : Ctl) (t : Fmt) (x : BitVec 16) (d a b : Opnd)
  | bfi (c : Ctl) (t : Fmt) (d a b e : Opnd)
  | icmp (c : Ctl) (t : Fmt) (k : ICmpKind) (d a b : Opnd)
  | sel (c : Ctl) (t : Fmt) (d a b e : Opnd)
  | lea (c : Ctl) (m : LeaScale) (d a b : Opnd)
  | plop (c : Ctl) (tt : Byte) (d a b e : Opnd)
  -- Floating point and signal (R230)
  | fadd (c : Ctl) (t : Fmt) (rm : RMode) (d a b : Opnd)
  | fsub (c : Ctl) (t : Fmt) (rm : RMode) (d a b : Opnd)
  | fmul (c : Ctl) (t : Fmt) (rm : RMode) (d a b : Opnd)
  | ffma (c : Ctl) (t : Fmt) (rm : RMode) (d a b e : Opnd)
  | fmin (c : Ctl) (t : Fmt) (nan : Bool) (d a b : Opnd)
  | fmax (c : Ctl) (t : Fmt) (nan : Bool) (d a b : Opnd)
  | fcmp (c : Ctl) (t : Fmt) (k : FCmpKind) (d a b : Opnd)
  | frcp (c : Ctl) (t : Fmt) (rm : RMode) (d a : Opnd)
  | frsq (c : Ctl) (t : Fmt) (rm : RMode) (d a : Opnd)
  | fsqrt (c : Ctl) (t : Fmt) (rm : RMode) (d a : Opnd)
  | fex2 (c : Ctl) (t : Fmt) (d a : Opnd)
  | flg2 (c : Ctl) (t : Fmt) (d a : Opnd)
  | fsin (c : Ctl) (t : Fmt) (d a : Opnd)
  | fcos (c : Ctl) (t : Fmt) (d a : Opnd)
  | fcls (c : Ctl) (t : Fmt) (d a b : Opnd)
  | frnd (c : Ctl) (t : Fmt) (rm : RMode) (d a : Opnd)
  | fscl (c : Ctl) (t : Fmt) (rm : RMode) (d a b : Opnd)
  | fdiv (c : Ctl) (t : Fmt) (rm : RMode) (d a b : Opnd)
  | cmul (c : Ctl) (t : Fmt) (rm : RMode) (cj : Bool) (d a b : Opnd)
  | cfma (c : Ctl) (t : Fmt) (rm : RMode) (cj : Bool) (d a b e : Opnd)
  | bfly (c : Ctl) (t : Fmt) (rm : RMode) (d a b e : Opnd)
  | bfl4 (c : Ctl) (t : Fmt) (rm : RMode) (inv : Bool) (d a b : Opnd)
  | twid (c : Ctl) (t : Fmt) (rm : RMode) (d a b : Opnd)
  | fdt2 (c : Ctl) (t : Fmt) (rm : RMode) (sub : Bool) (d a b : Opnd)
  -- Moves, conversion, lane exchange (R218, R220, R230)
  | mov (c : Ctl) (t : Fmt) (d a : Opnd)
  | moviLo (c : Ctl) (t : Fmt) (d : Opnd) (imm : BitVec 27)
  | moviHi (c : Ctl) (t : Fmt) (h : BitVec 2) (d : Opnd) (imm : BitVec 27)
  | cvt (c : Ctl) (t src : Fmt) (rm : RMode) (sat : Bool) (d a : Opnd) (rb : Option Opnd)
  | cvtBlk (c : Ctl) (t src : Fmt) (rm : RMode) (d a : Opnd) (rb : Option Opnd)
  | pack (c : Ctl) (t : Fmt) (d a b : Opnd) (e : Option Opnd)
  | unpk (c : Ctl) (t : Fmt) (d a b : Opnd)
  | shfl (c : Ctl) (t : Fmt) (k : ShflKind) (g : ShflSeg) (d a b p : Opnd)
  | qswp (c : Ctl) (t : Fmt) (k : QswpKind) (d a : Opnd)
  | qred (c : Ctl) (t : Fmt) (op : QredOp) (rm : RMode) (d a : Opnd)
  | vote (c : Ctl) (k : VoteKind) (d a : Opnd)
  | pmovTomask (c : Ctl) (d a : Opnd)
  | pmovTopred (c : Ctl) (d a : Opnd)
  | lred (c : Ctl) (t : Fmt) (op : LredOp) (rm : RMode) (d a : Opnd)
  | prfx (c : Ctl) (t : Fmt) (excl : Bool) (rm : RMode) (d a : Opnd)
  | bcst (c : Ctl) (t : Fmt) (d a b : Opnd)
  | mtch (c : Ctl) (t : Fmt) (all : Bool) (d a : Opnd)
  -- Memory (R195, R198, R202, R203, R133, R134, R76, R283, R293, R295)
  | ld (c : Ctl) (t : Fmt) (n : Count) (disp : BitVec 5) (d : Opnd) (br : Fin 64) (b p : Opnd)
  | st (c : Ctl) (t : Fmt) (n : Count) (disp : BitVec 5) (d : Opnd) (br : Fin 64) (b p : Opnd)
  | lds (c : Ctl) (t : Fmt) (n : Count) (d : Opnd) (tile : TileOp) (b : Opnd) (rmt : Option Opnd)
  | sts (c : Ctl) (t : Fmt) (n : Count) (d : Opnd) (tile : TileOp) (b : Opnd) (rmt : Option Opnd)
  | atom (c : Ctl) (t : Fmt) (op : AtomOp) (rm : RMode) (o : AtomOrd) (sc : Scope) (d : Opnd) (br : Fin 64) (b p : Opnd)
  | atms (c : Ctl) (t : Fmt) (op : AtomOp) (rm : RMode) (o : AtomOrd) (sc : Scope) (d : Opnd) (tile : TileOp) (b : Opnd)
      (rmt : Option Opnd)
  | pref (c : Ctl) (llc : Bool) (br : Fin 64) (b : Opnd)
  | stgr (c : Ctl) (a : Opnd)
  | pgrq (c : Ctl) (d : Opnd) (br : Fin 64) (b : Opnd)
  | dscd (c : Ctl) (d : Opnd) (br : Fin 64) (b e : Opnd)
  | fnce (c : Ctl) (k : FnceKind) (sc : Scope)
  | tgiv (c : Ctl) (t : TileOp)
  | ttak (c : Ctl) (t : TileOp)
  | tsta (c : Ctl) (d : Opnd) (t : TileOp)
  | brecLd (c : Ctl) (br : Fin 64) (a : Opnd)
  | brecSet (c : Ctl) (br : Fin 64) (a : Opnd)
  | lrecLd (c : Ctl) (lr : Fin 16) (a : Opnd)
  | mcst (c : Ctl) (w64 : Bool) (grp : Byte) (d : Opnd) (br : Fin 64) (b p : Opnd)
  | wake (c : Ctl) (w64 : Bool) (sc : Scope) (d : Opnd) (br : Fin 64) (b p : Opnd)
  -- Matrix (R257, R259)
  | mma (c : Ctl) (ta tb : Fmt) (logc : BitVec 3) (sw : Tswz) (z : Fin 16) (t : TileOp) (b kb : Opnd)
  | mmsp (c : Ctl) (ta tb : Fmt) (logc : BitVec 3) (sw : Tswz) (hdr : Bool) (z : Fin 16) (t : TileOp) (b kb : Opnd)
  | mzro (c : Ctl) (z : Fin 16)
  | mrda (c : Ctl) (t : Fmt) (rm : RMode) (n : RowCount) (d : Opnd) (z : Fin 16) (row : Opnd)
  | mwra (c : Ctl) (t : Fmt) (rm : RMode) (n : RowCount) (z : Fin 16) (a row : Opnd)
  | mfnc (c : Ctl)
  | gangForm (c : Ctl) (a : Fin 256)
  | gangDissolve (c : Ctl)
  -- Engines (R175, R301)
  | qput (c : Ctl) (sc : Scope) (now : Bool) (a b : Opnd)
  | acpy (c : Ctl) (sz : AcpySize) (t : TileOp) (br : Fin 64) (b e : Opnd)
  | bcls (c : Ctl)
  | waitb (c : Ctl) (b : Opnd)
  | qsta (c : Ctl) (d b : Opnd)
  | collRs (c : Ctl) (a : Opnd)
  | collAg (c : Ctl) (a : Opnd)
  | collA2a (c : Ctl) (a : Opnd)
  | collRpart (c : Ctl) (a : Opnd)
  -- Segments, kilns, records
  | waitWindowExpiry (uid : Nat)
  | responseLand (k : Nat)
  | pageWalkComplete (asid vpn : Nat) (victim : Option Nat)
  | recordEventFire (ev : DWord)
  | saggarTimerLapse (sid : Nat)
  | kilnFire (core : Nat)
  | saggarSlotFree (core : Nat)
  | poolSpaceFreed (vi : Nat)
  | stageRegionResident (k : Nat)
  | stageRegionFail (k : Nat) (status : Byte)
  | acpyComplete (k : Nat)
  | tileLineWritten (pid line : Nat)
  | tileHolderComplete (pid : Nat)
  | matrixStepStart (core : Nat)
  | matrixStepReadDone (core : Nat)
  | matrixStepComplete (core : Nat)
  | matrixAccOpComplete (k : Nat)
  | preemptBoundExpiry (uid : Nat)
  | seglimExpiry (uid : Nat)
  | hwdogExpiry (rid : Nat)
  | poolHoldExpiry (launch : Nat)
  | softError (uid : Nat) (e : SoftErr)
  | crewRestore (launch crew core : Nat)
  -- Caches and controllers
  | llcLookup (line : Nat) (swz : BitVec 4) (keyed : Bool) (stream : BitVec 6)
  | llcMissFill (line : Nat) (victim : Option Nat)
  | llcPartialWrite (line : Nat) (swz : BitVec 4) (w : PartWrite)
  | llcWriteback (core line : Nat)
  | l1Recall (line : Nat)
  | controllerRead (ctrl : Nat)
  | controllerWrite (ctrl : Nat)
  | patrolScrub (ctrl : Nat)
  | refresh (ctrl : Nat)
  | congestionLevel (ctrl : Nat) (occ : Nat)
  | coneEpoch (limit : Nat)
  -- Fabric
  | beaconArrive (time : DWord)
  | beaconTimeout
  | flitGroupReceive (link : Nat) (seq : BitVec 3) (data : BitVec 2048) (tag : DWord)
  | groupReplay (link : Nat) (seq : BitVec 3)
  | linkDown (link : Nat)
  -- Packets
  | packetAccept (vi hva : Nat)
  | packetComplete (pid : Nat)
  | copy (pid : Nat)
  | tcopy (pid : Nat)
  | stage (pid : Nat)
  | fence (pid : Nat)
  | glzloadLoad (pid : Nat)
  | glzloadUnload (pid : Nat)
  | glzloadRead (pid : Nat)
  | glzloadReadclr (pid : Nat)
  | glazeDrainDone (stream : BitVec 6)
  | rshd (pid : Nat)
  | rshdTransferDone (pid i : Nat)
  | rshdTransferFail (pid i : Nat) (memerr : Bool)
  | rshdProgressWrite (pid : Nat)
  | coll (pid : Nat)
  | collSignature (cid rank : Nat) (ok : Bool) (sig : CollSig)
  | collComplete (cid : Nat) (peers : List (Nat × List Byte))
  | collRpartPacket (pid : Nat)
  | rpartKeypass (cid : Nat)
  | rpartReduce (cid : Nat) (peers : List (Nat × SMap Word))
  | rpartRefine (cid : Nat) (peers : List RpItem)
  | rpartAssign (cid : Nat) (counts : List (List Nat)) (caps : List (Nat × Nat))
  | rpartMoveDone (cid : Nat) (peers : List (Triple × List Byte))
  | rpartWeightFail (cid : Nat)
  | launchGrid (pid : Nat)
  | launchNode (pid : Nat)
  | launchAdmit (pid : Nat)
  | indirect (pid : Nat)
  -- Host registers and windows
  | doorbell (vi : Nat) (value : DWord)
  | queueScan
  | qreg (vi : Nat) (value : DWord)
  | qregFinish (vi : Nat) (hva : Nat)
  | qreset (vi : Nat) (value : DWord)
  | qunreg (vi : Nat) (value : DWord)
  | qunregFinish (vi : Nat) (hva : Nat)
  | invreqRange (vi : Nat) (req : BitVec 256)
  | invreqWholeAsid (vi : Nat) (req : BitVec 256)
  | invalidationComplete (vi : Nat)
  | pgring (vi : Nat) (value : DWord)
  | pgringRetry (vi : Nat)
  | pgdone (vi : Nat) (value : BitVec 128)
  | ctrl (vi : Nat) (value : Word)
  | repring (vi : Nat) (value : DWord)
  | reportRingRetry (vi : Nat)
  | ctlasid (vi : Nat) (value : Word)
  | aper (vi : Nat) (w : Fin 256) (value : DWord)
  | registerWriteOther (vi : Nat) (off width : Nat) (value : DWord)
  | hostWindowRead (vi off n : Nat)
  | hostWindowWrite (vi off : Nat) (data : List Byte)
  | hostWindowAtomicop (vi off : Nat) (op : HostAtomic) (w64 : Bool) (x y : DWord)
  | spdmRequest (msg : List Byte)
  -- Firmware services (R393)
  | grantAsidsOrKeySlots (vi : Nat) (seq : BitVec 40) (target : Nat) (asids keys : List Nat)
  | writeAsidEntry (vi : Nat) (seq : BitVec 40) (asid : Nat) (entry : BitVec 256)
  | writeOrEmptyKeySlot (vi : Nat) (seq : BitVec 40) (slot : Nat) (key : Option (BitVec 512))
  | bindOrUnbindStream (vi : Nat) (seq : BitVec 40) (stream : Nat) (target : Option Nat)
  | registerHandler (vi : Nat) (seq : BitVec 40) (asid image : Nat)
  | registerMulticastGroup (vi : Nat) (seq : BitVec 40) (grp plane : Nat) (pkgs : List Nat)
  | poolSize (vi : Nat) (seq : BitVec 40) (target size base : Nat)
  | setWeightsAndWatchdogs (vi : Nat) (seq : BitVec 40) (target cw wt hwdog seglim : Nat)
  | rackBudget (vi : Nat) (seq : BitVec 40) (watts : Nat)
  | resetInterface (vi : Nat) (seq : BitVec 40) (target : Nat)
  | updateFirmware (vi : Nat) (seq : BitVec 40) (image : Nat) (svn : Nat) (ok : Bool)
  | suspendLaunch (vi : Nat) (seq : BitVec 40) (launch : Nat)
  | resumeLaunch (vi : Nat) (seq : BitVec 40) (launch : Nat)
  | switchInterfaceOut (vi : Nat) (seq : BitVec 40) (target : Nat)
  | viSwitchedOut (vi : Nat)
  | switchInterfaceIn (vi : Nat) (seq : BitVec 40) (target : Nat)
  | adoptDurableLaunches (vi : Nat) (seq : BitVec 40) (pkg : Nat)
  | deviceInformation (vi : Nat) (seq : BitVec 40) (asid va : Nat)
  -- Firmware and bring-up
  | leaseTry (sector : Nat)
  | leaseRenew (sector : Nat)
  | leaseExpire (sector : Nat)
  | packageReset
  | peerFetch (sector : Nat)
  | hbmTrainingDone
  | linkTrainingDone
  | imageVerificationDone (sector : Nat) (ok : Bool)
  | directoryRecall (line : Nat) (exclusive : Bool)
  | registerPieceWrite (vi : Nat) (reg : PieceReg) (off : Nat) (data : List Byte)
deriving DecidableEq, Repr

end Sys2Proof
end

