-- ==== Sys2Proof/Machine/Operands.lean ====
section
/-! DEFINITION. Operand forms: how each instruction uses its operand fields, which classes and ranges each field accepts
(R31 to R38 and the entries), and the fixed latencies of R42. -/

namespace Sys2Proof

/-- The type code of a format (R28). -/
def Fmt.code : Fmt → Nat
  | .i32 => 0 | .n32 => 1 | .i64 => 2 | .n64 => 3 | .i16 => 4 | .n16 => 5 | .i8 => 6 | .n8 => 7
  | .f32 => 8 | .f64 => 9 | .f16 => 10 | .bf16 => 11 | .k8e4 => 12 | .k8e5 => 13 | .w8 => 14 | .untyped => 15

/-- Registers that an element of the format takes (R32). -/
def Fmt.regs : Fmt → Nat
  | .i64 | .n64 | .f64 => 2
  | _ => 1

/-- Element width in bits. -/
def Fmt.width : Fmt → Nat
  | .i32 | .n32 | .f32 => 32
  | .i64 | .n64 | .f64 => 64
  | .i16 | .n16 | .f16 | .bf16 => 16
  | .i8 | .n8 | .k8e4 | .k8e5 | .w8 => 8
  | .untyped => 0

/-- Whether the type is signed, R207. -/
def Fmt.signed : Fmt → Bool
  | .i32 | .i64 | .i16 | .i8 => true
  | _ => false

/-- Whether the type is a floating-point one; W8 reads as an integer (R242). -/
def Fmt.isFloat : Fmt → Bool
  | .f32 | .f64 | .f16 | .bf16 | .k8e4 | .k8e5 => true
  | _ => false

/-- I4 of R62. -/
def i4 : List Fmt := [.i32, .n32, .i64, .n64]
/-- The unsigned pair of R62. -/
def n2 : List Fmt := [.n32, .n64]
/-- F4 of R62. -/
def f4 : List Fmt := [.f32, .f64, .f16, .bf16]
/-- The types of LD (R195). -/
def ldTypes : List Fmt := [.n8, .n16, .n32, .n64, .i8, .i16]
/-- The types of ST (R195). -/
def stTypes : List Fmt := [.n8, .n16, .n32, .n64]
/-- The types of ATOM (R198). -/
def atomTypes : List Fmt := [.i32, .n32, .i64, .n64, .f32, .f64]
/-- The types of PACK and UNPK (R62). -/
def packTypes : List Fmt := [.n8, .n16, .f16, .bf16, .k8e4, .k8e5]

/-- Operand classes that a field accepts: vector, scalar, predicate, per-lane selector, uniform selector, the ZERO
selector, immediate. -/
structure Allow where
  v : Bool
  s : Bool
  p : Bool
  lane : Bool
  uni : Bool
  zero : Bool
  imm : Bool
deriving DecidableEq, Repr

namespace Allow
/-- Any integer source (R207). -/
def any : Allow := ⟨true, true, true, true, true, true, true⟩
/-- Any floating-point source (R227). -/
def anyF : Allow := ⟨true, true, false, false, false, false, true⟩
/-- A vector register. -/
def vec : Allow := ⟨true, false, false, false, false, false, false⟩
/-- A scalar register. -/
def scal : Allow := ⟨false, true, false, false, false, false, false⟩
/-- A vector or scalar register. -/
def vs : Allow := ⟨true, true, false, false, false, false, false⟩
/-- A predicate. -/
def pred : Allow := ⟨false, false, true, false, false, false, false⟩
/-- A predicate, vector or scalar register. -/
def pvs : Allow := ⟨true, true, true, false, false, false, false⟩
/-- A scalar register or the ZERO selector. -/
def scalZ : Allow := ⟨false, true, false, false, false, true, false⟩
/-- A scalar register or a short immediate. -/
def scalI : Allow := ⟨false, true, false, false, false, false, true⟩
/-- A vector or scalar register or a short immediate. -/
def vsI : Allow := ⟨true, true, false, false, false, false, true⟩
/-- A vector or scalar register, selector or short immediate (R220). -/
def vsSel : Allow := ⟨true, true, false, true, true, true, true⟩
/-- A scalar register, uniform selector or short immediate. -/
def scalU : Allow := ⟨false, true, false, false, true, true, true⟩
/-- The carry-in of ADDC (R210). -/
def carry : Allow := ⟨false, false, true, false, false, true, true⟩
/-- What a warp instruction accepts of a class set: nothing that differs by lane (R32). -/
def warp (a : Allow) : Allow := { a with v := false, p := false, lane := false }
end Allow

/-- One use of an operand field: n registers from the code, which must be a multiple of al.
Log 21 (DEDUCED). -/
structure Use where
  o : Opnd
  n : Nat
  al : Nat
  ok : Allow
  rd : Bool
  wr : Bool
deriving DecidableEq, Repr

/-- A source. -/
def Use.src (o : Opnd) (n : Nat) (ok : Allow) : Use := ⟨o, n, n, ok, true, false⟩
/-- A destination.
Log 21 (DEDUCED). -/
def Use.dst (o : Opnd) (n : Nat) (ok : Allow) : Use := ⟨o, n, n, ok, false, true⟩

/-- Whether the destination makes a warp instruction (R32). -/
def Opnd.isScalar : Opnd → Bool
  | .s _ => true
  | _ => false

/-- Whether a selector differs by lane (R35). -/
def Sel.perLane : Sel → Bool
  | .laneid | .quadid => true
  | _ => false

/-- A source of an instruction with destination d: what R32 leaves of ok. -/
def Use.srcOf (d o : Opnd) (n : Nat) (ok : Allow) : Use := .src o n (if d.isScalar then ok.warp else ok)

/-- The scalar register of a tile operand (R34). -/
def TileOp.uses : TileOp → List Use
  | .idx _ => []
  | .reg n => [.src (.s n) 1 .scal]

/-- Elements of a count (R195). -/
def Count.n : Count → Nat
  | .x1 => 1 | .x2 => 2 | .x4 => 4

/-- Rows of a row count (R259). -/
def RowCount.n : RowCount → Nat
  | .x1 => 1 | .x2 => 2 | .x4 => 4 | .x8 => 8

/-- Registers of an LD, ST, LDS or STS (R195). -/
def memRegs (t : Fmt) (n : Count) : Nat := t.regs * n.n

/-- Bytes of one element (R195). -/
def Fmt.bytes (t : Fmt) : Nat := t.width / 8

/-- A multi-register memory operand: pairs start even (R195). -/
def memUse (o : Opnd) (t : Fmt) (n : Count) (ok : Allow) (rd : Bool) : Use := ⟨o, memRegs t n, t.regs, ok, rd, !rd⟩

/-- The optional crew of a remote tile access (R195). -/
def rmtUse : Option Opnd → List Use
  | none => []
  | some o => [.src o 1 .scalI]

/-- RPR of R259. -/
def rpr : Fmt → Nat
  | .k8e4 | .k8e5 => 8
  | _ => 4

/-- NG of R251: registers of one B group. -/
def mmaNG (sparse : Bool) (tb : Fmt) : Nat :=
  match tb, sparse with
  | .bf16, false | .f16, false => 4
  | .bf16, true | .f16, true => 8
  | _, false => 9
  | _, true => 17

/-- Registers and start multiple of n complex values (R227). -/
def zUse (o : Opnd) (t : Fmt) (n : Nat) (dst : Bool) : Use :=
  ⟨o, 2 * t.regs * n, 2 * t.regs, if dst then .vec else .vs, !dst, dst⟩

/-- n consecutive F operands (R230). -/
def twoF (o : Opnd) (t : Fmt) : Use := ⟨o, 2 * t.regs, t.regs, .vs, true, false⟩

/-- Two sources and a destination of one width. -/
def use3 (t : Fmt) (d a b : Opnd) (ok : Allow) : List Use :=
  [.dst d t.regs .vs, .srcOf d a t.regs ok, .srcOf d b t.regs ok]

/-- One source and a destination of one width. -/
def use2 (t : Fmt) (d a : Opnd) (ok : Allow) : List Use := [.dst d t.regs .vs, .srcOf d a t.regs ok]

/-- How each instruction uses its operand fields, in the order D, A, B, C.
Log 21 (DEDUCED), 22 (DEDUCED). -/
def Instr.uses : Instr → List Use
  | .jumpLane _ _ a | .ret _ _ a => [.src a 2 .vec]
  | .jumpWarp _ _ a => [.src a 2 .scal]
  | .callRel _ _ d _ => [.dst d 2 .vec]
  | .callS _ _ d a => [.dst d 2 .vec, .src a 2 .scal]
  | .waiteTile _ t => t.uses
  | .waiteBatch _ b => [.src b 1 .scalI]
  | .waiteWord _ _ w64 _ b r => [.src b 1 .scalI, .src r (if w64 then 2 else 1) .scal]
  | .waiteJoin _ a => [.src a 2 .scal]
  | .waiteBar _ _ _ a => [.src a 1 .scal]
  | .waiteGtc _ a => [.src a 2 .scal]
  | .waitePage _ _ b => [.src b 1 .scalI]
  | .waiteColl _ a => [.src a 1 .scal]
  | .spawnNode _ _ d a b => [.src d 2 .scalZ, .src a 2 .scal, .src b 1 .vec]
  | .spawnStage _ _ k d a b r =>
    [.src d 2 .scalZ, .src a 2 .scal, .src b 1 .vec, ⟨r, 4 * (k.toNat + 1), 1, .scal, true, false⟩]
  | .fwd _ t => match t with
    | .core a | .sect a | .pkg a => [.src a 1 .scalI]
    | .any => []
  | .barPost _ _ _ d => [.dst d 1 .scalZ]
  | .refill _ _ d a b p => [.dst d 1 .vec, .src a 2 .scal, .src b 1 .scalI, ⟨p, 1, 1, .pred, true, true⟩]
  | .tret _ a | .tretKill _ a => [.src a 2 .vec]
  | .srd _ w64 _ d => [.dst d (if w64 then 2 else 1) .vs]
  | .swr _ w64 _ a => [.src a (if w64 then 2 else 1) .scalI]
  | .iadd _ t _ d a b | .isub _ t _ d a b | .imul _ t d a b | .imulh _ t d a b | .imin _ t d a b | .imax _ t d a b
  | .and _ t _ d a b | .or _ t _ d a b | .xor _ t _ d a b => use3 t d a b .any
  | .addc _ t _ cp d a b ci =>
    [.dst d t.regs .vec, .src a t.regs .any, .src b t.regs .any, .src ci 1 .carry, .dst (.p cp) 1 .pred]
  | .imad _ t wide d a b e =>
    [.dst d (if wide then 2 else t.regs) .vs, .srcOf d a t.regs .any, .srcOf d b t.regs .any,
     .srcOf d e (if wide then 2 else t.regs) .any]
  | .iabs _ t _ d a | .brev _ t d a | .mov _ t d a => use2 t d a .any
  | .shl _ t d a b | .shr _ t d a b | .rot _ t _ d a b => [.dst d t.regs .vs, .srcOf d a t.regs .any, .srcOf d b 1 .any]
  | .popc _ t d a | .clz _ t d a => [.dst d 1 .vs, .srcOf d a t.regs .any]
  | .bfx _ t _ d a b => [.dst d t.regs .vs, .srcOf d a t.regs .any, .srcOf d b 1 .any]
  | .bfi _ t d a b e => use3 t d a b .any ++ [.srcOf d e 1 .vs]
  | .icmp _ t _ d a b => [.dst d 1 .pvs, .srcOf d a t.regs .any, .srcOf d b t.regs .any]
  | .sel _ t d a b e => use3 t d a b .any ++ [.srcOf d e 1 .any]
  | .lea _ _ d a b => [.dst d 2 .vs, .srcOf d a 2 .any, .srcOf d b 1 .any]
  | .plop _ _ d a b e => [.dst d 1 .pred, .src a 1 .pred, .src b 1 .pred, .src e 1 .pred]
  | .fadd _ t _ d a b | .fsub _ t _ d a b | .fmul _ t _ d a b | .fdiv _ t _ d a b | .fmin _ t _ d a b
  | .fmax _ t _ d a b => use3 t d a b .anyF
  | .ffma _ t _ d a b e => use3 t d a b .anyF ++ [.srcOf d e t.regs .anyF]
  | .fcmp _ t _ d a b => [.dst d 1 .pvs, .srcOf d a t.regs .anyF, .srcOf d b t.regs .anyF]
  | .frcp _ t _ d a | .frsq _ t _ d a | .fsqrt _ t _ d a | .frnd _ t _ d a | .fex2 _ t d a | .flg2 _ t d a | .fsin _ t d a
  | .fcos _ t d a => use2 t d a .anyF
  | .fcls _ t d a b => [.dst d 1 .pvs, .srcOf d a t.regs .anyF, .srcOf d b 1 .any]
  | .fscl _ t _ d a b => [.dst d t.regs .vs, .srcOf d a t.regs .anyF, .srcOf d b 1 .any]
  | .cmul _ t _ _ d a b => [zUse d t 1 true, zUse a t 1 false, zUse b t 1 false]
  | .cfma _ t _ _ d a b e => [zUse d t 1 true, zUse a t 1 false, zUse b t 1 false, zUse e t 1 false]
  | .bfly _ t _ d a b e => [zUse d t 2 true, zUse a t 1 false, zUse b t 1 false, zUse e t 1 false]
  | .bfl4 _ t _ _ d a b => [zUse d t 4 true, zUse a t 4 false, zUse b t 3 false]
  | .twid _ t _ d a b =>
    [zUse d t 1 true, .src a 1 ⟨true, true, false, true, true, true, false⟩, .src b 1 .vsSel]
  | .fdt2 _ t _ _ d a b => [.dst d t.regs .vec, twoF a t, twoF b t]
  | .moviLo _ t d _ => [.dst d t.regs .vs]
  | .moviHi _ t _ d _ => [⟨d, t.regs, t.regs, .vs, true, true⟩]
  | .cvt _ t src _ _ d a rb =>
    [.dst d t.regs .vs, .srcOf d a src.regs (if src.isFloat then .anyF else .any)]
      ++ (match rb with | none => [] | some o => [.srcOf d o 1 .vsI])
  | .cvtBlk _ _ src _ d a rb =>
    [⟨d, 2, 1, .vec, false, true⟩, .src a src.regs .anyF] ++ (match rb with | none => [] | some o => [.src o 1 .vsI])
  | .pack _ _ d a b e =>
    [.dst d 1 .vs, .srcOf d a 1 .any, .srcOf d b 1 .any] ++ (match e with | none => [] | some o => [.srcOf d o 1 .any])
  | .unpk _ _ d a b => [.dst d 1 .vs, .srcOf d a 1 .any, .srcOf d b 1 .any]
  | .shfl _ t _ _ d a b p => [.dst d t.regs .vec, .src a t.regs .vec, .src b 1 .vsSel, .dst p 1 .pred]
  | .qswp _ t _ d a => [.dst d t.regs .vec, .src a t.regs .vec]
  | .qred _ _ _ _ d a | .prfx _ _ _ _ d a => [.dst d 1 .vec, .src a 1 .vec]
  | .vote _ k d a => [.dst d 1 (if k = .mask then .vs else .pvs), .src a 1 .pred]
  | .pmovTomask _ d a => [.dst d 1 .vs, .src a 1 .pred]
  | .pmovTopred _ d a => [.dst d 1 .pred, .src a 1 .vsSel]
  | .lred _ t _ _ d a => [.dst d t.regs .vs, .src a t.regs .vec]
  | .bcst _ t d a b => [.dst d t.regs .vs, .src a t.regs .vec, .src b 1 .scalU]
  | .mtch _ t all d a => [.dst d 1 (if all then .vs else .vec), .src a t.regs .vec]
  | .ld _ t n _ d _ b p => [memUse d t n .vec false, .src b 1 .vsI, .dst p 1 .pred]
  | .st _ t n _ d _ b p => [memUse d t n .vs true, .src b 1 .vsI, .dst p 1 .pred]
  | .lds _ t n d tile b r => memUse d t n .vec false :: tile.uses ++ [.src b 1 .vsI] ++ rmtUse r
  | .sts _ t n d tile b r => memUse d t n .vs true :: tile.uses ++ [.src b 1 .vsI] ++ rmtUse r
  | .atom _ t op _ _ _ d _ b p =>
    [⟨d, if op = .cas then 2 * t.regs else t.regs, t.regs, .vec, true, false⟩, ⟨d, t.regs, t.regs, .vec, false, true⟩,
     .src b 1 .vsI, .dst p 1 .pred]
  | .atms _ t op _ _ _ d tile b r =>
    [⟨d, if op = .cas then 2 * t.regs else t.regs, t.regs, .vec, true, false⟩, ⟨d, t.regs, t.regs, .vec, false, true⟩]
      ++ tile.uses ++ [.src b 1 .vsI] ++ rmtUse r
  | .pref _ _ _ b => [.src b 1 .vsI]
  | .stgr _ a => [⟨a, 4, 1, .scal, true, false⟩]
  | .pgrq _ d _ b => [.dst d 1 .pred, .src b 1 .vsI]
  | .dscd _ d _ b e => [.dst d 1 .scal, .src b 2 .scal, .src e 1 .scalI]
  | .tgiv _ t | .ttak _ t => t.uses
  | .tsta _ d t => .dst d 1 .scal :: t.uses
  | .brecLd _ _ a => [.src a 2 .scal]
  | .brecSet _ _ a => [⟨a, 8, 1, .scal, true, false⟩]
  | .lrecLd _ _ a => [.src a 2 .scal]
  | .mcst _ w64 _ d _ b p | .wake _ w64 _ d _ b p =>
    [.src d (if w64 then 2 else 1) .vs, .src b 1 .vsI, .dst p 1 .pred]
  | .mma _ _ tb _ _ _ t b kb => t.uses ++ [⟨b, mmaNG false tb, 1, .vec, true, false⟩, .src kb 1 .scalI]
  | .mmsp _ _ tb _ _ _ _ t b kb => t.uses ++ [⟨b, mmaNG true tb, 1, .vec, true, false⟩, .src kb 1 .scalI]
  | .mrda _ t _ n d _ row => [⟨d, n.n * rpr t, 1, .vec, false, true⟩, .src row 1 .scalU]
  | .mwra _ t _ n _ a row => [⟨a, n.n * rpr t, 1, .vec, true, false⟩, .src row 1 .scalU]
  | .gangForm _ a => [.src (.s a) 1 .scal]
  | .qput _ _ _ a b => [.src a 2 .scal, ⟨b, 16, 1, .vec, true, false⟩]
  | .acpy _ _ t _ b e => t.uses ++ [⟨b, 2, 1, .vec, true, false⟩, .src e 1 .vsI]
  | .waitb _ b => [.src b 1 .scalI]
  | .qsta _ d b => [.dst d 1 .scal, .src b 1 .scalI]
  | .collRs _ a | .collAg _ a | .collA2a _ a | .collRpart _ a => [.src a 2 .scal]
  | _ => []

/-- Whether an operand is of an accepted class, at a legal start and within its range (R31, R32, R35, R36). -/
def Use.fits (nreg : Nat) (u : Use) : Bool :=
  match u.o with
  | .v k => u.ok.v && decide (k.val % u.al = 0) && decide (k.val + u.n ≤ 1536) && decide (k.val + u.n ≤ nreg)
  | .s k => u.ok.s && decide (k.val % u.al = 0) && decide (k.val + u.n ≤ 256)
  | .p _ => u.ok.p
  | .sel .zero => u.ok.zero
  | .sel x => if x.perLane then u.ok.lane else u.ok.uni
  | .imm _ => u.ok.imm

/-- The guard and hints of an instruction word; none for ILL and for events. -/
def Instr.ctl : Instr → Option Ctl
  | .nop c | .braRel c _ _ | .braAny c _ _ | .braAll c _ _ | .jumpLane c _ _ | .jumpWarp c _ _ | .callRel c _ _ _
  | .callS c _ _ _ | .ret c _ _ | .split c | .exit c | .yield c | .waiteTile c _ | .waiteBatch c _
  | .waiteWord c _ _ _ _ _ | .waiteJoin c _ | .waiteBar c _ _ _ | .waiteGtc c _ | .waitePage c _ _ | .waiteColl c _
  | .spawnNode c _ _ _ _ | .spawnStage c _ _ _ _ _ _ | .joinc c | .fwd c _ | .barWait c _ _ | .barPost c _ _ _
  | .refill c _ _ _ _ _ | .trap c _ | .tret c _ | .tretKill c _ | .srd c _ _ _ | .swr c _ _ _
  | .iadd c _ _ _ _ _ | .isub c _ _ _ _ _ | .addc c _ _ _ _ _ _ _ | .imul c _ _ _ _ | .imulh c _ _ _ _
  | .imad c _ _ _ _ _ _ | .imin c _ _ _ _ | .imax c _ _ _ _ | .iabs c _ _ _ _ | .and c _ _ _ _ _ | .or c _ _ _ _ _
  | .xor c _ _ _ _ _ | .shl c _ _ _ _ | .shr c _ _ _ _ | .rot c _ _ _ _ _ | .popc c _ _ _ | .clz c _ _ _ | .brev c _ _ _
  | .bfx c _ _ _ _ _ | .bfi c _ _ _ _ _ | .icmp c _ _ _ _ _ | .sel c _ _ _ _ _ | .lea c _ _ _ _ | .plop c _ _ _ _ _
  | .fadd c _ _ _ _ _ | .fsub c _ _ _ _ _ | .fmul c _ _ _ _ _ | .ffma c _ _ _ _ _ _ | .fmin c _ _ _ _ _
  | .fmax c _ _ _ _ _ | .fcmp c _ _ _ _ _ | .frcp c _ _ _ _ | .frsq c _ _ _ _ | .fsqrt c _ _ _ _ | .fex2 c _ _ _
  | .flg2 c _ _ _ | .fsin c _ _ _ | .fcos c _ _ _ | .fcls c _ _ _ _ | .frnd c _ _ _ _ | .fscl c _ _ _ _ _
  | .fdiv c _ _ _ _ _ | .cmul c _ _ _ _ _ _ | .cfma c _ _ _ _ _ _ _ | .bfly c _ _ _ _ _ _ | .bfl4 c _ _ _ _ _ _
  | .twid c _ _ _ _ _ | .fdt2 c _ _ _ _ _ _ | .mov c _ _ _ | .moviLo c _ _ _ | .moviHi c _ _ _ _
  | .cvt c _ _ _ _ _ _ _ | .cvtBlk c _ _ _ _ _ _ | .pack c _ _ _ _ _ | .unpk c _ _ _ _ | .shfl c _ _ _ _ _ _ _
  | .qswp c _ _ _ _ | .qred c _ _ _ _ _ | .vote c _ _ _ | .pmovTomask c _ _ | .pmovTopred c _ _ | .lred c _ _ _ _ _
  | .prfx c _ _ _ _ _ | .bcst c _ _ _ _ | .mtch c _ _ _ _ | .ld c _ _ _ _ _ _ _ | .st c _ _ _ _ _ _ _
  | .lds c _ _ _ _ _ _ | .sts c _ _ _ _ _ _ | .atom c _ _ _ _ _ _ _ _ _ | .atms c _ _ _ _ _ _ _ _ _ | .pref c _ _ _
  | .stgr c _ | .pgrq c _ _ _ | .dscd c _ _ _ _ | .fnce c _ _ | .tgiv c _ | .ttak c _ | .tsta c _ _ | .brecLd c _ _
  | .brecSet c _ _ | .lrecLd c _ _ | .mcst c _ _ _ _ _ _ | .wake c _ _ _ _ _ _ | .mma c _ _ _ _ _ _ _ _
  | .mmsp c _ _ _ _ _ _ _ _ _ | .mzro c _ | .mrda c _ _ _ _ _ _ | .mwra c _ _ _ _ _ _ | .mfnc c | .gangForm c _
  | .gangDissolve c | .qput c _ _ _ _ | .acpy c _ _ _ _ _ | .bcls c | .waitb c _ | .qsta c _ _ | .collRs c _
  | .collAg c _ | .collA2a c _ | .collRpart c _ => some c
  | _ => none

/-- Whether a rounding mode is written where the form has one, RNE elsewhere (R29). -/
def rndOnly (b : Bool) (rm : RMode) : Bool := b || decide (rm = .rne)

/-- Whether a B type goes with an A type (R257). -/
def mmaTypes (ta tb : Fmt) : Bool :=
  match ta with
  | .k8e4 | .k8e5 => decide (tb ∈ [Fmt.k8e4, .k8e5, .w8])
  | .bf16 => decide (tb = .bf16)
  | .f16 => decide (tb = .f16)
  | _ => false

/-- The largest LOGC of a matrix form (R250). -/
def maxLogc (ta : Fmt) (sparse hdr : Bool) : Nat :=
  match decide (ta = .k8e4 ∨ ta = .k8e5), sparse, hdr with
  | true, false, _ => 1
  | true, true, false => 1
  | true, true, true => 0
  | false, false, _ => 3
  | false, true, _ => 2

/-- What a form's entry demands of its type, variant and modifier fields: rows 3 to 6 of R48 in terms of syntax. -/
def Instr.formOk : Instr → Bool
  | .iadd _ t _ _ _ _ | .isub _ t _ _ _ _ | .imul _ t _ _ _ | .imulh _ t _ _ _ | .imin _ t _ _ _ | .imax _ t _ _ _
  | .shr _ t _ _ _ | .bfx _ t _ _ _ _ | .icmp _ t _ _ _ _ => decide (t ∈ i4)
  | .imad _ t wide _ _ _ _ => decide (t ∈ if wide then [Fmt.i32, .n32] else i4)
  | .iabs _ t _ _ _ => decide (t ∈ [Fmt.i32, .i64])
  | .addc _ t _ _ _ _ _ _ | .and _ t _ _ _ _ | .or _ t _ _ _ _ | .xor _ t _ _ _ _ | .shl _ t _ _ _ | .rot _ t _ _ _ _
  | .popc _ t _ _ | .clz _ t _ _ | .brev _ t _ _ | .bfi _ t _ _ _ _ | .sel _ t _ _ _ _ | .mov _ t _ _ | .moviLo _ t _ _
  | .shfl _ t _ _ _ _ _ _ | .qswp _ t _ _ _ | .bcst _ t _ _ _ | .mtch _ t _ _ _ => decide (t ∈ n2)
  | .moviHi _ t h _ _ => decide (t ∈ n2) && (decide (t = .n64) || decide (h.toNat < 2))
  | .fadd _ t _ _ _ _ | .fsub _ t _ _ _ _ | .fmul _ t _ _ _ _ | .ffma _ t _ _ _ _ _ | .fmin _ t _ _ _ _
  | .fmax _ t _ _ _ _ | .fcmp _ t _ _ _ _ | .frcp _ t _ _ _ | .frsq _ t _ _ _ | .fsqrt _ t _ _ _ | .fcls _ t _ _ _
  | .frnd _ t _ _ _ | .fscl _ t _ _ _ _ | .fdiv _ t _ _ _ _ => decide (t ∈ f4)
  | .fex2 _ t _ _ | .flg2 _ t _ _ | .fsin _ t _ _ | .fcos _ t _ _ => decide (t ∈ [Fmt.f32, .f16])
  | .cmul _ t _ _ _ _ _ | .cfma _ t _ _ _ _ _ _ | .bfly _ t _ _ _ _ _ | .bfl4 _ t _ _ _ _ _ | .twid _ t _ _ _ _
  | .fdt2 _ t _ _ _ _ _ => decide (t ∈ [Fmt.f32, .f64])
  | .cvt _ t src rm _ _ _ rb =>
    decide (t ≠ .untyped) && decide (src ≠ .untyped) &&
      (rb.isNone || (decide (rm = .rne) && src.isFloat && decide (t ≠ .f64) && (t.isFloat || decide (t = .w8))))
  | .cvtBlk _ t src rm _ _ rb =>
    decide (t ∈ [Fmt.k8e4, .k8e5, .w8]) && src.isFloat && (rb.isNone || decide (rm = .rne))
  | .pack _ t _ _ _ e => decide (t ∈ packTypes) && (e.isSome == decide (t.width = 8))
  | .unpk _ t _ _ _ => decide (t ∈ packTypes)
  | .qred _ t op rm _ _ => decide (t ∈ [Fmt.i32, .n32, .f32]) && rndOnly (t.isFloat && decide (op = .add)) rm
  | .lred _ t op rm _ _ =>
    decide (t ∈ [Fmt.i32, .n32, .f32, .f64]) && (!t.isFloat || decide (op ∈ [LredOp.add, .min, .max])) &&
      rndOnly (t.isFloat && decide (op = .add)) rm
  | .prfx _ t _ rm _ _ => decide (t ∈ [Fmt.i32, .n32, .f32]) && rndOnly t.isFloat rm
  | .ld _ t _ _ _ _ _ _ | .lds _ t _ _ _ _ _ => decide (t ∈ ldTypes)
  | .st _ t _ _ _ _ _ _ | .sts _ t _ _ _ _ _ => decide (t ∈ stTypes)
  | .atom _ t op rm _ _ _ _ _ _ =>
    decide (t ∈ atomTypes) && (!t.isFloat || decide (op ∈ [AtomOp.add, .min, .max])) &&
      rndOnly (t.isFloat && decide (op = .add)) rm
  | .atms _ t op rm _ sc _ _ _ _ =>
    decide (t ∈ atomTypes) && (!t.isFloat || decide (op ∈ [AtomOp.add, .min, .max])) &&
      rndOnly (t.isFloat && decide (op = .add)) rm && decide (sc ∈ [Scope.wp, .cw, .cl])
  | .wake _ _ sc _ _ _ _ => decide (sc ∈ [Scope.cl, .pk, .dm, .sy])
  | .refill _ sc _ _ _ _ | .qput _ sc _ _ _ => decide (sc ∈ [Scope.pk, .dm, .sy])
  | .mma _ ta tb logc _ _ _ _ _ => mmaTypes ta tb && decide (logc.toNat ≤ maxLogc ta false false)
  | .mmsp _ ta tb logc sw hdr _ _ _ _ =>
    mmaTypes ta tb && decide (logc.toNat ≤ maxLogc ta true hdr) && (!hdr || decide (sw = .sw0))
  | .mrda _ t rm _ _ _ _ => decide (t ∈ [Fmt.f32, .bf16, .f16, .k8e4, .k8e5]) && rndOnly (decide (t ≠ .f32)) rm
  | .mwra _ t rm _ _ _ _ =>
    decide (t ∈ [Fmt.f32, .bf16, .f16, .k8e4, .k8e5]) && rndOnly (decide (t = .k8e4 ∨ t = .k8e5)) rm
  | .srd _ _ num _ => decide (num.toNat ≤ 0x11)
  | .swr _ _ num _ => decide (num.toNat ≤ 0x11)
  | _ => true

/-- What R37 and the entries demand of operands beyond their class: a long-immediate form, and a per-lane special
register with a scalar destination (R380). -/
def Instr.opndOk : Instr → Bool
  | .bfx _ _ x _ a b =>
    decide (x = 0) || (match a, b with | .imm _, _ => false | _, .imm _ => true | _, _ => false)
  | .srd _ _ num d => !(d.isScalar && decide (num.toNat ∈ [1, 2, 0x0B]))
  | .refill _ _ _ _ _ p => decide (p ≠ .p 15)
  | .qsta _ _ b => match b with | .imm i => decide (i.toNat < 8) | _ => true
  | .dscd _ _ _ _ e => match e with | .imm i => decide (1 ≤ i.toNat ∧ i.toNat < 1024) | _ => true
  | _ => true

/-- The fixed latency of a form; none is the variable class (R42). -/
def Instr.latency : Instr → Option Nat
  | .iadd .. | .isub .. | .addc .. | .imin .. | .imax .. | .iabs .. | .and .. | .or .. | .xor .. | .shl .. | .shr .. | .rot ..
  | .popc .. | .clz .. | .brev .. | .bfx .. | .bfi .. | .icmp .. | .sel .. | .lea .. | .plop .. | .mov .. | .moviLo ..
  | .moviHi .. | .pmovTomask .. | .pmovTopred .. => some 2
  | .imul .. | .imulh .. | .imad .. | .pack .. | .unpk .. | .qswp .. => some 4
  | .fadd _ t _ _ _ _ | .fsub _ t _ _ _ _ | .fmul _ t _ _ _ _ | .ffma _ t _ _ _ _ _ | .fmin _ t _ _ _ _
  | .fmax _ t _ _ _ _ | .fcmp _ t _ _ _ _ | .fcls _ t _ _ _ | .frnd _ t _ _ _ | .fscl _ t _ _ _ _ =>
    some (if t = .f64 then 6 else 4)
  | .cvt _ t src _ _ _ _ _ | .cvtBlk _ t src _ _ _ _ => some (if t = .f64 ∨ src = .f64 then 6 else 4)
  | .cmul .. | .cfma .. | .bfly .. | .fdt2 .. | .qred .. => some 6
  | .bfl4 .. | .twid .. | .frcp .. | .frsq .. | .fex2 .. | .flg2 .. | .fsin .. | .fcos .. => some 8
  | .fdiv _ t _ _ _ _ | .fsqrt _ t _ _ _ => some (if t = .f64 then 24 else 12)
  | _ => none

/-- Registers named by a use, as operand codes: vectors from 0, scalars from 0x600, predicates from 0x700. p15 and the
selectors name none (R35, R36). -/
def Use.codes (u : Use) : List Nat :=
  match u.o with
  | .v k => (List.range u.n).map (k.val + ·)
  | .s k => (List.range u.n).map (0x600 + k.val + ·)
  | .p k => if k.val = 15 then [] else [0x700 + k.val]
  | _ => []

/-- The register codes that an instruction reads at issue, its guard included (R33, R39). -/
def Instr.reads (i : Instr) : List Nat :=
  (i.uses.filter (·.rd)).flatMap Use.codes ++
    (match i.ctl with | some c => (if c.gpred.val = 15 then [] else [0x700 + c.gpred.val]) | none => [])

/-- The register codes that an instruction writes. -/
def Instr.writes (i : Instr) : List Nat := (i.uses.filter (·.wr)).flatMap Use.codes

end Sys2Proof
end

