-- ==== Sys2Proof/WellFormed.lean ====
section
/-! DEFINITION. Well-formed instructions: what rows 3 to 7 of R48 let through, in terms of syntax. The tables that each
clause looks up stand in Machine/Operands.lean. -/

namespace Sys2Proof

/-- The guard is not the reserved negation of p15 (R39). -/
def Instr.guardOk (i : Instr) : Bool :=
  match i.ctl with
  | some c => !(c.gneg && decide (c.gpred.val = 15))
  | none => true

/-- Row 7 of R48: every operand fits, for a launch of nreg vector registers. -/
def Instr.operandsOk (nreg : Nat) (i : Instr) : Bool := i.opndOk && i.uses.all (Use.fits nreg)

/-- A well-formed instruction of a launch of nreg vector registers. -/
def Instr.wf (nreg : Nat) (i : Instr) : Bool := i.guardOk && i.formOk && i.operandsOk nreg

end Sys2Proof
end

