-- ==== Sys2Proof/Decode.lean ====
section
/-! DEFINITION. The decoder of instruction words, total on any 96 bits and rejecting by name (rows 1 to 6 of R48, and the
operand codes and indices of row 7 that name nothing); and after it the encoder of well-formed instructions. -/

namespace Sys2Proof

/-- Why a word is no instruction (R48): ILLOP with its detail, RSVD, BADOPND. -/
inductive DecodeFault where
  | illop (detail : Nat)
  | rsvd
  | badopnd
deriving DecidableEq, Repr

/-- The fields of an instruction word (R23), X as one 16-bit number, and the hints (R40). -/
structure Raw where
  op : Nat
  fmt : Nat
  fn : Nat
  mod : Nat
  d : Nat
  a : Nat
  b : Nat
  x : Nat
  ctl : Ctl
deriving DecidableEq, Repr

/-- The hints and guard from H and G (R39, R40). -/
def ctlOf (g h : Nat) : Ctl :=
  { gneg := decide (g / 16 % 2 = 1), gpred := Fin.ofNat 16 g, wmask := BitVec.ofNat 7 (h / 512),
    wslot := BitVec.ofNat 3 (h / 64), stall := BitVec.ofNat 5 (h / 2), yld := decide (h % 2 = 1) }

/-- The fields of a word (R23). -/
def rawOf (w : CodeWord) : Raw :=
  let n := w.toNat
  { op := n % 128, fmt := n / 2 ^ 7 % 16, fn := n / 2 ^ 11 % 16, mod := n / 2 ^ 15 % 256, d := n / 2 ^ 23 % 4096,
    a := n / 2 ^ 35 % 4096, b := n / 2 ^ 47 % 4096, x := n / 2 ^ 64 % 65536,
    ctl := ctlOf (n / 2 ^ 59 % 32) (n / 2 ^ 80) }

/-- The type code of R28. -/
def fmtOf (c : Nat) : Fmt :=
  match c with
  | 0 => .i32 | 1 => .n32 | 2 => .i64 | 3 => .n64 | 4 => .i16 | 5 => .n16 | 6 => .i8 | 7 => .n8
  | 8 => .f32 | 9 => .f64 | 10 => .f16 | 11 => .bf16 | 12 => .k8e4 | 13 => .k8e5 | 14 => .w8 | _ => .untyped

/-- A selector by its code less 0x710 (R35). -/
def selOf (c : Nat) : Sel :=
  match c with
  | 0 => .zero | 1 => .laneid | 2 => .quadid | 3 => .warpid | 4 => .crewid | 5 => .coreid | 6 => .sectorid | 7 => .pkgid
  | 8 => .gtc | 9 => .ip | 10 => .amask | 11 => .emask | 12 => .hmask | 13 => .cls | 14 => .vi | _ => .launchid

/-- The rounding of MOD[1:0] (R30). -/
def rmOf (m : Nat) : RMode := match m % 4 with | 0 => .rne | 1 => .rz | 2 => .ru | _ => .rd

/-- The scope of MOD[7:5] (R30); 0b111 is refused before. -/
def scopeOf (m : Nat) : Scope :=
  match m / 32 with | 0 => .wp | 1 => .cw | 2 => .co | 3 => .cl | 4 => .pk | 5 => .dm | _ => .sy

/-- An operand code as a register, selector or immediate (R31, R35, R37). -/
def opndOf (c : Nat) : Except DecodeFault Opnd :=
  if h : c < 1536 then .ok (.v ⟨c, h⟩)
  else if c < 1792 then .ok (.s (Fin.ofNat 256 (c - 1536)))
  else if c < 1808 then .ok (.p (Fin.ofNat 16 (c - 1792)))
  else if c < 1824 then .ok (.sel (selOf (c - 1808)))
  else if c < 2048 then .error .badopnd
  else .ok (.imm (BitVec.ofNat 11 (c - 2048)))

/-- An index code of a class with n members (R34). -/
def idxOf (n : Nat) (c : Nat) : Except DecodeFault (Fin (n + 1)) :=
  if 2048 ≤ c ∧ c < 2048 + (n + 1) then .ok (Fin.ofNat (n + 1) (c - 2048)) else .error .badopnd

/-- A tile: an index code or a scalar register (R34). -/
def tileOf (c : Nat) : Except DecodeFault TileOp :=
  if 2048 ≤ c ∧ c < 2176 then .ok (.idx (Fin.ofNat 128 (c - 2048)))
  else if 1536 ≤ c ∧ c < 1792 then .ok (.reg (Fin.ofNat 256 (c - 1536)))
  else .error .badopnd

/-- The long immediate of B and X (R37); B must be an immediate code. -/
def longImm (r : Raw) : Except DecodeFault (BitVec 27) :=
  if 2048 ≤ r.b then .ok (BitVec.ofNat 27 (r.x * 2048 + r.b % 2048)) else .error .badopnd

/-- What X holds in a form: nothing, the operand code C, or an immediate extension (R23). -/
inductive XUse where
  | none | c | imm
deriving DecidableEq, Repr

/-- The fields of a form: its types, its variants, the MOD bits it uses, and the operand fields it uses. -/
structure Form where
  fmts : List Nat
  fns : List Nat
  mods : Nat
  d : Bool
  a : Bool
  b : Bool
  x : XUse
deriving DecidableEq, Repr

/-- The variants of a float-capable opcode: the first n, or the first m for a float type (R62). -/
def floatFns (fmt n m : Nat) : List Nat := if 8 ≤ fmt ∧ fmt < 14 then List.range m else List.range n

/-- The form of an opcode, for its FMT and FN (R62 and the entries' encoding tables). -/
def formOf (op fmt fn : Nat) : Form :=
  let un := [15]
  let i4 := [0, 1, 2, 3]
  let n2 := [1, 3]
  let f4 := [8, 9, 10, 11]
  let f2 := [8, 9]
  let o := [0]
  match op with
  | 0x01 => ⟨un, o, 0, false, false, false, .none⟩
  | 0x02 => ⟨un, [0, 1, 2], 15, false, false, true, .imm⟩
  | 0x03 => ⟨un, [0, 1], 15, false, true, false, .none⟩
  | 0x04 => if fn = 0 then ⟨un, [0, 1], 15, true, false, true, .imm⟩ else ⟨un, [0, 1], 15, true, true, false, .none⟩
  | 0x05 => ⟨un, o, 15, false, true, false, .none⟩
  | 0x06 | 0x07 | 0x08 | 0x0B => ⟨un, o, 0, false, false, false, .none⟩
  | 0x09 => match fn with
    | 0 | 3 | 5 | 7 => ⟨un, List.range 8, 0, false, true, false, .none⟩
    | 1 => ⟨un, List.range 8, 0, false, false, true, .none⟩
    | 2 => ⟨un, List.range 8, 15, false, true, true, .c⟩
    | 4 => ⟨un, List.range 8, 0xEF, false, true, false, .none⟩
    | _ => ⟨un, List.range 8, 0, false, true, true, .none⟩
  | 0x0A => if fn = 0 then ⟨un, [0, 1], 15, true, true, true, .none⟩ else ⟨un, [0, 1], 127, true, true, true, .c⟩
  | 0x0C => ⟨un, [0, 1, 2, 3], 0, false, fn ≠ 3, false, .none⟩
  | 0x0D => ⟨un, [0, 1], 0xEF, fn = 1, false, false, .none⟩
  | 0x0E => ⟨un, o, 0xE0, true, true, true, .c⟩
  | 0x0F => ⟨un, o, 255, false, false, false, .none⟩
  | 0x10 => ⟨un, o, 1, false, true, false, .none⟩
  | 0x11 => ⟨n2, o, 255, true, false, false, .none⟩
  | 0x12 => ⟨n2, o, 255, false, true, false, .none⟩
  | 0x13 | 0x14 => ⟨i4, [0, 1], 0, true, true, true, .none⟩
  | 0x15 => ⟨n2, [0, 1], 15, true, true, true, .c⟩
  | 0x16 | 0x17 | 0x19 | 0x1A | 0x20 => ⟨i4, o, 0, true, true, true, .none⟩
  | 0x18 => ⟨i4, if fmt < 2 then [0, 1] else o, 0, true, true, true, .c⟩
  | 0x1B => ⟨[0, 2], [0, 1], 0, true, true, false, .none⟩
  | 0x1C | 0x1D | 0x1E | 0x21 => ⟨n2, [0, 1], 0, true, true, true, .none⟩
  | 0x1F => ⟨n2, o, 0, true, true, true, .none⟩
  | 0x22 | 0x23 | 0x24 => ⟨n2, o, 0, true, true, false, .none⟩
  | 0x25 => ⟨i4, o, 0, true, true, true, .imm⟩
  | 0x26 | 0x28 => ⟨n2, o, 0, true, true, true, .c⟩
  | 0x27 => ⟨i4, List.range 6, 0, true, true, true, .none⟩
  | 0x29 => ⟨[3], List.range 5, 0, true, true, true, .none⟩
  | 0x2A => ⟨un, o, 255, true, true, true, .c⟩
  | 0x2B | 0x2C | 0x2D | 0x3B | 0x3C => ⟨f4, o, 3, true, true, true, .none⟩
  | 0x2E => ⟨f4, o, 3, true, true, true, .c⟩
  | 0x2F | 0x30 => ⟨f4, [0, 1], 0, true, true, true, .none⟩
  | 0x31 => ⟨f4, List.range 8, 0, true, true, true, .none⟩
  | 0x32 | 0x33 | 0x34 | 0x3A => ⟨f4, o, 3, true, true, false, .none⟩
  | 0x35 | 0x36 | 0x37 | 0x38 => ⟨[8, 10], o, 0, true, true, false, .none⟩
  | 0x39 => ⟨f4, o, 0, true, true, true, .none⟩
  | 0x3D => ⟨f2, o, 7, true, true, true, .none⟩
  | 0x3E => ⟨f2, o, 7, true, true, true, .c⟩
  | 0x3F => ⟨f2, o, 3, true, true, true, .c⟩
  | 0x40 | 0x42 => ⟨f2, o, 7, true, true, true, .none⟩
  | 0x41 => ⟨f2, o, 3, true, true, true, .none⟩
  | 0x43 => ⟨n2, o, 0, true, true, false, .none⟩
  | 0x44 => ⟨n2, [0, 1], if fn = 1 then 3 else 0, true, false, true, .imm⟩
  | 0x45 => ⟨List.range 15, List.range 15, 31, true, true, false, .c⟩
  | 0x46 => ⟨[7, 5, 10, 11, 12, 13], o, 0, true, true, true, if fmt = 7 ∨ fmt = 12 ∨ fmt = 13 then .c else .none⟩
  | 0x47 => ⟨[7, 5, 10, 11, 12, 13], o, 0, true, true, true, .none⟩
  | 0x48 => ⟨n2, [0, 1, 2, 3], 7, true, true, true, .c⟩
  | 0x49 => ⟨n2, [0, 1, 2], 0, true, true, false, .none⟩
  | 0x4A => ⟨[0, 1, 8], [0, 1, 2], if fmt = 8 ∧ fn = 0 then 3 else 0, true, true, false, .none⟩
  | 0x4B => ⟨un, [0, 1, 2, 3], 0, true, true, false, .none⟩
  | 0x4C => ⟨[0, 1, 8, 9], floatFns fmt 6 3, if 8 ≤ fmt ∧ fn = 0 then 3 else 0, true, true, false, .none⟩
  | 0x4D => ⟨[0, 1, 8], [0, 1], if fmt = 8 then 3 else 0, true, true, false, .none⟩
  | 0x4E => ⟨n2, o, 0, true, true, true, .none⟩
  | 0x4F => ⟨n2, [0, 1], 0, true, true, false, .none⟩
  | 0x50 => ⟨un, [0, 1], 0, true, true, false, .none⟩
  | 0x51 => ⟨[7, 5, 1, 3, 6, 4], [0, 1, 2], 31, true, true, true, .c⟩
  | 0x52 => ⟨[7, 5, 1, 3], [0, 1, 2], 31, true, true, true, .c⟩
  | 0x53 => ⟨[7, 5, 1, 3, 6, 4], [0, 1, 2], 1, true, true, true, .c⟩
  | 0x54 => ⟨[7, 5, 1, 3], [0, 1, 2], 1, true, true, true, .c⟩
  | 0x55 => ⟨[0, 1, 2, 3, 8, 9], floatFns fmt 8 3, if 8 ≤ fmt ∧ fn = 0 then 0xEF else 0xEC, true, true, true, .c⟩
  | 0x56 => ⟨[0, 1, 2, 3, 8, 9], floatFns fmt 8 3, if 8 ≤ fmt ∧ fn = 0 then 0xFF else 0xFC, true, true, true, .c⟩
  | 0x57 => ⟨un, [0, 1], 0, false, true, true, .none⟩
  | 0x58 => ⟨un, o, 0, false, true, false, .none⟩
  | 0x59 => ⟨un, o, 0, true, true, true, .none⟩
  | 0x5A => ⟨un, o, 0, true, true, true, .c⟩
  | 0x5B => ⟨un, [0, 1, 2, 3], 0xE0, false, false, false, .none⟩
  | 0x5C | 0x5D => ⟨un, o, 0, false, true, false, .none⟩
  | 0x5E => ⟨un, o, 0, true, true, false, .none⟩
  | 0x5F => ⟨un, [0, 1], 0, true, true, false, .none⟩
  | 0x60 => ⟨un, o, 0, true, true, false, .none⟩
  | 0x61 => ⟨n2, o, 255, true, true, true, .c⟩
  | 0x62 => ⟨n2, o, 0xE0, true, true, true, .c⟩
  | 0x63 => ⟨[12, 13, 11, 10], if fmt = 11 then [11] else if fmt = 10 then [10] else [12, 13, 14], 31, true, true, true, .c⟩
  | 0x64 => ⟨[12, 13, 11, 10], if fmt = 11 then [11] else if fmt = 10 then [10] else [12, 13, 14], 63, true, true, true, .c⟩
  | 0x65 => ⟨un, o, 0, true, false, false, .none⟩
  | 0x66 => ⟨[8, 11, 10, 12, 13], o, if fmt = 8 then 12 else 15, true, true, true, .none⟩
  | 0x67 => ⟨[8, 11, 10, 12, 13], o, if fmt = 12 ∨ fmt = 13 then 15 else 12, true, true, true, .none⟩
  | 0x68 => ⟨un, o, 0, false, false, false, .none⟩
  | 0x69 => ⟨un, o, 0, false, true, false, .none⟩
  | 0x6A => ⟨un, o, 0xE1, false, true, true, .none⟩
  | 0x6B => ⟨un, o, 3, true, true, true, .c⟩
  | 0x6C => ⟨un, o, 0, false, false, false, .none⟩
  | 0x6D => ⟨un, o, 0, false, false, true, .none⟩
  | 0x6E => ⟨un, [0, 1, 2, 3], 0, false, true, false, .none⟩
  | 0x6F => ⟨un, o, 0, true, false, true, .none⟩
  | _ => ⟨[], [], 0, false, false, false, .none⟩

/-- MOD combinations that an entry marks invalid, and scope code 0b111 (row 5 of R48). -/
def modBad (op fmt fn mod : Nat) : Bool :=
  match op with
  | 0x09 => (fn = 2 && decide (6 ≤ mod % 8)) || (fn = 4 && decide (mod / 32 ≠ 1 ∧ mod / 32 ≠ 3))
  | 0x0D => decide (mod / 32 ≠ 1 ∧ mod / 32 ≠ 3)
  | 0x0E | 0x6A => decide (mod / 32 < 4 ∨ mod / 32 = 7)
  | 0x11 | 0x12 => decide (0x11 < mod)
  | 0x44 => fn = 1 && fmt = 1 && decide (2 ≤ mod % 4)
  | 0x45 =>
    let sat := mod / 4 % 2 = 1
    let sr := mod / 8 % 2 = 1
    let blk := mod / 16 % 2 = 1
    let isrc := fn < 8 ∨ fn = 14
    decide ((sr ∧ (mod % 4 ≠ 0 ∨ isrc ∨ fmt = 9 ∨ fmt < 8)) ∨ (blk ∧ (fmt < 12 ∨ isrc ∨ sat)))
  | 0x48 => decide (5 ≤ mod % 8)
  | 0x55 | 0x5B => decide (mod / 32 = 7)
  | 0x56 => decide (mod / 32 = 2 ∨ 4 ≤ mod / 32)
  | 0x62 => decide (mod / 32 < 3 ∨ mod / 32 = 7)
  | 0x63 => decide (maxLogc (fmtOf fmt) false false < mod % 8 ∨ mod / 8 % 4 = 3)
  | 0x64 =>
    let hdr := decide (mod / 32 % 2 = 1)
    decide (maxLogc (fmtOf fmt) true hdr < mod % 8 ∨ mod / 8 % 4 = 3) || (hdr && decide (mod / 8 % 4 ≠ 0))
  | _ => false

/-- Whether X holds C in this word: CVT has a random operand only with SR, LDS, STS and ATMS a crew only with RMT
(R195, R198, R230). -/
def xUse (op mod : Nat) (x : XUse) : XUse :=
  match op with
  | 0x45 => if mod / 8 % 2 = 1 then .c else .none
  | 0x53 | 0x54 => if mod % 2 = 1 then .c else .none
  | 0x56 => if mod / 16 % 2 = 1 then .c else .none
  | _ => x

/-- Rows 3 to 6 of R48: what the fields of a word break, if anything. -/
def rawFault (g : Nat) (r : Raw) : Option DecodeFault :=
  let f := formOf r.op r.fmt r.fn
  if r.fmt ∉ f.fmts then some (.illop 3)
  else if r.fn ∉ f.fns then some (.illop 4)
  else if modBad r.op r.fmt r.fn r.mod then some (.illop 5)
  else if g = 31 then some .rsvd
  else if r.mod &&& f.mods ≠ r.mod then some .rsvd
  else if (f.d = false ∧ r.d ≠ 0) ∨ (f.a = false ∧ r.a ≠ 0) ∨ (f.b = false ∧ r.b ≠ 0) then some .rsvd
  else match xUse r.op r.mod f.x with
    | .none => if r.x ≠ 0 then some .rsvd else none
    | .c => if 4096 ≤ r.x then some .rsvd else none
    | .imm => none

/-- The comparison of ICMP by FN. -/
def icmpOf (n : Nat) : ICmpKind := match n with | 0 => .eq | 1 => .ne | 2 => .lt | 3 => .le | 4 => .gt | _ => .ge
/-- The comparison of FCMP by FN. -/
def fcmpOf (n : Nat) : FCmpKind :=
  match n with | 0 => .eq | 1 => .ne | 2 => .lt | 3 => .le | 4 => .gt | 5 => .ge | 6 => .un | _ => .ord
/-- The scale of LEA by FN. -/
def leaOf (n : Nat) : LeaScale := match n with | 0 => .x1 | 1 => .x2 | 2 => .x4 | 3 => .x8 | _ => .x16
/-- The variant of SHFL by FN. -/
def shflOf (n : Nat) : ShflKind := match n with | 0 => .idx | 1 => .up | 2 => .down | _ => .xor
/-- The segment of SHFL by MOD[2:0]. -/
def segOf (n : Nat) : ShflSeg := match n with | 0 => .w32 | 1 => .w16 | 2 => .w8 | 3 => .w4 | _ => .w2
/-- The variant of QSWP by FN. -/
def qswpOf (n : Nat) : QswpKind := match n with | 0 => .h | 1 => .v | _ => .d
/-- The operation of QRED by FN. -/
def qredOf (n : Nat) : QredOp := match n with | 0 => .add | 1 => .min | _ => .max
/-- The operation of LRED by FN. -/
def lredOf (n : Nat) : LredOp := match n with | 0 => .add | 1 => .min | 2 => .max | 3 => .and | 4 => .or | _ => .xor
/-- The variant of VOTE by FN. -/
def voteOf (n : Nat) : VoteKind := match n with | 0 => .some | 1 => .every | 2 => .same | _ => .mask
/-- The operation of ATOM by FN. -/
def atomOf (n : Nat) : AtomOp :=
  match n with | 0 => .add | 1 => .min | 2 => .max | 3 => .and | 4 => .or | 5 => .xor | 6 => .exch | _ => .cas
/-- The order of ATOM by MOD[3:2]. -/
def ordOf (n : Nat) : AtomOrd := match n % 4 with | 0 => .relaxed | 1 => .acq | 2 => .rel | _ => .ar
/-- The count of LD by FN. -/
def countOf (n : Nat) : Count := match n with | 0 => .x1 | 1 => .x2 | _ => .x4
/-- The variant of FNCE by FN. -/
def fnceOf (n : Nat) : FnceKind := match n with | 0 => .acq | 1 => .rel | 2 => .ar | _ => .un
/-- The condition of WAITE.word by MOD[2:0]. -/
def condOf (n : Nat) : WordCond := match n with | 0 => .eq | 1 => .ne | 2 => .geu | 3 => .ltu | 4 => .ges | _ => .lts
/-- The rows of MRDA by MOD[3:2]. -/
def rowsOf (n : Nat) : RowCount := match n % 4 with | 0 => .x1 | 1 => .x2 | 2 => .x4 | _ => .x8
/-- The tile swizzle by MOD[4:3]. -/
def tswzOf (n : Nat) : Tswz := match n % 4 with | 0 => .sw0 | 1 => .sw1 | _ => .sw2
/-- The size of ACPY by MOD[1:0]. -/
def acpyOf (n : Nat) : AcpySize := match n % 4 with | 0 => .sz4 | 1 => .sz8 | 2 => .sz16 | _ => .sz32

/-- The instruction of fields that rawFault passes; operand codes and indices that name nothing are BADOPND. -/
def build (r : Raw) : Except DecodeFault Instr :=
  let c := r.ctl
  let t := fmtOf r.fmt
  let rm := rmOf r.mod
  let prio := BitVec.ofNat 4 r.mod
  let D := opndOf r.d
  let A := opndOf r.a
  let B := opndOf r.b
  let C := opndOf r.x
  let v1 := decide (r.fn = 1)
  let w64 := decide (r.fmt = 3)
  let m2 := decide (r.mod / 4 % 2 = 1)
  let bar := BitVec.ofNat 4 r.mod
  let cl := decide (r.mod / 32 = 3)
  let rmt1 : Except DecodeFault (Option Opnd) := if r.mod % 2 = 1 then some <$> C else .ok none
  let rmt4 : Except DecodeFault (Option Opnd) := if r.mod / 16 % 2 = 1 then some <$> C else .ok none
  match r.op with
  | 0x01 => .ok (.nop c)
  | 0x02 => do
    let off ← longImm r
    match r.fn with
    | 0 => .ok (.braRel c prio off)
    | 1 => .ok (.braAny c prio off)
    | _ => .ok (.braAll c prio off)
  | 0x03 => do let a ← A; if r.fn = 0 then .ok (.jumpLane c prio a) else .ok (.jumpWarp c prio a)
  | 0x04 => do
    let d ← D
    if r.fn = 0 then do let off ← longImm r; .ok (.callRel c prio d off)
    else do let a ← A; .ok (.callS c prio d a)
  | 0x05 => do .ok (.ret c prio (← A))
  | 0x06 => .ok (.split c)
  | 0x07 => .ok (.exit c)
  | 0x08 => .ok (.yield c)
  | 0x09 => match r.fn with
    | 0 => do .ok (.waiteTile c (← tileOf r.a))
    | 1 => do .ok (.waiteBatch c (← B))
    | 2 => do .ok (.waiteWord c (condOf (r.mod % 8)) (decide (r.mod / 8 % 2 = 1)) (← idxOf 63 r.a) (← B) (← C))
    | 3 => do .ok (.waiteJoin c (← A))
    | 4 => do .ok (.waiteBar c bar cl (← A))
    | 5 => do .ok (.waiteGtc c (← A))
    | 6 => do .ok (.waitePage c (← idxOf 63 r.a) (← B))
    | _ => do .ok (.waiteColl c (← A))
  | 0x0A =>
    if r.fn = 0 then do .ok (.spawnNode c prio (← D) (← A) (← B))
    else do .ok (.spawnStage c prio (BitVec.ofNat 3 (r.mod / 16)) (← D) (← A) (← B) (← C))
  | 0x0B => .ok (.joinc c)
  | 0x0C => match r.fn with
    | 0 => do .ok (.fwd c (.core (← A)))
    | 1 => do .ok (.fwd c (.sect (← A)))
    | 2 => do .ok (.fwd c (.pkg (← A)))
    | _ => .ok (.fwd c .any)
  | 0x0D => if r.fn = 0 then .ok (.barWait c bar cl) else do .ok (.barPost c bar cl (← D))
  | 0x0E => do .ok (.refill c (scopeOf r.mod) (← D) (← A) (← B) (← C))
  | 0x0F => .ok (.trap c (BitVec.ofNat 8 r.mod))
  | 0x10 => do let a ← A; if r.mod = 0 then .ok (.tret c a) else .ok (.tretKill c a)
  | 0x11 => do .ok (.srd c w64 (BitVec.ofNat 8 r.mod) (← D))
  | 0x12 => do .ok (.swr c w64 (BitVec.ofNat 8 r.mod) (← A))
  | 0x13 => do .ok (.iadd c t v1 (← D) (← A) (← B))
  | 0x14 => do .ok (.isub c t v1 (← D) (← A) (← B))
  | 0x15 => do .ok (.addc c t v1 (Fin.ofNat 16 r.mod) (← D) (← A) (← B) (← C))
  | 0x16 => do .ok (.imul c t (← D) (← A) (← B))
  | 0x17 => do .ok (.imulh c t (← D) (← A) (← B))
  | 0x18 => do .ok (.imad c t v1 (← D) (← A) (← B) (← C))
  | 0x19 => do .ok (.imin c t (← D) (← A) (← B))
  | 0x1A => do .ok (.imax c t (← D) (← A) (← B))
  | 0x1B => do .ok (.iabs c t v1 (← D) (← A))
  | 0x1C => do .ok (.and c t v1 (← D) (← A) (← B))
  | 0x1D => do .ok (.or c t v1 (← D) (← A) (← B))
  | 0x1E => do .ok (.xor c t v1 (← D) (← A) (← B))
  | 0x1F => do .ok (.shl c t (← D) (← A) (← B))
  | 0x20 => do .ok (.shr c t (← D) (← A) (← B))
  | 0x21 => do .ok (.rot c t v1 (← D) (← A) (← B))
  | 0x22 => do .ok (.popc c t (← D) (← A))
  | 0x23 => do .ok (.clz c t (← D) (← A))
  | 0x24 => do .ok (.brev c t (← D) (← A))
  | 0x25 => do .ok (.bfx c t (BitVec.ofNat 16 r.x) (← D) (← A) (← B))
  | 0x26 => do .ok (.bfi c t (← D) (← A) (← B) (← C))
  | 0x27 => do .ok (.icmp c t (icmpOf r.fn) (← D) (← A) (← B))
  | 0x28 => do .ok (.sel c t (← D) (← A) (← B) (← C))
  | 0x29 => do .ok (.lea c (leaOf r.fn) (← D) (← A) (← B))
  | 0x2A => do .ok (.plop c (BitVec.ofNat 8 r.mod) (← D) (← A) (← B) (← C))
  | 0x2B => do .ok (.fadd c t rm (← D) (← A) (← B))
  | 0x2C => do .ok (.fsub c t rm (← D) (← A) (← B))
  | 0x2D => do .ok (.fmul c t rm (← D) (← A) (← B))
  | 0x2E => do .ok (.ffma c t rm (← D) (← A) (← B) (← C))
  | 0x2F => do .ok (.fmin c t v1 (← D) (← A) (← B))
  | 0x30 => do .ok (.fmax c t v1 (← D) (← A) (← B))
  | 0x31 => do .ok (.fcmp c t (fcmpOf r.fn) (← D) (← A) (← B))
  | 0x32 => do .ok (.frcp c t rm (← D) (← A))
  | 0x33 => do .ok (.frsq c t rm (← D) (← A))
  | 0x34 => do .ok (.fsqrt c t rm (← D) (← A))
  | 0x35 => do .ok (.fex2 c t (← D) (← A))
  | 0x36 => do .ok (.flg2 c t (← D) (← A))
  | 0x37 => do .ok (.fsin c t (← D) (← A))
  | 0x38 => do .ok (.fcos c t (← D) (← A))
  | 0x39 => do .ok (.fcls c t (← D) (← A) (← B))
  | 0x3A => do .ok (.frnd c t rm (← D) (← A))
  | 0x3B => do .ok (.fscl c t rm (← D) (← A) (← B))
  | 0x3C => do .ok (.fdiv c t rm (← D) (← A) (← B))
  | 0x3D => do .ok (.cmul c t rm m2 (← D) (← A) (← B))
  | 0x3E => do .ok (.cfma c t rm m2 (← D) (← A) (← B) (← C))
  | 0x3F => do .ok (.bfly c t rm (← D) (← A) (← B) (← C))
  | 0x40 => do .ok (.bfl4 c t rm m2 (← D) (← A) (← B))
  | 0x41 => do .ok (.twid c t rm (← D) (← A) (← B))
  | 0x42 => do .ok (.fdt2 c t rm m2 (← D) (← A) (← B))
  | 0x43 => do .ok (.mov c t (← D) (← A))
  | 0x44 => do
    let imm ← longImm r
    let d ← D
    if r.fn = 0 then .ok (.moviLo c t d imm) else .ok (.moviHi c t (BitVec.ofNat 2 r.mod) d imm)
  | 0x45 => do
    let d ← D
    let a ← A
    let rb : Option Opnd ← if r.mod / 8 % 2 = 1 then some <$> C else .ok none
    if r.mod / 16 % 2 = 1 then .ok (.cvtBlk c t (fmtOf r.fn) rm d a rb) else .ok (.cvt c t (fmtOf r.fn) rm m2 d a rb)
  | 0x46 => do
    let e : Option Opnd ← if r.fmt = 7 ∨ r.fmt = 12 ∨ r.fmt = 13 then some <$> C else .ok none
    .ok (.pack c t (← D) (← A) (← B) e)
  | 0x47 => do .ok (.unpk c t (← D) (← A) (← B))
  | 0x48 => do .ok (.shfl c t (shflOf r.fn) (segOf (r.mod % 8)) (← D) (← A) (← B) (← C))
  | 0x49 => do .ok (.qswp c t (qswpOf r.fn) (← D) (← A))
  | 0x4A => do .ok (.qred c t (qredOf r.fn) rm (← D) (← A))
  | 0x4B => do .ok (.vote c (voteOf r.fn) (← D) (← A))
  | 0x4C => do .ok (.lred c t (lredOf r.fn) rm (← D) (← A))
  | 0x4D => do .ok (.prfx c t v1 rm (← D) (← A))
  | 0x4E => do .ok (.bcst c t (← D) (← A) (← B))
  | 0x4F => do .ok (.mtch c t v1 (← D) (← A))
  | 0x50 => do let d ← D; let a ← A; if r.fn = 0 then .ok (.pmovTomask c d a) else .ok (.pmovTopred c d a)
  | 0x51 => do .ok (.ld c t (countOf r.fn) (BitVec.ofNat 5 r.mod) (← D) (← idxOf 63 r.a) (← B) (← C))
  | 0x52 => do .ok (.st c t (countOf r.fn) (BitVec.ofNat 5 r.mod) (← D) (← idxOf 63 r.a) (← B) (← C))
  | 0x53 => do .ok (.lds c t (countOf r.fn) (← D) (← tileOf r.a) (← B) (← rmt1))
  | 0x54 => do .ok (.sts c t (countOf r.fn) (← D) (← tileOf r.a) (← B) (← rmt1))
  | 0x55 => do .ok (.atom c t (atomOf r.fn) rm (ordOf (r.mod / 4)) (scopeOf r.mod) (← D) (← idxOf 63 r.a) (← B) (← C))
  | 0x56 => do .ok (.atms c t (atomOf r.fn) rm (ordOf (r.mod / 4)) (scopeOf r.mod) (← D) (← tileOf r.a) (← B) (← rmt4))
  | 0x57 => do .ok (.pref c v1 (← idxOf 63 r.a) (← B))
  | 0x58 => do .ok (.stgr c (← A))
  | 0x59 => do .ok (.pgrq c (← D) (← idxOf 63 r.a) (← B))
  | 0x5A => do .ok (.dscd c (← D) (← idxOf 63 r.a) (← B) (← C))
  | 0x5B => .ok (.fnce c (fnceOf r.fn) (scopeOf r.mod))
  | 0x5C => do .ok (.tgiv c (← tileOf r.a))
  | 0x5D => do .ok (.ttak c (← tileOf r.a))
  | 0x5E => do .ok (.tsta c (← D) (← tileOf r.a))
  | 0x5F => do
    let br ← idxOf 63 r.d
    let a ← A
    if r.fn = 0 then .ok (.brecLd c br a) else .ok (.brecSet c br a)
  | 0x60 => do .ok (.lrecLd c (← idxOf 15 r.d) (← A))
  | 0x61 => do .ok (.mcst c w64 (BitVec.ofNat 8 r.mod) (← D) (← idxOf 63 r.a) (← B) (← C))
  | 0x62 => do .ok (.wake c w64 (scopeOf r.mod) (← D) (← idxOf 63 r.a) (← B) (← C))
  | 0x63 => do .ok (.mma c t (fmtOf r.fn) (BitVec.ofNat 3 r.mod) (tswzOf (r.mod / 8)) (← idxOf 15 r.d) (← tileOf r.a) (← B) (← C))
  | 0x64 => do
    .ok (.mmsp c t (fmtOf r.fn) (BitVec.ofNat 3 r.mod) (tswzOf (r.mod / 8)) (decide (r.mod / 32 % 2 = 1)) (← idxOf 15 r.d)
      (← tileOf r.a) (← B) (← C))
  | 0x65 => do .ok (.mzro c (← idxOf 15 r.d))
  | 0x66 => do .ok (.mrda c t rm (rowsOf (r.mod / 4)) (← D) (← idxOf 15 r.a) (← B))
  | 0x67 => do .ok (.mwra c t rm (rowsOf (r.mod / 4)) (← idxOf 15 r.d) (← A) (← B))
  | 0x68 => .ok (.mfnc c)
  | 0x69 =>
    if r.a = 1808 then .ok (.gangDissolve c)
    else if 1536 ≤ r.a ∧ r.a < 1792 then .ok (.gangForm c (Fin.ofNat 256 (r.a - 1536)))
    else .error .badopnd
  | 0x6A => do .ok (.qput c (scopeOf r.mod) (decide (r.mod % 2 = 1)) (← A) (← B))
  | 0x6B => do .ok (.acpy c (acpyOf r.mod) (← tileOf r.d) (← idxOf 63 r.a) (← B) (← C))
  | 0x6C => .ok (.bcls c)
  | 0x6D => do .ok (.waitb c (← B))
  | 0x6E => do
    let a ← A
    match r.fn with
    | 0 => .ok (.collRs c a)
    | 1 => .ok (.collAg c a)
    | 2 => .ok (.collA2a c a)
    | _ => .ok (.collRpart c a)
  | 0x6F => do .ok (.qsta c (← D) (← B))
  | _ => .error (.illop 3)

/-- The instruction of a word, or why it is none (R48, rows 1 to 6 and the codes of row 7 that name nothing). -/
def decode (w : CodeWord) : Except DecodeFault Instr :=
  if w = 0 then .ok .ill
  else
    let r := rawOf w
    if 0x70 ≤ r.op then .error (.illop 2)
    else match rawFault (w.toNat / 2 ^ 59 % 32) r with
      | some e => .error e
      | none => build r

/-- An instruction word from its bytes, the lowest address first (R24). -/
def wordOfBytes (l : List Byte) : CodeWord := BitVec.ofNat 96 (Machine.natOfBytes (l.take 12))

/-- The instruction of a word whose bits are w; a word shorter than 96 bits has zeros above nbits. -/
def decodeTableWord (nbits w : Nat) : Option Instr :=
  match decode (wordOfBytes (Machine.bytesOfNat 12 (w % 2 ^ nbits))) with
  | .ok i => some i
  | .error _ => none

/-! The encoder. -/

/-- The code of a selector less 0x710 (R35). -/
def Sel.code : Sel → Nat
  | .zero => 0 | .laneid => 1 | .quadid => 2 | .warpid => 3 | .crewid => 4 | .coreid => 5 | .sectorid => 6 | .pkgid => 7
  | .gtc => 8 | .ip => 9 | .amask => 10 | .emask => 11 | .hmask => 12 | .cls => 13 | .vi => 14 | .launchid => 15

/-- The rounding code (R30). -/
def RMode.code : RMode → Nat | .rne => 0 | .rz => 1 | .ru => 2 | .rd => 3

/-- The scope code (R30). -/
def Scope.code : Scope → Nat | .wp => 0 | .cw => 1 | .co => 2 | .cl => 3 | .pk => 4 | .dm => 5 | .sy => 6

/-- The operand code (R31). -/
def Opnd.code : Opnd → Nat
  | .v k => k.val
  | .s k => 1536 + k.val
  | .p k => 1792 + k.val
  | .sel x => 1808 + x.code
  | .imm i => 2048 + i.toNat

/-- The code of a tile operand (R34). -/
def TileOp.code : TileOp → Nat
  | .idx t => 2048 + t.val
  | .reg n => 1536 + n.val

/-- The code of an optional operand in X. -/
def codeOr0 : Option Opnd → Nat
  | none => 0
  | some o => o.code

/-- A Bool as a bit. -/
def bit01 (b : Bool) : Nat := if b then 1 else 0

/-- The fields of an instruction with opcode, FMT, FN, MOD, D, A, B and X given. -/
def mk (c : Ctl) (op fmt fn mod d a b x : Nat) : Option Raw := some ⟨op, fmt, fn, mod, d, a, b, x, c⟩

/-- FN of ICMP. -/
def ICmpKind.code : ICmpKind → Nat | .eq => 0 | .ne => 1 | .lt => 2 | .le => 3 | .gt => 4 | .ge => 5
/-- FN of FCMP. -/
def FCmpKind.code : FCmpKind → Nat
  | .eq => 0 | .ne => 1 | .lt => 2 | .le => 3 | .gt => 4 | .ge => 5 | .un => 6 | .ord => 7
/-- FN of LEA. -/
def LeaScale.code : LeaScale → Nat | .x1 => 0 | .x2 => 1 | .x4 => 2 | .x8 => 3 | .x16 => 4
/-- FN of SHFL. -/
def ShflKind.code : ShflKind → Nat | .idx => 0 | .up => 1 | .down => 2 | .xor => 3
/-- MOD[2:0] of SHFL. -/
def ShflSeg.code : ShflSeg → Nat | .w32 => 0 | .w16 => 1 | .w8 => 2 | .w4 => 3 | .w2 => 4
/-- FN of QSWP. -/
def QswpKind.code : QswpKind → Nat | .h => 0 | .v => 1 | .d => 2
/-- FN of QRED. -/
def QredOp.code : QredOp → Nat | .add => 0 | .min => 1 | .max => 2
/-- FN of LRED. -/
def LredOp.code : LredOp → Nat | .add => 0 | .min => 1 | .max => 2 | .and => 3 | .or => 4 | .xor => 5
/-- FN of VOTE. -/
def VoteKind.code : VoteKind → Nat | .some => 0 | .every => 1 | .same => 2 | .mask => 3
/-- FN of ATOM. -/
def AtomOp.code : AtomOp → Nat
  | .add => 0 | .min => 1 | .max => 2 | .and => 3 | .or => 4 | .xor => 5 | .exch => 6 | .cas => 7
/-- MOD[3:2] of ATOM. -/
def AtomOrd.code : AtomOrd → Nat | .relaxed => 0 | .acq => 1 | .rel => 2 | .ar => 3
/-- FN of LD. -/
def Count.code : Count → Nat | .x1 => 0 | .x2 => 1 | .x4 => 2
/-- FN of FNCE. -/
def FnceKind.code : FnceKind → Nat | .acq => 0 | .rel => 1 | .ar => 2 | .un => 3
/-- MOD[2:0] of WAITE.word. -/
def WordCond.code : WordCond → Nat | .eq => 0 | .ne => 1 | .geu => 2 | .ltu => 3 | .ges => 4 | .lts => 5
/-- MOD[3:2] of MRDA. -/
def RowCount.code : RowCount → Nat | .x1 => 0 | .x2 => 1 | .x4 => 2 | .x8 => 3
/-- MOD[4:3] of MMA. -/
def Tswz.code : Tswz → Nat | .sw0 => 0 | .sw1 => 1 | .sw2 => 2
/-- MOD[1:0] of ACPY. -/
def AcpySize.code : AcpySize → Nat | .sz4 => 0 | .sz8 => 1 | .sz16 => 2 | .sz32 => 3

/-- The scope field of BAR (R344). -/
def barScope (cl : Bool) : Nat := if cl then 0x60 else 0x20

/-- B and X of a long immediate (R37). -/
def longB (i : BitVec 27) : Nat := 2048 + i.toNat % 2048
/-- X of a long immediate (R37). -/
def longX (i : BitVec 27) : Nat := i.toNat / 2048

/-- The fields that encode an instruction; none for ILL and for events, which have no fields. -/
def Instr.raw : Instr → Option Raw
  | .nop c => mk c 0x01 15 0 0 0 0 0 0
  | .braRel c p off => mk c 0x02 15 0 p.toNat 0 0 (longB off) (longX off)
  | .braAny c p off => mk c 0x02 15 1 p.toNat 0 0 (longB off) (longX off)
  | .braAll c p off => mk c 0x02 15 2 p.toNat 0 0 (longB off) (longX off)
  | .jumpLane c p a => mk c 0x03 15 0 p.toNat 0 a.code 0 0
  | .jumpWarp c p a => mk c 0x03 15 1 p.toNat 0 a.code 0 0
  | .callRel c p d off => mk c 0x04 15 0 p.toNat d.code 0 (longB off) (longX off)
  | .callS c p d a => mk c 0x04 15 1 p.toNat d.code a.code 0 0
  | .ret c p a => mk c 0x05 15 0 p.toNat 0 a.code 0 0
  | .split c => mk c 0x06 15 0 0 0 0 0 0
  | .exit c => mk c 0x07 15 0 0 0 0 0 0
  | .yield c => mk c 0x08 15 0 0 0 0 0 0
  | .waiteTile c t => mk c 0x09 15 0 0 0 t.code 0 0
  | .waiteBatch c b => mk c 0x09 15 1 0 0 0 b.code 0
  | .waiteWord c k w br b r => mk c 0x09 15 2 (k.code + 8 * bit01 w) 0 (2048 + br.val) b.code r.code
  | .waiteJoin c a => mk c 0x09 15 3 0 0 a.code 0 0
  | .waiteBar c bar cl a => mk c 0x09 15 4 (bar.toNat + barScope cl) 0 a.code 0 0
  | .waiteGtc c a => mk c 0x09 15 5 0 0 a.code 0 0
  | .waitePage c br b => mk c 0x09 15 6 0 0 (2048 + br.val) b.code 0
  | .waiteColl c a => mk c 0x09 15 7 0 0 a.code 0 0
  | .spawnNode c na d a b => mk c 0x0A 15 0 na.toNat d.code a.code b.code 0
  | .spawnStage c na k d a b r => mk c 0x0A 15 1 (na.toNat + 16 * k.toNat) d.code a.code b.code r.code
  | .joinc c => mk c 0x0B 15 0 0 0 0 0 0
  | .fwd c t => match t with
    | .core a => mk c 0x0C 15 0 0 0 a.code 0 0
    | .sect a => mk c 0x0C 15 1 0 0 a.code 0 0
    | .pkg a => mk c 0x0C 15 2 0 0 a.code 0 0
    | .any => mk c 0x0C 15 3 0 0 0 0 0
  | .barWait c bar cl => mk c 0x0D 15 0 (bar.toNat + barScope cl) 0 0 0 0
  | .barPost c bar cl d => mk c 0x0D 15 1 (bar.toNat + barScope cl) d.code 0 0 0
  | .refill c sc d a b p => mk c 0x0E 15 0 (32 * sc.code) d.code a.code b.code p.code
  | .trap c n => mk c 0x0F 15 0 n.toNat 0 0 0 0
  | .tret c a => mk c 0x10 15 0 0 0 a.code 0 0
  | .tretKill c a => mk c 0x10 15 0 1 0 a.code 0 0
  | .srd c w n d => mk c 0x11 (if w then 3 else 1) 0 n.toNat d.code 0 0 0
  | .swr c w n a => mk c 0x12 (if w then 3 else 1) 0 n.toNat 0 a.code 0 0
  | .iadd c t x d a b => mk c 0x13 t.code (bit01 x) 0 d.code a.code b.code 0
  | .isub c t x d a b => mk c 0x14 t.code (bit01 x) 0 d.code a.code b.code 0
  | .addc c t x cp d a b ci => mk c 0x15 t.code (bit01 x) cp.val d.code a.code b.code ci.code
  | .imul c t d a b => mk c 0x16 t.code 0 0 d.code a.code b.code 0
  | .imulh c t d a b => mk c 0x17 t.code 0 0 d.code a.code b.code 0
  | .imad c t x d a b e => mk c 0x18 t.code (bit01 x) 0 d.code a.code b.code e.code
  | .imin c t d a b => mk c 0x19 t.code 0 0 d.code a.code b.code 0
  | .imax c t d a b => mk c 0x1A t.code 0 0 d.code a.code b.code 0
  | .iabs c t x d a => mk c 0x1B t.code (bit01 x) 0 d.code a.code 0 0
  | .and c t x d a b => mk c 0x1C t.code (bit01 x) 0 d.code a.code b.code 0
  | .or c t x d a b => mk c 0x1D t.code (bit01 x) 0 d.code a.code b.code 0
  | .xor c t x d a b => mk c 0x1E t.code (bit01 x) 0 d.code a.code b.code 0
  | .shl c t d a b => mk c 0x1F t.code 0 0 d.code a.code b.code 0
  | .shr c t d a b => mk c 0x20 t.code 0 0 d.code a.code b.code 0
  | .rot c t x d a b => mk c 0x21 t.code (bit01 x) 0 d.code a.code b.code 0
  | .popc c t d a => mk c 0x22 t.code 0 0 d.code a.code 0 0
  | .clz c t d a => mk c 0x23 t.code 0 0 d.code a.code 0 0
  | .brev c t d a => mk c 0x24 t.code 0 0 d.code a.code 0 0
  | .bfx c t x d a b => mk c 0x25 t.code 0 0 d.code a.code b.code x.toNat
  | .bfi c t d a b e => mk c 0x26 t.code 0 0 d.code a.code b.code e.code
  | .icmp c t k d a b => mk c 0x27 t.code k.code 0 d.code a.code b.code 0
  | .sel c t d a b e => mk c 0x28 t.code 0 0 d.code a.code b.code e.code
  | .lea c k d a b => mk c 0x29 3 k.code 0 d.code a.code b.code 0
  | .plop c tt d a b e => mk c 0x2A 15 0 tt.toNat d.code a.code b.code e.code
  | .fadd c t rm d a b => mk c 0x2B t.code 0 rm.code d.code a.code b.code 0
  | .fsub c t rm d a b => mk c 0x2C t.code 0 rm.code d.code a.code b.code 0
  | .fmul c t rm d a b => mk c 0x2D t.code 0 rm.code d.code a.code b.code 0
  | .ffma c t rm d a b e => mk c 0x2E t.code 0 rm.code d.code a.code b.code e.code
  | .fmin c t x d a b => mk c 0x2F t.code (bit01 x) 0 d.code a.code b.code 0
  | .fmax c t x d a b => mk c 0x30 t.code (bit01 x) 0 d.code a.code b.code 0
  | .fcmp c t k d a b => mk c 0x31 t.code k.code 0 d.code a.code b.code 0
  | .frcp c t rm d a => mk c 0x32 t.code 0 rm.code d.code a.code 0 0
  | .frsq c t rm d a => mk c 0x33 t.code 0 rm.code d.code a.code 0 0
  | .fsqrt c t rm d a => mk c 0x34 t.code 0 rm.code d.code a.code 0 0
  | .fex2 c t d a => mk c 0x35 t.code 0 0 d.code a.code 0 0
  | .flg2 c t d a => mk c 0x36 t.code 0 0 d.code a.code 0 0
  | .fsin c t d a => mk c 0x37 t.code 0 0 d.code a.code 0 0
  | .fcos c t d a => mk c 0x38 t.code 0 0 d.code a.code 0 0
  | .fcls c t d a b => mk c 0x39 t.code 0 0 d.code a.code b.code 0
  | .frnd c t rm d a => mk c 0x3A t.code 0 rm.code d.code a.code 0 0
  | .fscl c t rm d a b => mk c 0x3B t.code 0 rm.code d.code a.code b.code 0
  | .fdiv c t rm d a b => mk c 0x3C t.code 0 rm.code d.code a.code b.code 0
  | .cmul c t rm x d a b => mk c 0x3D t.code 0 (rm.code + 4 * bit01 x) d.code a.code b.code 0
  | .cfma c t rm x d a b e => mk c 0x3E t.code 0 (rm.code + 4 * bit01 x) d.code a.code b.code e.code
  | .bfly c t rm d a b e => mk c 0x3F t.code 0 rm.code d.code a.code b.code e.code
  | .bfl4 c t rm x d a b => mk c 0x40 t.code 0 (rm.code + 4 * bit01 x) d.code a.code b.code 0
  | .twid c t rm d a b => mk c 0x41 t.code 0 rm.code d.code a.code b.code 0
  | .fdt2 c t rm x d a b => mk c 0x42 t.code 0 (rm.code + 4 * bit01 x) d.code a.code b.code 0
  | .mov c t d a => mk c 0x43 t.code 0 0 d.code a.code 0 0
  | .moviLo c t d i => mk c 0x44 t.code 0 0 d.code 0 (longB i) (longX i)
  | .moviHi c t h d i => mk c 0x44 t.code 1 h.toNat d.code 0 (longB i) (longX i)
  | .cvt c t src rm sat d a rb =>
    mk c 0x45 t.code src.code (rm.code + 4 * bit01 sat + 8 * bit01 rb.isSome) d.code a.code 0 (codeOr0 rb)
  | .cvtBlk c t src rm d a rb =>
    mk c 0x45 t.code src.code (rm.code + 8 * bit01 rb.isSome + 16) d.code a.code 0 (codeOr0 rb)
  | .pack c t d a b e => mk c 0x46 t.code 0 0 d.code a.code b.code (codeOr0 e)
  | .unpk c t d a b => mk c 0x47 t.code 0 0 d.code a.code b.code 0
  | .shfl c t k g d a b p => mk c 0x48 t.code k.code g.code d.code a.code b.code p.code
  | .qswp c t k d a => mk c 0x49 t.code k.code 0 d.code a.code 0 0
  | .qred c t op rm d a => mk c 0x4A t.code op.code rm.code d.code a.code 0 0
  | .vote c k d a => mk c 0x4B 15 k.code 0 d.code a.code 0 0
  | .pmovTomask c d a => mk c 0x50 15 0 0 d.code a.code 0 0
  | .pmovTopred c d a => mk c 0x50 15 1 0 d.code a.code 0 0
  | .lred c t op rm d a => mk c 0x4C t.code op.code rm.code d.code a.code 0 0
  | .prfx c t x rm d a => mk c 0x4D t.code (bit01 x) rm.code d.code a.code 0 0
  | .bcst c t d a b => mk c 0x4E t.code 0 0 d.code a.code b.code 0
  | .mtch c t x d a => mk c 0x4F t.code (bit01 x) 0 d.code a.code 0 0
  | .ld c t n i d br b p => mk c 0x51 t.code n.code i.toNat d.code (2048 + br.val) b.code p.code
  | .st c t n i d br b p => mk c 0x52 t.code n.code i.toNat d.code (2048 + br.val) b.code p.code
  | .lds c t n d tile b r => mk c 0x53 t.code n.code (bit01 r.isSome) d.code tile.code b.code (codeOr0 r)
  | .sts c t n d tile b r => mk c 0x54 t.code n.code (bit01 r.isSome) d.code tile.code b.code (codeOr0 r)
  | .atom c t op rm o sc d br b p =>
    mk c 0x55 t.code op.code (rm.code + 4 * o.code + 32 * sc.code) d.code (2048 + br.val) b.code p.code
  | .atms c t op rm o sc d tile b r =>
    mk c 0x56 t.code op.code (rm.code + 4 * o.code + 16 * bit01 r.isSome + 32 * sc.code) d.code tile.code b.code (codeOr0 r)
  | .pref c llc br b => mk c 0x57 15 (bit01 llc) 0 0 (2048 + br.val) b.code 0
  | .stgr c a => mk c 0x58 15 0 0 0 a.code 0 0
  | .pgrq c d br b => mk c 0x59 15 0 0 d.code (2048 + br.val) b.code 0
  | .dscd c d br b e => mk c 0x5A 15 0 0 d.code (2048 + br.val) b.code e.code
  | .fnce c k sc => mk c 0x5B 15 k.code (32 * sc.code) 0 0 0 0
  | .tgiv c t => mk c 0x5C 15 0 0 0 t.code 0 0
  | .ttak c t => mk c 0x5D 15 0 0 0 t.code 0 0
  | .tsta c d t => mk c 0x5E 15 0 0 d.code t.code 0 0
  | .brecLd c br a => mk c 0x5F 15 0 0 (2048 + br.val) a.code 0 0
  | .brecSet c br a => mk c 0x5F 15 1 0 (2048 + br.val) a.code 0 0
  | .lrecLd c lr a => mk c 0x60 15 0 0 (2048 + lr.val) a.code 0 0
  | .mcst c w g d br b p => mk c 0x61 (if w then 3 else 1) 0 g.toNat d.code (2048 + br.val) b.code p.code
  | .wake c w sc d br b p => mk c 0x62 (if w then 3 else 1) 0 (32 * sc.code) d.code (2048 + br.val) b.code p.code
  | .mma c ta tb l sw z t b kb => mk c 0x63 ta.code tb.code (l.toNat + 8 * sw.code) (2048 + z.val) t.code b.code kb.code
  | .mmsp c ta tb l sw h z t b kb =>
    mk c 0x64 ta.code tb.code (l.toNat + 8 * sw.code + 32 * bit01 h) (2048 + z.val) t.code b.code kb.code
  | .mzro c z => mk c 0x65 15 0 0 (2048 + z.val) 0 0 0
  | .mrda c t rm n d z row => mk c 0x66 t.code 0 (rm.code + 4 * n.code) d.code (2048 + z.val) row.code 0
  | .mwra c t rm n z a row => mk c 0x67 t.code 0 (rm.code + 4 * n.code) (2048 + z.val) a.code row.code 0
  | .mfnc c => mk c 0x68 15 0 0 0 0 0 0
  | .gangForm c a => mk c 0x69 15 0 0 0 (1536 + a.val) 0 0
  | .gangDissolve c => mk c 0x69 15 0 0 0 1808 0 0
  | .qput c sc now a b => mk c 0x6A 15 0 (bit01 now + 32 * sc.code) 0 a.code b.code 0
  | .acpy c sz t br b e => mk c 0x6B 15 0 sz.code t.code (2048 + br.val) b.code e.code
  | .bcls c => mk c 0x6C 15 0 0 0 0 0 0
  | .waitb c b => mk c 0x6D 15 0 0 0 0 b.code 0
  | .qsta c d b => mk c 0x6F 15 0 0 d.code 0 b.code 0
  | .collRs c a => mk c 0x6E 15 0 0 0 a.code 0 0
  | .collAg c a => mk c 0x6E 15 1 0 0 a.code 0 0
  | .collA2a c a => mk c 0x6E 15 2 0 0 a.code 0 0
  | .collRpart c a => mk c 0x6E 15 3 0 0 a.code 0 0
  | _ => none

/-- G of the guard (R39). -/
def Ctl.g (c : Ctl) : Nat := c.gpred.val + 16 * bit01 c.gneg
/-- H of the hints (R40). -/
def Ctl.h (c : Ctl) : Nat := bit01 c.yld + 2 * c.stall.toNat + 64 * c.wslot.toNat + 512 * c.wmask.toNat

/-- The word of fields (R23). -/
def Raw.word (r : Raw) : CodeWord :=
  BitVec.ofNat 96 (r.op + 2 ^ 7 * r.fmt + 2 ^ 11 * r.fn + 2 ^ 15 * r.mod + 2 ^ 23 * r.d + 2 ^ 35 * r.a + 2 ^ 47 * r.b
    + 2 ^ 59 * r.ctl.g + 2 ^ 64 * r.x + 2 ^ 80 * r.ctl.h)

/-- The word of an instruction; none for an event, which no word encodes. -/
def encode (i : Instr) : Option CodeWord :=
  match i with
  | .ill => some 0
  | i => i.raw.map Raw.word

end Sys2Proof
end

