-- ==== Sys2Proof/Machine/Crypto.lean ====
section
/-! DEFINITION. The byte codes that the manual names: AES-256-XTS over a line (R71, IEEE 1619), CRC32C (R94), and the
CRC-64 of a flit group (R288). -/

namespace Sys2Proof.Machine

/-- The AES substitution box, entry i in byte i (FIPS 197). -/
def sboxBits : BitVec 2048 := 0x16bb54b00f2d99416842e6bf0d89a18cdf2855cee9871e9b948ed9691198f8e19e1dc186b95735610ef6034866b53e708a8bbd4b1f74dde8c6b4a61c2e2578ba08ae7a65eaf4566ca94ed58d6d37c8e779e4959162acd3c25c2406490a3a32e0db0b5ede14b8ee4688902a22dc4f816073195d643d7ea7c41744975fec130ccdd2f3ff1021dab6bcf5389d928f40a351a89f3c507f02f94585334d43fbaaefd0cf584c4a39becb6a5bb1fc20ed00d153842fe329b3d63b52a05a6e1b1a2c830975b227ebe28012079a059618c323c7041531d871f1e5a534ccf73f362693fdb7c072a49cafa2d4adf04759fa7dc982ca76abd7fe2b670130c56f6bf27b777c63

/-- The inverse substitution box. -/
def invSboxBits : BitVec 2048 := 0x7d0c2155631469e126d677ba7e042b17619953833cbbebc8b0f52aae4d3be0a0ef9cc9939f7ae52d0d4ab519a97f51605fec8027591012b131c7078833a8dd1ff45acd78fec0db9a2079d2c64b3e56fc1bbe18aa0e62b76f89c5291d711af1476edf751ce837f9e28535ade72274ac9673e6b4f0cecff297eadc674f4111913a6b8a130103bdafc1020f3fca8f1e2cd00645b3b80558e4f70ad3bc8c00abd890849d8da75746155edab9edfd5048706c92b6655dcc5ca4d41698688664f6f87225d18b6d49a25b76b224d92866a12e084ec3fa420b954cee3d23c2a632947b54cbe9dec444438e3487ff2f9b8239e37cfbd7f3819ea340bf38a53630d56a0952

/-- Substitution of a byte. -/
def subByte (t : BitVec 2048) (b : Byte) : Byte := t.extractLsb' (8 * b.toNat) 8

/-- Multiplication by x in the AES field. -/
def xtime (b : Byte) : Byte := (b <<< 1) ^^^ (if b.getLsbD 7 then 0x1b else 0)

/-- Product in the AES field by a small constant. -/
def gmul (c : Nat) (b : Byte) : Byte :=
  let b2 := xtime b
  let b4 := xtime b2
  let b8 := xtime b4
  (if c % 2 = 1 then b else 0) ^^^ (if c / 2 % 2 = 1 then b2 else 0) ^^^ (if c / 4 % 2 = 1 then b4 else 0)
    ^^^ (if c / 8 % 2 = 1 then b8 else 0)

/-- Bytes joined by exclusive or, place by place. -/
def xorBytes (a b : List Byte) : List Byte := List.zipWith (· ^^^ ·) a b

/-- One more word of the AES-256 key schedule; i is its number and the words so far come latest first. -/
def keyWord (i : Nat) (rcon : Byte) (ws : List (List Byte)) : List Byte :=
  let prev := ws.getD 0 []
  let back := ws.getD 7 []
  let t := if i % 8 = 0 then
      (match (prev.drop 1 ++ prev.take 1).map (subByte sboxBits) with | b :: r => (b ^^^ rcon) :: r | [] => [])
    else if i % 8 = 4 then prev.map (subByte sboxBits) else prev
  xorBytes back t

/-- Words added to a key schedule: n words from number i. -/
def expandFrom : Nat → Nat → Byte → List (List Byte) → List (List Byte)
  | 0, _, _, ws => ws
  | n + 1, i, rcon, ws =>
    expandFrom n (i + 1) (if i % 8 = 0 then xtime rcon else rcon) (keyWord i rcon ws :: ws)

/-- A list cut into pieces of four. -/
def chunks4 {α : Type} : Nat → List α → List (List α)
  | 0, _ => []
  | n + 1, l => l.take 4 :: chunks4 n (l.drop 4)

/-- The fifteen round keys of a 32-byte key, in order. -/
def roundKeys (key : List Byte) : List (List Byte) :=
  let ws := (expandFrom 52 8 1 (chunks4 8 key).reverse).reverse
  (chunks4 15 ws).map List.flatten

/-- The bytes of a block moved: place i takes the byte at f i. -/
def permute (f : Nat → Nat) (l : List Byte) : List Byte := (List.range 16).map fun i => l.getD (f i) 0

/-- The columns of a block multiplied by a circulant. -/
def mixWith (c : List Nat) (l : List Byte) : List Byte :=
  (List.range 16).map fun i =>
    (List.range 4).foldl (fun a j => a ^^^ gmul (c.getD ((j + 4 - i % 4) % 4) 0) (l.getD (i / 4 * 4 + j) 0)) 0

/-- AES-256 of a block of 16 bytes under expanded keys.
Log 30 (PRESUMED). -/
def aesEncrypt (rk : List (List Byte)) (x : List Byte) : List Byte :=
  let x := xorBytes x (rk.getD 0 [])
  (List.range 14).foldl (fun x r =>
    let y := permute (fun i => (i + 4 * (i % 4)) % 16) (x.map (subByte sboxBits))
    let z := if r = 13 then y else mixWith [2, 3, 1, 1] y
    xorBytes z (rk.getD (r + 1) [])) x

/-- The inverse of AES-256.
Log 30 (PRESUMED). -/
def aesDecrypt (rk : List (List Byte)) (x : List Byte) : List Byte :=
  let x := xorBytes x (rk.getD 14 [])
  (List.range 14).foldl (fun x r =>
    let y := (permute (fun i => (i + 12 * (i % 4)) % 16) x).map (subByte invSboxBits)
    let z := xorBytes y (rk.getD (13 - r) [])
    if r = 13 then z else mixWith [14, 11, 13, 9] z) x

/-- The tweak times x, as a 128-bit little-endian polynomial (IEEE 1619). -/
def tweakNext (t : BitVec 128) : BitVec 128 := (t <<< 1) ^^^ (if t.getLsbD 127 then 0x87 else 0)

/-- XTS over the eight blocks of a line whose data unit number is the DPA's line number (R71); the key pair holds the data
key in its low 32 bytes.
Log 30 (PRESUMED). -/
def xtsLine (dec : Bool) (key : BitVec 512) (line : Nat) (data : Line) : Line :=
  let kb := bytesOfNat 64 key.toNat
  let k1 := roundKeys (kb.take 32)
  let k2 := roundKeys (kb.drop 32)
  let t0 : BitVec 128 := BitVec.ofNat 128 (natOfBytes (aesEncrypt k2 (bytesOfNat 16 line)))
  let r := (List.range 8).foldl (fun (a : List Byte × BitVec 128) j =>
    let tb := bytesOfNat 16 a.2.toNat
    let blk := xorBytes (bytesOfNat 16 (data.extractLsb' (128 * j) 128).toNat) tb
    let o := xorBytes (if dec then aesDecrypt k1 blk else aesEncrypt k1 blk) tb
    (a.1 ++ o, tweakNext a.2)) ([], t0)
  BitVec.ofNat 1024 (natOfBytes r.1)

/-- One step of a reflected CRC by one byte. -/
def crcByte (poly crc : Nat) (b : Byte) : Nat :=
  (List.range 8).foldl (fun y i =>
    let f := (y + (b.toNat / 2 ^ i) % 2) % 2
    (y / 2) ^^^ (if f = 1 then poly else 0)) crc

/-- CRC32C of RFC 3720 (R94).
Log 30 (PRESUMED). -/
def crc32c (l : List Byte) : Nat := (l.foldl (crcByte 0x82F63B78) 0xFFFFFFFF) ^^^ 0xFFFFFFFF

/-- The CRC-64 tag of a flit group: bytes in order, each most significant bit first, initial value 0, no final inversion
(R288).
Log 30 (PRESUMED). -/
def crc64 (l : List Byte) : Nat :=
  l.foldl (fun c b => (List.range 8).foldl (fun (y : Nat) i =>
    let top := (y / 2 ^ 63 + b.toNat / 2 ^ (7 - i)) % 2
    (y * 2 % 2 ^ 64) ^^^ (if top = 1 then 0x42F0E1EBA9EA3693 else 0)) c) 0

end Sys2Proof.Machine
end

