-- ==== Sys2Proof/Config.lean ====
section
/-! DEFINITION. What an implementation of the GZ-8100 fixes and the manual does not: opaque constants with no body, so
that no proof can depend on their values. -/

namespace Sys2Proof.Config

/-- Whether a read of a result that is not yet readable sees the new value: draw number, register code, lane (R43).
Log 5 (DESIGN CHOICE), 16 (DEDUCED). -/
opaque hazardPick : Nat → Nat → Nat → Bool
/-- Whether a variable-latency result has already been written when it is used uncovered: draw number, register code (R47).
Log 5 (DESIGN CHOICE), 18 (DEDUCED). -/
opaque landed : Nat → Nat → Bool
/-- Which of the two bracketing FP32 values FEX2, FLG2, FSIN and FCOS return for an input: a fixed function of the
opcode and of the input (R237).
Log 5 (DESIGN CHOICE), 25 (DESIGN CHOICE). -/
opaque approxUp : Nat → Nat → Bool
/-- The old or the new table entry while an invalidation is pending: draw number, and the page and level (R117).
Log 5 (DESIGN CHOICE), 32 (DEDUCED). -/
opaque stalePick : Nat → Nat → Bool
/-- The set of its slice that a line belongs to: the manual gives 8,192 sets and no index (R99).
Log 40 (DEDUCED). -/
opaque llcSet : Nat → Fin 8192
/-- The set of an L1 that a line belongs to: 1,024 KiB in 16 ways of 128 bytes have 512 sets (R13, R190).
Log 40 (DEDUCED). -/
opaque l1Set : Nat → Fin 512
/-- Which line of a full set gives way: draw number and the number of lines (R104, R190).
Log 24 (DESIGN CHOICE), 40 (DEDUCED). -/
opaque victim : Nat → Nat → Nat
/-- The flits of a group that an access sends across the fabric: draw number. The manual gives flits no format (R288).
Log 114 (DESIGN CHOICE). -/
opaque flits : Nat → BitVec 2048
/-- The leaf switch that a package reaches in a plane, its port there, the port of a leaf switch to the spine, and the port of the spine to a
leaf switch: the manual leaves the switches' topology to each domain (R290, R395).
Log 118 (DESIGN CHOICE). -/
opaque leafOf : Nat → Nat → Nat
/-- The port of its leaf switch that leads to a package: plane and package.
Log 118 (DESIGN CHOICE). -/
opaque leafPort : Nat → Nat → Nat
/-- The port of a leaf switch that leads to the spine: plane and leaf.
Log 118 (DESIGN CHOICE). -/
opaque upPort : Nat → Nat → Nat
/-- The port of the spine that leads to a leaf switch: plane and leaf.
Log 118 (DESIGN CHOICE). -/
opaque spinePort : Nat → Nat → Nat
/-- What selects the two fused-off cores of a sector: a property of each package, which firmware reports (R106).
Log 14 (DESIGN CHOICE). -/
opaque fused : Nat → BitVec 5 × BitVec 5
/-- Whether an accumulator element takes a matrix instruction before another that it is not ordered with: draw number and element (R261).
Log 88 (DEDUCED). -/
opaque mxPick : Nat → Nat → Bool
/-- Whether a drained UN store to a line stays unordered behind later stores: draw number and line (R273).
Log 37 (DEDUCED). -/
opaque stayPick : Nat → Nat → Bool
/-- Whether the pool of another package has room for what is to go there: draw number, and what it is (R351, R387).
Log 66 (DEDUCED). -/
opaque farRoom : Nat → Nat → Bool
/-- A value of 64 bits that the manual leaves open: draw number and index.
Log 5 (DESIGN CHOICE), 71 (DEDUCED). -/
opaque freeWord : Nat → Nat → BitVec 64

end Sys2Proof.Config
end

