-- ==== Sys2Proof/Machine/State.lean ====
section
/-! DEFINITION. The state of one GZ-8100 package in its fabric domain, as plain data; why a step can stop; and the state
after package reset. Every piece is named with the rule of spec/ that gives it. Sparse maps list only entries that differ
from their default. -/

namespace Sys2Proof.Machine

/-- Register classes of operand codes (R31). -/
inductive RegClass where
  | vec | scal | pred
deriving DecidableEq, Repr

/-- A result due: the register it goes to, the lanes written, what each lane held before, and when it is readable: from a
cycle of State.now on (fixed latency, R41, R42), or once it has been written (R44, R47). slot is the slot that counts its instruction,
and first is set on one result of each instruction, which the slot counts. load marks a value that a load or an atomic fetches (R285).
Log 18 (DEDUCED). -/
structure Due where
  cls : RegClass
  reg : Nat
  mask : Mask
  old : SMap Word
  ready : Option Nat
  slot : Option Nat
  first : Bool
  load : Bool
deriving DecidableEq, Repr

/-- One frontier entry: an IP, a lane mask and a priority (R340). -/
structure Entry where
  ip : BitVec 48
  mask : Mask
  prio : BitVec 4
deriving DecidableEq, Repr

/-- Ordering kinds of a page (R113, R270). -/
inductive Ord where
  | rc | so | un
deriving DecidableEq, Repr

/-- Where a translated byte lies: in the memory of a package of the domain, by DPA (R111), or in host memory (R269). -/
inductive Loc where
  | dev (dpa : Nat)
  | host (hpa : Nat)
deriving DecidableEq, Repr

/-- A translated address: its location, placement, ordering kind, page size code, and its replica if the page is REP. -/
structure Xlat where
  loc : Loc
  swz : BitVec 4
  ord : Ord
  psz : Nat
  rep : Option Nat
deriving DecidableEq, Repr

/-- A put (R176): the queue header and its ring with the translations made at issue, under their address spaces, the index that the next
packet takes once the put has claimed its indices, the packets not yet written, and whether it was made with NOW. -/
structure PutOp where
  uid : Nat
  hdr : Xlat
  hva : Nat
  hasid : Nat
  ring : Xlat
  rva : Nat
  asid : Nat
  log2n : Nat
  next : Nat
  packets : List (BitVec 512)
  now : Bool
deriving DecidableEq, Repr

/-- One single-copy atomic part, of at most 8 bytes, of a lane's store that waits in the segment store buffer (R191, R269, R272), with
the translation made at its issue (R120), its page's ordering kind, its glaze stream (R93), for an MCST its group as registered at issue
(R292, R294): the link plane it leaves on and the packages it reaches; and inst, which tells the stores of one instruction from others: they make one request per line (R192). -/
structure StoreEnt where
  inst : Nat
  loc : Loc
  swz : BitVec 4
  rep : Option Nat
  ord : Ord
  asid : Nat
  va : Nat
  bytes : List Byte
  stream : BitVec 6
  group : Option (Nat × List Nat)
deriving DecidableEq, Repr

/-- One register's worth of a load: the bytes at loc go to register reg of lane, sign- or zero-extended; ov lists the
bytes that the warp's own buffered stores supply (R191, R195), and pred is the status predicate set with them (R193). -/
structure Piece where
  pred : Nat
  reg : Nat
  lane : Nat
  loc : Loc
  n : Nat
  sx : Bool
  ov : List (Nat × Byte)
deriving DecidableEq, Repr

/-- A response outstanding for the warp uid or for the record it has become (R21, R194): the load's IP, and the MEMERR
detail if its data cannot be had (R386). own is set when it comes by a request of its own, through stream (R92) or for a line that
no slice may hold (R286); else the line's fill answers it (R102). -/
structure Resp where
  uid : Nat
  ip : BitVec 48
  line : Nat
  own : Bool
  stream : BitVec 6
  data : Option Line
  err : Option Nat
  pieces : List Piece
deriving DecidableEq, Repr

/-- Effects that a segment holds until its end (R330): puts and collective records (R176, R301), spawned records
(R349), join decrements (R350) and TRET pairs (R378). -/
inductive Held where
  | put (p : PutOp)
  | coll (va asid : Nat) (user : Bool) (record : BitVec 512) (var : BitVec 2)
  | spawn (launch : Nat) (join : Nat) (rids : List Nat)
  | joinDec (va asid : Nat)
  | tret (va : Nat) (kill : Bool)
deriving DecidableEq, Repr

/-- A page: an ASID and VA[51:16] (R136). -/
structure Page where
  asid : Nat
  vpn : Nat
deriving DecidableEq, Repr

/-- Registers that a matrix step of the warp, by its place in the order of completion, has yet to read: the first, how many, and the slot
that counts the step (R44, R258). -/
structure LateSrc where
  seq : Nat
  reg : Nat
  n : Nat
  slot : Option Nat
deriving DecidableEq, Repr

/-- A warp resident on a core: one firing (R329, R339, R340). marked is set while it is to stop at a yield-safe point (R381), victim
while its gang gives its cones up (R265). nextAt is the cycle from which it may issue (R41); waitSince, firedAt and markedAt are the
cycles at which its wait began (R18), it was fired (R388) and it was marked (R381). got holds the lines that have come for the
instruction that waits (R133), hold the cycle from which pool space has been short for its records (R343, R388), waitTag tells the waits of one instruction apart (R335), and walked the pages whose walks
have completed for it (R116). latchAt is the cycle from which it has waited at a rendezvous latch or for cones, firings of the wait's records
included (R246, R388). -/
structure Warp where
  uid : Nat
  core : Nat
  launch : Nat
  crew : Option Nat
  wid : Nat
  vi : Nat
  asid : Nat
  entries : List Entry
  helpers : Mask
  exited : Mask
  v : SMap Word
  sr : SMap Word
  p : SMap Word
  tid : SMap Word
  join : SMap DWord
  frame : DWord
  nreg : Nat
  cls : Nat
  priv : Nat
  chk : Bool
  gang : Bool
  waitwin : Nat
  nextAt : Nat
  waitSince : Nat
  waitTag : Nat
  latchAt : Option Nat
  hold : Option Nat
  firedAt : Nat
  markedAt : Nat
  got : List (Nat × Line)
  walked : List Nat
  slots : List Nat
  due : List Due
  late : List LateSrc
  sb : List StoreEnt
  held : List Held
  nonReplay : Bool
  marked : Bool
  victim : Bool
  wait : Option DWord
  resume : Option (BitVec 48)
  retire : Bool
  kept : List Nat
  runs : Nat
  heavy : Bool
deriving DecidableEq, Repr

/-- No warp: the issue place is empty.
Log 10 (DEDUCED). -/
def Warp.none : Warp :=
  { uid := 0, core := 0, launch := 0, crew := .none, wid := 0, vi := 0, asid := 0, entries := [], helpers := 0, exited := 0,
    v := [], sr := [], p := [], tid := [], join := [], frame := 0, nreg := 0, cls := 0, priv := 0, chk := false,
    gang := false, waitwin := 512, nextAt := 0, waitSince := 0, waitTag := 0, latchAt := .none, hold := .none, firedAt := 0, markedAt := 0, got := [], walked := [], slots := [0, 0, 0, 0, 0, 0, 0], due := [], late := [], sb := [], held := [],
    nonReplay := false, marked := false, victim := false, wait := .none, resume := .none, retire := false, kept := [], runs := 0,
    heavy := false }

/-- Record kinds CR.KIND (R332). -/
inductive RecKind where
  | normal | lane | trap | preempt | gang
deriving DecidableEq, Repr

/-- Where a record stands: held until its segment's end, parked on its event, in a saggar, in an overflow list, kept for
replay while its firing runs (R385), consumed into a trap saggar's handler firing, or on its way to another package (R351). -/
inductive RecPlace where
  | held | parked | saggar (sid : Nat) | overflow (core : Nat) | kept (uid : Nat) | handled | leaving (pkg : Nat)
deriving DecidableEq, Repr

/-- A lane's page while a PGRQ record waits: the status predicate, the lane position and the page (R135). -/
structure PgrqWait where
  pred : Nat
  pos : Nat
  page : Page
deriving DecidableEq, Repr

/-- A continuation record (R19, R332, R333). Register payloads are keyed by register * 32 + position; regs lists the
vector registers saved. src is the warp that wrote it, for responses steered into it (R21); cmp is the value
that the scalar registers keep for a WAITE.word (R348), and swz the placement under which its word was translated; walked are the pages
whose walks its warp had in hand (R116), and since is the cycle from which it has waited where it stands (R388). core is that of its
writer (R339), and pin the core to which a FWD has sent it alone (R351). latchAt is that of the warp whose wait at a latch or for cones it
keeps (R388). -/
structure Rec where
  rid : Nat
  addr : Nat
  vi : Nat
  asid : Nat
  kind : RecKind
  event : DWord
  join : DWord
  frame : DWord
  code : BitVec 48
  mask : Mask
  launch : Nat
  crew : Option Nat
  nreg : Nat
  livemap : BitVec 16
  cls : Nat
  prio : BitVec 4
  wid : Nat
  tinfo : Word
  regs : List Nat
  v : SMap Word
  sr : SMap Word
  p : SMap Word
  tid : SMap Word
  src : Nat
  pages : List Page
  pgrq : List PgrqWait
  cmp : DWord
  swz : BitVec 4
  place : RecPlace
  runs : Nat
  walked : List Nat
  since : Nat
  core : Nat
  pin : Option Nat
  latchAt : Option Nat
deriving DecidableEq, Repr

/-- How a launch was seeded (R328, R365, R366, R349, R374). -/
inductive LaunchMode where
  | grid | node | spawn | handler
deriving DecidableEq, Repr

/-- A region entry of 16 bytes (R170); user is set unless a supervisor segment's instruction gave it (R122). -/
structure Region where
  base : Nat
  len : Nat
  glz : BitVec 6
  tile : Option (Nat × Nat)
  user : Bool
deriving DecidableEq, Repr

/-- The launch image as the front end read it at admission (R58, R59, R61), with its buffer and layout records. -/
structure Image where
  entry : BitVec 48
  nreg : Nat
  tiles : Nat
  mx : Bool
  cls : Nat
  gang : Nat
  frame : Nat
  waitwin : Nat
  timer : Nat
  recs : Nat
  livetab : Nat
  brecs : SMap (BitVec 256)
  lrecs : SMap (BitVec 1024)
  regions : List Region
deriving DecidableEq, Repr

/-- An admitted launch (R365 to R367), with its interface's periods at its admission (R388, R393); hold is the cycle from which
the front end has held a seed record of it for pool space (R343, R388). -/
structure Launch where
  id : Nat
  vi : Nat
  asid : Nat
  image : Image
  imageVa : Nat
  mode : LaunchMode
  chk : Bool
  far : Bool
  cpc : Nat
  wpc : Nat
  ncrew : Nat
  na : Nat
  frameVa : DWord
  nodeId : Nat
  closed : Bool
  threads : Nat
  exited : Nat
  reserved : Nat
  charged : Nat
  seeds : List (Nat × Nat)
  arg : DWord
  suspended : Bool
  hold : Option Nat
  durable : Bool
  packets : List Nat
  hwdog : Word
  seglim : Word
deriving DecidableEq, Repr

/-- States of a batch tag (R173). -/
inductive TagState where
  | free | opened | closed | done
deriving DecidableEq, Repr

/-- A batch tag (R173). age orders tags by opening. -/
structure Tag where
  st : TagState
  count : Nat
  zf : Bool
  err : Bool
  age : Nat
deriving DecidableEq, Repr

/-- A barrier: its generation and the threads that have arrived at it and at the next instance (R352). -/
structure Barrier where
  gen : Word
  now : List Nat
  next : List Nat
deriving DecidableEq, Repr

/-- A cluster's barriers (R328, R352, R362). -/
structure Cluster where
  launch : Nat
  idx : Nat
  bars : SMap Barrier
deriving DecidableEq, Repr

/-- Tile states (R185). -/
inductive TileState where
  | empty | filling | ready | draining
deriving DecidableEq, Repr

/-- The tile table entry of one physical tile (R185). lastVi is the interface whose crew last held it (R184); giving lists the
TGIVs that wait to flip it, by warp and slot (R204). -/
structure Tile where
  crew : Option (Nat × Nat)
  thread : Bool
  st : TileState
  hold : Bool
  flip : Bool
  mxr : Nat
  full : BitVec 128
  lastVi : Option Nat
  giving : List (Nat × Option Nat)
deriving DecidableEq, Repr

/-- A crew (R17, R127, R173, R245, R328). Tags are keyed by warp number * 8 + tag; mfence holds, by warp number, the sequence
number below which the warp's last MFNC covers matrix instructions (R262); staged is set once its tile regions are attached (R171); moving is the kind and number of the target of a
FWD (R351). While it is saved, image is the number under which State.tiles and State.pad hold its tiles in its save area, and savedAccs
its accumulators; savedTiles are the tiles of a crew that has left for another package (R174, R266, R351). vi is its launch's interface (R184). -/
structure Crew where
  launch : Nat
  vi : Nat
  crew : Nat
  core : Nat
  cluster : Nat
  tiles : List Nat
  brec : SMap (BitVec 256)
  lrec : SMap (BitVec 1024)
  tags : SMap Tag
  next : SMap Nat
  ages : Nat
  gang : SMap Word
  bars : SMap Barrier
  mfence : SMap Nat
  staged : Bool
  saved : Bool
  image : Nat
  moving : Option (Nat × Nat)
  savedTiles : List (Tile × List Byte)
  savedAccs : List (List Nat × SMap Word)
deriving DecidableEq, Repr

/-- Saggar states (R171, R338). -/
inductive SagState where
  | gather | due
deriving DecidableEq, Repr

/-- A saggar (R19, R337, R338). trap marks the trap saggar of a launch (R373); since is the cycle at which its timer started (R20),
dueSince that at which it became DUE; staging counts regions not yet resident, fail holds the status of a failed staging (R171). -/
structure Saggar where
  sid : Nat
  core : Nat
  launch : Nat
  code : BitVec 48
  crew : Option Nat
  trap : Bool
  pin : Option Nat
  st : SagState
  rids : List Nat
  since : Nat
  dueSince : Nat
  staging : Nat
  fail : Option Byte
  stagedLen : Nat
deriving DecidableEq, Repr

/-- What a staging operation works for (R170, R171, R179). -/
inductive StageFor where
  | saggar (sid : Nat)
  | batch (launch crew wid tag : Nat)
  | packet (pid : Nat)
deriving DecidableEq, Repr

/-- A region the stage engine has in hand (R171, R172), under a number of its own. core and phys name the tile of a tile target, and started
is set once the engine holds it (R186); buf is what it has read for a tile, and done the tile lines written. -/
structure StageOp where
  id : Nat
  what : StageFor
  region : Region
  asid : Nat
  vi : Nat
  core : Nat
  phys : Option Nat
  started : Bool
  buf : List Byte
  done : List Nat
deriving DecidableEq, Repr

/-- Where one byte of an ACPY comes from: a value, which a buffered store of the warp or a zero gives, or a location in memory. -/
inductive AcpySrc where
  | val (b : Byte)
  | mem (l : Loc) (swz : BitVec 4) (rep : Option Nat)
deriving DecidableEq, Repr

/-- One lane's part of an ACPY in flight (R177): tile offset, size, and where each byte comes from. -/
structure AcpyLane where
  off : Nat
  n : Nat
  src : List AcpySrc
  zf : Bool
  stream : BitVec 6
deriving DecidableEq, Repr

/-- An ACPY in flight (R177). -/
structure AcpyOp where
  launch : Nat
  crew : Nat
  wid : Nat
  tag : Nat
  core : Nat
  phys : Nat
  lanes : List AcpyLane
deriving DecidableEq, Repr

/-- A gang that has formed (R245, R247, R249): the warp numbers by rank, the accumulators taken, whether it holds cones (R263), and the
cycle at which it was last fired (R265). -/
structure Gang where
  core : Nat
  launch : Nat
  crew : Nat
  members : List Nat
  accs : List Nat
  cones : Bool
  firedAt : Nat
deriving DecidableEq, Repr

/-- A member's arrival at the rendezvous latch: its warp, and what is compared (R246). -/
structure Arrival where
  uid : Nat
  instr : Instr
  scalars : List Word
deriving DecidableEq, Repr

/-- A gang's rendezvous latch (R246). -/
structure Latch where
  core : Nat
  launch : Nat
  crew : Nat
  members : List Nat
  arrived : List Arrival
deriving DecidableEq, Repr

/-- A matrix step whose rendezvous has completed (R258, R264), with B fragments as the members held them. seq is its place in
the order of completion, and done lists the accumulator elements that have taken it ahead of an instruction it is not ordered with (R261). -/
structure MxStep where
  seq : Nat
  members : List Nat
  core : Nat
  launch : Nat
  crew : Nat
  cls : Nat
  queuedAt : Nat
  acc : Nat
  phys : Nat
  ta : Fmt
  tb : Fmt
  sparse : Bool
  hdr : Bool
  logc : Nat
  tswz : Tswz
  kb : Nat
  frags : List (SMap Word)
  uids : List Nat
  slots : List (Nat × Nat)
  shape : Nat
  started : Bool
  readDone : Bool
  aData : List Byte
  done : List Nat
deriving DecidableEq, Repr

/-- An MZRO, MRDA or MWRA that has issued and not completed (R260, R267), or an MFNC whose covered instructions have not
(R262). members names its gang, and slot the scoreboard slot it holds; done lists the elements that have taken it early, whose values an
MRDA keeps in data (R261). bars are the crew barriers at which its warp has arrived since, and barAt is the place in the order of issue
at which the first of them completed (R262). -/
structure MxOp where
  seq : Nat
  members : List Nat
  slot : Option Nat
  uid : Nat
  wid : Nat
  core : Nat
  launch : Nat
  crew : Nat
  acc : Nat
  instr : Instr
  row : Nat
  data : SMap Word
  done : List Nat
  bars : List (Nat × Word)
  barAt : Option Nat
deriving DecidableEq, Repr

/-- States of a line that a slice holds (R100); PENDING lines have a miss entry. -/
inductive LineState where
  | clean | dirty | rsh | rown
deriving DecidableEq, Repr

/-- A line held by its home slice (R99, R100). -/
structure LlcLine where
  st : LineState
  data : Line
  swz : BitVec 4
deriving DecidableEq, Repr

/-- A miss of a slice (R102): partial writes merged into the fill, and the fill if it has arrived. sent is set once it has a
miss-table entry and its request is with the controller; before that it waits in the slice's request input. l1 lists the cores whose L1
is to hold the line once it is filled (R190). -/
structure MissEnt where
  line : Nat
  swz : BitVec 4
  rep : Option Nat
  mask : BitVec 128
  data : Line
  fill : Option Line
  sent : Bool
  l1 : List Nat
deriving DecidableEq, Repr

/-- A line in an L1 (R190), with the placement of the request that allocated it (R68). -/
structure L1Line where
  core : Nat
  line : Nat
  swz : BitVec 4
  data : Line
  writable : Bool
deriving DecidableEq, Repr

/-- What a controller's request is for. -/
inductive CtrlFor where
  | fill
  | resp
  | write (mask : BitVec 128) (data : Line)
deriving DecidableEq, Repr

/-- A request in a controller's queue (R75, R92, R93); rep is the buddy of a REP page (R386). -/
structure CtrlReq where
  line : Nat
  swz : BitVec 4
  rep : Option Nat
  key : Option Nat
  stream : BitVec 6
  what : CtrlFor
  uid : Nat
deriving DecidableEq, Repr

/-- A memory controller (R64, R69, R75). -/
structure Ctrl where
  queue : List CtrlReq
  level : Nat
  corrected : Nat
  scrubbed : Nat
deriving DecidableEq, Repr

/-- What a line's entry in the directory of its home switch slice says: the packages that hold it RSH, or the one that holds it ROWN
(R287). -/
structure DirEnt where
  rsh : List Nat
  rown : Option Nat
deriving DecidableEq, Repr

/-- A page walk in flight (R116): the warp that waits for it, its sector, and the page. -/
structure WalkReq where
  uid : Nat
  sector : Nat
  vi : Nat
  asid : Nat
  vpn : Nat
deriving DecidableEq, Repr

/-- A table pointer in a walk cache (R116, R117): the level of the table that holds it, the addresses that it serves, by VA[51:16] shifted
to its level, and the entry as read. -/
structure PtrEnt where
  vi : Nat
  asid : Nat
  level : Nat
  idx : Nat
  entry : DWord
deriving DecidableEq, Repr

/-- States of a glaze stream (R87). -/
inductive StreamState where
  | free
  | bound (vi : Nat)
  | loaded (vi : Nat)
deriving DecidableEq, Repr

/-- A glaze stream with its configuration, and what a drain is to bring about: pending = some none for an UNLOAD or an
unbind, some (some cfg) for a replacing LOAD (R91). -/
structure Stream where
  st : StreamState
  cfg : BitVec 8192
  pending : Option (Option (BitVec 8192))
  unbind : Bool
  pid : Option Nat
  hsat : Bool
deriving DecidableEq, Repr

/-- A digest of one stream in one controller (R94). -/
structure Digest where
  crcx : Word
  sum64 : DWord
  lines : DWord
deriving DecidableEq, Repr

/-- Who holds the histogram (R90, R98).
Log 92 (DEDUCED). -/
inductive HistOwner where
  | stream (k : Nat)
  | rpart (cid : Nat)
deriving DecidableEq, Repr

/-- A translation cache entry: the interface that the ASID had when it was filled, the leaf as read (R117), its page size code and its hit counter (R118). -/
structure TlbEnt where
  vi : Nat
  asid : Nat
  vpn : Nat
  psz : Nat
  leaf : DWord
  hits : Nat
deriving DecidableEq, Repr

/-- An ASID context entry (R115), as its four 8-byte words. -/
structure AsidEnt where
  ctl : DWord
  root : DWord
  shring : DWord
deriving DecidableEq, Repr

/-- A key slot (R71): the AES-256-XTS key pair and the owning interface. -/
structure KeySlot where
  key : Option (BitVec 512)
  owner : Option Nat
deriving DecidableEq, Repr

/-- A page request outstanding (R136): its page, its page size code, whether an engine asked, and whether it has been
written to the ring. -/
structure PageReq where
  vi : Nat
  page : Page
  psz : Nat
  eng : Bool
  posted : Bool
deriving DecidableEq, Repr

/-- A join counter update that waits for its page (R350). -/
structure JoinWait where
  asid : Nat
  va : Nat
  amount : DWord
  vi : Nat
  launch : Nat
  rids : List Nat
deriving DecidableEq, Repr

/-- A registered queue (R151, R152, R363): what the front end read at registration and how the queue stands. -/
structure Queue where
  hva : Nat
  vi : Nat
  ctlAsid : Nat
  ring : Nat
  log2n : Nat
  sect : Nat
  irqen : Bool
  vec : Nat
  asid : Nat
  durable : Bool
  halted : Bool
  slot : Option Nat
  unreg : Bool
  waiting : Bool
deriving DecidableEq, Repr

/-- How far a packet has come. -/
inductive PktState where
  | accepted | started | moved | failed
deriving DecidableEq, Repr

/-- A packet that the front end has accepted and that has not completed (R154, R157). core, tile, off and len give the tile
it holds (R169); user is set unless a supervisor segment issued it (R122); buf is what it has read at its start, got the source lines read for a tile, by virtual line number, and done the tile
lines written. -/
structure Packet where
  pid : Nat
  queue : Option Nat
  idx : Nat
  raw : BitVec 512
  vi : Nat
  asid : Nat
  user : Bool
  st : PktState
  status : Byte
  tile : Option (Nat × Nat × Nat × Nat)
  buf : List Byte
  got : List (Nat × Line)
  done : List Nat
  parent : Option Nat
  left : Nat
deriving DecidableEq, Repr

/-- States of a collective that a participant runs (R300, R307). -/
inductive CollState where
  | sign | keypass | reduce | refine | assign | move | run
deriving DecidableEq, Repr

/-- What this participant tells the others of a collective: its signature, that its own checks have failed, or that a weight of its items is
invalid (R300, R307). -/
inductive CollNote where
  | signed (sig : CollSig)
  | failed
  | weight
deriving DecidableEq, Repr

/-- A note sent to the other participants of a collective (R300, R307). -/
structure CollMsg where
  vi : Nat
  collid : Word
  plist : List (BitVec 16)
  note : CollNote
deriving DecidableEq, Repr

/-- A collective in flight on this package (R298 to R301, R302 to R313). items are the triples of the own items by which a repartition has
counted them (R314). -/
structure Coll where
  cid : Nat
  pid : Nat
  instr : Bool
  recVa : Nat
  st : CollState
  failed : Option Byte
  sig : CollSig
  sigs : List (Nat × Bool × CollSig)
  rank : Nat
  unitw : Bool
  hist : SMap Word
  splitters : List Triple
  counts : List (List Nat)
  caps : List (Nat × Nat)
  items : List Triple
deriving DecidableEq, Repr

/-- A re-sharding plan in progress (R319 to R325). wroteAt is the cycle at which its progress record was last written (R324).
Log 111 (DEDUCED). -/
structure Rshd where
  pid : Nat
  prog : Nat
  cursor : Nat
  dmask : Word
  ntrans : Nat
  inflight : List Nat
  wroteAt : Nat
deriving DecidableEq, Repr

/-- A group of 8 flits as it goes over a link: its sequence number, its 256 bytes and its tag (R288). -/
structure FlitGroup where
  seq : BitVec 3
  data : BitVec 2048
  tag : DWord
deriving DecidableEq, Repr

/-- A fabric link port (R288, R289, R395). rxNext is the group awaited, rxOut the groups released, fails how often in a row the group awaited
has failed its tag, and asks the groups that the receiver has asked for again; txBuf holds the last groups sent, acked how many at its
front the far end is known to have, txOut the groups put on the wire, and askedRun how often the far end has asked in a row for the
group asked.
Log 114 (DESIGN CHOICE). -/
structure Link where
  up : Bool
  plane : Nat
  switch : Nat
  port : Nat
  rxNext : BitVec 3
  txSeq : BitVec 3
  txBuf : List FlitGroup
  acked : Nat
  rxOut : List (BitVec 2048)
  txOut : List FlitGroup
  fails : Nat
  asks : List (BitVec 3)
  asked : BitVec 3
  askedRun : Nat
deriving DecidableEq, Repr

/-- The state of one virtual interface: firmware settings (R343, R359, R361, R374, R388), its collective sequence (R299)
and its BAR0 registers (R391). -/
structure Vi where
  asids : List Nat
  keys : List Nat
  cw : Nat
  wt : Nat
  hwdog : Word
  seglim : Word
  poolBase : Nat
  poolSize : Nat
  poolNext : Nat
  handler : Option Nat
  collSeq : Word
  switchedOut : Bool
  outPending : Option (BitVec 40)
  invreq : BitVec 256
  invdone : DWord
  inverr : DWord
  pgring : DWord
  pgringAsid : Nat
  pgTail : Nat
  pgdone : BitVec 128
  mbox : BitVec 512
  mbdone : DWord
  ctrl : Word
  repring : DWord
  repringAsid : Nat
  qdone : DWord
  ctlasid : Word
  aper : SMap DWord
  lostr : Bool
  served : List (BitVec 40)
deriving DecidableEq, Repr

/-- A virtual interface at package reset: registers at the resets of R391, weights and periods at the defaults of R359,
R361 and R388. -/
def Vi.reset : Vi :=
  { asids := [], keys := [], cw := 16, wt := 16, hwdog := 1000000, seglim := 10000, poolBase := 0, poolSize := 0,
    poolNext := 0, handler := none, collSeq := 0, switchedOut := false, outPending := none, invreq := 0, invdone := 0,
    inverr := 0, pgring := 0, pgringAsid := 0, pgTail := 0, pgdone := 0, mbox := 0, mbdone := 0, ctrl := 0, repring := 0,
    repringAsid := 0, qdone := 0, ctlasid := 0, aper := [], lostr := false, served := [] }

/-- An invalidation that has been accepted (R119, R120). count is none for a whole ASID. -/
structure Inval where
  vi : Nat
  seq : DWord
  asid : Nat
  va : Nat
  count : Option Nat
deriving DecidableEq, Repr

/-- A report that firmware has made (R394). -/
structure Report where
  vi : Nat
  kind : Nat
  launch : Nat
  asid : Nat
  gtc : DWord
  addr : DWord
  data : DWord
deriving DecidableEq, Repr

/-- A firmware request taken from MBOX and not finished, and whether it has been begun (R393).
Log 134 (DESIGN CHOICE). -/
structure FwReq where
  vi : Nat
  seq : BitVec 40
  op : Instr
  started : Bool
deriving DecidableEq, Repr

/-- The lease word (R396).
Log 11 (DESIGN CHOICE). -/
structure Lease where
  holder : Nat
  epoch : Word
  expiry : DWord
deriving DecidableEq, Repr

/-- One sector's firmware core (R396, R397): whether it leads, the epoch it leads with, and its image: none before
verification ends, some true when verified. -/
structure FwCore where
  leader : Bool
  epoch : Word
  image : Option Bool
  digest : Nat
  flash : Nat
deriving DecidableEq, Repr

/-- Where bring-up stands (R398). -/
structure Boot where
  linksTrained : Bool
  imagesDone : Bool
  hbmTrained : Bool
  ready : Bool
  svn : BitVec 16
  fuse : List (BitVec 5 × BitVec 5)
deriving DecidableEq, Repr

/-- GTC and its beacons (R297). slew is what the last beacon found GTC to be behind, in nanoseconds, less what has been made up
since; beaconAt is the cycle of the last beacon, or that at which link training began. -/
structure Gtc where
  value : DWord
  beaconAt : Nat
  slew : Int
  arriving : Bool
  aligned : Bool
  trained : Bool
deriving DecidableEq, Repr

/-- What leaves the device towards the host: an MSI-X vector of a function, the completion of a host read or AtomicOp, or
an SPDM response: what it answers, the measurements it may carry, and the draw that fills the rest.
Log 132 (PRESUMED). -/
inductive Out where
  | msix (vi vec : Nat)
  | readData (vi : Nat) (data : List Byte)
  | unsupported (vi : Nat)
  | spdm (request : List Byte) (measurements : List (List Byte)) (rest : Nat)
deriving DecidableEq, Repr

/-- A buffered instruction word in a core's instruction buffer (R27, R342). -/
structure IbufWord where
  core : Nat
  asid : Nat
  ip : BitVec 48
  word : CodeWord
deriving DecidableEq, Repr

/-- A node of a multicast header (R290): the ports of the switch to forward to, and the number of child nodes. -/
structure HdrNode where
  pmask : BitVec 64
  nchild : Nat
deriving DecidableEq, Repr

/-- A multicast group of an interface as registered: the link plane it leaves on, the packages listed, and the header that firmware has
built for them (R290, R292).
Log 118 (DESIGN CHOICE). -/
structure McGroup where
  vi : Nat
  grp : Nat
  plane : Nat
  pkgs : List Nat
  header : List HdrNode
deriving DecidableEq, Repr

/-- A record of a durable launch as its mirror holds it, with its launch (R387): the package that wrote it, and the firing that has
taken it up.
Log 101 (DEDUCED). -/
structure Mirror where
  pkg : Nat
  record : Rec
  launch : Launch
  taken : Option Nat
deriving DecidableEq, Repr

/-- A page on the list of stale replicas (R113): its DPA[55:16], the address under which it was written, and whether its leaf has lost
REP and been invalidated since.
Log 160 (DEDUCED). -/
structure StaleEnt where
  page : Nat
  asid : Nat
  vpn : Nat
  cleared : Bool
deriving DecidableEq, Repr

/-- A mapping of a device page onto host memory, held beside the tables: the manual gives no leaf encoding for a page of
host memory.
Log 35 (DESIGN CHOICE). -/
structure HostPage where
  page : Page
  hpa : Nat
deriving DecidableEq, Repr

/-- The state of the package and of the memories it reaches. The first four fields are the model's own (log 4 to 6): the inputs and
events whose order the environment fixes, its choice of the resident warp that issues (0 stands for an eviction from the instruction
buffers), the count of free values drawn, and the next fresh identifier. placed is the placement under which a live
region was first written (R66), and weak and bad are the lines whose stored symbols hold a correctable and an uncorrectable error (R69,
R70); wbufs are the slices' write-back buffers (R102), waitReqs the requests for a response of their own that their controllers have no room
for (R75), puts the puts that have claimed indices and wait for room in their rings (R176), dir the directory entries of lines that packages hold (R287), and hostWrites the
writes of atomics on host memory that the link has not taken yet (R282); sent and sentCrews have left for another package (R351); collOut is what
the collective engines have told other participants (R300, R307), and peerDown the links of other packages that are down, by package as a mask
(R289); epochAt is the cycle of the last cone epoch (R358); peerAsids holds the context tables of the other packages, by
package * 1,024 + ASID, as they and their buddies' mirrors hold them (R115, R326). -/
structure State where
  agenda : List Instr
  pick : List Nat
  free : Nat
  fresh : Nat
  warp : Warp
  bench : List Warp
  pkg : Nat
  domain : Nat
  gtc : Gtc
  now : Nat
  mem : SMap Byte
  host : SMap Byte
  hostWrites : List (Nat × List Byte)
  hostPages : List HostPage
  live : List Nat
  placed : SMap (BitVec 4)
  weak : List Nat
  bad : List Nat
  llc : SMap (Option LlcLine)
  misses : List MissEnt
  wbufs : List CtrlReq
  l1 : List L1Line
  dir : SMap DirEnt
  ctrls : List Ctrl
  waitReqs : List CtrlReq
  resps : List Resp
  puts : List PutOp
  keys : SMap KeySlot
  streams : SMap Stream
  digests : SMap Digest
  hist : SMap Word
  histOwner : Option HistOwner
  asids : SMap AsidEnt
  peerAsids : SMap AsidEnt
  tlb : List TlbEnt
  ptrs : List PtrEnt
  walks : List WalkReq
  ibuf : List IbufWord
  invals : List Inval
  pageReqs : List PageReq
  joinWaits : List JoinWait
  tiles : SMap Tile
  pad : SMap Byte
  crews : List Crew
  clusters : List Cluster
  launches : List Launch
  launchCount : Nat
  recs : List Rec
  saggars : List Saggar
  stageOps : List StageOp
  acpys : List AcpyOp
  deficits : SMap Nat
  gangs : List Gang
  latches : List Latch
  accs : SMap Word
  accOwned : List Nat
  mxQueue : List MxStep
  mxOps : List MxOp
  coneLimit : Nat
  epochAt : Nat
  conesUsed : Nat
  coneOver : Bool
  rack : Nat
  queues : List Queue
  packets : List Packet
  colls : List Coll
  collOut : List CollMsg
  rshds : List Rshd
  groups : List McGroup
  links : List Link
  vis : SMap Vi
  reports : List Report
  fwReqs : List FwReq
  lease : Lease
  fwCores : List FwCore
  boot : Boot
  mirrors : List Mirror
  sent : List (Nat × Rec)
  sentCrews : List (Nat × Crew)
  stale : List StaleEnt
  peerDown : SMap Nat
  unreach : List Nat
  out : List Out
deriving DecidableEq, Repr

/-- Why a step stops. The spec gives every instruction and event of the table an effect, so the meanings never raise
one; the type is kept for the interface.
Log 8 (DESIGN CHOICE). -/
inductive Fault where
  /-- Nothing raises it; safe. -/
  | noMemory (dpa : Nat)
deriving DecidableEq, Repr

/-- Why an instruction has no meaning.
Log 8 (DESIGN CHOICE). -/
inductive Refusal where
  /-- Raised by an arm of exec whose instruction has no meaning yet; safe, since the machine stops there. -/
  | notModelled (mnemonic : String)
deriving DecidableEq, Repr

/-- A link port before link training (R289, R398): port k of every sector reaches plane k (R395).
Log 14 (DESIGN CHOICE). -/
def Link.reset (i : Nat) : Link :=
  { up := false, plane := i % 5, switch := 0, port := 0, rxNext := 0, txSeq := 0, txBuf := [], acked := 0, rxOut := [], txOut := [],
    fails := 0, asks := [], asked := 0, askedRun := 0 }

/-- A controller at reset (R75).
Log 14 (DESIGN CHOICE). -/
def Ctrl.reset : Ctrl := { queue := [], level := 0, corrected := 0, scrubbed := 0 }

/-- A sector's firmware core at reset: a follower whose image is not yet verified (R396, R397).
Log 14 (DESIGN CHOICE). -/
def FwCore.reset : FwCore := { leader := false, epoch := 0, image := none, digest := 0, flash := 0 }

/-- The tile table entry of a tile that no crew holds (R184, R185).
Log 14 (DESIGN CHOICE). -/
def Tile.reset : Tile :=
  { crew := none, thread := false, st := .empty, hold := false, flip := false, mxr := 0, full := 0, lastVi := none,
    giving := [] }

/-- The package right after reset (R297, R391, R396, R398): bring-up has not begun its steps, no region is live so memory
is a zero image (R73), nothing is resident, and GTC is 0.
Log 11 (DESIGN CHOICE), 12 (DESIGN CHOICE), 13 (DESIGN CHOICE), 14 (DESIGN CHOICE). -/
def State.reset : State :=
  { agenda := [], pick := [], free := 0, fresh := 1, warp := Warp.none, bench := [], pkg := 0, domain := 1,
    gtc := { value := 0, beaconAt := 0, slew := 0, arriving := false, aligned := false, trained := false }, now := 0, mem := [], host := [],
    hostWrites := [], hostPages := [], live := [], placed := [], weak := [], bad := [], llc := [], misses := [], wbufs := [], l1 := [], dir := [],
    ctrls := List.replicate 12 Ctrl.reset, waitReqs := [], resps := [], puts := [],
    keys := [], streams := [], digests := [], hist := [], histOwner := none, asids := [], peerAsids := [], tlb := [], ptrs := [], walks := [], ibuf := [],
    invals := [], pageReqs := [], joinWaits := [], tiles := [], pad := [], crews := [], clusters := [], launches := [],
    launchCount := 0, recs := [], saggars := [], stageOps := [], acpys := [], deficits := [], gangs := [], latches := [],
    accs := [], accOwned := [], mxQueue := [], mxOps := [], coneLimit := 0, epochAt := 0, conesUsed := 0, coneOver := false, rack := 0,
    queues := [], packets := [], colls := [], collOut := [], rshds := [], groups := [], links := (List.range 20).map Link.reset,
    vis := [], reports := [], fwReqs := [], lease := { holder := 0, epoch := 0, expiry := 0 },
    fwCores := List.replicate 4 FwCore.reset,
    boot := { linksTrained := false, imagesDone := false, hbmTrained := false, ready := false, svn := 0,
              fuse := List.replicate 4 (0, 0) },
    mirrors := [], sent := [], sentCrews := [], stale := [], peerDown := [], unreach := [], out := [] }

end Sys2Proof.Machine
end

