-- ==== Sys2Proof/Machine/Memory.lean ====
section
/-! DEFINITION. Paged memory: placement of offsets on controllers (R66, R67), lines in L1, slices and DRAM (R99 to R103,
R190, R191), page tables and translation caches (R110 to R118), and the checks of an access (R121, R122). -/

namespace Sys2Proof.Machine

/-- Bytes of one package's HBM (R65). -/
def hbmLimit : Nat := 0xC000000000

/-- Controller and controller-local address of a package offset (R67). -/
def place (swz : BitVec 4) (o : Nat) : Nat × Nat :=
  match swz.toNat / 4 with
  | 0 => let g := o / 4096; (g % 12, g / 12 * 4096 + o % 4096)
  | 1 => let q := o % 0x3000000000; let g := q / 4096; (3 * (o / 0x3000000000) + g % 3, g / 3 * 4096 + o % 4096)
  | _ => (o / 0x1000000000, o % 0x1000000000)

/-- The pseudo-channel of a controller-local address (R67). -/
def pseudoChannel (swz : BitVec 4) (loc : Nat) : Nat :=
  match swz.toNat % 4 with
  | 0 => bitsOf loc 12 7
  | 1 => bitsOf loc 13 8
  | 2 => bitsOf loc 15 10
  | _ => bitsOf loc 12 7 ^^^ bitsOf loc 18 13 ^^^ bitsOf loc 24 19

/-- The offset that a cell of controller c holds under a placement: the inverse of place. -/
def unplace (swz : BitVec 4) (c loc : Nat) : Nat :=
  match swz.toNat / 4 with
  | 0 => (loc / 4096 * 12 + c) * 4096 + loc % 4096
  | 1 => c / 3 * 0x3000000000 + (loc / 4096 * 3 + c % 3) * 4096 + loc % 4096
  | _ => c * 0x1000000000 + loc

/-- The key in State.mem of the cell that holds a DPA. -/
def cellOf (swz : BitVec 4) (dpa : Nat) : Nat :=
  let p := place swz (dpa % 2 ^ 46)
  dpa / 2 ^ 46 * 2 ^ 46 + p.1 * 2 ^ 36 + p.2

/-- The controller that serves a DPA. -/
def ctrlOf (swz : BitVec 4) (dpa : Nat) : Nat := (place swz (dpa % 2 ^ 46)).1

/-- The home slice of a DPA for package own (R99). -/
def homeSlice (own dpa : Nat) : Nat :=
  if dpa / 2 ^ 46 = own then
    32 * (dpa % 2 ^ 46 / 0x3000000000) + (bitsOf dpa 11 7 ^^^ bitsOf dpa 16 12 ^^^ bitsOf dpa 21 17)
  else bitsOf dpa 13 7 ^^^ bitsOf dpa 20 14 ^^^ bitsOf dpa 27 21 ^^^ bitsOf dpa 52 46

/-- A line from its 128 bytes. -/
def lineOf (l : List Byte) : Line := BitVec.ofNat 1024 (natOfBytes l)

/-- Byte i of a line. -/
def lineByte (l : Line) (i : Nat) : Byte := l.extractLsb' (8 * i) 8

/-- Line a with the bytes that mask names taken from b. -/
def lineMerge (a b : Line) (mask : BitVec 128) : Line :=
  lineOf ((List.range 128).map fun i => if mask.getLsbD i then lineByte b i else lineByte a i)

/-- The region of a DPA whose live bit covers it (R73). -/
def regionOf (dpa : Nat) : Nat := dpa / 2 ^ 21

/-- The DPA whose byte a cell holds under a placement: the inverse of cellOf. -/
def dpaOf (swz : BitVec 4) (cell : Nat) : Nat :=
  cell / 2 ^ 46 * 2 ^ 46 + unplace swz (cell % 2 ^ 46 / 2 ^ 36) (cell % 2 ^ 36)

/-- The stored image of a line under a placement; a region that is not live reads as zero whatever its cells hold (R73). -/
def dramCells (s : State) (swz : BitVec 4) (line : Nat) : Line :=
  if regionOf (line * 128) ∈ s.live then
    lineOf ((List.range 128).map fun i => mget 0 s.mem (cellOf swz (line * 128 + i)))
  else 0

/-- Whether a request is a write to a line. -/
def CtrlReq.writes (q : CtrlReq) (line : Nat) : Bool :=
  decide (q.line = line) && (match q.what with | .write .. => true | _ => false)

/-- The writes to a line that wait at its controllers or in the write-back buffers, oldest first (R75, R102). -/
def lineWrites (s : State) (line : Nat) : List CtrlReq :=
  ((s.ctrls.flatMap fun c => c.queue) ++ s.wbufs).filter fun q => q.writes line

/-- The newest write-back of a line under a placement that has not reached DRAM.
Log 41 (DEDUCED). -/
def queuedWrite (s : State) (swz : BitVec 4) (line : Nat) : Option Line :=
  (lineWrites s line).foldl (fun a q => match q.what with | .write _ d => if q.swz = swz then some d else a | _ => a) none

/-- The DRAM image of a line under a placement, a write-back on its way counted as done.
Log 41 (DEDUCED). -/
def dramLine (s : State) (swz : BitVec 4) (line : Nat) : Line := (queuedWrite s swz line).getD (dramCells s swz line)

/-- The region of a line marked live: at its first write every byte of it holds a zero image (R73). -/
def markLive (s : State) (swz : BitVec 4) (line : Nat) : State :=
  let r := regionOf (line * 128)
  if r ∈ s.live then s
  else { s with live := r :: s.live, placed := mset 0 s.placed r swz, mem := s.mem.filter fun e => decide (regionOf (dpaOf swz e.1) ≠ r) }

/-- Every byte of a line. -/
def fullMask : BitVec 128 := BitVec.allOnes 128

/-- DRAM with the bytes of a line that mask names written; a whole line written is coded anew (R69).
Log 43 (DEDUCED). -/
def dramWrite (s : State) (swz : BitVec 4) (line : Nat) (mask : BitVec 128) (data : Line) : State :=
  let s := if mask = fullMask then { s with bad := s.bad.filter (· ≠ line), weak := s.weak.filter (· ≠ line) } else s
  let s := markLive s swz line
  { s with
    mem := (List.range 128).foldl (fun m i =>
      if mask.getLsbD i then mset 0 m (cellOf swz (line * 128 + i)) (lineByte data i) else m) s.mem }

/-- The writes of a line that wait at the controllers and in the write-back buffers performed. -/
def flushLine (s : State) (line : Nat) : State :=
  let ws := lineWrites s line
  let s := { s with
    ctrls := s.ctrls.map fun c => { c with queue := c.queue.filter fun q => !q.writes line }
    wbufs := s.wbufs.filter fun q => !q.writes line }
  ws.foldl (fun t q => match q.what with | .write m d => dramWrite t q.swz q.line m d | _ => t) s

/-- The open miss entry of a line (R102). -/
def missOf (s : State) (line : Nat) : Option MissEnt := s.misses.find? fun m => m.line = line

/-- The line as its home holds it: the slice's copy, else DRAM under the partial writes of an open miss entry. -/
def homeLine (s : State) (swz : BitVec 4) (line : Nat) : Line :=
  match mget none s.llc line with
  | some l => l.data
  | none =>
    match missOf s line with
    | some m => lineMerge (m.fill.getD (dramLine s m.swz line)) m.data m.mask
    | none => dramLine s swz line

/-- The one valid newest copy of a line: a writable L1 copy, else the home's (R190). -/
def cohLine (s : State) (swz : BitVec 4) (line : Nat) : Line :=
  match s.l1.find? fun l => l.line = line && l.writable with
  | some l => l.data
  | none => homeLine s swz line

/-- The byte at a device address as an access performed now reads it.
Log 2 (DESIGN CHOICE). -/
def readDpa (s : State) (swz : BitVec 4) (dpa : Nat) : Byte := lineByte (cohLine s swz (dpa / 128)) (dpa % 128)

/-- Writes of atomics that the host link has not taken yet put into host memory (R282).
Log 36 (DESIGN CHOICE). -/
def landHost (s : State) : State :=
  { s with host := s.hostWrites.foldl (fun m w => msetRange 0 m w.1 w.2) s.host, hostWrites := [] }

/-- A byte of host memory as the device reads it: behind its own writes, which PCIe keeps in order (R282).
Log 36 (DESIGN CHOICE). -/
def readHost (s : State) (a : Nat) : Byte := mget 0 (landHost s).host a

/-- The byte at a location.
Log 2 (DESIGN CHOICE). -/
def readLoc (s : State) (swz : BitVec 4) : Loc → Byte
  | .dev a => readDpa s swz a
  | .host a => readHost s a

/-- A location n bytes on. -/
def Loc.add : Loc → Nat → Loc
  | .dev a, n => .dev (a + n)
  | .host a, n => .host (a + n)

/-- n bytes from a location. -/
def readLocs (s : State) (swz : BitVec 4) (l : Loc) (n : Nat) : List Byte := (List.range n).map fun i => readLoc s swz (l.add i)

/-! The directory of the switches (R287). -/

/-- Whether a line is of another package (R286). -/
def isRemote (s : State) (line : Nat) : Bool := decide (line * 128 / 2 ^ 46 ≠ s.pkg)

/-- The directory entry of a line. -/
def dirOf (s : State) (line : Nat) : DirEnt := mget ⟨[], none⟩ s.dir line

/-- A line's directory entry put in place. -/
def setDir (s : State) (line : Nat) (e : DirEnt) : State := { s with dir := mset ⟨[], none⟩ s.dir line e }

/-- A write of this package to a line: every copy that another package holds is taken back first, and a remote line is held ROWN
here if keep (R286, R287).
Log 158 (DEDUCED). -/
def dirWrite (s : State) (line : Nat) (keep : Bool) : State :=
  setDir s line ⟨[], if keep && isRemote s line then some s.pkg else none⟩

/-- A read of this package of a line: another package's ROWN copy becomes RSH, and a remote line is held RSH here (R287).
Log 158 (DEDUCED). -/
def dirRead (s : State) (line : Nat) : State :=
  let d := dirOf s line
  let rsh := (match d.rown with | some q => q :: d.rsh | none => d.rsh)
  setDir s line ⟨if isRemote s line then (s.pkg :: rsh).dedup else rsh, none⟩

/-- This package holds a line no longer (R287).
Log 158 (DEDUCED). -/
def dirLeave (s : State) (line : Nat) : State :=
  let d := dirOf s line
  setDir s line ⟨d.rsh.filter (· ≠ s.pkg), if d.rown = some s.pkg then none else d.rown⟩

/-! Slices and L1s. -/

/-- A line held by its slice with data: DIRTY if local, ROWN if remote (R100); it keeps the placement that allocated it (R68). -/
def llcPut (s : State) (swz : BitVec 4) (line : Nat) (data : Line) (dirty : Bool) : State :=
  let st := match isRemote s line, dirty with
    | false, true => LineState.dirty
    | false, false => .clean
    | true, true => .rown
    | true, false => .rsh
  let swz := match mget none s.llc line with | some l => l.swz | none => swz
  let s := if dirty then dirWrite s line true else dirRead s line
  { s with llc := mset none s.llc line (some { st := st, data := data, swz := swz }) }

/-- A writable L1 copy of a line brought back to its slice, and every L1 copy dropped (R190).
Log 52 (DEDUCED). -/
def recallL1 (s : State) (line : Nat) : State :=
  let rest := s.l1.filter fun l => l.line ≠ line
  match s.l1.find? fun l => l.line = line && l.writable with
  | some l => { llcPut s l.swz line l.data true with l1 := rest }
  | none => { s with l1 := rest }

/-- The responses that wait for a line's fill, given its data (R101, R103). -/
def answerLine (s : State) (line : Nat) (data : Line) : State :=
  { s with resps := s.resps.map fun r =>
      if r.line = line && r.data.isNone && !r.own then { r with data := some data } else r }

/-- Whether a controller has room in its queue of 512 line requests (R75). -/
def ctrlRoom (s : State) (c : Nat) : Bool := decide (((s.ctrls.getD c Ctrl.reset).queue).length < 512)

/-- A request put into its controller's queue. -/
def pushReq (s : State) (q : CtrlReq) : State :=
  { s with ctrls := s.ctrls.modify (ctrlOf q.swz (q.line * 128)) fun c => { c with queue := c.queue ++ [q] } }

/-- The slice of a line (R99). -/
def sliceOf (s : State) (line : Nat) : Nat := homeSlice s.pkg (line * 128)

/-- Misses that wait in a slice's request input sent: each takes one of the slice's 128 entries (R102). -/
def sendMisses (s : State) : State :=
  s.misses.foldl (fun t m =>
    let busy := (t.misses.filter fun x => x.sent && sliceOf t x.line = sliceOf t m.line).length
    if m.sent || decide (128 ≤ busy) || !ctrlRoom t (ctrlOf m.swz (m.line * 128)) then t
    else pushReq { t with misses := t.misses.map fun x => if x.line = m.line then { x with sent := true } else x }
      { line := m.line, swz := m.swz, rep := m.rep, key := none, stream := 0, what := .fill, uid := 0 }) s

/-- Requests that wait for room at their controllers sent, as far as there is room: write-backs, then misses, then requests for a
response of their own (R75, R102). -/
def sendAll (s : State) : State :=
  let s := s.wbufs.foldl (fun t q =>
    if ctrlRoom t (ctrlOf q.swz (q.line * 128)) then pushReq { t with wbufs := t.wbufs.erase q } q else t) s
  let s := sendMisses s
  s.waitReqs.foldl (fun t q =>
    if ctrlRoom t (ctrlOf q.swz (q.line * 128)) then pushReq { t with waitReqs := t.waitReqs.erase q } q else t) s

/-- A write-back of a slice put into one of its 16 buffers; with all of them busy it waits for the oldest to empty (R102, R103). -/
def bufferWrite (s : State) (q : CtrlReq) : State :=
  let mine := s.wbufs.filter fun x => sliceOf s x.line = sliceOf s q.line
  let s := if mine.length < 16 then s else match mine with | x :: _ => flushLine s x.line | [] => s
  sendAll { s with wbufs := s.wbufs ++ [q] }

/-- A line dropped from its slice: L1 copies go first, a dirty line goes to a write-back buffer, an owned one back to the switch
(R100, R103, R104, R190). -/
def evictLine (s : State) (line : Nat) : State :=
  match mget none s.llc line with
  | none => s
  | some l0 =>
    let s := recallL1 s line
    let l := (mget none s.llc line).getD l0
    let s := dirLeave { s with llc := mset none s.llc line none } line
    match l.st with
    | .dirty => bufferWrite s
        { line := line, swz := l.swz, rep := none, key := none, stream := 0, what := .write fullMask l.data, uid := 0 }
    | .rown => dramWrite s l.swz line fullMask l.data
    | _ => s

/-- Whether two lines share a set of a slice (R99).
Log 40 (DEDUCED). -/
def sameSet (s : State) (a b : Nat) : Bool := decide (sliceOf s a = sliceOf s b) && decide (Config.llcSet a = Config.llcSet b)

/-- Room for a line in its set of 24 ways: another line gives way when the set is full (R99, R104).
Log 40 (DEDUCED). -/
def llcRoom (s : State) (line : Nat) : State :=
  if (mget none s.llc line).isSome || decide (s.llc.length < 24) then s
  else
    let mates := (s.llc.map (·.1)).filter fun l => sameSet s l line
    if mates.length < 24 then s
    else evictLine { s with free := s.free + 1 } (mates.getD (Config.victim s.free mates.length % mates.length) 0)

/-- A line installed in its slice (R102, R103). -/
def llcInstall (s : State) (swz : BitVec 4) (line : Nat) (data : Line) (dirty : Bool) : State :=
  llcPut (llcRoom s line) swz line data dirty

/-- A core's L1 copy of a line dropped, a writable one written back whole (R103, R190). -/
def dropL1 (s : State) (core line : Nat) : State :=
  match s.l1.find? fun l => l.core = core && l.line = line with
  | none => s
  | some l =>
    let t := { s with l1 := s.l1.filter fun x => !(x.core = core && x.line = line) }
    if l.writable then llcInstall t l.swz line l.data true else t

/-- A readable copy of a line put into a core's L1, where another line of a full set of 16 ways gives way (R13, R190).
Log 40 (DEDUCED). -/
def l1Put (s : State) (core : Nat) (swz : BitVec 4) (line : Nat) (data : Line) : State :=
  if s.l1.any fun l => l.line = line && decide (l.core = core) then s
  else
    let mine := s.l1.filter fun l => decide (l.core = core)
    let mates := if mine.length < 16 then [] else mine.filter fun l => decide (Config.l1Set l.line = Config.l1Set line)
    let s := if mates.length < 16 then s
      else match mates[Config.victim s.free mates.length % mates.length]? with
        | some v => dropL1 { s with free := s.free + 1 } core v.line
        | none => s
    { s with l1 := s.l1 ++ [{ core := core, line := line, swz := swz, data := data, writable := false }] }

/-- A line that is held closes its miss entry: every read that waits is answered, and the L1s that asked for it hold it (R102, R103,
R190). -/
def closeMiss (s : State) (line : Nat) (data : Line) : State :=
  let m := missOf s line
  let s := answerLine { s with misses := s.misses.filter fun m => m.line ≠ line } line data
  match m with
  | none => s
  | some m => sendAll (m.l1.foldl (fun t c => l1Put t c m.swz line data) s)

/-- An open miss closed with the data of its fill: the partial writes merged, the line installed (R102). -/
def fillMiss (s : State) (m : MissEnt) (fill : Line) : State :=
  let d := lineMerge fill m.data m.mask
  closeMiss (llcInstall s m.swz m.line d (decide (m.mask ≠ 0))) m.line d

/-- A whole line accepted by its slice, which takes no miss entry and closes one that is open (R103). -/
def acceptLine (s : State) (swz : BitVec 4) (line : Nat) (data : Line) : State :=
  closeMiss (llcInstall s swz line data true) line data

/-- A miss entry opened for a line, if none is; core asks for the line in its L1 too (R102, R190). -/
def openMiss (s : State) (swz : BitVec 4) (line : Nat) (rep : Option Nat := none) (l1 : List Nat := []) : State :=
  match missOf s line with
  | some _ => { s with misses := s.misses.map fun m => if m.line = line then { m with l1 := (m.l1 ++ l1).dedup } else m }
  | none => sendMisses { s with misses := s.misses ++
      [{ line := line, swz := swz, rep := rep, mask := 0, data := 0, fill := none, sent := false, l1 := l1 }] }

/-- A store of the masked bytes performed at the line's home slice, every L1 copy being taken back first: a held line is
written there (R191), a whole line is installed (R103), and a part of a line that is not held joins its miss entry (R102). -/
def homeStore (s : State) (swz : BitVec 4) (line : Nat) (mask : BitVec 128) (data : Line) : State :=
  let s := recallL1 s line
  match mget none s.llc line with
  | some l => llcPut s l.swz line (lineMerge l.data data mask) true
  | none =>
    if mask = fullMask then acceptLine s swz line data
    else
      let s := openMiss (dirWrite s line true) swz line
      { s with misses := s.misses.map fun m =>
          if m.line = line then { m with data := lineMerge m.data data mask, mask := m.mask ||| mask } else m }

/-- A drained store of a warp on a core: into the core's L1 when that holds the line, which becomes the one writable copy, else at the
home (R191, R286). -/
def coreStore (s : State) (core : Nat) (swz : BitVec 4) (line : Nat) (mask : BitVec 128) (data : Line) : State :=
  match s.l1.find? fun l => l.core = core && l.line = line with
  | none => homeStore s swz line mask data
  | some c =>
    let cur := cohLine s swz line
    let s := if isRemote s line then llcPut s swz line cur true else dirWrite s line true
    { s with
      l1 := { core := core, line := line, swz := c.swz, data := lineMerge cur data mask, writable := true } ::
        s.l1.filter fun l => l.line ≠ line }

/-- The home slice's copy of a line, the writes that wait for it and an open entry's partial writes brought to DRAM and dropped, for a
write that goes past the slices (R93, R286).
Log 44 (DEDUCED). -/
def passHome (s : State) (line : Nat) : State :=
  let s := flushLine (recallL1 s line) line
  let s := match mget none s.llc line with
    | none => s
    | some l =>
      let s := if l.st = .dirty ∨ l.st = .rown then dramWrite s l.swz line fullMask l.data else s
      dirLeave { s with llc := mset none s.llc line none } line
  match missOf s line with
  | none => s
  | some m =>
    let s := if m.mask = 0 then s else dramWrite s m.swz line m.mask m.data
    { s with misses := s.misses.map fun x => if x.line = line then { x with mask := 0, data := 0 } else x }

/-- DRAM written past the slices; an entry whose fill has come sees the write (R93). -/
def dramPast (s : State) (swz : BitVec 4) (line : Nat) (mask : BitVec 128) (data : Line) : State :=
  let t := dramWrite s swz line mask data
  { t with misses := t.misses.map fun m =>
      if m.line = line ∧ m.fill ≠ none then { m with fill := some (dramLine t swz line) } else m }

/-- A group sent on a link under its next sequence number with its tag, the last eight being kept (R288).
Log 114 (DESIGN CHOICE). -/
def sendGroup (l : Link) (data : BitVec 2048) : Link :=
  let g : FlitGroup := ⟨l.txSeq, data, BitVec.ofNat 64 (crc64 (bytesOfNat 256 data.toNat))⟩
  let keep := if l.txBuf.length < 8 then l.txBuf else l.txBuf.drop 1
  { l with txSeq := l.txSeq + 1, txBuf := keep ++ [g], acked := if l.txBuf.length < 8 then l.acked else l.acked - 1, txOut := l.txOut ++ [g] }

/-- An access that crosses the fabric: its flits go as a group over the first link that is up and reaches a plane that it may use. What the
flits hold beside it the manual does not say (R286, R288, R292).
Log 114 (DESIGN CHOICE). -/
def crossFabric (s : State) (plane : Option Nat) : State :=
  let ups := (List.range s.links.length).filter fun k => match s.links[k]? with | some l => l.up | none => false
  let here := ups.filter fun k => match s.links[k]?, plane with | some l, some p => decide (l.plane = p) | _, _ => true
  match here ++ ups with
  | [] => s
  | k :: _ => { s with links := s.links.modify k fun l => sendGroup l (Config.flits s.free), free := s.free + 1 }

/-- A store that has reached another package, to a line that no slice of this package may hold: it is performed there, once the
directory has taken every copy back (R286, R287). -/
def farPut (s : State) (swz : BitVec 4) (line : Nat) (mask : BitVec 128) (data : Line) : State :=
  dirWrite (dramPast (passHome s line) swz line mask data) line false

/-- A store sent across the fabric and performed in its line's package (R286, R288). -/
def farStore (s : State) (swz : BitVec 4) (line : Nat) (mask : BitVec 128) (data : Line) : State :=
  farPut (crossFabric s none) swz line mask data

/-- A store of part of a line on a page of an ordering kind, by an agent without an L1 or, for a store that drains, by a core: remote SO
and UN lines are never held, and SO lines never enter an L1 (R16, R191, R286). -/
def storeLine (s : State) (core : Option Nat) (ord : Ord) (swz : BitVec 4) (line : Nat) (mask : BitVec 128) (data : Line) : State :=
  if isRemote s line && decide (ord ≠ .rc) then farStore s swz line mask data
  else match core with
    | some c => if ord = .so then homeStore s swz line mask data else coreStore s c swz line mask data
    | none => homeStore s swz line mask data

/-- Bytes from a device address, line by line: the line, the bytes written and their values. -/
def splitLines (dpa : Nat) (bytes : List Byte) : List (Nat × BitVec 128 × Line) :=
  let n := bytes.length
  if n = 0 then [] else
  (List.range ((dpa + n - 1) / 128 + 1 - dpa / 128)).map fun j =>
    let line := dpa / 128 + j
    let inside := fun i => decide (dpa ≤ line * 128 + i ∧ line * 128 + i < dpa + n)
    (line, BitVec.ofNat 128 ((List.range 128).foldl (fun a i => if inside i then a + 2 ^ i else a) 0),
      lineOf ((List.range 128).map fun i => if inside i then bytes.getD (line * 128 + i - dpa) 0 else 0))

/-- Bytes written from a device address by an agent without an L1, on a page of an ordering kind. -/
def writeDpa (s : State) (ord : Ord) (swz : BitVec 4) (dpa : Nat) (bytes : List Byte) : State :=
  (splitLines dpa bytes).foldl (fun t x => storeLine t none ord swz x.1 x.2.1 x.2.2) s

/-- Bytes written in another package's memory, past the slices: at a REP page's buddy (R113), and by a switch's atomic unit (R287). -/
def writeFar (s : State) (swz : BitVec 4) (dpa : Nat) (bytes : List Byte) : State :=
  (splitLines dpa bytes).foldl (fun t x => farStore t swz x.1 x.2.1 x.2.2) s

/-- Bytes written from a location (R191, R282).
Log 36 (DESIGN CHOICE). -/
def writeLoc (s : State) (ord : Ord) (swz : BitVec 4) (l : Loc) (bytes : List Byte) : State :=
  match l with
  | .dev a => writeDpa s ord swz a bytes
  | .host a => { landHost s with host := msetRange 0 (landHost s).host a bytes }

/-! Translation. -/

/-- What a walk finds (R112 to R114): a leaf with its page size code, a malformed entry, or V = 0 at some level. -/
inductive Walk where
  | leaf (e : DWord) (psz : Nat)
  | malf
  | inval
deriving DecidableEq, Repr

/-- The 8-byte value at a device address.
Log 31 (DEDUCED). -/
def readDpa64 (s : State) (dpa : Nat) : DWord :=
  BitVec.ofNat 64 (natOfBytes ((List.range 8).map fun i => readDpa s 0 (dpa + i)))

/-- Bits hi down to lo of a doubleword, as a number. -/
def dbits (x : DWord) (hi lo : Nat) : Nat := bitsOf x.toNat hi lo

/-- The ASID context entry (R115).
Log 117 (DESIGN CHOICE). -/
def asidEnt (s : State) (asid : Nat) : AsidEnt := mget { ctl := 0, root := 0, shring := 0 } s.asids asid

/-- V of an ASID entry. -/
def AsidEnt.valid (e : AsidEnt) : Bool := e.ctl.getLsbD 0
/-- Owning virtual interface. -/
def AsidEnt.owner (e : AsidEnt) : Nat := dbits e.ctl 6 1
/-- SHLOG2. -/
def AsidEnt.shlog2 (e : AsidEnt) : Nat := dbits e.ctl 11 7
/-- BUDDY. -/
def AsidEnt.buddy (e : AsidEnt) : Nat := dbits e.ctl 21 12
/-- BUDV. -/
def AsidEnt.budv (e : AsidEnt) : Bool := e.ctl.getLsbD 22

/-- Whether a valid leaf at a level is malformed (R111, R113 to R115). -/
def leafBad (s : State) (budv : Bool) (lvl : Nat) (e : DWord) : Bool :=
  let pa := dbits e 55 16
  let low := match lvl with | 2 => 18 | 1 => 9 | _ => 0
  let size := match lvl with | 2 => 2 ^ 34 | 1 => 2 ^ 25 | _ => 2 ^ 16
  decide (lvl = 3 ∨ dbits e 57 56 ≠ 0 ∨ dbits e 11 4 ≠ 0 ∨ pa % 2 ^ low ≠ 0 ∨ dbits e 59 58 = 3 ∨ dbits e 15 14 = 3
    ∨ hbmLimit < pa * 65536 % 2 ^ 46 + size ∨ s.domain ≤ pa * 65536 / 2 ^ 46)
    || (e.getLsbD 60 && !budv)

/-- The walk from a table at a level in the memory of package home (fuel counts the levels left).
Log 31 (DEDUCED). -/
def walkFrom (s : State) (budv : Bool) (home va : Nat) : Nat → Nat → Walk
  | 0, _ => .malf
  | n + 1, table =>
    let idx := va / 2 ^ (16 + 9 * n) % 512
    let e := readDpa64 s (home * 2 ^ 46 + table + 8 * idx)
    let kind := dbits e 3 2
    if !e.getLsbD 0 then .inval
    else if kind = 1 then (if leafBad s budv n e then .malf else .leaf e n)
    else if kind ≠ 0 ∨ n = 0 ∨ dbits e 63 46 ≠ 0 ∨ dbits e 11 4 ≠ 0 ∨ e.getLsbD 1 ∨ hbmLimit < dbits e 45 12 * 4096 + 4096 then .malf
    else walkFrom s budv home va n (dbits e 45 12 * 4096)

/-- The table that a pointer names (R114, R115). -/
def nextTable (e : DWord) : Nat := dbits e 45 12 * 4096

/-- The deepest pointer that a walk cache holds for an address, where the translation uses the old entry rather than the new (R116,
R117); level 4 stands for the root in the ASID entry.
Log 32 (DEDUCED). -/
def cachedPtr (s : State) (vi asid va : Nat) : Option PtrEnt :=
  if s.ptrs.isEmpty then none else
  [1, 2, 3, 4].findSome? fun lvl =>
    if Config.stalePick s.free (va / 65536 * 8 + lvl) then
      s.ptrs.find? fun p => p.vi = vi && p.asid = asid && p.level = lvl && p.idx = va / 2 ^ (16 + 9 * lvl)
    else none

/-- The walk of an address under an ASID of a virtual interface (R112, R115), from the pointer that a walk cache gives, if it gives one
(R117).
Log 34 (DESIGN CHOICE). -/
def walk (s : State) (vi asid va : Nat) : Walk :=
  let a := asidEnt s asid
  match cachedPtr s vi asid va with
  | some p => walkFrom s a.budv s.pkg va p.level (nextTable p.entry)
  | none => if a.valid && decide (a.owner = vi) then walkFrom s a.budv s.pkg va 4 (nextTable a.root) else .inval

/-- The valid pointers that a walk from a table reads, for the walk caches (R116; fuel counts the levels left). -/
def ptrsFrom (s : State) (vi asid va : Nat) : Nat → Nat → List PtrEnt
  | 0, _ => []
  | n + 1, table =>
    let e := readDpa64 s (s.pkg * 2 ^ 46 + table + 8 * (va / 2 ^ (16 + 9 * n) % 512))
    if e.getLsbD 0 && decide (dbits e 3 2 = 0) && decide (0 < n) then
      ⟨vi, asid, n, va / 2 ^ (16 + 9 * n), e⟩ :: ptrsFrom s vi asid va n (nextTable e)
    else []

/-- The walk caches after a walk that read the tables: the pointers on its way, in place of older ones (R116). -/
def ptrFill (s : State) (vi asid va : Nat) : State :=
  let a := asidEnt s asid
  if a.valid && decide (a.owner = vi) then
    let new := ⟨vi, asid, 4, 0, a.root⟩ :: ptrsFrom s vi asid va 4 (nextTable a.root)
    { s with ptrs := new ++ s.ptrs.filter fun p =>
        !(new.any fun q => p.vi = q.vi && p.asid = q.asid && p.level = q.level && p.idx = q.idx) }
  else s

/-- Pages of 64 KiB that a page size code covers (R118). -/
def pszUnits (psz : Nat) : Nat := match psz with | 0 => 1 | 1 => 512 | _ => 2 ^ 18

/-- The cached entry for a page (R116).
Log 32 (DEDUCED). -/
def tlbFind (s : State) (vi asid vpn : Nat) : Option TlbEnt :=
  s.tlb.find? fun t => t.vi = vi && t.asid = asid && t.vpn / pszUnits t.psz = vpn / pszUnits t.psz

/-- What a translation uses: a cached entry, which may be old while no invalidation has removed it, or the tables (R117).
Log 32 (DEDUCED). -/
def lookup (s : State) (vi asid va : Nat) : Walk :=
  match tlbFind s vi asid (va / 65536) with
  | none => walk s vi asid va
  | some t => if Config.stalePick s.free (va / 65536 * 8) then .leaf t.leaf t.psz else walk s vi asid va

/-- The translation caches after a translation of va: a fill for a valid resident leaf, and a count (R117, R118).
Log 33 (DESIGN CHOICE). -/
def tlbTouch (s : State) (vi asid va : Nat) : State :=
  let vpn := va / 65536
  match tlbFind s vi asid vpn with
  | some t => { s with tlb := s.tlb.map fun u => if u = t then { u with hits := min 255 (u.hits + 1) } else u }
  | none => match walk s vi asid va with
    | .leaf e psz =>
      let s := ptrFill s vi asid va
      if e.getLsbD 1 then
        { s with tlb := s.tlb ++ [{ vi := vi, asid := asid, vpn := vpn / pszUnits psz * pszUnits psz, psz := psz, leaf := e, hits := 1 }] }
      else s
    | _ => s

/-- The translation caches after n bytes from va have been translated, line by line (R118). -/
def touchVa (s : State) (vi asid va n : Nat) : State :=
  if n = 0 then s else
  (List.range ((va + n - 1) / 128 + 1 - va / 128)).foldl (fun t j => tlbTouch t vi asid ((va / 128 + j) * 128)) s

/-- The outcome of checks 3 to 5 of R121 for one byte address. -/
inductive Tr where
  | ok (x : Xlat)
  | nores (psz : Nat)
  | malf
  | prot (detail : Nat)
deriving DecidableEq, Repr

/-- The address space and privilege of an access. -/
structure Space where
  vi : Nat
  asid : Nat
  user : Bool
deriving DecidableEq, Repr

/-- The ordering kind of a leaf (R113). -/
def leafOrd (e : DWord) : Ord := match dbits e 59 58 with | 0 => .rc | 1 => .so | _ => .un

/-- The translated address that a leaf gives for va (R113).
Log 35 (DESIGN CHOICE). -/
def leafXlat (s : State) (asid va : Nat) (e : DWord) (psz : Nat) : Xlat :=
  let dpa := dbits e 55 16 * 65536 + va % (65536 * pszUnits psz)
  let loc := match s.hostPages.find? fun h => h.page = { asid := asid, vpn := va / 65536 } with
    | some h => Loc.host (h.hpa + va % 65536)
    | none => .dev dpa
  { loc := loc, swz := BitVec.ofNat 4 (dbits e 15 12), ord := leafOrd e, psz := psz,
    rep := if e.getLsbD 60 then some ((asidEnt s asid).buddy) else none }

/-- Checks 3 to 5 of R121 with the permissions of R122.
Log 34 (DESIGN CHOICE). -/
def translate (s : State) (sp : Space) (va : Nat) (w x : Bool) : Tr :=
  if 2 ^ 52 ≤ va then .prot 5
  else match lookup s sp.vi sp.asid va with
    | .malf => .malf
    | .inval => .prot 1
    | .leaf e psz =>
      if sp.user && !e.getLsbD 61 then .prot 4
      else if w && !e.getLsbD 62 then .prot 2
      else if x && !e.getLsbD 63 then .prot 3
      else if e.getLsbD 1 then .ok (leafXlat s sp.asid va e psz)
      else .nores psz

/-- The interface's firmware and register state. -/
def viOf (s : State) (vi : Nat) : Vi := mget Vi.reset s.vis vi

/-- The interface's state updated. -/
def setVi (s : State) (vi : Nat) (f : Vi → Vi) : State := { s with vis := mset Vi.reset s.vis vi (f (viOf s vi)) }

/-- A report made by firmware, held until its ring takes it; past 1,024 the oldest of the interface is lost (R394). -/
def report (s : State) (vi kind launch asid addr data : Nat) : State :=
  let r : Report :=
    { vi := vi, kind := kind, launch := launch, asid := asid, gtc := s.gtc.value,
      addr := BitVec.ofNat 64 addr, data := BitVec.ofNat 64 data }
  let mine := fun (x : Report) => decide (x.vi = vi)
  if 1024 ≤ (s.reports.filter mine).length then
    setVi { s with reports := s.reports.eraseP mine ++ [r] } vi fun v => { v with lostr := true }
  else { s with reports := s.reports ++ [r] }

/-- Whether a page of device memory is on the list of stale replicas (R113). -/
def isStale (s : State) (dpa : Nat) : Bool := s.stale.any fun e => decide (e.page = dpa / 65536)

/-- A page put on the list of stale replicas, once, and reported: its buddy cannot be reached (R113).
Log 47 (DEDUCED). -/
def markStale (s : State) (asid va b a : Nat) : State :=
  if isStale s a then s
  else report { s with stale := { page := a / 65536, asid := asid, vpn := va / 65536, cleared := false } :: s.stale }
    (asidEnt s asid).owner 8 0 asid (a / 65536 * 65536) b

/-- The list of stale replicas after an invalidation of an address space that covers the pages that cov names: a page whose leaf has lost
REP is on its way out, and leaves once REP is set again (R113).
Log 160 (DEDUCED). -/
def staleAfter (s : State) (asid : Nat) (cov : Nat → Bool) : State :=
  { s with stale := s.stale.filterMap fun e =>
      if e.asid = asid && cov e.vpn then
        (match walk s (asidEnt s asid).owner asid (e.vpn * 65536) with
         | .leaf x _ => if !x.getLsbD 60 then some { e with cleared := true } else if e.cleared then none else some e
         | _ => some e)
      else some e }

/-- The DPA line of a replica on the buddy package (R113). -/
def buddyLine (b line : Nat) : Nat := b * 2 ^ 39 + line % 2 ^ 39

/-- The DPA of a replica on the buddy package (R113). -/
def buddyDpa (b a : Nat) : Nat := b * 2 ^ 46 + a % 2 ^ 46

/-- Bytes written at the buddy of a REP page, or the page marked stale where the buddy cannot be reached (R113).
Log 47 (DEDUCED). -/
def writeBuddy (s : State) (x : Option Nat) (swz : BitVec 4) (asid va a : Nat) (bytes : List Byte) : State :=
  match x with
  | none => s
  | some b => if b ∈ s.unreach then markStale s asid va b a else writeFar s swz (buddyDpa b a) bytes

/-- Whether a stored line cannot be read: an error that the code detects and cannot correct (R70). A region that is not live is
not checked (R73). -/
def lineBad (s : State) (line : Nat) : Bool := decide (line ∈ s.bad) && decide (regionOf (line * 128) ∈ s.live)

/-- Whether the buddy replica serves an uncorrectable read of a line: the page is REP and not a stale replica (R113, R386). -/
def replicaServes (s : State) (rep : Option Nat) (line : Nat) : Bool :=
  match rep with
  | none => false
  | some b => decide (b ∉ s.unreach) && !lineBad s (buddyLine b line) && !isStale s (line * 128)

/-- Whether a read of a line goes to its stored symbols: its slice does not hold it. -/
def fromDram (s : State) (line : Nat) : Bool := (mget none s.llc line).isNone

/-- Why a line's data cannot be had: 1 for an uncorrectable error, 2 for an unreachable package (R289, R371, R386). -/
def lineErr (s : State) (rep : Option Nat) (line : Nat) : Option Nat :=
  if line / 2 ^ 39 ∈ s.unreach then some 2
  else if lineBad s line && fromDram s line && !replicaServes s rep line then some 1 else none

/-- The line that serves a read: the buddy's where the primary has an uncorrectable error and REP gives a replica (R70, R386). -/
def servingLine (s : State) (rep : Option Nat) (line : Nat) : Nat :=
  match rep with
  | some b => if lineBad s line && fromDram s line && replicaServes s rep line then buddyLine b line else line
  | none => line

/-- A controller updated. -/
def setCtrl (s : State) (c : Nat) (f : Ctrl → Ctrl) : State := { s with ctrls := s.ctrls.modify c f }

/-- The corrections that a read of a line's stored symbols is logged with, at the controller that its placement selects (R69, R386).
Log 42 (DEDUCED). -/
def countFix (s : State) (swz : BitVec 4) (line : Nat) : State :=
  if fromDram s line && (decide (line ∈ s.weak) || lineBad s line) then
    setCtrl s (ctrlOf swz (line * 128)) fun k => { k with corrected := k.corrected + 1 }
  else s

/-- A byte of a translated page: the buddy's where that serves the read (R386). -/
def readX (s : State) (x : Xlat) (i : Nat) : Byte :=
  match x.loc with
  | .dev a => readDpa s x.swz (servingLine s x.rep ((a + i) / 128) * 128 + (a + i) % 128)
  | .host a => readHost s (a + i)

/-- n bytes from byte i of a translated page on. -/
def readXs (s : State) (x : Xlat) (i n : Nat) : List Byte := (List.range n).map fun j => readX s x (i + j)

/-- Bytes written from byte i of a translated page on, and at its buddy (R113); va is the address of byte 0. -/
def writeX (s : State) (x : Xlat) (asid va i : Nat) (bytes : List Byte) : State :=
  let l := x.loc.add i
  let t := writeLoc s x.ord x.swz l bytes
  match l with
  | .dev a => writeBuddy t x.rep x.swz asid (va + i) a bytes
  | .host _ => t

/-- Whether the device may send AtomicOps over the host link: CTRL.ATOMEN of the physical function (R390). -/
def atomOpsOn (s : State) : Bool := (viOf s 0).ctrl.getLsbD 0

/-- The write of an atomic at byte i of a translated page: at the home slice, or for another package's line at the switch's atomic unit,
and the result at the buddy (R113, R200, R287). On host memory it is part of an AtomicOp, or a write of its own that follows the read and
lands at the next step (R282).
Log 36 (DESIGN CHOICE). -/
def atomWrite (s : State) (x : Xlat) (asid va i : Nat) (bytes : List Byte) : State :=
  match x.loc.add i with
  | .dev a =>
    let t := if isRemote s (a / 128) then writeFar s x.swz a bytes else writeDpa s x.ord x.swz a bytes
    writeBuddy t x.rep x.swz asid (va + i) a bytes
  | .host a => if atomOpsOn s then writeLoc s x.ord x.swz (.host a) bytes else { s with hostWrites := s.hostWrites ++ [(a, bytes)] }

/-- n bytes at a virtual address as an access performed now reads them, page by page; none if a page fails or is not
resident. -/
def readVa (s : State) (sp : Space) (va n : Nat) : Option (List Byte) :=
  (List.range n).mapM fun i =>
    match translate s sp (va + i) false false with
    | .ok x => some (readX s x 0)
    | _ => none

/-- The line numbers that a range covers. -/
def lineSpan (off len : Nat) : List Nat :=
  if len = 0 then [] else (List.range ((off + len - 1) / 128 + 1 - off / 128)).map (off / 128 + ·)

/-- Bytes from a virtual address, as those of each line: the address of its first and their values.
Log 48 (DEDUCED). -/
def vaPieces (va : Nat) (bytes : List Byte) : List (Nat × List Byte) :=
  (lineSpan va bytes.length).map fun l =>
    let a := max va (l * 128)
    (a, (bytes.drop (a - va)).take ((l + 1) * 128 - a))

/-- Bytes written at a virtual address by an engine or by the device, line by line, replicas included (R113); none if a
page fails or is not resident.
Log 48 (DEDUCED). -/
def writeVa (s : State) (sp : Space) (va : Nat) (bytes : List Byte) : Option State :=
  (vaPieces va bytes).foldlM (fun t c =>
    match translate s sp c.1 true false with
    | .ok x => some (writeX t x sp.asid c.1 0 c.2)
    | _ => none) s

/-- A little-endian number of n bytes at a virtual address. -/
def readVaNat (s : State) (sp : Space) (va n : Nat) : Option Nat := (readVa s sp va n).map natOfBytes

/-- What an engine meets on a range: fine, a page to request and wait for, or a status of R159. -/
inductive RangeTr where
  | ok
  | nores (va psz : Nat)
  | status (c : Byte)
deriving DecidableEq, Repr

/-- A range checked page by page for an engine's access (R121, R159). -/
def checkRange (s : State) (sp : Space) (va n : Nat) (w : Bool) : RangeTr :=
  if n = 0 then .ok else
  (List.range ((va + n - 1) / 65536 + 1 - va / 65536)).foldl (fun r j =>
    match r with
    | .ok =>
      let a := if j = 0 then va else (va / 65536 + j) * 65536
      (match translate s sp a w false with
       | .ok _ => .ok
       | .nores psz => .nores a psz
       | .malf => .status 4
       | .prot _ => .status 3)
    | r => r) .ok

/-- A page request made unless one is outstanding for the page (R136); eng marks an engine's. -/
def requestPage (s : State) (vi asid va psz : Nat) (eng : Bool) : State :=
  let pg : Page := { asid := asid, vpn := va / 65536 / pszUnits psz * pszUnits psz }
  let pg := if psz = 0 then { asid := asid, vpn := va / 65536 } else pg
  if s.pageReqs.any fun r => r.page = pg then s
  else { s with pageReqs := s.pageReqs ++ [{ vi := vi, page := pg, psz := psz, eng := eng, posted := false }] }

/-- Page requests of an interface put into its ring while it has room, under the control ASID recorded for it (R136). -/
def postPageReqs (s : State) (vi : Nat) : State :=
  s.pageReqs.foldl (fun t r =>
    if r.vi ≠ vi ∨ r.posted then t else
    let v := viOf t vi
    let ring := dbits v.pgring 51 12 * 4096
    let log := dbits v.pgring 4 0
    let sp : Space := { vi := vi, asid := v.pgringAsid, user := false }
    if v.pgring = 0 ∨ log < 4 ∨ 16 < log then t else
    match readVaNat t sp ring 8, readVaNat t sp (ring + 8) 8, checkRange t sp ring (64 + 16 * 2 ^ log) true with
    | some head, some tail, .ok =>
      if (head + 2 ^ 64 - tail) % 2 ^ 64 < 2 ^ log then
        let ctl := r.page.asid + r.psz * 1024 + (if r.eng then 4096 else 0)
        let entry := bytesOfNat 8 ctl ++ bytesOfNat 8 (r.page.vpn * 65536)
        match writeVa t sp (ring + 64 + 16 * (head % 2 ^ log)) entry with
        | none => t
        | some t1 => match writeVa t1 sp ring (bytesOfNat 8 (head + 1)) with
          | none => t
          | some t2 => { t2 with pageReqs := t2.pageReqs.map fun q => if q = r then { q with posted := true } else q }
      else t
    | _, _, _ => t) s

/-- A page requested as PGRQ requests it, and the ring tried (R135, R136). -/
def askPage (s : State) (vi asid va psz : Nat) (eng : Bool) : State := postPageReqs (requestPage s vi asid va psz eng) vi

end Sys2Proof.Machine
end

