-- ==== Sys2Proof/Machine/Number.lean ====
section
/-! DEFINITION. Number formats and rounding (R137 to R147): exact rational values, one rounding per result, sums of terms
(R228, R256), stochastic rounding and block quantisation, and the high-precision series behind the roots and the
transcendental functions (R236, R237, R241). -/

namespace Sys2Proof.Machine

/-- The value of an encoding: NaN, an infinity, or a signed magnitude n / d with d not 0; a zero has n = 0 and keeps its
sign. -/
inductive Num where
  | nan
  | inf (neg : Bool)
  | fin (neg : Bool) (n d : Nat)
deriving DecidableEq, Repr

/-- A format: width, exponent bits, fraction bits, bias, and whether every code is finite (R137). -/
structure FF where
  w : Nat
  eb : Nat
  fb : Nat
  bias : Nat
  finite : Bool
deriving DecidableEq, Repr

/-- FP64. -/
def fp64 : FF := ⟨64, 11, 52, 1023, false⟩
/-- FP32. -/
def fp32 : FF := ⟨32, 8, 23, 127, false⟩
/-- FP16. -/
def fp16 : FF := ⟨16, 5, 10, 15, false⟩
/-- BF16. -/
def fbf16 : FF := ⟨16, 8, 7, 127, false⟩
/-- K8E4. -/
def fk8e4 : FF := ⟨8, 4, 3, 7, true⟩
/-- K8E5. -/
def fk8e5 : FF := ⟨8, 5, 2, 15, true⟩
/-- K4. -/
def fk4 : FF := ⟨4, 2, 1, 1, true⟩

/-- The format of a float type code; FP32 for a type that is none. -/
def ffOf : Fmt → FF
  | .f64 => fp64 | .f16 => fp16 | .bf16 => fbf16 | .k8e4 => fk8e4 | .k8e5 => fk8e5 | _ => fp32

/-- n * 2^e / d as a fraction, for an exponent of either sign. -/
def scaled (n d : Nat) (e : Int) : Nat × Nat := if 0 ≤ e then (n * 2 ^ e.toNat, d) else (n, d * 2 ^ (-e).toNat)

/-- The value that a code of a format reads (R137). -/
def numOf (f : FF) (x : Nat) : Num :=
  let s := decide (x / 2 ^ (f.w - 1) % 2 = 1)
  let e := x / 2 ^ f.fb % 2 ^ f.eb
  let m := x % 2 ^ f.fb
  if f.finite = false ∧ e = 2 ^ f.eb - 1 then (if m = 0 then .inf s else .nan)
  else
    let p := if e = 0 then scaled m 1 (1 - (f.bias : Int) - f.fb) else scaled (2 ^ f.fb + m) 1 ((e : Int) - f.bias - f.fb)
    .fin s p.1 p.2

/-- The canonical NaN of an IEEE format (R144). -/
def canonNan (f : FF) : Nat := (2 ^ f.eb - 1) * 2 ^ f.fb + 2 ^ (f.fb - 1)

/-- The code with a sign bit. -/
def withSign (f : FF) (s : Bool) (x : Nat) : Nat := x + (if s then 2 ^ (f.w - 1) else 0)

/-- The code of the largest finite magnitude. -/
def maxCode (f : FF) : Nat := if f.finite then 2 ^ (f.w - 1) - 1 else (2 ^ f.eb - 1) * 2 ^ f.fb - 1

/-- The code of infinity. -/
def infCode (f : FF) : Nat := (2 ^ f.eb - 1) * 2 ^ f.fb

/-- floor(log2(n / d)) for n and d not 0. -/
def log2Frac (n d : Nat) : Int :=
  let e : Int := (n.log2 : Int) - d.log2
  let p := scaled d 1 e
  if n * p.2 < p.1 then e - 1 else e

/-- Whether a magnitude's remainder r / d rounds up to the next integer above q (R143). -/
def roundsUp (rm : RMode) (neg : Bool) (q r d : Nat) : Bool :=
  match rm with
  | .rne => decide (d < 2 * r) || (decide (2 * r = d) && decide (q % 2 = 1))
  | .rz => false
  | .ru => !neg && decide (r ≠ 0)
  | .rd => neg && decide (r ≠ 0)

/-- A magnitude n / d divided by 2^e: quotient and remainder over the divisor. -/
def quantum (n d : Nat) (e : Int) : Nat × Nat × Nat :=
  let p := scaled n d (-e)
  (p.1 / p.2, p.1 % p.2, p.2)

/-- The exponent of the last place of a format at a magnitude (R146). -/
def lastPlace (f : FF) (n d : Nat) : Int := max (log2Frac n d) (1 - (f.bias : Int)) - f.fb

/-- The code of magnitude q * 2^e with e the last place; ovf answers a magnitude beyond the range. -/
def codeMag (f : FF) (q : Nat) (e : Int) (ovf : Nat) : Nat :=
  let q' := if q = 2 ^ (f.fb + 1) then 2 ^ f.fb else q
  let e' := if q = 2 ^ (f.fb + 1) then e + 1 else e
  if q' < 2 ^ f.fb then q'
  else
    let ex := e' + f.fb + f.bias
    let top : Int := if f.finite then 2 ^ f.eb - 1 else 2 ^ f.eb - 2
    if top < ex then ovf else ex.toNat * 2 ^ f.fb + (q' - 2 ^ f.fb)

/-- What an overflow gives: infinity or the largest finite value, and always the latter in a finite-only format (R143,
R145). -/
def overflowCode (f : FF) (rm : RMode) (neg : Bool) : Nat :=
  if f.finite then maxCode f
  else match rm with
    | .rne => infCode f
    | .rz => maxCode f
    | .ru => if neg then maxCode f else infCode f
    | .rd => if neg then infCode f else maxCode f

/-- A value rounded once to a format: the canonical NaN, infinities, and for a finite-only format the saturation of R145
(R143 to R145). -/
def roundNum (f : FF) (rm : RMode) : Num → Nat
  | .nan => if f.finite then maxCode f else canonNan f
  | .inf s => withSign f s (if f.finite then maxCode f else infCode f)
  | .fin s n d =>
    if n = 0 then withSign f s 0
    else
      let e := lastPlace f n d
      let q := quantum n d e
      let m := if roundsUp rm s q.1 q.2.1 q.2.2 then q.1 + 1 else q.1
      withSign f s (codeMag f m e (overflowCode f rm s))

/-- A value rounded to an integer by a mode (R235, R243); 0 for NaN and infinities. -/
def roundInt (rm : RMode) : Num → Int
  | .fin s n d =>
    let q := n / d
    let m := if roundsUp rm s q (n % d) d then q + 1 else q
    if s then -(m : Int) else m
  | _ => 0

/-- Stochastic rounding (R146): magnitude and last place, or the value itself when it is 0, infinite or NaN. A magnitude above the largest
finite value of an IEEE format becomes infinite whatever rb is, rb = 0 included, as the pseudocode has it.
Log 154 (DEDUCED). -/
def srndNum (f : FF) (rb : Nat) : Num → Nat
  | .fin s n d =>
    if n = 0 then withSign f s 0
    else
      let e := lastPlace f n d
      let q := quantum n d e
      let t := q.2.1 * 2 ^ 32 / q.2.2
      let m := if 2 ^ 32 ≤ t + rb then q.1 + 1 else q.1
      withSign f s (codeMag f m e (if f.finite then maxCode f else infCode f))
  | x => roundNum f .rne x

/-- Stochastic rounding to an integer, the spacing being 1 (R243). -/
def srndInt (rb : Nat) : Num → Int
  | .fin s n d =>
    let q := n / d
    let t := n % d * 2 ^ 32 / d
    let m := if 2 ^ 32 ≤ t + rb then q + 1 else q
    if s then -(m : Int) else m
  | _ => 0

/-- The rounding of a conversion: directed, or stochastic with its random operand (R243). -/
def rndNum (f : FF) (rm : RMode) (rb : Option Nat) (x : Num) : Nat :=
  match rb with
  | none => roundNum f rm x
  | some r => srndNum f r x

/-- As rndNum, to an integer. -/
def rndInt (rm : RMode) (rb : Option Nat) (x : Num) : Int :=
  match rb with
  | none => roundInt rm x
  | some r => srndInt r x

namespace Num

/-- The value with its sign inverted. -/
def neg : Num → Num
  | .nan => .nan
  | .inf s => .inf (!s)
  | .fin s n d => .fin (!s) n d

/-- An exact product; 0 × ∞ is NaN (R228). -/
def mul : Num → Num → Num
  | .nan, _ | _, .nan => .nan
  | .inf s, .inf t => .inf (s != t)
  | .inf s, .fin t n _ => if n = 0 then .nan else .inf (s != t)
  | .fin s n _, .inf t => if n = 0 then .nan else .inf (s != t)
  | .fin s n d, .fin t m e => .fin (s != t) (n * m) (d * e)

/-- The negation when b is set. -/
def negIf (b : Bool) (x : Num) : Num := if b then x.neg else x

/-- Whether the value is NaN. -/
def isNan : Num → Bool
  | .nan => true
  | _ => false

/-- The sign. -/
def sign : Num → Bool
  | .nan => false
  | .inf s => s
  | .fin s _ _ => s

/-- Whether the value is a zero. -/
def isZero : Num → Bool
  | .fin _ n _ => n = 0
  | _ => false

/-- Whether the value is finite. -/
def isFin : Num → Bool
  | .fin _ _ _ => true
  | _ => false

/-- The signed numerator and denominator of a finite value. -/
def frac : Num → Int × Nat
  | .fin s n d => (if s then -(n : Int) else n, d)
  | _ => (0, 1)

/-- A value from a signed numerator and a denominator; a zero takes the sign z. -/
def ofFrac (x : Int) (d : Nat) (z : Bool) : Num := if x = 0 then .fin z 0 1 else .fin (decide (x < 0)) x.natAbs d

/-- An integer. -/
def ofInt (x : Int) : Num := ofFrac x 1 false

/-- Comparison of values that are not NaN: -1, 0 or 1 by order, -0 equal to +0. -/
def cmp (a b : Num) : Int :=
  match a, b with
  | .inf s, .inf t => if s = t then 0 else if s then -1 else 1
  | .inf s, _ => if s then -1 else 1
  | _, .inf t => if t then 1 else -1
  | x, y =>
    let p := x.frac
    let q := y.frac
    let l := p.1 * q.2
    let r := q.1 * p.2
    if l < r then -1 else if r < l then 1 else 0

/-- Order with -0 below +0 (R199, R232). -/
def below (a b : Num) : Bool := decide (cmp a b < 0) || (a.isZero && b.isZero && a.sign && !b.sign)

end Num

/-- The exact sum of finite values, as a fraction. -/
def exactSum : List Num → Int × Nat
  | [] => (0, 1)
  | x :: t =>
    let p := x.frac
    let q := exactSum t
    if p.2 = q.2 then (p.1 + q.1, p.2) else (p.1 * q.2 + q.1 * p.2, p.2 * q.2)

/-- The value of a sum of terms before its one rounding (R228). -/
def sumNum (rm : RMode) (ts : List Num) : Num :=
  if ts.any Num.isNan then .nan
  else
    let infs := ts.filter fun t => !t.isFin
    if !infs.isEmpty then
      if infs.all fun t => t.sign then .inf true else if infs.all fun t => !t.sign then .inf false else .nan
    else
      let p := exactSum ts
      if p.1 = 0 then
        if ts.all fun t => t.isZero && t.sign then .fin true 0 1
        else if ts.all fun t => t.isZero && !t.sign then .fin false 0 1
        else .fin (decide (rm = .rd)) 0 1
      else .ofFrac p.1 p.2 false

/-- fsum (R228). -/
def fsum (f : FF) (rm : RMode) (ts : List Num) : Nat := roundNum f rm (sumNum rm ts)

/-- An addend truncated to a multiple of 2^q; one that becomes zero keeps its sign (R256). -/
def truncAt (q : Int) : Num → Num
  | .fin s n d =>
    if n = 0 then .fin s n d
    else
      let k := (quantum n d q).1
      let p := scaled k 1 q
      .fin s p.1 p.2
  | x => x

/-- The greatest floor(log2) among nonzero finite addends. -/
def topExp (ts : List Num) : Option Int :=
  ts.foldl (fun m t => match t with
    | .fin _ n d => if n = 0 then m else
      let e := log2Frac n d
      (match m with | none => some e | some x => some (max x e))
    | _ => m) none

/-- msum (R256). -/
def msum (ts : List Num) : Nat :=
  if ts.all Num.isFin then
    match topExp ts with
    | none => fsum fp32 .rne ts
    | some e => fsum fp32 .rne (ts.map (truncAt (e - 95)))
  else fsum fp32 .rne ts

/-- FMIN and FMAX by code: the operand chosen bit for bit, or the canonical NaN (R232). -/
def minMax (f : FF) (mx nanProp : Bool) (a b : Nat) : Nat :=
  let x := numOf f a
  let y := numOf f b
  match x.isNan, y.isNan with
  | true, true => canonNan f
  | true, false => if nanProp then canonNan f else b
  | false, true => if nanProp then canonNan f else a
  | false, false => if mx then (if x.below y then b else a) else (if y.below x then b else a)

/-! Roots. -/

/-- The integer square root's bits from bit i down, given the root so far. -/
def isqrtFrom (n : Nat) : Nat → Nat → Nat
  | 0, r => if (r + 1) * (r + 1) ≤ n then r + 1 else r
  | i + 1, r => isqrtFrom n i (if (r + 2 ^ (i + 1)) * (r + 2 ^ (i + 1)) ≤ n then r + 2 ^ (i + 1) else r)

/-- floor(sqrt(n)). -/
def isqrt (n : Nat) : Nat := isqrtFrom n (n.log2 / 2 + 1) 0

/-- The square root of n / d to 160 bits, with a last bit that says whether it is inexact: every rounding of it to a format
equals the rounding of the exact root. -/
def sqrtNum (n d : Nat) : Num :=
  let e : Int := (n.log2 : Int) - d.log2
  let k := ((320 - e) / 2).toNat
  let m := n * 2 ^ (2 * k)
  let r := isqrt (m / d)
  let exact := decide (r * r * d = m)
  .fin false (2 * r + (if exact then 0 else 1)) (2 ^ (k + 1))

/-! Series, in fixed point with 420 fraction bits. -/

/-- Fraction bits of the series. -/
def fxBits : Nat := 420

/-- The sum of t, t * x2 / ((i+1)(i+2)), … with alternating or constant sign, for sine, cosine and exponential: step gives
the divisor of the next term. -/
def taylor (alt : Bool) (x : Nat) (step : Nat → Nat) : Nat → Nat → Nat → Int
  | 0, _, _ => 0
  | fuel + 1, i, t =>
    if t = 0 then 0 else (t : Int) + (if alt then -1 else 1) * taylor alt x step fuel (i + 1) (t * x / 2 ^ fxBits / step i)

/-- The sum of t / (2i + 1) with t divided by q each time, alternating or not: arctangent and its hyperbolic kin. -/
def atanSeries (alt : Bool) (num den : Nat) : Nat → Nat → Nat → Int
  | 0, _, _ => 0
  | fuel + 1, i, t =>
    if t = 0 then 0 else (t / (2 * i + 1) : Nat) + (if alt then -1 else 1) * atanSeries alt num den fuel (i + 1) (t * num / den)

/-- π in fixed point, by Machin's formula.
Log 26 (DESIGN CHOICE). -/
def piFx : Nat :=
  (16 * atanSeries true 1 25 400 0 (2 ^ fxBits / 5) - 4 * atanSeries true 1 57121 400 0 (2 ^ fxBits / 239)).toNat

/-- ln(m) for m = a / b in [1, 2], in fixed point.
Log 26 (DESIGN CHOICE). -/
def lnFx (a b : Nat) : Nat :=
  (2 * atanSeries false ((a - b) * (a - b)) ((a + b) * (a + b)) 600 0 ((a - b) * 2 ^ fxBits / (a + b))).toNat

/-- sin(π n / d) for n / d in [0, 1/2], in fixed point. -/
def sinFx (n d : Nat) : Nat :=
  let x := n * piFx / d
  (taylor true (x * x / 2 ^ fxBits) (fun i => (2 * i + 2) * (2 * i + 3)) 200 0 x).toNat

/-- cos(π n / d) for n / d in [0, 1/2], in fixed point. -/
def cosFx (n d : Nat) : Nat :=
  let x := n * piFx / d
  (taylor true (x * x / 2 ^ fxBits) (fun i => (2 * i + 1) * (2 * i + 2)) 200 0 (2 ^ fxBits)).toNat

/-- 2^(n / d) for n / d in [0, 1), in fixed point. -/
def exp2Fx (n d : Nat) : Nat :=
  (taylor false (n * lnFx 2 1 / d) (fun i => i + 1) 400 0 (2 ^ fxBits)).toNat

/-- A fixed-point value. -/
def ofFx (s : Bool) (x : Nat) : Num := .fin s x (2 ^ fxBits)

/-- sin(π n / d) of a magnitude, exact where it is representable: the sign and the value (R237, R241).
Log 26 (DESIGN CHOICE). -/
def sinPi (n d : Nat) : Num :=
  let r := n % (2 * d)
  let s := decide (d ≤ r)
  let r := if d ≤ r then r - d else r
  if r = 0 then .fin false 0 1
  else if 2 * r = d then .fin s 1 1
  else if 2 * r < d then ofFx s (sinFx r d) else ofFx s (sinFx (d - r) d)

/-- cos(π n / d) of a magnitude, exact where it is representable (R237, R241).
Log 26 (DESIGN CHOICE). -/
def cosPi (n d : Nat) : Num :=
  let r := n % (2 * d)
  let r := if d < r then 2 * d - r else r
  if r = 0 then .fin false 1 1
  else if r = d then .fin true 1 1
  else if 2 * r = d then .fin false 0 1
  else if 2 * r < d then ofFx false (cosFx r d) else ofFx true (cosFx (d - r) d)

/-- 2^a for a finite a, exact for an integer (R237).
Log 26 (DESIGN CHOICE). -/
def exp2Num (neg : Bool) (n d : Nat) : Num :=
  if n = 0 then .fin false 1 1
  else if 1100 * d < n then (if neg then .fin false 1 (2 ^ 1100) else .fin false (2 ^ 1100) 1)
  else
    let i : Int := if neg then -((n + d - 1) / d : Nat) else (n / d : Nat)
    let f := if neg then (d - n % d) % d else n % d
    let p := if f = 0 then (1, 1) else (exp2Fx f d, 2 ^ fxBits)
    let q := scaled p.1 p.2 i
    .fin false q.1 q.2

/-- log2 of a positive finite value, exact for a power of two (R237).
Log 26 (DESIGN CHOICE). -/
def log2Num (n d : Nat) : Num :=
  let e := log2Frac n d
  let m := scaled n d (-e)
  let frac : Nat := if m.1 = m.2 then 0 else lnFx m.1 m.2 * 2 ^ fxBits / lnFx 2 1
  .ofFrac (e * 2 ^ fxBits + frac) (2 ^ fxBits) false

/-- Whether a value is a code of a format exactly. -/
def isExact (f : FF) (x : Num) : Bool :=
  match x, numOf f (roundNum f .rz x) with
  | .fin s n d, .fin t m e => decide (s = t ∧ n * e = m * d)
  | a, b => decide (a = b)

/-- One of the two codes that bracket a value, chosen by up; the value itself where it is exact (R237). Beyond the range
the value overflows to infinity.
Log 26 (DESIGN CHOICE). -/
def bracket (f : FF) (up : Bool) (x : Num) : Nat :=
  if isExact f x then roundNum f .rz x
  else
    let hi := roundNum f .ru x
    let lo := roundNum f .rd x
    if lo = maxCode f ∨ hi = withSign f true (maxCode f) then roundNum f .rne x
    else if up then hi else lo

/-! Scales and integer weights (R140, R141). -/

/-- The value of an S8 scale (R140). -/
def s8Num (e : Nat) : Num :=
  if e = 255 then .nan else let p := scaled 1 1 ((e : Int) - 127); .fin false p.1 p.2

/-- The value of a two's-complement integer of w bits (R141). -/
def intNum (w x : Nat) : Num := .ofInt (sextNat w x)

/-- The value that an element of a type reads: a float code, or an integer (R137, R242). -/
def elemNum (t : Fmt) (x : Nat) : Num :=
  if t.isFloat then numOf (ffOf t) x
  else if t = .w8 then intNum 8 x
  else if t.signed then intNum t.width x
  else .ofInt (x % 2 ^ t.width : Nat)

/-- The K8 block scale: the smallest e in 0..254 with amax * 2^(127 - e) at most the format's largest value, or 254 (R147). -/
def k8Scale (f : FF) (n d : Nat) : Nat :=
  if n = 0 then 127
  else
    let top := numOf f (maxCode f)
    let ok := fun (e : Nat) => match top with
      | .fin _ a b => let p := scaled n d (127 - (e : Int)); decide (p.1 * b ≤ a * p.2)
      | _ => true
    ((List.range 255).find? ok).getD 254

/-- The larger of two magnitudes. -/
def maxMag (a b : Nat × Nat) : Nat × Nat := if a.1 * b.2 < b.1 * a.2 then b else a

/-- amax of R147. -/
def amaxOf (xs : List Num) : Nat × Nat :=
  xs.foldl (fun m x => match x with | .fin _ n d => maxMag m (n, d) | _ => m) (0, 1)

/-- blkk8 (R147): the scale and the elements, with the random operand of each element if rounding is stochastic. -/
def blkK8 (f : FF) (rm : RMode) (rbs : Option (List Nat)) (xs : List Num) : Nat × List Nat :=
  if xs.any fun x => !x.isFin then (255, xs.map fun _ => 0)
  else
    let a := amaxOf xs
    let e := k8Scale f a.1 a.2
    let shift := fun (x : Num) => match x with
      | .fin s n d => let p := scaled n d (127 - (e : Int)); Num.fin s p.1 p.2
      | y => y
    (e, (List.range xs.length).map fun i =>
      rndNum f rm (rbs.map fun l => l.getD i 0) (shift (xs.getD i (.fin false 0 1))))

/-- blkw8 (R147). Where amax / 127 passes the largest finite BF16 value, which FP64 sources allow and the rule says cannot be, the scale
is rounded up to infinity and each quotient by it is 0.
Log 155 (DESIGN CHOICE). -/
def blkW8 (rm : RMode) (rbs : Option (List Nat)) (xs : List Num) : Nat × List Nat :=
  if xs.any fun x => !x.isFin then (0x7FC0, xs.map fun _ => 0)
  else
    let a := amaxOf xs
    let g := if a.1 = 0 then 0x3F80 else roundNum fbf16 .ru (.fin false a.1 (a.2 * 127))
    let div := fun (x : Num) => match x, numOf fbf16 g with
      | .fin s n d, .fin _ gn gd => Num.fin s (n * gd) (d * gn)
      | _, _ => Num.fin false 0 1
    (g, (List.range xs.length).map fun i =>
      let v := rndInt rm (rbs.map fun l => l.getD i 0) (div (xs.getD i (.fin false 0 1)))
      (BitVec.ofInt 8 (if v < -128 then -128 else if 127 < v then 127 else v)).toNat)

/-- A short immediate as a float source: rne of the integer, saturated in a finite-only format (R38). -/
def immFloat (t : Fmt) (i : BitVec 11) : Nat := roundNum (ffOf t) .rne (.ofInt i.toInt)

end Sys2Proof.Machine
end

