-- ==== Sys2Proof/Machine/Glaze.lean ====
section
/-! DEFINITION. Glaze arrays (R79 to R98) and the controllers' two paths: reads and writes through a key and a stream
(R71, R72, R92, R93). -/

namespace Sys2Proof.Machine

/-- Byte i of a configuration (R81). -/
def cfgByte (c : BitVec 8192) (i : Nat) : Nat := (c.extractLsb' (8 * i) 8).toNat

/-- The 4-byte value at byte i of a configuration. -/
def cfgWord (c : BitVec 8192) (i : Nat) : Word := c.extractLsb' (8 * i) 32

/-- MODE (R82). -/
def cfgMode (c : BitVec 8192) (b : Nat) : Bool := (cfgByte c 1).testBit b
/-- HNUM (R81). -/
def cfgHnum (c : BitVec 8192) : Nat := cfgByte c 2 % 8
/-- Histogram slot j (R83). -/
def cfgHsel (c : BitVec 8192) (j : Nat) : Nat := cfgByte c (8 + 2 * j) + 256 * cfgByte c (9 + 2 * j)
/-- The word of an element (R84). -/
def cfgElem (c : BitVec 8192) (k e : Nat) : Nat := (cfgWord c (448 + 4 * (16 * k + e))).toNat

/-- How many of the selects SA, SB and SC an operation uses, and the mask of PRM bits that it uses (R86). -/
def elemUses (op : Nat) : Nat × Nat :=
  if op = 0 then (1, 0) else if op ≤ 12 then (2, 0) else if op = 13 then (2, 7) else if op = 14 then (3, 15)
  else if op = 15 then (1, 7) else if op = 16 then (1, 3) else (2, 0)

/-- Whether an element word is refused (R84, R85, R86, R90). -/
def elemBad (rmw : Bool) (w : Nat) : Bool :=
  let op := bitsOf w 31 27
  let sels := [bitsOf w 26 21, bitsOf w 20 15, bitsOf w 14 9]
  let prm := bitsOf w 3 0
  let u := elemUses op
  let used := sels.take u.1
  let selBad := fun (x : Nat) => decide (35 ≤ x) || (decide (16 ≤ x ∧ x < 32) && !rmw)
  decide (18 ≤ op) || used.any selBad || (sels.drop u.1).any (fun x => decide (x ≠ 0))
    || (decide (bitsOf w 8 4 ≠ 0) && !used.contains 32) || decide (prm &&& (15 - u.2) ≠ 0)
    || decide (op = 14 ∧ 6 ≤ prm % 8) || decide (op = 16 ∧ prm % 4 = 3)

/-- Whether LOAD refuses a configuration as BADCFG (R90). -/
def cfgBad (c : BitVec 8192) : Bool :=
  let zero := fun (lo n : Nat) => (List.range n).all fun i => decide (cfgByte c (lo + i) = 0)
  let hnum := cfgByte c 2
  let slotBad := fun (j : Nat) =>
    let x := cfgHsel c j
    if j < hnum then decide (512 ≤ x) || decide (17 ≤ bitsOf x 8 4) else decide (x ≠ 0)
  decide (cfgByte c 0 ≠ 1) || cfgMode c 7 || decide (4 < hnum) || !(zero 3 5) || !(zero 16 48) || !(zero 960 64)
    || (List.range 4).any slotBad
    || (List.range 128).any (fun i => elemBad (cfgMode c 2) (cfgElem c (i / 16) (i % 16)))
    || (!cfgMode c 0 && !cfgMode c 1) || (cfgMode c 2 && !cfgMode c 1)

/-- One CRC32C step of the four bytes of b (R86). -/
def elemCrc (a b : Nat) : Nat :=
  (List.range 32).foldl (fun y i => (y / 2) ^^^ (if (y + b / 2 ^ i) % 2 = 1 then 0x82F63B78 else 0)) a

/-- A comparison of SEL (R86). -/
def elemCmp (c : Nat) (a b : Word) : Bool :=
  match c with
  | 0 => decide (a = b)
  | 1 => decide (a ≠ b)
  | 2 => decide (a.toInt < b.toInt)
  | 3 => decide (a.toInt ≤ b.toInt)
  | 4 => decide (a < b)
  | _ => decide (a ≤ b)

/-- A 16-bit half of MUL16, read signed or unsigned (R86). -/
def elemHalf (x : Word) (high sg : Bool) : Int :=
  let h := if high then x.toNat / 65536 else x.toNat % 65536
  if sg then sextNat 16 h else h

/-- The result of an element on its operands and delay register (R86). -/
def elemOp (c : BitVec 8192) (op prm : Nat) (a b x d : Word) : Word :=
  match op with
  | 0 => a
  | 1 => a + b
  | 2 => a - b
  | 3 => if a.toInt < b.toInt then a else b
  | 4 => if a.toInt < b.toInt then b else a
  | 5 => if a < b then a else b
  | 6 => if a < b then b else a
  | 7 => a &&& b
  | 8 => a ||| b
  | 9 => a ^^^ b
  | 10 => a <<< (b.toNat % 32)
  | 11 => a >>> (b.toNat % 32)
  | 12 => a.sshiftRight (b.toNat % 32)
  | 13 => BitVec.ofInt 32 (elemHalf a (prm % 2 = 1) (prm / 4 % 2 = 1) * elemHalf b (prm / 2 % 2 = 1) (prm / 4 % 2 = 1))
  | 14 => if elemCmp (prm % 8) a b then x else if prm / 8 = 0 then a else 0
  | 15 =>
    let j := prm % 4
    let l := cfgByte c (192 + a.toNat / 2 ^ (8 * j) % 256)
    if prm / 4 % 2 = 0 then BitVec.ofNat 32 l
    else BitVec.ofNat 32 (a.toNat - a.toNat / 2 ^ (8 * j) % 256 * 2 ^ (8 * j) + l * 2 ^ (8 * j))
  | 16 =>
    match prm % 4 with
    | 0 => d + a
    | 1 => BitVec.ofInt 32 (max (-(2 ^ 31)) (min (2 ^ 31 - 1) (d.toInt + a.toInt)))
    | _ => BitVec.ofNat 32 (min (2 ^ 32 - 1) (d.toNat + a.toNat))
  | _ => BitVec.ofNat 32 (elemCrc a.toNat b.toNat)

/-- One element: its selects (R85) and its operation. -/
def element (c : BitVec 8192) (k e : Nat) (prev old : List Word) (d : Word) : Word :=
  let w := cfgElem c k e
  let pick := fun (x : Nat) =>
    if x < 16 then prev.getD x 0 else if x < 32 then old.getD (x - 16) 0
    else if x = 32 then cfgWord c (64 + 4 * bitsOf w 8 4) else if x = 33 then d else 0
  elemOp c (bitsOf w 31 27) (bitsOf w 3 0) (pick (bitsOf w 26 21)) (pick (bitsOf w 20 15)) (pick (bitsOf w 14 9)) d

/-- One beat through the eight stages: the outputs of each stage, which are its delay registers for the next beat (R80). -/
def runBeat (c : BitVec 8192) (inp old : List Word) (dly : List (List Word)) : List (List Word) :=
  ((List.range 8).foldl (fun (a : List (List Word) × List Word) k =>
    let y := (List.range 16).map fun e => element c k e a.2 old ((dly.getD k []).getD e 0)
    (a.1 ++ [y], y)) ([], inp)).1

/-- The 16 words of beat h of a line (R80). -/
def beatWords (l : Line) (h : Nat) : List Word := (List.range 16).map fun e => l.extractLsb' (512 * h + 32 * e) 32

/-- A line through a configuration: the output words of its two beats (R80). -/
def glazeWords (c : BitVec 8192) (inp old : Line) : List Word × List Word :=
  let b0 := runBeat c (beatWords inp 0) (beatWords old 0) []
  let b1 := runBeat c (beatWords inp 1) (beatWords old 1) b0
  (b0.getD 7 [], b1.getD 7 [])

/-- A line from 32 words. -/
def lineOfWords (l : List Word) : Line := lineOf (l.flatMap fun w => bytesOfNat 4 w.toNat)

/-- A stream that no interface owns (R87). -/
def freeStream : Stream := { st := .free, cfg := 0, pending := none, unbind := false, pid := none, hsat := false }

/-- A stream's table entry (R87).
Log 46 (PRESUMED). -/
def streamOf (s : State) (k : BitVec 6) : Stream := mget freeStream s.streams k.toNat

/-- A stream's table entry updated. -/
def setStream (s : State) (k : BitVec 6) (f : Stream → Stream) : State :=
  { s with streams := mset freeStream s.streams k.toNat (f (streamOf s k)) }

/-- A digest (R94). -/
def digestOf (s : State) (ctrl : Nat) (k : BitVec 6) : Digest :=
  mget { crcx := 0, sum64 := 0, lines := 0 } s.digests (ctrl * 64 + k.toNat)

/-- One bin updated by a weight; whether it has saturated (R95).
Log 29 (DEDUCED). -/
def binAdd (fp : Bool) (x w : Word) : Word × Bool :=
  if fp then
    let r := fsum fp32 .rne [numOf fp32 x.toNat, numOf fp32 w.toNat]
    (BitVec.ofNat 32 r, match numOf fp32 r with | .fin _ _ _ => false | _ => true)
  else
    let r := x.toNat + w.toNat
    (BitVec.ofNat 32 (min r (2 ^ 32 - 1)), decide (2 ^ 32 ≤ r))

/-- The histogram updates of one beat's output under a stream that holds it (R83, R95). -/
def histBeat (s : State) (ctrl : Nat) (k : BitVec 6) (c : BitVec 8192) (out : List Word) : State :=
  (List.range (cfgHnum c)).foldl (fun t j =>
    let x := cfgHsel c j
    let bin := ctrl * 65536 + (out.getD (x % 16) 0).toNat % 65536
    let wt := if bitsOf x 8 4 = 16 then (if cfgMode c 6 then 0x3F800000 else 1) else out.getD (bitsOf x 7 4) 0
    let r := binAdd (cfgMode c 6) (mget 0 t.hist bin) wt
    let t := { t with hist := mset 0 t.hist bin r.1 }
    if r.2 then setStream t k fun q => { q with hsat := true } else t) s

/-- The digest updated by an output line (R94). -/
def digestLine (s : State) (ctrl : Nat) (k : BitVec 6) (c : BitVec 8192) (words : List Word) : State :=
  let d := digestOf s ctrl k
  let crc := BitVec.ofNat 32 (crc32c (words.flatMap fun w => bytesOfNat 4 w.toNat))
  let sum := BitVec.ofNat 64 (words.foldl (fun n w => n + w.toNat) 0)
  let d1 : Digest := ⟨if cfgMode c 3 then d.crcx ^^^ crc else d.crcx, if cfgMode c 4 then d.sum64 + sum else d.sum64, d.lines + 1⟩
  { s with digests := mset { crcx := 0, sum64 := 0, lines := 0 } s.digests (ctrl * 64 + k.toNat) d1 }

/-- A line through a stream's array in a controller, with its side outputs (R80, R94, R95). Stream 0 passes it untouched. -/
def glazeLine (s : State) (ctrl : Nat) (k : BitVec 6) (inp old : Line) : State × Line :=
  if k = 0 then (s, inp) else
  let c := (streamOf s k).cfg
  let r := glazeWords c inp old
  let s := digestLine s ctrl k c (r.1 ++ r.2)
  let s := if cfgMode c 5 ∧ s.histOwner = some (.stream k.toNat) then histBeat (histBeat s ctrl k c r.1) ctrl k c r.2 else s
  (s, lineOfWords (r.1 ++ r.2))

/-- Whether a request of an interface may name a stream, with the detail that a refusal carries (R88). A stream bound to another
interface and not LOADED fits details 0x1 and 0x2; it gives 0x2.
Log 148 (DESIGN CHOICE). -/
def streamCheck (s : State) (vi : Nat) (k : BitVec 6) (write : Bool) : Option Nat :=
  if k = 0 then none else
  let q := streamOf s k
  match q.st with
  | .free => some 1
  | .bound v => if v = vi then some 1 else some 2
  | .loaded v =>
    if v ≠ vi then some 2
    else if q.unbind || q.pending = some none then some 1
    else if cfgMode q.cfg (if write then 1 else 0) then none else some 3

/-- A key's value, when its slot holds one for the interface (R71). -/
def keyFor (s : State) (vi handle : Nat) : Option (BitVec 512) :=
  let k := mget { key := none, owner := none } s.keys handle
  if k.owner = some vi then k.key else none

/-- Decryption or encryption of a line when a key is presented. -/
def cryptLine (dec : Bool) (key : Option (BitVec 512)) (line : Nat) (x : Line) : Line :=
  match key with
  | none => x
  | some k => xtsLine dec k line x

/-- The side outputs of every stream as they were, for a line that another package's controllers pass.
Log 45 (DEDUCED). -/
def keepSides (s t : State) : State := { t with digests := s.digests, hist := s.hist, streams := s.streams }

/-- A line through a stream's array at the controllers of its package: the digests and histogram of another package's memory are that
package's (R94).
Log 45 (DEDUCED). -/
def glazeAt (s : State) (swz : BitVec 4) (k : BitVec 6) (line : Nat) (inp old : Line) : State × Line :=
  let r := glazeLine s (ctrlOf swz (line * 128)) k inp old
  (if isRemote s line then keepSides s r.1 else r.1, r.2)

/-- The read path: the home slice's copy, else the DRAM image, or the buddy's where REP serves the read; then decryption and glaze
(R92, R386). A plain read whose line may be held leaves it in its slice (R101); keep says that it may.
Log 46 (PRESUMED), 159 (DEDUCED). -/
def streamRead (s : State) (keep : Bool) (rep : Option Nat) (swz : BitVec 4) (key : Option (BitVec 512)) (k : BitVec 6) (line : Nat) :
    State × Line :=
  let s := if k = 0 then s else recallL1 s line
  let src := servingLine s rep line
  let image := if k = 0 then cohLine s swz src else homeLine s swz src
  let s := countFix s swz line
  let s := if keep && decide (k = 0) && key.isNone && fromDram s line && (missOf s line).isNone then llcInstall s swz line image false
    else s
  glazeAt s swz k line (cryptLine true key line image) 0

/-- The write path: glaze, encryption, DRAM (R72, R93). A write with neither key nor stream is performed at the home slice, or across
the fabric where no slice may hold its line (R286). A write that merges reads the line first, and is discarded and reported where the
line cannot be read (R386).
Log 44 (DEDUCED), 46 (PRESUMED). -/
def streamWrite (s : State) (ord : Ord) (rep : Option Nat) (swz : BitVec 4) (key : Option (BitVec 512)) (k : BitVec 6) (line : Nat)
    (mask : BitVec 128) (data : Line) : State :=
  if k = 0 ∧ key = none then storeLine s none ord swz line mask data
  else
    let s := dirWrite (passHome s line) line false
    let merges := key.isSome && decide (mask ≠ fullMask) || decide (k ≠ 0) && cfgMode (streamOf s k).cfg 2
    if merges && (lineErr s rep line).isSome then report s 0 6 0 0 (line * 128) 1
    else
    let s := if merges then countFix s swz line else s
    let image := cryptLine true key line (dramLine s swz (servingLine s rep line))
    let inp := lineMerge 0 data mask
    let old := if cfgMode (streamOf s k).cfg 2 then image else 0
    let r := glazeAt s swz k line inp old
    match key with
    | none => dramPast r.1 swz line mask r.2
    | some _ => dramPast r.1 swz line fullMask (cryptLine false key line (lineMerge image r.2 mask))

/-- One line written through a key and a stream, and at the buddy of a REP page that can be reached (R113).
Log 45 (DEDUCED), 47 (DEDUCED). -/
def lineThrough (s : State) (ord : Ord) (rep : Option Nat) (swz : BitVec 4) (key : Option (BitVec 512)) (k : BitVec 6) (line : Nat)
    (mask : BitVec 128) (data : Line) : State :=
  let t := streamWrite s ord rep swz key k line mask data
  match rep with
  | none => t
  | some b =>
    if b ∈ t.unreach then t
    else if k = 0 ∧ key = none then farStore t swz (buddyLine b line) mask data
    else keepSides t (streamWrite t ord none swz key k (buddyLine b line) mask data)

/-- Bytes of a device address written line by line through a key and a stream. -/
def writeThrough (s : State) (ord : Ord) (swz : BitVec 4) (key : Option (BitVec 512)) (k : BitVec 6) (dpa : Nat) (bytes : List Byte)
    (rep : Option Nat) : State :=
  (splitLines dpa bytes).foldl (fun t x => lineThrough t ord rep swz key k x.1 x.2.1 x.2.2) s

/-- Bytes of a device address read line by line through a key and a stream (R92). -/
def readThrough (s : State) (keep : Bool) (rep : Option Nat) (swz : BitVec 4) (key : Option (BitVec 512)) (k : BitVec 6) (dpa n : Nat) :
    State × List Byte :=
  if n = 0 then (s, []) else
  (List.range ((dpa + n - 1) / 128 + 1 - dpa / 128)).foldl (fun (a : State × List Byte) j =>
    let line := dpa / 128 + j
    let r := streamRead a.1 keep rep swz key k line
    let bs := (List.range 128).filterMap fun i =>
      if dpa ≤ line * 128 + i ∧ line * 128 + i < dpa + n then some (lineByte r.2 i) else none
    (r.1, a.2 ++ bs)) (s, [])

/-- The key that a keyed engine access presents must be a slot of the interface that holds a key (R71). -/
def keyOk (s : State) (vi : Nat) (handle : Option Nat) : Bool :=
  match handle with
  | none => true
  | some h => (keyFor s vi h).isSome

end Sys2Proof.Machine
end

