-- ==== Sys2Proof/Machine/Multicast.lean ====
section
/-! DEFINITION. Multicast headers: the distribution tree that firmware builds for a group, and its stripping by the switches of a
plane (R290 to R292). -/

namespace Sys2Proof.Machine

/-- A switch of a plane: the spine or a leaf (R290, R395). -/
inductive Switch where
  | leaf (l : Nat)
  | spine
deriving DecidableEq, Repr

/-- PMASK with the bits of some ports set. -/
def portMask (ports : List Nat) : BitVec 64 := ports.foldl (fun m p => m ||| BitVec.ofNat 64 (2 ^ p)) 0

/-- A list of numbers in ascending order, each once. -/
def ascending (l : List Nat) : List Nat := l.foldl (fun a x => put x a) []
where
  /-- A number put in its place. -/
  put (x : Nat) : List Nat → List Nat
    | [] => [x]
    | h :: t => if x < h then x :: h :: t else if x = h then h :: t else h :: put x t

/-- The node of a leaf switch that delivers to some packages, and forwards to further ports. -/
def leafNode (plane : Nat) (pkgs up : List Nat) : HdrNode :=
  ⟨portMask (pkgs.map (Config.leafPort plane) ++ up), up.length⟩

/-- The header that firmware builds for a sender: its own leaf switch, then the spine and the other leaf switches, in the order of the
spine's ports; nothing where no other package is listed (R290, R292).
Log 118 (DESIGN CHOICE). -/
def buildHeader (plane sender : Nat) (pkgs : List Nat) : List HdrNode :=
  let others := pkgs.filter (· ≠ sender)
  let home := Config.leafOf plane sender
  let near := others.filter fun p => decide (Config.leafOf plane p = home)
  let far := others.filter fun p => decide (Config.leafOf plane p ≠ home)
  let ports := ascending (far.map fun p => Config.spinePort plane (Config.leafOf plane p))
  let at_ := fun (q : Nat) => far.filter fun p => decide (Config.spinePort plane (Config.leafOf plane p) = q)
  if others.isEmpty then []
  else if far.isEmpty then [leafNode plane near []]
  else leafNode plane near [Config.upPort plane home] :: ⟨portMask ports, ports.length⟩ :: ports.map fun q => leafNode plane (at_ q) []

/-- The first tree of a list of nodes in preorder, and what follows it; d bounds its depth (R290). -/
def takeTree : Nat → List HdrNode → List HdrNode × List HdrNode
  | 0, l => ([], l)
  | _ + 1, [] => ([], [])
  | d + 1, n :: rest =>
    (List.range n.nchild).foldl (fun (a : List HdrNode × List HdrNode) _ =>
      let t := takeTree d a.2
      (a.1 ++ t.1, t.2)) ([n], rest)

/-- The switch that a port of a switch leads to, if it leads to one (R290). -/
def leadsTo (plane domain : Nat) (sw : Switch) (port : Nat) : Option Switch :=
  match sw with
  | .leaf l => if port = Config.upPort plane l then some .spine else none
  | .spine => (((List.range domain).map (Config.leafOf plane)).find? fun l => decide (Config.spinePort plane l = port)).map Switch.leaf

/-- The package that a port of a leaf switch leads to. -/
def portPkgs (plane domain : Nat) (sw : Switch) (port : Nat) : List Nat :=
  match sw with
  | .leaf l => (List.range domain).filter fun p => decide (Config.leafOf plane p = l ∧ Config.leafPort plane p = port)
  | .spine => []

/-- What a switch does with a payload whose header it gets: it strips the first node, splits the rest into subtrees and sends the payload
to each port of the mask in ascending order, to a switch with that port's subtree and to a package with none. The packages reached, in
that order (R291; d bounds the depth of the tree).
Log 118 (DESIGN CHOICE). -/
def strip (plane domain : Nat) : Nat → Switch → List HdrNode → List Nat
  | 0, _, _ => []
  | _ + 1, _, [] => []
  | d + 1, sw, n :: rest =>
    (((List.range 64).filter fun i => n.pmask.getLsbD i).foldl (fun (a : List Nat × List HdrNode) port =>
      match leadsTo plane domain sw port with
      | some next =>
        let t := takeTree d a.2
        (a.1 ++ strip plane domain d next t.1, t.2)
      | none => (a.1 ++ portPkgs plane domain sw port, a.2)) ([], rest)).1

/-- The packages on which an MCST to a group is performed: the sender if it is listed, and those that its header reaches (R291, R292,
R294).
Log 118 (DESIGN CHOICE). -/
def groupTargets (s : State) (g : McGroup) : List Nat :=
  (if g.pkgs.contains s.pkg then [s.pkg] else [])
    ++ strip g.plane s.domain 3 (.leaf (Config.leafOf g.plane s.pkg)) g.header

end Sys2Proof.Machine
end

