-- ==== Sys2Proof/Machine/Warp.lean ====
section
/-! DEFINITION. The warp at issue: reading its registers, predicates, selectors and immediates (R31 to R38, R43), writing
its destinations (R32, R36), and its frontier (R340, R341). -/

namespace Sys2Proof.Machine

/-- The warp at issue updated. -/
def setWarp (s : State) (f : Warp → Warp) : State := { s with warp := f s.warp }

/-- The launch with an identifier. -/
def launchOf (s : State) (id : Nat) : Option Launch := s.launches.find? fun l => l.id = id

/-- A launch updated. -/
def setLaunch (s : State) (id : Nat) (f : Launch → Launch) : State :=
  { s with launches := s.launches.map fun l => if l.id = id then f l else l }

/-- The crew number under which a warp's crew state is held: its own for a crew-bound launch, one per firing for a
crew-free launch (R328).
Log 79 (DEDUCED). -/
def crewKey (w : Warp) : Nat := w.crew.getD (2 ^ 32 + w.uid)

/-- A crew's state. -/
def crewAt (s : State) (launch crew : Nat) : Option Crew := s.crews.find? fun c => c.launch = launch && c.crew = crew

/-- The crew of the warp at issue. -/
def crewOf (s : State) : Option Crew := crewAt s s.warp.launch (crewKey s.warp)

/-- A crew updated. -/
def setCrewAt (s : State) (launch crew : Nat) (f : Crew → Crew) : State :=
  { s with crews := s.crews.map fun c => if c.launch = launch && c.crew = crew then f c else c }

/-- The crew of the warp at issue updated. -/
def setCrew (s : State) (f : Crew → Crew) : State := setCrewAt s s.warp.launch (crewKey s.warp) f

/-- The address space of the warp's accesses; supervisor segments are not subject to U (R122, R376). -/
def Warp.space (w : Warp) : Space := { vi := w.vi, asid := w.asid, user := decide (w.priv = 0) }

/-- Entry lanes of the issuing entry (R10, R340). -/
def entryMask (w : Warp) : Mask := match w.entries with | e :: _ => e.mask | [] => 0

/-- IP of the issuing entry. -/
def curIp (w : Warp) : BitVec 48 := match w.entries with | e :: _ => e.ip | [] => 0

/-- Priority of the issuing entry. -/
def curPrio (w : Warp) : BitVec 4 := match w.entries with | e :: _ => e.prio | [] => 0

/-- Whether a result due is not yet certain to be readable at a cycle (R43). -/
def Due.pending (now : Nat) (d : Due) : Bool := match d.ready with | some t => decide (now < t) | none => true

/-- The operand code of a register of a class (R31). -/
def regCode (c : RegClass) (r : Nat) : Nat := match c with | .vec => r | .scal => 0x600 + r | .pred => 0x700 + r

/-- The results due to a register that a read now may miss, newest first (R43). -/
def missable (s : State) (c : RegClass) (r : Nat) : List Due :=
  s.warp.due.filter fun d => d.cls = c && d.reg = r && d.pending s.now

/-- What a read of a vector or scalar register sees: the value held, or, while results due to it are pending, the value held before
one of them (R43).
Log 16 (DEDUCED). -/
def seen (s : State) (c : RegClass) (r lane : Nat) (cur : Word) : Word :=
  let ds := (missable s c r).filter fun d => c ≠ .vec || d.mask.getLsbD lane
  (ds.foldl (fun (a : Word × Nat) d =>
    (if Config.hazardPick s.free (regCode c r) (lane + 32 * a.2) then a.1 else mget 0 d.old lane, a.2 + 1)) (cur, 0)).1

/-- What a read of a predicate sees, lane by lane (R43).
Log 16 (DEDUCED). -/
def seenP (s : State) (r : Nat) (cur : Mask) : Mask :=
  ((missable s .pred r).foldl (fun (a : Mask × Nat) d =>
    (maskOf fun k =>
      if d.mask.getLsbD k && !Config.hazardPick s.free (regCode .pred r) (k + 32 * a.2) then (mget 0 d.old 0).getLsbD k
      else a.1.getLsbD k, a.2 + 1)) (cur, 0)).1

/-- Vector register r in lane k. -/
def rdV (s : State) (r k : Nat) : Word := seen s .vec r k (mget 0 s.warp.v (r * 32 + k))
/-- Scalar register r. -/
def rdS (s : State) (r : Nat) : Word := seen s .scal r 0 (mget 0 s.warp.sr r)
/-- Predicate r as a mask of lanes; p15 reads 1 in every lane (R36). -/
def rdP (s : State) (r : Nat) : Mask := if r = 15 then BitVec.allOnes 32 else seenP s r (mget 0 s.warp.p r)

/-- Lanes of the issuing entry whose guard is true (R10, R39). -/
def active (s : State) (c : Ctl) : Mask :=
  let p := rdP s c.gpred.val
  entryMask s.warp &&& (if c.gneg then ~~~p else p)

/-- Active lanes that are not helper lanes (R208). -/
def partOf (s : State) (c : Ctl) : Mask := active s c &&& ~~~s.warp.helpers

/-- The lowest lane of a mask, 0 when it is empty. -/
def lowLane (m : Mask) : Nat := ((lanesOf m).head?).getD 0

/-- The number of lanes in a mask. -/
def laneCount (m : Mask) : Nat := (lanesOf m).length

/-- The value of a selector, in a 32-bit or 64-bit operand (R35). -/
def selValue (s : State) (act : Mask) (x : Sel) (n k : Nat) : Nat :=
  let w := s.warp
  let full := match x with
    | .zero => 0
    | .laneid => k
    | .quadid => k / 4
    | .warpid => w.wid
    | .crewid => w.crew.getD 0
    | .coreid => w.core
    | .sectorid => w.core / 24
    | .pkgid => s.pkg
    | .gtc => s.gtc.value.toNat
    | .ip => (curIp w).toNat
    | .amask => act.toNat
    | .emask => (entryMask w).toNat
    | .hmask => (act &&& w.helpers).toNat
    | .cls => w.cls
    | .vi => w.vi
    | .launchid => w.launch
  full % 2 ^ (32 * n)

/-- The bits of an integer source of n registers in lane k, as an unsigned number (R35 to R38). -/
def srcBits (s : State) (act : Mask) (o : Opnd) (n k : Nat) : Nat :=
  match o with
  | .v r => if n = 2 then (rdV s r.val k).toNat + 2 ^ 32 * (rdV s (r.val + 1) k).toNat else (rdV s r.val k).toNat
  | .s r => if n = 2 then (rdS s r.val).toNat + 2 ^ 32 * (rdS s (r.val + 1)).toNat else (rdS s r.val).toNat
  | .p r => if (rdP s r.val).getLsbD k then 1 else 0
  | .sel x => selValue s act x n k
  | .imm i => (i.signExtend (32 * n)).toNat

/-- Whether a lane writes: a scalar or discarded destination is written once. -/
def setV (w : Warp) (r k : Nat) (x : Word) : Warp := { w with v := mset 0 w.v (r * 32 + k) x }
/-- Scalar register r written. -/
def setS (w : Warp) (r : Nat) (x : Word) : Warp := { w with sr := mset 0 w.sr r x }
/-- Predicate r written in the lanes of m; p15 discards (R36). -/
def setP (w : Warp) (r : Nat) (m bits : Mask) : Warp :=
  if r = 15 then w else { w with p := mset 0 w.p r ((mget 0 w.p r &&& ~~~m) ||| (bits &&& m)) }

/-- A destination of n registers written from f: per active lane for a vector or predicate, once for a scalar, never for
the ZERO selector (R32, R35, R36). -/
def writeDst (s : State) (act : Mask) (d : Opnd) (n : Nat) (f : Nat → Nat) : State :=
  match d with
  | .v r => setWarp s fun w => (lanesOf act).foldl (fun w k =>
      let x := f k
      let w := setV w r.val k (BitVec.ofNat 32 x)
      if n = 2 then setV w (r.val + 1) k (BitVec.ofNat 32 (x / 2 ^ 32)) else w) w
  | .s r => setWarp s fun w =>
      let x := f (lowLane act)
      let w := setS w r.val (BitVec.ofNat 32 x)
      if n = 2 then setS w (r.val + 1) (BitVec.ofNat 32 (x / 2 ^ 32)) else w
  | .p r => setWarp s fun w => setP w r.val act (maskOf fun k => f k % 2 = 1)
  | _ => s

/-- The values that the registers of a code hold now, by lane (0 for a scalar or predicate). -/
def heldValues (w : Warp) (code : Nat) : SMap Word :=
  if code < 0x600 then (List.range 32).map fun k => (k, mget 0 w.v (code * 32 + k))
  else if code < 0x700 then [(0, mget 0 w.sr (code - 0x600))]
  else [(0, mget 0 w.p (code - 0x700))]

/-- The class and number of a register code (R31). -/
def codeReg (code : Nat) : RegClass × Nat :=
  if code < 0x600 then (.vec, code) else if code < 0x700 then (.scal, code - 0x600) else (.pred, code - 0x700)

/-! The frontier. -/

/-- An entry joined to one that already holds its IP, the higher priority being kept (R340). -/
def mergeEntry (e : Entry) : List Entry → List Entry
  | [] => [e]
  | h :: t =>
    if h.ip = e.ip then { h with mask := h.mask ||| e.mask, prio := if h.prio < e.prio then e.prio else h.prio } :: t
    else h :: mergeEntry e t

/-- Whether entry a issues before entry b (R340). -/
def entryBefore (a b : Entry) : Bool := decide (b.prio < a.prio) || (decide (a.prio = b.prio) && decide (a.ip < b.ip))

/-- An entry put in its place in issue order. -/
def insertEntry (e : Entry) : List Entry → List Entry
  | [] => [e]
  | h :: t => if entryBefore e h then e :: h :: t else h :: insertEntry e t

/-- The frontier in issue order: equal IPs merged, entries of helper lanes alone removed (R339, R340). -/
def frontier (helpers : Mask) (l : List Entry) : List Entry :=
  (((l.foldl (fun a e => mergeEntry e a) []).filter fun e => e.mask &&& ~~~helpers ≠ 0)).foldl
    (fun a e => insertEntry e a) []

/-- IP plus n words, wrapping (R25). -/
def ipAdd (ip : BitVec 48) (n : Int) : BitVec 48 := ip + BitVec.ofInt 48 n

/-- The warp's next instruction held back by the stall count, and what it had in hand for this one let go (R41); the frontier is left as
a control transfer has set it (R345). -/
def passTime (s : State) (c : Ctl) : State :=
  setWarp s fun w => { w with nextAt := s.now + max c.stall.toNat 1, wait := none, resume := none, latchAt := none, got := [], walked := [] }

/-- The issuing entry moved to its next word (R41). -/
def advance (s : State) (c : Ctl) : State :=
  passTime (setWarp s fun w =>
    { w with entries := match w.entries with
        | e :: t => frontier w.helpers ({ e with ip := ipAdd e.ip 1 } :: t)
        | [] => [] }) c

/-- The distinct IPs among paths merged, helper-only paths dropped. -/
def groupPaths (helpers : Mask) (l : List Entry) : List Entry := frontier helpers l

/-- Paths in rank order: larger lane counts first, then the lower IP (R341). -/
def rankPaths (l : List Entry) : List Entry :=
  l.foldl (fun a e => ins e a) []
where
  /-- A path put in its rank. -/
  ins (e : Entry) : List Entry → List Entry
    | [] => [e]
    | h :: t =>
      if laneCount h.mask < laneCount e.mask ∨ (laneCount h.mask = laneCount e.mask ∧ e.ip < h.ip) then e :: h :: t
      else h :: ins e t

/-- The frontier after the issuing entry is replaced by paths, and the paths that do not fit (R341). -/
def splitPaths (w : Warp) (paths : List Entry) : List Entry × List Entry :=
  let others := w.entries.drop 1
  let all := frontier w.helpers (others ++ paths)
  if all.length ≤ 4 then (all, [])
  else
    let ranked := rankPaths (groupPaths w.helpers paths)
    let fit := ranked.foldl (fun (a : List Entry × List Entry) p =>
      let next := frontier w.helpers (a.1 ++ [p])
      if next.length ≤ 4 then (next, a.2) else (a.1, a.2 ++ [p])) (others, [])
    (frontier w.helpers fit.1, fit.2)

end Sys2Proof.Machine
end

