-- ==== Sys2Proof/Machine/Ops.lean ====
section
/-! DEFINITION. The named operations shared by the meanings: continuation records and their pool, events and saggars, held
effects, the end of a segment (R330), taking a trap (R371 to R375) and returning from one (R378), and the issue of an
instruction (R39 to R49). -/

namespace Sys2Proof.Machine

/-- An event of a kind with a key (R334). -/
def eventOf (kind key : Nat) : DWord := BitVec.ofNat 64 (kind % 16 * 2 ^ 60 + key % 2 ^ 60)
/-- READY. -/
def evReady : DWord := 0
/-- LINE. -/
def evLine : DWord := eventOf 9 0
/-- ACC. -/
def evAcc : DWord := eventOf 10 0
/-- POOL. -/
def evPool : DWord := eventOf 11 0
/-- TILE with WHOLE = 1, COND = 0 (R334). -/
def evTileChange (core phys : Nat) : DWord := eventOf 1 (2 ^ 21 + core * 2 ^ 14 + phys)
/-- TILE with WHOLE = 1, COND = 1. -/
def evTileReady (core phys : Nat) : DWord := eventOf 1 (2 ^ 22 + 2 ^ 21 + core * 2 ^ 14 + phys)
/-- TILE with WHOLE = 0, one line. -/
def evTileLine (core phys line : Nat) : DWord := eventOf 1 (core * 2 ^ 14 + line * 2 ^ 7 + phys)
/-- BATCH. -/
def evBatch (wid n : Nat) : DWord := eventOf 2 (wid * 16 + n)
/-- WORD. -/
def evWord (w64 : Bool) (cond dpa : Nat) : DWord := eventOf 3 ((if w64 then 2 ^ 57 else 0) + cond * 2 ^ 54 + dpa / 4)
/-- JOIN. -/
def evJoin (dpa : Nat) : DWord := eventOf 4 (dpa / 8)
/-- BAR. -/
def evBar (gen : Nat) (cl : Bool) (bar : Nat) : DWord := eventOf 5 (gen * 32 + (if cl then 16 else 0) + bar)
/-- GTC. -/
def evGtc (t : Nat) : DWord := eventOf 6 t
/-- PAGE. -/
def evPage (asid vpn : Nat) : DWord := eventOf 7 (asid * 2 ^ 36 + vpn)
/-- COLL. -/
def evColl (v : Nat) : DWord := eventOf 8 v

/-- The sector that leads, while its lease lasts (R396). -/
def leaderOf (s : State) : Option Nat :=
  match s.fwCores[s.lease.holder]? with
  | some c => if c.leader && decide (c.epoch = s.lease.epoch) && decide (s.gtc.value < s.lease.expiry) then some s.lease.holder else none
  | none => none

/-! Memory words. -/

/-- Whether a WORD or JOIN condition holds for a value (R334, R348).
Log 65 (DEDUCED). -/
def wordCond (cond w : Nat) (x c : Nat) : Bool :=
  let xs := sextNat w x
  let cs := sextNat w c
  match cond with
  | 0 => x = c
  | 1 => x ≠ c
  | 2 => c ≤ x
  | 3 => x < c
  | 4 => cs ≤ xs
  | _ => xs < cs

/-- n bytes at a device address as a number.
Log 31 (DEDUCED). -/
def readDpaNat (s : State) (swz : BitVec 4) (dpa n : Nat) : Nat :=
  natOfBytes ((List.range n).map fun i => readDpa s swz (dpa + i))

/-- The tile table entry of a physical tile of a core (R185). -/
def tileAt (s : State) (core phys : Nat) : Tile := mget Tile.reset s.tiles (core * 128 + phys)

/-- A tile table entry updated. -/
def setTile (s : State) (core phys : Nat) (f : Tile → Tile) : State :=
  { s with tiles := mset Tile.reset s.tiles (core * 128 + phys) (f (tileAt s core phys)) }

/-- A batch tag of a warp number (R173). -/
def tagOf (c : Crew) (wid k : Nat) : Tag :=
  mget { st := .free, count := 0, zf := false, err := false, age := 0 } c.tags (wid * 8 + k)

/-- Batches of a warp number outstanding: tags CLOSED or DONE (R173). -/
def outstanding (c : Crew) (wid : Nat) : Nat :=
  ((List.range 8).filter fun k => decide ((tagOf c wid k).st = .closed ∨ (tagOf c wid k).st = .done)).length

/-- Whether an instance g of a barrier at generation gen has completed, counted modulo 2^32 (R352). -/
def barDone (gen g : Word) : Bool := decide ((gen - g).toNat ≠ 0 ∧ (gen - g).toNat < 2 ^ 31)

/-- A barrier of a set (R352). -/
def barOf (m : SMap Barrier) (b : Nat) : Barrier := mget { gen := 0, now := [], next := [] } m b

/-- The barriers that a crew's .cl scope names: its cluster's (R328, R352). -/
def clusterBars (s : State) (c : Crew) : SMap Barrier :=
  match s.clusters.find? fun k => k.launch = c.launch && k.idx = c.cluster with
  | some k => k.bars
  | none => c.bars

/-- Warps resident on the package. -/
def residents (s : State) : List Warp := s.warp :: s.bench

/-- Whether a put of a warp has yet to write a VALID byte (R176). -/
def putting (s : State) (uid : Nat) : Bool := s.puts.any fun p => p.uid = uid

/-- Whether work of a warp is still outstanding after its end: responses, walks, puts, matrix instructions (R334, LINE). -/
def busyFor (s : State) (uid : Nat) : Bool :=
  (s.resps.any fun r => r.uid = uid) || (s.walks.any fun r => r.uid = uid) || putting s uid
    || (s.mxOps.any fun m => m.uid = uid) || (s.mxQueue.any fun m => m.uids.contains uid)

/-- Pool bytes of an interface outside every reservation and every charge past one (R343). -/
def poolFree (s : State) (vi : Nat) : Nat :=
  (viOf s vi).poolSize - (s.launches.foldl (fun n l => if l.vi = vi then n + max l.reserved l.charged else n) 0)

/-- Whether a record of some bytes can be charged to a launch (R343). -/
def roomFor (s : State) (launch bytes : Nat) : Bool :=
  match launchOf s launch with
  | none => true
  | some l => decide (max l.reserved (l.charged + bytes) - max l.reserved l.charged ≤ poolFree s l.vi)

/-- Accumulators of a core that no gang holds (R249). -/
def freeAccs (s : State) (core : Nat) : List Nat :=
  (List.range 16).filter fun a => !(s.gangs.any fun g => g.core = core && g.accs.contains a)

/-- Whether a record is kept only for a replay of its firing (R385). -/
def Rec.isKept (r : Rec) : Bool := match r.place with | .kept _ => true | _ => false

/-- The current number of threads that may still arrive for a crew: lanes of its records and of its resident warps. -/
def crewThreads (s : State) (launch crew : Nat) : Nat :=
  (s.recs.foldl (fun n r =>
      if r.launch = launch ∧ r.crew = some crew ∧ r.isKept = false then
        n + laneCount r.mask else n) 0)
    + ((residents s).foldl (fun n w =>
      if w.launch = launch ∧ w.crew = some crew then
        n + laneCount ((w.entries.foldl (fun m e => m ||| e.mask) 0) &&& ~~~w.helpers) else n) 0)

/-- The owner, HOLD and MXR of a tile as one number, for a record that waits for any of them to change (R334).
Log 161 (DEDUCED). -/
def tileMark (t : Tile) : DWord := BitVec.ofNat 64 ((if t.thread then 1 else 0) + (if t.hold then 2 else 0) + 4 * t.mxr)

/-- Whether the condition of a record's event holds now (R334, R336). A record that waits for a change of a tile keeps the tile's owner,
HOLD and MXR as they stood; it is due too if the tile already stands as its instruction may want it. An ACC record's condition is that as
many accumulators are free as its GANG takes, a POOL record's that the pool has space.
Log 161 (DEDUCED). -/
def eventCond (s : State) (r : Rec) : Bool :=
  let kind := dbits r.event 63 60
  let key := dbits r.event 59 0
  let crew := crewAt s r.launch (r.crew.getD 0)
  match kind with
  | 0 => true
  | 1 =>
    let t := tileAt s (bitsOf key 20 14) (bitsOf key 6 0)
    if (match crew with | some c => c.saved | none => false) then false
    else if bitsOf key 21 21 = 0 then t.full.getLsbD (bitsOf key 13 7) || decide (t.thread)
    else if bitsOf key 22 22 = 1 then t.thread && decide (t.st = .ready)
    else t.thread || decide (t.st = .ready) || (!t.hold && decide (t.mxr = 0)) || decide (tileMark t ≠ r.cmp)
  | 2 => match crew with
    | none => true
    | some c =>
      let wid := bitsOf key 8 4
      let n := bitsOf key 3 0
      if n = 15 then !((List.range 8).any fun k => decide ((tagOf c wid k).st = .opened ∧ (tagOf c wid k).count = 255))
      else decide (outstanding c wid ≤ n)
  | 3 =>
    let w64 := bitsOf key 57 57 = 1
    let n := if w64 then 8 else 4
    wordCond (bitsOf key 56 54) (8 * n) (readDpaNat s r.swz (bitsOf key 53 0 * 4) n) (r.cmp.toNat % 2 ^ (8 * n))
  | 4 => decide (readDpaNat s r.swz (bitsOf key 52 0 * 8) 8 = 0)
  | 5 => match crew with
    | none => true
    | some c =>
      let bars := if bitsOf key 4 4 = 1 then clusterBars s c else c.bars
      barDone (barOf bars (bitsOf key 3 0)).gen (BitVec.ofNat 32 (bitsOf key 36 5))
  | 6 => decide (key ≤ s.gtc.value.toNat)
  | 7 =>
    let ps := if r.pages.isEmpty then [(⟨bitsOf key 45 36, bitsOf key 35 0⟩ : Page)] else r.pages
    ps.all fun p => !(s.pageReqs.any fun q => q.page = p)
  | 8 => decide ((((viOf s r.vi).collSeq - BitVec.ofNat 32 (bitsOf key 31 0)).toNat) < 2 ^ 31)
  | 9 => !busyFor s r.src
  | 10 => match crew with
    | none => true
    | some c => decide (r.cmp.toNat ≤ (freeAccs s c.core).length)
  | _ => decide (0 < poolFree s r.vi)

/-- Whether a record's event holds now: its condition, once no response is outstanding for it and every put of its segment has been
written (R21, R176, R334, R336). -/
def eventHolds (s : State) (r : Rec) : Bool :=
  !(s.resps.any fun x => x.uid = r.src) && !(s.mxOps.any fun m => m.uid = r.src) && !putting s r.src && eventCond s r

/-- Whether a launch's records may be fired: it is not suspended and its interface is not switched out (R381 to R383). -/
def firable (s : State) (launch vi : Nat) : Bool :=
  !(viOf s vi).switchedOut && (match launchOf s launch with | some l => !l.suspended | none => true)

/-- The bytes of a record with n lanes and v saved vector registers, header included (R333).
Log 56 (DESIGN CHOICE). -/
def recSize (n v : Nat) : Nat := (1148 + 4 * n * (v + 1) + 63) / 64 * 64

/-- A launch's charge lowered by some bytes (R343). -/
def uncharge (s : State) (launch bytes : Nat) : State := setLaunch s launch fun l => { l with charged := l.charged - bytes }

/-- A record's place updated; since is the cycle of the change. -/
def setPlace (s : State) (rid : Nat) (p : RecPlace) : State :=
  { s with recs := s.recs.map fun r => if r.rid = rid then { r with place := p, since := s.now } else r }

/-- The lanes of a firing that a record takes: those it holds, or one for a TRAP record, for which one lane of the handler stands (R339,
R374). -/
def recLanes (r : Rec) : Nat := if r.kind = .trap then 1 else laneCount r.mask

/-- The lanes that the records of a saggar take. -/
def saggarLanes (s : State) (g : Saggar) : Nat :=
  g.rids.foldl (fun n rid => match s.recs.find? fun r => r.rid = rid with | some r => n + recLanes r | none => n) 0

/-- Saggars of a core (R337). -/
def saggarsOf (s : State) (core : Nat) : Nat := (s.saggars.filter fun g => g.core = core).length

/-! Staging (R170 to R172, R186). -/

/-- The 128-byte lines of a tile that a byte range touches. -/
def rangeLines (off len : Nat) : BitVec 128 :=
  BitVec.ofNat 128 ((List.range 128).foldl (fun a i => if off < 128 * (i + 1) ∧ 128 * i < off + len then a + 2 ^ i else a) 0)

/-- Whether a writer can take a tile now (R186).
Log 81 (DEDUCED). -/
def canHold (t : Tile) : Bool := !t.thread && !t.hold && decide (t.mxr = 0)

/-- A tile taken by a holder that writes a range of it (R186).
Log 81 (DEDUCED). -/
def holdTile (s : State) (core phys : Nat) (flip : Bool) (off len : Nat) : State :=
  setTile s core phys fun t =>
    { t with hold := true, flip := flip, st := .filling, full := t.full &&& ~~~rangeLines off len }

/-- A stage operation, started if its tile can be taken.
Log 81 (DEDUCED). -/
def startStage (s : State) (o : StageOp) : State × StageOp :=
  match o.started, o.phys, o.region.tile with
  | false, some p, some t =>
    if canHold (tileAt s o.core p) then (holdTile s o.core p true t.2 o.region.len, { o with started := true }) else (s, o)
  | _, _, _ => (s, o)

/-- A region for the stage engine, for whom and with the tile it goes to. -/
def stageOp (what : StageFor) (r : Region) (asid vi core : Nat) (phys : Option Nat) : StageOp :=
  { id := 0, what := what, region := r, asid := asid, vi := vi, core := core, phys := phys, started := phys.isNone, buf := [], done := [] }

/-- Regions given to the stage engine, each under a number of its own. -/
def addStages (s : State) (os : List StageOp) : State :=
  os.foldl (fun t o =>
    let r := startStage { t with fresh := t.fresh + 1 } { o with id := t.fresh }
    { r.1 with stageOps := r.1.stageOps ++ [r.2] }) s

/-- A region of a launch's image as its launch has it staged: a supervisor's for a handler (R122, R376). -/
def launchRegion (l : Launch) (r : Region) : Region := { r with user := r.user && decide (l.mode ≠ .handler) }

/-- Regions attached to a saggar (R171). -/
def attachRegions (s : State) (sid : Nat) (rs : List StageOp) : State :=
  let len := rs.foldl (fun n r => n + r.region.len) 0
  addStages { s with saggars := s.saggars.map fun g =>
    if g.sid = sid then { g with staging := g.staging + rs.length, stagedLen := g.stagedLen + len } else g } rs

/-- The LLC regions of a launch attached, once, to the saggar that it seeds (R171). -/
def attachLlc (s : State) (g : Saggar) : State :=
  match launchOf s g.launch with
  | none => s
  | some l =>
    let rs := l.image.regions.filter fun r => r.tile.isNone
    if g.trap ∨ g.code ≠ l.image.entry ∨ rs = [] then s
    else
      let s := setLaunch s l.id fun l => { l with image := { l.image with regions := l.image.regions.filter fun r => r.tile.isSome } }
      attachRegions s g.sid (rs.map fun r => stageOp (.saggar g.sid) (launchRegion l r) l.asid l.vi 0 none)

/-- The tile regions of a bound crew attached, once, to the saggar of its seed records (R171).
Log 80 (DEDUCED). -/
def attachTiles (s : State) (g : Saggar) : State :=
  match launchOf s g.launch, g.crew with
  | some l, some c =>
    (match crewAt s g.launch c with
     | some k =>
       if k.staged ∨ g.trap ∨ g.code ≠ l.image.entry then s
       else
         let ops := l.image.regions.filterMap fun r => match r.tile with
           | some t => (k.tiles[t.1]?).map fun p => stageOp (.saggar g.sid) (launchRegion l r) l.asid l.vi k.core (some p)
           | none => none
         attachRegions (setCrewAt s g.launch c fun k => { k with staged := true }) g.sid ops
     | none => s)
  | _, _ => s

/-- Whether a saggar holds a GANG record, which no other record joins (R247). -/
def holdsGang (s : State) (g : Saggar) : Bool := s.recs.any fun r => g.rids.contains r.rid && decide (r.kind = .gang)

/-- Whether a record's saggar lies in any slot of its sector: its key names no crew, and no FWD has sent it to one core (R337, R351, R373). -/
def sectorWide (r : Rec) : Bool := (r.crew.isNone || decide (r.kind = .trap)) && r.pin.isNone

/-- Whether a record joins a saggar: the same key, never with a GANG record, on its crew's core, or anywhere in the sector where the key
names no crew; what a FWD has sent to one core stays apart (R247, R337, R351, R373).
Log 72 (DEDUCED), 164 (DEDUCED). -/
def sagMatch (s : State) (core : Nat) (r : Rec) (trap : Bool) (g : Saggar) : Bool :=
  decide (g.launch = r.launch ∧ g.trap = trap ∧ r.kind ≠ .gang ∧ (trap = true ∨ (g.code = r.code ∧ g.crew = r.crew)) ∧ g.pin = r.pin)
    && (if sectorWide r then decide (g.core / 24 = core / 24) else decide (g.core = core)) && !holdsGang s g

/-- The core whose slot a new saggar takes: the record's, or where it lies anywhere in the sector the first that has a free one (R337). -/
def slotCore (s : State) (core : Nat) (r : Rec) : Option Nat :=
  if saggarsOf s core < 256 then some core
  else if !sectorWide r then none
  else ((List.range 24).map fun k => core / 24 * 24 + k).find? fun c => decide (saggarsOf s c < 256)

/-- A record put into its saggar on a core: one that matches, a new slot, or the overflow list (R337, R338).
Log 72 (DEDUCED). -/
def joinSaggarAt (s : State) (core : Nat) (r : Rec) : State :=
  let trap := decide (r.kind = .trap)
  match s.saggars.find? fun g => sagMatch s core r trap g with
  | some g =>
    let total := saggarLanes s g + recLanes r
    let s := setPlace s r.rid (.saggar g.sid)
    { s with saggars := s.saggars.map fun h =>
        if h.sid = g.sid then
          { h with
            rids := h.rids ++ [r.rid]
            st := if 32 ≤ total then .due else h.st
            dueSince := if 32 ≤ total ∧ h.st = .gather then s.now else h.dueSince }
        else h }
  | none =>
    match slotCore s core r with
    | none => setPlace s r.rid (.overflow core)
    | some at_ =>
      let sid := s.fresh
      let full := decide (32 ≤ recLanes r ∨ r.kind = .gang)
      let s := setPlace { s with fresh := s.fresh + 1 } r.rid (.saggar sid)
      let g : Saggar :=
        { sid := sid, core := at_, launch := r.launch, code := r.code, crew := r.crew, trap := trap, pin := r.pin,
          st := if full then .due else .gather, rids := [r.rid], since := s.now, dueSince := s.now, staging := 0, fail := none,
          stagedLen := 0 }
      attachTiles (attachLlc { s with saggars := s.saggars ++ [g] } g) g

/-- The core on which a record's saggar lies, or in whose sector: its crew's, the one a FWD names, or its writer's (R337, R351).
Log 72 (DEDUCED), 74 (DEDUCED). -/
def homeCore (s : State) (r : Rec) : Nat :=
  match r.crew with
  | none => r.pin.getD r.core
  | some c => match crewAt s r.launch c with | some k => k.core | none => r.core

/-- A record whose event has been registered: tested, and placed in its saggar or parked (R330, R336).
Log 72 (DEDUCED). -/
def releaseRec (s : State) (rid : Nat) : State :=
  match s.recs.find? fun r => r.rid = rid with
  | none => s
  | some r =>
    if eventHolds s r && firable s r.launch r.vi then joinSaggarAt s (homeCore s r) r
    else setPlace s rid .parked

/-- Whether a parked record is tested by a memory-word event only (R336). -/
def wordKind (r : Rec) : Bool := decide (dbits r.event 63 60 = 3 ∨ dbits r.event 63 60 = 4)

/-- Status bits that a PGRQ record takes when its pages have answered: RES of each lane's leaf, 0 if its walk fails
(R135).
Log 63 (DEDUCED). -/
def pgrqApply (s : State) (r : Rec) : State :=
  let step := fun (m : SMap Word) (e : PgrqWait) =>
    if e.pred = 15 then m else
    let res := match walk s r.vi r.asid (e.page.vpn * 65536) with | .leaf x _ => x.getLsbD 1 | _ => false
    let old := mget 0 m e.pred
    mset 0 m e.pred (if res then old ||| laneBit e.pos else old &&& ~~~laneBit e.pos)
  { s with recs := s.recs.map fun q =>
      if q.rid = r.rid then { q with pgrq := [], pages := [], p := q.pgrq.foldl step q.p } else q }

/-- A parked record whose condition has been found true, sent to its saggar. -/
def wakeRec (s : State) (r : Rec) : State :=
  let s := if r.pgrq.isEmpty then s else pgrqApply s r
  match s.recs.find? fun q => q.rid = r.rid with
  | some q => joinSaggarAt s (homeCore s q) q
  | none => s

/-- Records in the order in which those of one moment arrive: by their writer's core, then by their lowest lane position (R330, R339). -/
def sortRecs (l : List Rec) : List Rec := l.foldl (fun a r => put r a) []
where
  /-- A record put in its place. -/
  put (r : Rec) : List Rec → List Rec
    | [] => [r]
    | h :: t => if r.core < h.core ∨ (r.core = h.core ∧ lowLane r.mask < lowLane h.mask) then r :: h :: t else h :: put r t

/-- The parked records of a set tested, and those whose events hold sent to their saggars (R336, R339). -/
def wakeAll (s : State) (which : Rec → Bool) : State :=
  (sortRecs (s.recs.filter fun r => decide (r.place = .parked) && which r && eventHolds s r && firable s r.launch r.vi)).foldl wakeRec s

/-! Saving crews (R174, R266, R351, R382). -/

/-- The key of an element of an accumulator of a core. -/
def accKey (core acc row col : Nat) : Nat := (core * 16 + acc) * 16384 + row * 128 + col

/-- Scratchpad bytes of a tile from an offset (R181).
Log 3 (DESIGN CHOICE). -/
def padBytes (s : State) (core phys off n : Nat) : List Byte := mgetRange 0 s.pad (core * 2 ^ 21 + phys * 16384 + off) n

/-- Scratchpad bytes of a tile written. -/
def padWrite (s : State) (core phys off : Nat) (bytes : List Byte) : State :=
  { s with pad := msetRange 0 s.pad (core * 2 ^ 21 + phys * 16384 + off) bytes }

/-- Whether a packet, a staging or an ACPY is in flight on a crew's tiles, where they lie now (R174).
Log 68 (DEDUCED). -/
def crewInFlight (s : State) (c : Crew) : Bool :=
  let mine := fun (core phys : Nat) => if c.saved then decide (core = c.image) else decide (core = c.core) && c.tiles.contains phys
  (s.packets.any fun p => match p.tile with | some t => mine t.1 t.2.1 | none => false)
    || (s.stageOps.any fun o => match o.phys with | some p => mine o.core p | none => false)
    || (s.acpys.any fun a => a.launch = c.launch && a.crew = c.crew)

/-- Whether matrix instructions of a crew are in flight, for which its save and its end wait (R248, R266).
Log 68 (DEDUCED). -/
def crewMatrix (s : State) (launch crew : Nat) : Bool :=
  (s.mxQueue.any fun m => m.launch = launch && m.crew = crew) || (s.mxOps.any fun m => m.launch = launch && m.crew = crew)

/-- Whether a crew is to be saved: it is being forwarded, its interface is switched out or its launch is suspended.
Log 68 (DEDUCED). -/
def saveWanted (s : State) (c : Crew) : Bool :=
  !c.saved && (c.moving.isSome || (match launchOf s c.launch with
    | some l => l.suspended || (viOf s l.vi).switchedOut
    | none => false))

/-- The contents of a gang's accumulators by z index. -/
def gangAccs (s : State) (g : Gang) : SMap Word :=
  (List.range g.accs.length).foldl (fun m z =>
    (List.range 16384).foldl (fun m i =>
      mset 0 m (z * 16384 + i) (mget 0 s.accs (accKey g.core (g.accs.getD z 0) 0 i))) m) []

/-- An accumulator's elements all set to +0. -/
def clearAcc (s : State) (core acc : Nat) : State :=
  { s with accs := mdrop s.accs (accKey core acc 0 0) (accKey core (acc + 1) 0 0) }

/-- Tiles moved from one place to another with their table entries and bytes; what is in flight for them follows (R174). -/
def moveTiles (s : State) (c0 : Nat) (from_ : List Nat) (c1 : Nat) (dst : List Nat) (left : Tile) : State :=
  let dest := fun (core phys : Nat) =>
    if core = c0 then (match (List.range from_.length).find? fun i => decide (from_[i]? = some phys) with
      | some i => some (c1, dst.getD i 0)
      | none => none) else none
  let s := (List.range from_.length).foldl (fun t i =>
    let p := from_.getD i 0
    let q := dst.getD i 0
    let x := tileAt t c0 p
    let bytes := padBytes t c0 p 0 16384
    setTile (padWrite (setTile t c1 q fun _ => x) c1 q 0 bytes) c0 p fun _ => left) s
  { s with
    packets := s.packets.map fun p => match p.tile with
      | some t => (match dest t.1 t.2.1 with | some d => { p with tile := some (d.1, d.2, t.2.2) } | none => p)
      | none => p
    stageOps := s.stageOps.map fun o => match o.phys with
      | some p => (match dest o.core p with | some d => { o with core := d.1, phys := some d.2 } | none => o)
      | none => o
    acpys := s.acpys.map fun a => match dest a.core a.phys with | some d => { a with core := d.1, phys := d.2 } | none => a }

/-- A crew whose save is wanted written to its save area: its tiles move there with whatever is in flight for them, and its accumulators
and gang registers are kept (R174, R266).
Log 68 (DEDUCED), 91 (DESIGN CHOICE). -/
def saveCrew (s : State) (c : Crew) : State :=
  let mine := fun (g : Gang) => g.launch = c.launch && g.crew = c.crew
  let accs := (s.gangs.filter mine).map fun g => (g.members, gangAccs s g)
  let img := 128 + s.fresh
  let s := (s.gangs.filter mine).foldl (fun t g => g.accs.foldl (fun u a => clearAcc u g.core a) t) { s with fresh := s.fresh + 1 }
  let s := moveTiles s c.core c.tiles img (List.range c.tiles.length) { Tile.reset with lastVi := some c.vi }
  let s := { s with gangs := s.gangs.map fun g => if mine g then { g with accs := [] } else g }
  setCrewAt s c.launch c.crew fun k => { k with saved := true, image := img, savedAccs := accs }

/-- A save area emptied. -/
def dropImage (s : State) (c : Crew) : State :=
  (List.range c.tiles.length).foldl (fun t i =>
    setTile (padWrite t c.image i 0 (List.replicate 16384 0)) c.image i fun _ => Tile.reset) s

/-- A saved crew that goes to another package leaves with its records, once nothing is in flight for it and there is space there (R351).
Log 66 (DEDUCED), 68 (DEDUCED), 91 (DESIGN CHOICE). -/
def sendCrew (s : State) (c : Crew) (pkg : Nat) : State :=
  let tiles := (List.range c.tiles.length).map fun i => (tileAt s c.image i, padBytes s c.image i 0 16384)
  let leave := fun (r : Rec) => r.launch = c.launch && r.crew = some c.crew && !r.isKept
  let s := dropImage s c
  { s with
    sent := s.sent ++ (s.recs.filter leave).map fun r => (pkg, r)
    sentCrews := s.sentCrews ++ [(pkg, { c with savedTiles := tiles, image := 0 })]
    recs := s.recs.filter fun r => !leave r
    saggars := s.saggars.filter fun g => !(g.launch = c.launch && g.crew = some c.crew)
    gangs := s.gangs.filter fun g => !(g.launch = c.launch && g.crew = c.crew)
    crews := s.crews.filter fun k => !(k.launch = c.launch && k.crew = c.crew) }

/-- Every crew saved that is to be and can be, and those sent that are to leave. -/
def saveCrews (s : State) : State :=
  s.crews.foldl (fun t c =>
    if saveWanted t c && !crewMatrix t c.launch c.crew
        && !((residents t).any fun w => w.launch = c.launch && crewKey w = c.crew && !w.entries.isEmpty)
    then saveCrew t c
    else match c.moving with
      | some (2, pkg) =>
        if c.saved && !crewInFlight t c then
          let u := { t with free := t.free + 1 }
          if Config.farRoom t.free c.crew then sendCrew u c pkg else u
        else t
      | _ => t) s

/-! Puts (R176). -/

/-- The packets of a put written in order while the ring has room for the index of each (R153). -/
def putPackets (p : PutOp) : List (BitVec 512) → Nat → State → State × PutOp
  | [], n, s => (s, { p with next := n, packets := [] })
  | pk :: rest, n, s =>
    let rd := natOfBytes (readXs s p.hdr 8 8)
    if (n + 2 ^ 64 - rd) % 2 ^ 64 < 2 ^ p.log2n then
      let valid := BitVec.ofNat 8 (0x80 + n / 2 ^ p.log2n % 128)
      let slot := valid :: (bytesOfNat 64 pk.toNat).drop 1
      putPackets p rest ((n + 1) % 2 ^ 64) (writeX s p.ring p.asid p.rva (64 * (n % 2 ^ p.log2n)) slot)
    else (s, { p with next := n, packets := pk :: rest })

/-- Every put that waits for room tried again; one whose packets are all written is done (R176). -/
def runPuts (s : State) : State :=
  s.puts.foldl (fun t p =>
    let r := putPackets p p.packets p.next t
    { r.1 with puts := if r.2.packets = [] then r.1.puts.erase p else r.1.puts.map fun q => if q = p then r.2 else q }) s

/-- A put at its time: its indices claimed on WRIDX by one fetch-add, then its packets written as far as the ring has room (R153, R176).
Log 86 (DEDUCED). -/
def claimPut (s : State) (p : PutOp) : State :=
  let base := natOfBytes (readXs s p.hdr 0 8)
  let s := atomWrite s p.hdr p.hasid p.hva 0 (bytesOfNat 8 (base + p.packets.length))
  runPuts { s with puts := s.puts ++ [{ p with next := base }] }

/-- A record on its way to another package leaves once its event holds and the pool there has space (R351).
Log 66 (DEDUCED). -/
def sendRec (s : State) (r : Rec) : State :=
  match r.place with
  | .leaving pkg =>
    if !eventHolds s r || !firable s r.launch r.vi then s
    else
      let t := { s with free := s.free + 1 }
      if Config.farRoom s.free r.rid then
        { uncharge t r.launch (recSize (laneCount r.mask) r.regs.length) with
          recs := t.recs.filter fun q => q.rid ≠ r.rid
          sent := t.sent ++ [(pkg, r)] }
      else t
  | _ => s

/-- Puts tried, crews saved and records sent that are to be, and every parked record tested again but those that wait for a memory-word
event (R336).
Log 68 (DEDUCED). -/
def settle (s : State) : State :=
  let s := saveCrews (runPuts s)
  wakeAll (s.recs.foldl sendRec s) fun r => !wordKind r

/-- The device address that a WORD or JOIN event names, and its bytes. -/
def wordKey (r : Rec) : Nat :=
  if dbits r.event 63 60 = 3 then dbits r.event 53 0 * 4 else dbits r.event 52 0 * 8

/-- A memory-word event at an address: each record parked on it is tested (R296, R336).
Log 65 (DEDUCED). -/
def wordEvent (s : State) (dpa : Nat) : State :=
  wakeAll s fun r => wordKind r && decide (wordKey r / 8 = dpa / 8)

/-! Records. -/

/-- The first 64-byte aligned gap of a pool for some bytes (R332).
Log 56 (DESIGN CHOICE). -/
def poolAddr (s : State) (vi bytes : Nat) : Nat :=
  let v := viOf s vi
  let used := (s.recs.filter fun r => r.vi = vi).map fun r => (r.addr, recSize (laneCount r.mask) r.regs.length)
  let cands := v.poolBase :: used.map fun u => u.1 + u.2
  ((cands.filter fun a => used.all fun u => decide (a + bytes ≤ u.1 ∨ u.1 + u.2 ≤ a)).foldl
    (fun (b : Option Nat) a => match b with | none => some a | some x => some (min a x)) none).getD v.poolBase

/-- The space in which the kiln reads a launch's live-map table: at user level but for a handler's (R122, R376, R416).
Log 147 (DEDUCED). -/
def liveSpace (l : Launch) : Space := { vi := l.vi, asid := l.asid, user := decide (l.mode ≠ .handler) }

/-- The entry of a live-map table for an IP: its index and the registers it saves; none when the table has none or cannot
be read (R60, R416). LIVETAB = 0 is taken to name no table.
Log 147 (DEDUCED). -/
def liveEntry (s : State) (l : Launch) (ip : BitVec 48) : Option (Nat × List Nat) :=
  let sp := liveSpace l
  if l.image.livetab = 0 then none else
  match readVaNat s sp l.image.livetab 8 with
  | none => none
  | some n =>
    (List.range n).findSome? fun i =>
      let a := l.image.livetab + 8 + 200 * i
      match readVaNat s sp a 8 with
      | some h =>
        if h % 2 ^ 48 = ip.toNat then
          match readVa s sp (a + 8) 192 with
          | some bs => some (h / 2 ^ 48, (List.range 1536).filter fun r => (bs.getD (r / 8) 0).getLsbD (r % 8))
          | none => none
        else none
      | none => none

/-- What is saved at an IP: the live map's index and registers, or 0 and every register below NREG (R46, R331). -/
def savedRegs (s : State) (w : Warp) (ip : BitVec 48) (all : Bool) : Nat × List Nat :=
  if all then (0, List.range w.nreg) else
  match launchOf s w.launch with
  | none => (0, List.range w.nreg)
  | some l => match liveEntry s l ip with
    | none => (0, List.range w.nreg)
    | some (i, rs) => (i, rs.filter fun r => decide (r < w.nreg))

/-- What a record of a segment end is to hold beyond the warp's own state. -/
structure RecPlan where
  mask : Mask
  ip : BitVec 48
  prio : BitVec 4
  kind : RecKind
  event : DWord
  all : Bool
  tinfo : Word
  pages : List Page
  pgrq : List PgrqWait
  cmp : DWord
  swz : BitVec 4
deriving DecidableEq, Repr

/-- A record's header and payload as bytes, for the pool (R332, R333).
Log 57 (DEDUCED). -/
def recBytes (r : Rec) : List Byte :=
  let lanes := lanesOf r.mask
  let n := lanes.length
  let kind := match r.kind with | .normal => 0 | .lane => 1 | .trap => 2 | .preempt => 3 | .gang => 4
  let size := recSize n r.regs.length
  let head := bytesOfNat 8 (size * 2 ^ 32 - 64 * 2 ^ 32) ++ bytesOfNat 4 r.tinfo.toNat
    ++ bytesOfNat 4 (r.wid * 256 + r.prio.toNat * 65536 + (kind + 8 * r.cls) * 2 ^ 24)
    ++ bytesOfNat 2 r.livemap.toNat ++ bytesOfNat 2 r.nreg
    ++ bytesOfNat 4 (r.crew.getD 0xFFFFFFFF) ++ bytesOfNat 4 r.launch ++ bytesOfNat 4 r.mask.toNat
    ++ bytesOfNat 8 r.code.toNat ++ bytesOfNat 8 r.frame.toNat ++ bytesOfNat 8 r.join.toNat ++ bytesOfNat 8 r.event.toNat
  let regs := r.regs.flatMap fun x => lanes.flatMap fun k => bytesOfNat 4 (mget 0 r.v (x * 32 + k)).toNat
  let scal := (List.range 256).flatMap fun x => bytesOfNat 4 (mget 0 r.sr x).toNat
  let preds := (List.range 15).flatMap fun p =>
    bytesOfNat 4 ((List.range n).foldl (fun a i => if (mget 0 r.p p).getLsbD (lanes.getD i 0) then a + 2 ^ i else a) 0)
  let tids := lanes.flatMap fun k => bytesOfNat 4 (mget 0 r.tid k).toNat
  let body := head ++ regs ++ scal ++ preds ++ tids
  body ++ List.replicate (size - body.length) 0

/-- The address space through which an interface's supervisor sees its record pool: that of its handler (R374).
Log 56 (DESIGN CHOICE). -/
def poolSpace (s : State) (vi : Nat) : Option Space :=
  match (viOf s vi).handler with
  | none => none
  | some id => match launchOf s id with | some l => some { vi := vi, asid := l.asid, user := false } | none => none

/-- A record laid into the pool's memory, where the supervisor's address space maps it (R332, R374).
Log 57 (DEDUCED), 58 (DEDUCED). -/
def storeRec (s : State) (r : Rec) : State :=
  match poolSpace s r.vi with
  | none => s
  | some sp => (writeVa s sp r.addr (recBytes r)).getD s

/-- A launch's charge raised by some bytes (R343).
Log 56 (DESIGN CHOICE), 101 (DEDUCED). -/
def charge (s : State) (launch bytes : Nat) : State := setLaunch s launch fun l => { l with charged := l.charged + bytes }

/-- A record added to the pool, charged and held (R330, R343). -/
def addRec (s : State) (r : Rec) : State :=
  let bytes := recSize (laneCount r.mask) r.regs.length
  let r := { r with rid := s.fresh, addr := poolAddr s r.vi bytes, place := .held }
  let s := charge { s with fresh := s.fresh + 1, recs := s.recs ++ [r] } r.launch bytes
  storeRec s r

/-- The records that a plan gives: one for each join address among its lanes (R330).
Log 163 (DEDUCED). -/
def planRecs (s : State) (w : Warp) (p : RecPlan) : List Rec :=
  let joins := (lanesOf p.mask).map fun k => mget 0 w.join k
  let lm := savedRegs s w p.ip p.all
  joins.dedup.map fun j =>
    let mask := maskOf fun k => p.mask.getLsbD k && decide (mget 0 w.join k = j)
    { rid := 0, addr := 0, vi := w.vi, asid := w.asid, kind := p.kind, event := p.event, join := j, frame := w.frame,
      code := p.ip, mask := mask, launch := w.launch, crew := w.crew, nreg := w.nreg, livemap := BitVec.ofNat 16 lm.1,
      cls := w.cls, prio := p.prio, wid := w.wid, tinfo := p.tinfo, regs := lm.2,
      v := w.v.filter fun e => lm.2.contains (e.1 / 32) && mask.getLsbD (e.1 % 32),
      sr := w.sr, p := w.p.map fun e => (e.1, e.2 &&& mask), tid := w.tid.filter fun e => mask.getLsbD e.1, src := w.uid,
      pages := p.pages, pgrq := p.pgrq.filter fun q => mask.getLsbD q.pos, cmp := p.cmp, swz := p.swz, place := .held, runs := 0,
      walked := w.walked, since := s.now, core := w.core, pin := none,
      latchAt := if p.event = evReady ∧ w.wait = some evReady then some (w.latchAt.getD w.waitSince) else none }

/-! Store buffer. -/

/-- A request that stores of a drain make: the bytes of one line (R192), with the attributes of one of its stores. -/
structure LineReq where
  ent : StoreEnt
  line : Nat
  mask : BitVec 128
  data : Line
deriving DecidableEq, Repr

/-- The bytes of a store within its line, as a request of its own. -/
def lineReq (e : StoreEnt) (a : Nat) : LineReq :=
  match splitLines a e.bytes with
  | x :: _ => ⟨e, x.1, x.2.1, x.2.2⟩
  | [] => ⟨e, a / 128, 0, 0⟩

/-- Whether a store goes into the request of another: the same line in the same way, and through a stream or to a group only with stores
of its own instruction (R192, R294). -/
def joinsReq (r : LineReq) (x : LineReq) : Bool :=
  decide (r.line = x.line ∧ r.ent.swz = x.ent.swz ∧ r.ent.rep = x.ent.rep ∧ r.ent.ord = x.ent.ord ∧ r.ent.stream = x.ent.stream
    ∧ r.ent.group = x.ent.group ∧ (x.ent.stream = 0 ∧ x.ent.group = none ∨ r.ent.inst = x.ent.inst))

/-- A store joined to the latest request to its line, which the lines of other packages at the same offset count with; none if it cannot
join that one, or there is none. -/
def joinInto (x : LineReq) : List LineReq → Option (List LineReq)
  | [] => none
  | r :: t =>
    if r.line % 2 ^ 39 = x.line % 2 ^ 39 then
      (if joinsReq r x then some ({ r with mask := r.mask ||| x.mask, data := lineMerge r.data x.data x.mask } :: t) else none)
    else (joinInto x t).map (r :: ·)

/-- The line requests of stores in program order, later bytes over earlier ones (R191, R192). -/
def coalesce (es : List StoreEnt) : List LineReq :=
  (es.foldl (fun (rs : List LineReq) e => match e.loc with
    | .host _ => rs
    | .dev a => let x := lineReq e a; (joinInto x rs).getD (x :: rs)) []).reverse

/-- A line request performed: at its home, in the core's L1 or across the fabric, at the replica of a REP page (R113), on every package
of a multicast group (R191, R294), or through its glaze stream (R93).
Log 37 (DEDUCED), 44 (DEDUCED). -/
def performReq (s : State) (core : Nat) (r : LineReq) : State :=
  let e := r.ent
  let buddy := fun (t : State) (line : Nat) => match e.rep with
    | none => t
    | some b => if b ∈ t.unreach then markStale t e.asid e.va b (line * 128) else farStore t e.swz (buddyLine b line) r.mask r.data
  match e.group with
  | none =>
    if e.stream = 0 then buddy (storeLine s (some core) e.ord e.swz r.line r.mask r.data) r.line
    else
      let t := lineThrough s e.ord e.rep e.swz none e.stream r.line r.mask r.data
      match e.rep with
      | some b => if b ∈ t.unreach then markStale t e.asid e.va b (r.line * 128) else t
      | none => t
  | some g => g.2.foldl (fun t p =>
      let line := buddyLine p r.line
      let t := if p ∈ t.unreach then t else if p = t.pkg then storeLine t (some core) e.ord e.swz line r.mask r.data
        else farPut t e.swz line r.mask r.data
      buddy t line) (if g.2.any fun p => decide (p ≠ s.pkg) then crossFabric s (some g.1) else s)

/-- Buffered stores performed: those to host memory in order, the others line by line (R191, R192, R282). -/
def performStores (s : State) (core : Nat) (es : List StoreEnt) : State :=
  let s := es.foldl (fun t e => match e.loc with | .host a => writeLoc t e.ord e.swz (.host a) e.bytes | .dev _ => t) s
  (coalesce es).foldl (fun t r => performReq t core r) s

/-- The kept records of a firing released: its segment can no longer be run again (R280, R385).
Log 39 (DEDUCED). -/
def noReplay (s : State) : State :=
  let uid := s.warp.uid
  setWarp { s with recs := s.recs.filter fun r => r.place ≠ .kept uid } fun w => { w with nonReplay := true, kept := [] }

/-- The warp's buffered stores performed, UN stores included; a drain before the segment end makes it non-replayable (R272, R280).
Log 37 (DEDUCED). -/
def drain (s : State) : State :=
  let es := s.warp.sb
  noReplay (performStores (setWarp s fun w => { w with sb := [] }) s.warp.core es)

/-- Whether a drained UN store may stay unordered behind the stores that follow it (R273). -/
def staysBehind (s : State) (e : StoreEnt) : Bool :=
  decide (e.ord = .un) && (match e.loc with | .dev a => Config.stayPick s.free (a / 128) | .host a => Config.stayPick s.free (a / 128))

/-- A drain by a release that does not cover UN stores: those of some lines may be performed later (R273).
Log 37 (DEDUCED). -/
def drainRel (s : State) : State :=
  let es := s.warp.sb
  let stay := fun (e : StoreEnt) => staysBehind s e
  noReplay (performStores (setWarp { s with free := s.free + 1 } fun w => { w with sb := es.filter stay }) s.warp.core
    (es.filter fun e => !stay e))

/-! Held effects. -/

/-- An 8-byte value at a virtual address, for an engine or held effect. -/
def read64 (s : State) (sp : Space) (va : Nat) : Option Nat := readVaNat s sp va 8

/-- A join counter changed by an amount, an atomic at .dm that fires its word event, and the records that wait for it
released (R350). -/
def joinUpdate (s : State) (vi asid launch va : Nat) (amount : DWord) (rids : List Nat) : State :=
  let sp : Space := { vi := vi, asid := asid, user := match launchOf s launch with | some l => decide (l.mode ≠ .handler) | none => true }
  let release := fun (t : State) => rids.foldl releaseRec t
  let fail := fun (t : State) => release (report t vi 12 launch asid va amount.toNat)
  if va % 8 ≠ 0 then fail s else
  match translate s sp va true false with
  | .ok x =>
    let old := natOfBytes (readXs s x 0 8)
    let s := atomWrite s x asid va 0 (bytesOfNat 8 (old + amount.toNat))
    release (match x.loc with | .dev a => wordEvent s a | .host _ => s)
  | .nores psz =>
    let s := askPage s vi asid va psz false
    { s with joinWaits := s.joinWaits ++ [⟨asid, va, amount, vi, launch, rids⟩] }
  | _ => fail s

/-- A thread's exit: counted in its launch.
Log 60 (DEDUCED). -/
def exitThreads (s : State) (launch n : Nat) : State := setLaunch s launch fun l => { l with exited := l.exited + n }

/-! Barriers (R352). -/

/-- Whether a thread set is a cluster's (R352). -/
def barSet (s : State) (w : Warp) (cl : Bool) : SMap Barrier :=
  match crewAt s w.launch (crewKey w) with
  | some c => if cl then clusterBars s c else c.bars
  | none => []

/-- A barrier updated. -/
def setBar (s : State) (w : Warp) (cl : Bool) (b : Nat) (f : Barrier → Barrier) : State :=
  let z : Barrier := { gen := 0, now := [], next := [] }
  let up := fun (m : SMap Barrier) => mset z m b (f (barOf m b))
  match crewAt s w.launch (crewKey w) with
  | none => s
  | some c =>
    if cl && (s.clusters.any fun k => k.launch = c.launch && k.idx = c.cluster) then
      { s with clusters := s.clusters.map fun k =>
          if k.launch = c.launch && k.idx = c.cluster then { k with bars := up k.bars } else k }
    else setCrewAt s c.launch c.crew fun k => { k with bars := up k.bars }

/-- The threads of a crew that have not exited, those not yet seeded included (R352). -/
def liveThreads (s : State) (launch crew : Nat) : Nat :=
  crewThreads s launch crew
    + 32 * (match launchOf s launch with | some l => (l.seeds.filter fun p => p.1 = crew).length | none => 0)

/-- The threads of the set of a barrier that have not exited (R352). -/
def barThreads (s : State) (w : Warp) (cl : Bool) : Nat :=
  match w.crew with
  | none => laneCount ((w.entries.foldl (fun m e => m ||| e.mask) 0) &&& ~~~w.helpers)
  | some k =>
    if !cl then liveThreads s w.launch k
    else match crewAt s w.launch k, launchOf s w.launch with
      | some c, some l =>
        (List.range l.cpc).foldl (fun n j => n + liveThreads s w.launch (c.cluster * l.cpc + j)) 0
      | _, _ => liveThreads s w.launch k

/-- Matrix instructions that a warp has issued alone, and that are outstanding as it arrives at an instance of a crew barrier (R262). -/
def barOps (s : State) (w : Warp) (b : Nat) (g : Word) : State :=
  { s with mxOps := s.mxOps.map fun o =>
      if o.launch = w.launch && o.crew = crewKey w && o.wid = w.wid then { o with bars := (b, g) :: o.bars } else o }

/-- Matrix instructions behind an instance of a crew barrier that completes (R262). -/
def passOps (s : State) (w : Warp) (b : Nat) (g : Word) : State :=
  { s with mxOps := s.mxOps.map fun o =>
      if o.launch = w.launch && o.crew = crewKey w && o.barAt.isNone && o.bars.contains (b, g) then { o with barAt := some s.fresh } else o }

/-- Instances of a barrier completed while their arrivals equal the live threads (R352). -/
def completeBar (s : State) (w : Warp) (cl : Bool) (b : Nat) : State :=
  let go := fun (t : State) =>
    let x := barOf (barSet t w cl) b
    let n := barThreads t w cl
    if n ≠ 0 ∧ n ≤ x.now.length then
      setBar (if cl then t else passOps t w b x.gen) w cl b fun x => { gen := x.gen + 1, now := x.next, next := [] }
    else t
  go (go s)

/-- Every barrier of a warp's sets tested, after an exit (R352). -/
def completeBars (s : State) (w : Warp) : State :=
  (List.range 32).foldl (fun t j => completeBar t w (decide (16 ≤ j)) (j % 16)) s

/-- Whether a trap record at an address can be consumed by a TRET of an interface (R378). -/
def trapRecAt (s : State) (vi va : Nat) : Option Rec :=
  s.recs.find? fun r => r.vi = vi && r.addr = va && decide (r.kind = .trap ∧ r.isKept = false)

/-- A record with the payload that its bytes give when they hold some vector registers (R333). -/
def payloadFrom (bs : List Byte) (regs : List Nat) (r : Rec) : Rec :=
  let num := fun (a n : Nat) => natOfBytes ((bs.drop a).take n)
  let lanes := lanesOf r.mask
  let n := lanes.length
  let nv := regs.length
  let v := (List.range nv).foldl (fun m i => (List.range n).foldl (fun m j =>
    mset 0 m (regs.getD i 0 * 32 + lanes.getD j 0) (BitVec.ofNat 32 (num (64 + 4 * (n * i + j)) 4))) m) []
  let sr := (List.range 256).foldl (fun m i => mset 0 m i (BitVec.ofNat 32 (num (64 + 4 * n * nv + 4 * i) 4))) []
  let p := (List.range 15).foldl (fun m i =>
    let bits := num (1088 + 4 * n * nv + 4 * i) 4
    mset 0 m i (maskOf fun k => r.mask.getLsbD k && (bits / 2 ^ (lanes.filter (· < k)).length % 2 = 1))) []
  { r with v := v, sr := sr, p := p }

/-- A record as the handler left it in memory: CODE, MASK and the payload of the lanes kept, read back through the
supervisor's mapping (R378).
Log 57 (DEDUCED), 58 (DEDUCED). -/
def reloadRec (s : State) (r : Rec) : Rec :=
  match poolSpace s r.vi with
  | none => r
  | some sp =>
    match readVa s sp r.addr (recSize (laneCount r.mask) r.regs.length) with
    | none => r
    | some bs =>
      let num := fun (a n : Nat) => natOfBytes ((bs.drop a).take n)
      { payloadFrom bs r.regs r with code := BitVec.ofNat 48 (num 32 8), mask := BitVec.ofNat 32 (num 28 4) &&& r.mask }

/-- Return from a trap: the record at va made NORMAL or GANG and READY as the handler left it, or its threads ended, which may complete a
barrier of its crew; a pair that names no such record is dropped and reported (R352, R378).
Log 57 (DEDUCED). -/
def trapReturn (s : State) (vi va : Nat) (kill : Bool) : State :=
  match trapRecAt s vi va with
  | none => report s vi 9 s.warp.launch s.warp.asid va 0
  | some r0 =>
    let r := reloadRec s r0
    let gone := fun (t : State) => { t with
      saggars := (t.saggars.map fun g => { g with rids := g.rids.filter (· ≠ r.rid) }).filter fun g => !g.rids.isEmpty }
    if kill then
      let n := laneCount r.mask
      let s := { s with mirrors := s.mirrors.filter fun m => m.pkg ≠ s.pkg ∨ m.record.rid ≠ r.rid }
      let s := exitThreads (uncharge (gone { s with recs := s.recs.filter fun q => q.rid ≠ r.rid }) r.launch
        (recSize (laneCount r0.mask) r0.regs.length)) r.launch n
      let s := if r.crew.isSome then completeBars s { Warp.none with launch := r.launch, crew := r.crew } else s
      if r.join = 0 then s else
        (List.range n).foldl (fun t _ => joinUpdate t r.vi r.asid r.launch r.join.toNat (-1) []) s
    else
      let kind := if r.tinfo.getLsbD 22 then RecKind.gang else .normal
      let q := { r with kind := kind, tinfo := 0, event := evReady, place := .held }
      let s := gone { s with recs := s.recs.map fun x => if x.rid = r.rid then q else x }
      releaseRec (storeRec s q) r.rid

/-- A collective record handed to the collective engine as the put unit held it (R301): idx keeps the record's VA, left
the variant that the instruction named and done its launch. -/
def handColl (s : State) (vi va asid : Nat) (user : Bool) (launch : Nat) (record : BitVec 512) (var : BitVec 2) : State :=
  let p : Packet :=
    { pid := s.fresh, queue := none, idx := va, raw := record, vi := vi, asid := asid, user := user, st := .accepted, status := 0,
      tile := none, buf := [], got := [], done := [launch], parent := none, left := var.toNat }
  { s with fresh := s.fresh + 1, packets := s.packets ++ [p] }

/-- One held effect made at the segment end (R330).
Log 59 (DEDUCED). -/
def applyHeld (s : State) (vi launch : Nat) : Held → State
  | .put p => claimPut s p
  | .coll va asid user record var => handColl s vi va asid user launch record var
  | .spawn _ join rids =>
    if join = 0 then rids.foldl releaseRec s
    else joinUpdate s vi s.warp.asid launch join (BitVec.ofNat 64 rids.length) rids
  | .joinDec va asid => joinUpdate s vi asid launch va (-1) []
  | .tret va kill => trapReturn s vi va kill

/-- The held puts of the warp at issue made, once its stores have been released: their indices are claimed and the segment can no longer
be run again (R176, R280).
Log 59 (DEDUCED). -/
def startPuts (s : State) : State :=
  let isPut := fun (h : Held) => match h with | .put _ => true | _ => false
  let ps := s.warp.held.filter isPut
  if ps.isEmpty then runPuts s
  else ps.foldl (fun t h => applyHeld t t.warp.vi t.warp.launch h) (setWarp (drain s) fun w => { w with held := w.held.filter fun h => !isPut h })

/-! The end of a segment. -/

/-- Resident warps of a gang. -/
def gangResident (s : State) (g : Gang) : Bool :=
  (residents s).any fun w => w.launch = g.launch && crewKey w = g.crew && g.members.contains w.wid

/-- Cones returned by gangs that no member keeps resident (R263). -/
def returnCones (s : State) : State :=
  s.gangs.foldl (fun t g =>
    if g.cones ∧ gangResident t g = false then
      { t with conesUsed := t.conesUsed - 9,
               gangs := t.gangs.map fun h => if h = g then { h with cones := false } else h }
    else t) s

/-- Whether a warp is a member of a gang that has formed (R247). -/
def inGang (s : State) (w : Warp) : Bool :=
  s.gangs.any fun g => g.launch = w.launch && g.crew = crewKey w && g.members.contains w.wid

/-- The tiles of a crew that ends freed, or its save area emptied; a tile that a packet or region holds is freed as that completes (R184). -/
def freeCrewTiles (s : State) (c : Crew) : State :=
  if c.saved then dropImage s c
  else c.tiles.foldl (fun t p =>
    if (tileAt t c.core p).hold then setTile t c.core p fun x => { x with lastVi := some c.vi }
    else setTile t c.core p fun _ => { Tile.reset with lastVi := some c.vi }) s

/-- A crew with no thread left ends, once no matrix instruction and no ACPY of it is outstanding: its gangs dissolve and its tiles are
freed; one that a packet or region holds is freed as that completes (R184, R248, R328).
Log 79 (DEDUCED). -/
def crewEndIf (s : State) (launch crew : Nat) : State :=
  match crewAt s launch crew with
  | none => s
  | some c =>
    let seeds := match launchOf s launch with | some l => l.seeds.any fun p => p.1 = crew | none => false
    let moving := (residents s).any fun w => w.launch = launch && crewKey w = crew && !w.entries.isEmpty
    let parked := s.recs.any fun r => r.launch = launch && r.crew = some crew
    let copying := s.acpys.any fun a => a.launch = launch && a.crew = crew
    if seeds || moving || parked || copying || crewMatrix s launch crew then s else
    let mine := fun (g : Gang) => g.launch = launch && g.crew = crew
    let s := { s with
      conesUsed := s.conesUsed - 9 * (s.gangs.filter fun g => mine g && g.cones).length
      gangs := s.gangs.filter fun g => !mine g
      crews := s.crews.filter fun k => !(k.launch = launch && k.crew = crew) }
    freeCrewTiles s c

/-- A launch with no thread and no record left ends: its packets have their effect (R347, R365). A registered handler's launch and
a node that is still open do not end. -/
def launchEndIf (s : State) (id : Nat) : State :=
  match launchOf s id with
  | none => s
  | some l =>
    let live := decide (l.exited < l.threads) || !l.seeds.isEmpty || (s.recs.any fun r => r.launch = id)
      || ((residents s).any fun w => w.launch = id && !w.entries.isEmpty) || (s.joinWaits.any fun j => j.launch = id)
    if live || (decide (l.mode = .handler ∨ l.mode = .node) && !l.closed) then s
    else { s with
      launches := s.launches.filter fun k => k.id ≠ id
      clusters := s.clusters.filter fun k => k.launch ≠ id
      packets := s.packets.map fun p => if l.packets.contains p.pid then { p with st := .moved } else p }

/-- What ends a segment: the issuing entry's event and resume IP, and what its record is; dest is where a FWD sends its records: the kind of
the target, and which (R351). -/
structure SegEnd where
  event : DWord
  ip : BitVec 48
  kind : RecKind
  all : Bool
  tinfo : Word
  pages : List Page
  pgrq : List PgrqWait
  cmp : DWord
  swz : BitVec 4
  dest : Option (Nat × Nat)
deriving DecidableEq, Repr

/-- An end with an event at an IP and nothing else. -/
def SegEnd.at (ev : DWord) (ip : BitVec 48) : SegEnd :=
  { event := ev, ip := ip, kind := .normal, all := false, tinfo := 0, pages := [], pgrq := [], cmp := 0, swz := 0, dest := none }

/-- The kind of a record of a warp: GANG for a gang member, but for TRAP (R247, R373). -/
def recKind (s : State) (w : Warp) (k : RecKind) : RecKind :=
  if k = .trap then .trap else if inGang s w then .gang else k

/-- The accumulators that the GANG takes at whose latch a warp waits (R249). -/
def accNeed (s : State) (w : Warp) : DWord :=
  match s.latches.findSome? fun l => l.arrived.find? fun a => a.uid = w.uid with
  | some a => BitVec.ofNat 64 (bitsOf (a.scalars.headD 0).toNat 26 22)
  | none => 0

/-- What the record of a wait keeps to compare with: the accumulators wanted (R249), or the tile as it stands (R334). -/
def endCmp (s : State) (w : Warp) (e : SegEnd) : DWord :=
  let key := dbits e.event 59 0
  if e.event = evAcc then accNeed s w
  else if dbits e.event 63 60 = 1 ∧ bitsOf key 22 21 = 1 then tileMark (tileAt s (bitsOf key 20 14) (bitsOf key 6 0))
  else e.cmp

/-- The record plans of a segment end: the issuing entry's with the cause's event, every other entry READY; a pre-emption past its bound
saves every register of each (R330, R331). -/
def segPlans (s : State) (w : Warp) (e : SegEnd) : List RecPlan :=
  let other := if e.kind = .preempt then RecKind.preempt else .normal
  let plan := fun (x : Entry) =>
    (⟨x.mask &&& ~~~w.helpers, x.ip, x.prio, recKind s w other, evReady, e.all && decide (e.kind = .preempt), 0, [], [], 0, 0⟩ : RecPlan)
  match w.entries with
  | [] => []
  | h :: t =>
    ((⟨h.mask &&& ~~~w.helpers, e.ip, h.prio, recKind s w e.kind, e.event, e.all, e.tinfo, e.pages, e.pgrq,
        endCmp s w e, e.swz⟩ : RecPlan) :: t.map plan).filter fun p => p.mask ≠ 0

/-- Whether the batch tags of a crew-free firing are all FREE, as its end waits for (R328). -/
def tagsFree (s : State) : Bool :=
  s.warp.crew.isSome || (match crewOf s with
    | some c => (List.range 8).all fun k => decide ((tagOf c s.warp.wid k).st = .free)
    | none => true)

/-- The warp at issue marked as held while a record of it cannot be written; the hold is counted from its first cycle (R343, R388).
Log 61 (DEDUCED). -/
def holdWarp (s : State) (h : Bool) : State :=
  setWarp s fun w => { w with hold := if h then some (w.hold.getD s.now) else none }

/-- The records that a segment end writes (R330). -/
def segRecs (s : State) (e : SegEnd) : List Rec := sortRecs ((segPlans s s.warp e).flatMap (planRecs s s.warp))

/-- Whether the pool has room for the records of a segment end (R343). -/
def segRoom (s : State) (e : SegEnd) : Bool :=
  roomFor s s.warp.launch ((segRecs s e).foldl (fun n r => n + recSize (laneCount r.mask) r.regs.length) 0)

/-- Whether the records of a segment end find room at the buddy too, for a durable launch (R387).
Log 66 (DEDUCED), 101 (DEDUCED). -/
def mirrorRoom (s : State) : Bool :=
  match launchOf s s.warp.launch with | some l => !l.durable || Config.farRoom s.free (2 ^ 32 + l.id) | none => true

/-- Whether the records of a segment end can be written: pool room (R343), here and at the buddy (R387), and the tags of a crew-free firing
free (R328). -/
def segWritable (s : State) (e : SegEnd) : Bool := segRoom s e && mirrorRoom s && tagsFree s

/-- Whether a put that the warp held has yet to write a VALID byte: its segment's end waits for it (R176). -/
def heldPutting (s : State) (uid : Nat) : Bool := s.puts.any fun p => p.uid = uid && !p.now

/-- Whether a segment can end now: its records can be written and its held puts have all been written (R176, R328, R343).
Log 59 (DEDUCED). -/
def segReady (s : State) (e : SegEnd) : Bool := segWritable s e && !heldPutting (startPuts s) s.warp.uid

/-- What stands while a segment cannot end: the warp keeps its place, with its puts made that wait for their rings; one short of
pool space, here or at the buddy, is held (R176, R343, R387).
Log 59 (DEDUCED), 61 (DEDUCED). -/
def stayHeld (s s0 : State) (e : SegEnd) : State :=
  if segWritable s e then startPuts s0
  else
    let t := holdWarp s0 (!segRoom s e || !mirrorRoom s)
    if mirrorRoom s then t else { t with free := t.free + 1 }

/-- The records that a segment end of a durable launch writes, from identifier first on, mirrored; those that the firing took up are
mirrored no longer (R387).
Log 101 (DEDUCED). -/
def mirrorRecs (s : State) (w : Warp) (first : Nat) : State :=
  match launchOf s w.launch with
  | none => s
  | some l =>
    if !l.durable then s
    else
      let new := (s.recs.filter fun r => first ≤ r.rid).map fun r => (⟨s.pkg, r, l, none⟩ : Mirror)
      { s with mirrors := (s.mirrors.filter fun m => m.pkg ≠ s.pkg ∨ m.taken ≠ some w.uid) ++ new }

/-- A record of a segment end released: to its saggar, or as a FWD sends it, to one core, to a sector or to another package (R330, R351).
Log 74 (DEDUCED). -/
def releaseTo (dest : Option (Nat × Nat)) (s : State) (rid : Nat) : State :=
  let upd := fun (f : Rec → Rec) => { s with recs := s.recs.map fun r => if r.rid = rid then f r else r }
  match dest with
  | none => releaseRec s rid
  | some (0, c) => releaseRec (upd fun r => { r with core := c, pin := some c }) rid
  | some (1, q) => releaseRec (upd fun r => { r with core := q * 24 + r.core % 24 }) rid
  | some (_, p) => setPlace s rid (.leaving p)

/-- The end of the segment of the warp at issue (R330). Where it cannot end yet the warp stays, and the end is tried again.
Log 59 (DEDUCED). -/
def endSegment (s : State) (e : SegEnd) : State :=
  let w := s.warp
  if !segReady s e then stayHeld s s e
  else
    let recs := segRecs s e
    let s := startPuts s
    let s := { s with recs := s.recs.filter fun r => r.place ≠ .kept w.uid }
    let s := performStores (setWarp s fun x => { x with sb := [] }) w.core s.warp.sb
    let s := exitThreads s w.launch (laneCount w.exited)
    let s := s.warp.held.foldl (fun t h => applyHeld t w.vi w.launch h) s
    let first := s.fresh
    let s := recs.foldl addRec s
    let s := mirrorRecs s w first
    let rids := (s.recs.filter fun r => decide (first ≤ r.rid) && decide (r.place = .held) && decide (r.src = w.uid)).map (·.rid)
    let s := { s with
      warp := { Warp.none with core := w.core }
      latches := s.latches.map fun l => { l with arrived := l.arrived.filter fun a => a.uid ≠ w.uid } }
    let s := rids.foldl (releaseTo e.dest) s
    let s := returnCones s
    let s := if w.crew.isNone then { s with crews := s.crews.filter fun c => !(c.launch = w.launch && c.crew = crewKey w) }
      else crewEndIf s w.launch (crewKey w)
    settle (launchEndIf s w.launch)

/-! Traps. -/

/-- TINFO (R372). -/
def tinfoOf (code detail : Nat) (lane : Option Nat) (gang : Bool) : Word :=
  BitVec.ofNat 32 (code % 256 + detail % 256 * 2 ^ 8 + (match lane with | some k => k % 32 * 2 ^ 16 + 2 ^ 21 | none => 0)
    + (if gang then 2 ^ 22 else 0))

/-- A warp marked to stop at its next yield-safe point, counted from the first mark (R381). -/
def Warp.mark (now : Nat) (w : Warp) : Warp := { w with marked := true, markedAt := if w.marked then w.markedAt else now }

/-- A launch suspended: its records stay parked and its resident warps are to stop (R381, R386). -/
def suspend (s : State) (id : Nat) : State :=
  let s := setLaunch s id fun l => { l with suspended := true }
  let mark := fun (w : Warp) => if w.launch = id ∧ w.entries ≠ [] then w.mark s.now else w
  { s with warp := mark s.warp, bench := s.bench.map mark }

/-- What becomes of a launch whose warp has trapped: a handler that traps, or an interface without one, suspends it and is
reported (R375). -/
def trapPolicy (s : State) (vi launch asid addr : Nat) (tinfo : Word) : State :=
  match launchOf s launch with
  | some l =>
    if l.mode = .handler then report (suspend s launch) vi 5 launch asid addr tinfo.toNat
    else match (viOf s vi).handler with
      | some _ => s
      | none => report (suspend s launch) vi 4 launch asid addr tinfo.toNat
  | none => s

/-- Where the TRAP record of a segment end goes in the pool, once the segment's own records have left it (R343, R373). -/
def trapAddr (s : State) (e : SegEnd) : Nat :=
  ((segRecs s e).foldl (fun (a : State × Option Nat) r => match a.2 with
    | some _ => a
    | none =>
      let t := addRec a.1 r
      (t, if r.kind = .trap then t.recs.getLast?.map (·.addr) else none))
    ({ s with recs := s.recs.filter fun r => r.place ≠ .kept s.warp.uid }, none)).2.getD 0

/-- Taking a trap: the segment ends with a TRAP record of the issuing entry, at ip, with every register below NREG saved and
the code, detail and lane in TINFO; the record goes to the launch's trap saggar, or its launch is suspended (R371 to
R375). -/
def takeTrap (s : State) (code detail : Nat) (lane : Option Nat) (ip : BitVec 48) : State :=
  let w := s.warp
  let tinfo := tinfoOf code detail lane (inGang s w)
  let e : SegEnd := ⟨evReady, ip, .trap, true, tinfo, [], [], 0, 0, none⟩
  if !segReady s e then stayHeld s s e
  else
    endSegment (trapPolicy s w.vi w.launch w.asid (trapAddr s e) tinfo) e

/-! The rendezvous latch. -/

/-- A warp brought from the bench to the issue place, the one there going to the bench. -/
def focus (s : State) (uid : Nat) : State :=
  if s.warp.uid = uid then s else
  match s.bench.find? fun w => w.uid = uid with
  | none => s
  | some w =>
    let rest := s.bench.filter fun x => x.uid ≠ uid
    { s with warp := w, bench := if s.warp.entries = [] then rest else rest ++ [s.warp] }

/-- Another resident warp traps at its own instruction.
Log 61 (DEDUCED). -/
def trapOther (s : State) (uid code detail : Nat) : State :=
  if uid = s.warp.uid then s else
  let me := s.warp.uid
  let t := focus s uid
  if t.warp.uid = uid then focus (takeTrap t code detail none (curIp t.warp)) me else s

/-- Members waiting at a latch trap, and the latch is emptied (R246).
Log 61 (DEDUCED). -/
def breakLatch (s : State) (l : Latch) (detail : Nat) : State :=
  let s := { s with latches := s.latches.filter fun k => k ≠ l }
  l.arrived.foldl (fun t a => trapOther t a.uid 4 detail) s

/-- Any latch of the warp's crew that some waiting member shares with it (R246). -/
def latchWith (s : State) (w : Warp) : Option Latch :=
  s.latches.find? fun l => l.launch = w.launch && l.crew = crewKey w && l.members.contains w.wid && !l.arrived.isEmpty

/-- Whether an instruction is joint (R246). -/
def isJoint : Instr → Bool
  | .mma .. | .mmsp .. | .gangForm .. | .gangDissolve .. => true
  | _ => false

/-- The latch broken for the members that wait there, when a member traps at a joint instruction before it arrives (R246). -/
def breakFor (s : State) (i : Instr) : State :=
  if isJoint i then (match latchWith s s.warp with | some l => breakLatch s l 1 | none => s) else s

/-! The issue of an instruction. -/

/-- How an instruction's own part ends: done, done with the frontier already set, waiting for a page walk, waiting for an event (at the
instruction itself or at a later IP), trapping with no effect or in the state reached, ending the segment, or held with nothing issued. -/
inductive Step where
  | done (s : State)
  | moved (s : State)
  | walk (s : State)
  | wait (ev : DWord) (resume : Option (BitVec 48)) (s : State)
  | trap (code detail : Nat) (lane : Option Nat)
  | trapIn (code detail : Nat) (s : State)
  | trapAt (code detail : Nat) (ip : BitVec 48)
  | ends (e : SegEnd) (s : State)
  | hold (s : State)

/-- Whether a register code has a fixed-latency result not readable at a cycle (R47). -/
def fixedDue (w : Warp) (code at_ : Nat) : Bool :=
  w.due.any fun d => regCode d.cls d.reg = code && (match d.ready with | some t => decide (at_ < t) | none => false)

/-- Whether a register code has a variable-latency result that no slot has covered and that has not been written (R47).
Log 18 (DEDUCED). -/
def variableDue (s : State) (code : Nat) : Bool :=
  (s.warp.due.any fun d => regCode d.cls d.reg = code && d.ready.isNone)
    || (s.mxOps.any fun m => m.uid = s.warp.uid && m.instr.writes.contains code)

/-- A hazard that the checking scoreboard traps (R47).
Log 16 (DEDUCED). -/
def hazard (s : State) (i : Instr) : Bool :=
  let w := s.warp
  let lat := i.latency.getD 0
  w.chk &&
    ((i.reads.any fun c => fixedDue w c s.now || variableDue s c)
      || (i.writes.any fun c => (i.latency.isSome && fixedDue w c (s.now + lat)) || variableDue s c
            || (w.late.any fun l => decide (l.reg ≤ c ∧ c < l.reg + l.n))))

/-- Whether an instruction is a matrix instruction (row 8 of R48). -/
def isMatrix : Instr → Bool
  | .mma .. | .mmsp .. | .mzro .. | .mrda .. | .mwra .. | .mfnc .. | .gangForm .. | .gangDissolve .. => true
  | _ => false

/-- Whether an instruction fetches values from paged memory (R285). -/
def isLoad : Instr → Bool
  | .ld .. | .atom .. => true
  | _ => false

/-- Whether an instruction is a backward branch (R46, R346). -/
def isBackward : Instr → Bool
  | .braRel _ _ o | .braAny _ _ o | .braAll _ _ o | .callRel _ _ _ o => decide (o.toInt ≤ 0)
  | _ => false

/-- The slot that WSLOT names (R40). -/
def wslot (c : Ctl) : Option Nat := if c.wslot = 0 then none else some (c.wslot.toNat - 1)

/-- A result of fixed latency that a slot counts and that is not yet written. -/
def Due.running (now k : Nat) (d : Due) : Bool := decide (d.slot = some k) && d.ready.isSome && d.pending now

/-- What a slot counts: instructions outstanding on it, each by one of its results, and matrix instructions and TGIVs (R44). -/
def slotCount (now : Nat) (w : Warp) (k : Nat) : Nat :=
  w.slots.getD k 0 + (w.due.filter fun d => decide (d.slot = some k) && d.first && d.pending now).length

/-- Whether a slot named by WMASK cannot be zero yet: a matrix instruction, a TGIV or a result of fixed latency is outstanding on it. A
result of variable latency is written at the latest when its slot is waited for (R44, R45).
Log 17 (DEDUCED). -/
def slotsBusy (now : Nat) (w : Warp) (c : Ctl) : Bool :=
  (List.range 7).any fun i => c.wmask.getLsbD i && (decide (w.slots.getD i 0 ≠ 0) || w.due.any fun d => d.running now i)

/-- Results covered by the slots that have been waited for are written, and sources read late are free (R44).
Log 17 (DEDUCED). -/
def coverSlots (w : Warp) (c : Ctl) : Warp :=
  let covered := fun (sl : Option Nat) => match sl with | some i => c.wmask.getLsbD i | none => false
  { w with due := w.due.filter fun d => !covered d.slot, late := w.late.filter fun l => !covered l.slot }

/-- The results, newest first, without those of the oldest instruction of variable latency that a slot counts, and whether it has been
met. -/
def landOldest (k : Nat) : List Due → List Due × Bool
  | [] => ([], false)
  | d :: t =>
    let r := landOldest k t
    if r.2 then (d :: r.1, true)
    else if d.ready.isNone && decide (d.slot = some k) then (r.1, d.first)
    else (d :: r.1, false)

/-- A slot that counts 63 made to count fewer, where the oldest instruction on it has a result of variable latency, which is written by
then (R44).
Log 19 (DEDUCED). -/
def makeSlot (now : Nat) (w : Warp) (c : Ctl) : Warp :=
  match wslot c with
  | some k => if slotCount now w k < 63 then w else { w with due := (landOldest k w.due).1 }
  | none => w

/-- Whether the slot that WSLOT names can count no further, so that the instruction waits (R44, R45).
Log 19 (DEDUCED). -/
def slotFull (now : Nat) (w : Warp) (c : Ctl) : Bool :=
  match wslot c with | some k => decide (63 ≤ slotCount now (makeSlot now w c) k) | none => false

/-- Results of variable latency that are found written at an issue: from then on they are no longer due (R44, R47).
Log 18 (DEDUCED). -/
def landDues (s : State) : State :=
  if s.warp.due.isEmpty then s
  else setWarp s fun w =>
    { w with due := (w.due.zipIdx.filter fun d => !(d.1.ready.isNone && Config.landed s.free d.2)).map (·.1) }

/-- The lanes in which an earlier fixed-latency result to a register is due no sooner than this instruction's (R43).
Log 20 (DEDUCED). -/
def lateLanes (w : Warp) (now : Nat) (i : Instr) (code : Nat) : Mask :=
  match i.latency with
  | none => 0
  | some l => w.due.foldl (fun m d =>
      if decide (regCode d.cls d.reg = code) && (match d.ready with | some t => decide (now + l < t) | none => false) then m ||| d.mask
      else m) 0

/-- The destinations of an instruction recorded as due, each with the values held before (R41, R43, R44); two fixed-latency
results too close leave either value in each lane that both write (R43).
Log 20 (DEDUCED). -/
def recordDue (s0 : State) (i : Instr) (c : Ctl) (act : Mask) (s : State) : State :=
  let w0 := s0.warp
  let w := s.warp
  let ready := i.latency.map fun l => s0.now + l
  let own := decide (w.slots = w0.slots)
  let new : List Due := i.writes.zipIdx.map fun code =>
    { cls := (codeReg code.1).1, reg := (codeReg code.1).2, mask := act, old := heldValues w0 code.1, ready := ready, slot := wslot c,
      first := own && decide (code.2 = 0), load := isLoad i }
  let race := fun (w : Warp) (code : Nat) =>
    let late := lateLanes w0 s0.now i code
    if late = 0 then w else
    match codeReg code with
    | (.vec, r) => (lanesOf (act &&& late)).foldl (fun w k =>
        if Config.hazardPick s0.free code (1024 + k) then w else setV w r k (mget 0 w0.v (r * 32 + k))) w
    | (.scal, r) => if Config.hazardPick s0.free code 1024 then w else setS w r (mget 0 w0.sr r)
    | (.pred, r) => setP w r (act &&& late) (maskOf fun k =>
        if Config.hazardPick s0.free code (1024 + k) then (mget 0 w.p r).getLsbD k else (mget 0 w0.p r).getLsbD k)
  let w := i.writes.foldl race w
  { s with warp := { w with due := new ++ w.due.filter fun d => d.pending s0.now }, free := s0.free + 1 }

/-- An instruction that waits: it is issued again until it can proceed, and its window is running, for each wait of it its own (R18,
R335); a window of 0, or a mark, ends the segment at once (R381).
Log 70 (DEDUCED). -/
def startWait (s : State) (tag : Nat) (ev : DWord) (resume : Option (BitVec 48)) : State :=
  let s := setWarp s fun w =>
    { w with wait := some ev, resume := resume, waitTag := tag,
             waitSince := if w.wait = some ev ∧ w.waitTag = tag then w.waitSince else s.now }
  if s.warp.waitwin = 0 ∨ s.warp.marked ∨ s.warp.victim then endSegment s (.at ev (resume.getD (curIp s.warp))) else s

/-- What follows an instruction's own part. -/
def finish (s0 : State) (i : Instr) (c : Ctl) (act : Mask) : Step → State
  | .done s => advance (recordDue s0 i c act s) c
  | .moved s => passTime (recordDue s0 i c act s) c
  | .walk s => startWait s 1 evLine none
  | .wait ev r s => startWait s 2 ev r
  | .trap code detail lane => takeTrap s0 code detail lane (curIp s0.warp)
  | .trapIn code detail s => takeTrap s code detail none (curIp s.warp)
  | .ends e s => if segReady s e then endSegment s e else stayHeld s s0 e
  | .trapAt code detail ip => takeTrap s0 code detail none ip
  | .hold s => s

/-- The issue of an instruction whose own part is run, which gets the active set (R39 to R49). always is set for a form
that acts with an empty active set. A warp that is to stop ends its wait as if its window had passed, and else ends before a yield-safe
instruction (R265, R381). -/
def issueWith (always : Bool) (i : Instr) (c : Ctl) (run : State → Mask → Step) (s : State) :
    Host.Outcome State Fault Refusal :=
  let w := s.warp
  if w.entries = [] then .next s
  else if (w.marked || w.victim) && w.wait.isSome then .next (endSegment s (.at (w.wait.getD evReady) (w.resume.getD (curIp w))))
  else if (w.marked && (c.yld || isBackward i)) || (w.victim && (c.yld || isBackward i || isJoint i)) then
    .next (endSegment s { SegEnd.at evReady (curIp w) with kind := .preempt })
  else if w.retire then .next (endSegment s (.at evLine (curIp w)))
  else if slotsBusy s.now w c || slotFull s.now w c then
    .next (startWait s 0 evLine none)
  else
    let s := landDues (setWarp s fun w => makeSlot s.now (coverSlots w c) c)
    let act := active s c
    if act = 0 && !always then .next (advance s c)
    else if isMatrix i && decide (act ≠ BitVec.allOnes 32) then .next (takeTrap (breakFor s i) 4 0 none (curIp w))
    else if act ≠ 0 && hazard s i then .next (takeTrap (breakFor s i) 5 0 none (curIp w))
    else .next (finish s i c act (run s act))

/-- The issue of an instruction that does nothing when active is empty (R39). -/
def issue (i : Instr) (c : Ctl) (run : State → Mask → Step) (s : State) : Host.Outcome State Fault Refusal :=
  issueWith false i c run s

/-- An instruction outstanding on the slot it names (R44).
Log 19 (DEDUCED). -/
def slotUp (s : State) (sl : Option Nat) : State :=
  match sl with
  | none => s
  | some k => setWarp s fun w => { w with slots := w.slots.modify k (· + 1) }

/-- A resident warp updated, at issue or on the bench. -/
def updWarp (s : State) (uid : Nat) (f : Warp → Warp) : State :=
  { s with warp := if s.warp.uid = uid then f s.warp else s.warp,
           bench := s.bench.map fun w => if w.uid = uid then f w else w }

/-- An outstanding instruction of a warp completed on its slot (R44). -/
def slotDown (s : State) (uid : Nat) (sl : Option Nat) : State :=
  match sl with
  | none => s
  | some k => updWarp s uid fun w => { w with slots := w.slots.modify k (· - 1) }

/-- The physical tile of a tile operand of the warp's crew: the crew's index, or why it is refused (R34, R184). -/
def tileIndex (s : State) (t : TileOp) : Except (Nat × Nat) Nat :=
  match t with
  | .idx k => .ok k.val
  | .reg r => let x := (rdS s r.val).toNat; if 128 ≤ x then .error (3, 1) else .ok x

/-- The physical tile that a crew's index names (R184). -/
def crewTile (c : Crew) (k : Nat) : Except (Nat × Nat) Nat :=
  match c.tiles[k]? with
  | some p => .ok p
  | none => .error (0xC, 1)

/-- The core and physical tile of a tile operand, or the trap code and detail (R34, R184). -/
def tileOfOp (s : State) (t : TileOp) : Except (Nat × Nat) (Nat × Nat) :=
  match tileIndex s t with
  | .error e => .error e
  | .ok k => match crewOf s with
    | none => .error (0xC, 1)
    | some c => match crewTile c k with
      | .error e => .error e
      | .ok p => .ok (c.core, p)

end Sys2Proof.Machine
end

