-- ==== Sys2Proof/Machine/Access.lean ====
section
/-! DEFINITION. Accesses through buffer records: record fields and refusals (R124 to R126), the checks of each lane (R121 to
R123, R125), forwarding from the store buffer (R191), reading lines and responses (R92, R101, R194), and the loads of
records (R133). -/

namespace Sys2Proof.Machine

/-- A buffer record's fields (R124). -/
structure BufRec where
  base : Nat
  extent : Nat
  stride : Nat
  glz : BitVec 6
  clamp : Bool
  bswz : Nat
  es : Nat
deriving DecidableEq, Repr

/-- The fields of the 32 bytes of a buffer record; a zero stride is the element size (R124, R125). -/
def bufOf (r : BitVec 256) : BufRec :=
  let x := r.toNat
  let es := 2 ^ bitsOf x 213 211
  let st := bitsOf x 159 128
  { base := bitsOf x 51 0, extent := bitsOf x 111 64, stride := if st = 0 then es else st,
    glz := BitVec.ofNat 6 (bitsOf x 221 216), clamp := bitsOf x 208 208 = 1, bswz := bitsOf x 210 209, es := es }

/-- Whether a buffer record is refused (R126). -/
def bufBad (r : BitVec 256) : Bool :=
  let x := r.toNat
  let b := bufOf r
  decide (bitsOf x 255 224 ≠ 0 ∨ bitsOf x 223 222 ≠ 0 ∨ bitsOf x 215 214 ≠ 0 ∨ bitsOf x 207 160 ≠ 0 ∨ bitsOf x 127 112 ≠ 0
    ∨ bitsOf x 63 52 ≠ 0 ∨ 6 ≤ bitsOf x 213 211 ∨ b.bswz = 3 ∨ 2 ^ 52 < b.base + b.extent * b.stride
    ∨ (b.bswz ≠ 0 ∧ b.extent * b.stride % 128 ≠ 0))

/-- Record slot br of the warp's crew; a slot never written is all zero (R127). -/
def slotRec (s : State) (br : Fin 64) : BufRec :=
  bufOf (match crewOf s with | some c => mget 0 c.brec br.val | none => 0)

/-- An offset with the record swizzle applied (R124). -/
def bswz (code off : Nat) : Nat :=
  match code with
  | 1 => off - bitsOf off 6 4 * 16 + (bitsOf off 6 4 ^^^ bitsOf off 9 7) * 16
  | 2 => off - bitsOf off 6 5 * 32 + (bitsOf off 6 5 ^^^ bitsOf off 8 7) * 32
  | _ => off

/-- Whether element i with displacement d and n bytes is in bounds (R125). -/
def inBounds (b : BufRec) (i d n : Nat) : Bool := decide (i < b.extent ∧ d + n ≤ b.es)

/-- The virtual address and length of each 4-byte word of an access, in order (R125). -/
def accessWords (b : BufRec) (i d n : Nat) : List (Nat × Nat) :=
  let off := i * b.stride + d
  (List.range ((n + 3) / 4)).map fun w => (b.base + bswz b.bswz (off + 4 * w), min 4 (n - 4 * w))

/-- What becomes of one lane's access (R121, R123): clamped, on a page that is not resident, refused with a trap code and
detail, or translated word by word. -/
inductive LaneAcc where
  | clamped
  | nores (va psz : Nat)
  | fail (code detail : Nat)
  | ok (words : List (Nat × Nat × Xlat))
deriving DecidableEq, Repr

/-- The place of a PROT detail in the order of R122. -/
def protRank (d : Nat) : Nat := match d with | 5 => 0 | 1 => 1 | 4 => 2 | _ => 3

/-- The PROT detail that decides among those of the words of an access (R122). -/
def worstProt (ds : List Nat) : Option Nat :=
  ds.foldl (fun b d => match b with | none => some d | some x => if protRank d < protRank x then some d else some x) none

/-- The translations of the words of an access joined: a malformed entry is found before a permission fault, either before
a page that is not resident, and permission faults in the order of R122 (R121, R122). -/
def joinWords (ws : List (Nat × Nat × Tr)) : LaneAcc :=
  if ws.any fun w => decide (w.2.2 = .malf) then .fail 9 0
  else match worstProt (ws.filterMap fun w => match w.2.2 with | .prot d => some d | _ => none) with
    | some d => .fail 8 d
    | none => match ws.findSome? fun w => match w.2.2 with | .nores p => some (w.1, p) | _ => none with
      | some (va, p) => .nores va p
      | none => .ok (ws.filterMap fun w => match w.2.2 with | .ok x => some (w.1, w.2.1, x) | _ => none)

/-- Checks 1 to 5 of R121 for one lane. -/
def checkLane (s : State) (b : BufRec) (i d n : Nat) (w : Bool) : LaneAcc :=
  if !inBounds b i d n then (if b.clamp then .clamped else .fail 6 0)
  else if (b.base + i * b.stride + d) % n ≠ 0 then .fail 7 0
  else joinWords ((accessWords b i d n).map fun a => (a.1, a.2, translate s s.warp.space a.1 w false))

/-- The checks of every lane of a mask, by lane.
Log 49 (DEDUCED). -/
def checkLanes (s : State) (act : Mask) (b : BufRec) (i : Nat → Nat) (d n : Nat) (w : Bool) : List (Nat × LaneAcc) :=
  (lanesOf act).map fun k => (k, checkLane s b (i k) d n w)

/-- The fault that an instruction reports: the lowest non-helper lane that fails (R121).
Log 49 (DEDUCED). -/
def faultOf (helpers : Mask) (l : List (Nat × LaneAcc)) : Option (Nat × Nat × Nat) :=
  l.findSome? fun e => match e.2 with
    | .fail c d => if helpers.getLsbD e.1 then none else some (c, d, e.1)
    | _ => none

/-- The lanes served normally: they set their status bit (R123, R193). -/
def servedMask (l : List (Nat × LaneAcc)) : Mask :=
  l.foldl (fun m e => match e.2 with | .ok _ => m ||| laneBit e.1 | _ => m) 0

/-- Translation caches after the accesses of an instruction (R118). -/
def touchLanes (s : State) (l : List (Nat × LaneAcc)) : State :=
  let vas := l.flatMap fun e => match e.2 with | .ok ws => ws.map (fun w => w.1 / 128) | _ => []
  vas.dedup.foldl (fun t a => tlbTouch t t.warp.vi t.warp.asid (a * 128)) s

/-- Whether an access touches a page of kind SO. -/
def touchesSo (l : List (Nat × LaneAcc)) : Bool :=
  l.any fun e => match e.2 with | .ok ws => ws.any fun w => decide (w.2.2.ord = .so) | _ => false

/-! Page walks that an access waits for (R116). -/

/-- The pages of some addresses that no translation cache holds and whose walks the warp at issue has not in hand. -/
def walksWanted (s : State) (vas : List Nat) : List Nat :=
  (((vas.filter fun a => decide (a < 2 ^ 52)).map fun a => a / 65536).dedup).filter fun v =>
    (tlbFind s s.warp.vi s.warp.asid v).isNone && !s.warp.walked.contains v

/-- Walks begun for the warp at issue; further ones queue behind the 128 of its sector (R116). -/
def startWalks (s : State) (vpns : List Nat) : State :=
  let w := s.warp
  vpns.foldl (fun t v =>
    if t.walks.any fun r => r.uid = w.uid && r.vpn = v then t
    else { t with walks := t.walks ++ [⟨w.uid, w.core / 24, w.vi, w.asid, v⟩] }) s

/-- An access that waits for the walks of its pages, if any is to be made, and goes on otherwise (R116). -/
def withWalks (s : State) (vas : List Nat) (f : Step) : Step :=
  match walksWanted s vas with
  | [] => f
  | v :: vs => .walk (startWalks s (v :: vs))

/-- The addresses that a lane's access translates: none where it fails checks 1 or 2 of R121. -/
def laneVas (b : BufRec) (i d n : Nat) : List Nat :=
  if inBounds b i d n && decide ((b.base + i * b.stride + d) % n = 0) then (accessWords b i d n).map (·.1) else []

/-- The addresses that the lanes of a mask translate. -/
def maskVas (act : Mask) (b : BufRec) (i : Nat → Nat) (d n : Nat) : List Nat := (lanesOf act).flatMap fun k => laneVas b (i k) d n

/-! Reading. -/

/-- The device addresses at which a store takes effect: on every package of a multicast group, and at each buddy (R113, R294). -/
def StoreEnt.places (e : StoreEnt) (a : Nat) : List Nat :=
  let ps := match e.group with | some g => g.2.map fun p => buddyDpa p a | none => [a]
  ps ++ (match e.rep with | some b => [buddyDpa b a] | none => [])

/-- How far into a store a location lies, if the store covers it. -/
def StoreEnt.offsetOf (e : StoreEnt) (l : Loc) : Option Nat :=
  match l, e.loc with
  | .dev a, .dev b =>
    ((e.places b).find? fun p => decide (p ≤ a ∧ a < p + e.bytes.length)).map fun p => a - p
  | .host a, .host b => if b ≤ a ∧ a < b + e.bytes.length then some (a - b) else none
  | _, _ => none

/-- The byte that a warp's buffered stores supply at a location: the latest one's (R191).
Log 51 (DEDUCED). -/
def forwardByte (s : State) (l : Loc) : Option Byte :=
  s.warp.sb.foldl (fun r e => match e.offsetOf l with | some i => some (e.bytes.getD i 0) | none => r) none

/-- The bytes of a translated word as the issuing warp reads them now. -/
def wordBytes (s : State) (x : Xlat) (n : Nat) : List Byte :=
  (List.range n).map fun j => (forwardByte s (x.loc.add j)).getD (readX s x j)

/-- Whether a line is answered with data: by the core's L1 or by its home slice (R101, R190, R286). -/
def answered (s : State) (core : Nat) (ord : Ord) (line : Nat) : Bool :=
  (decide (ord ≠ .so) && (s.l1.any fun l => l.line = line && decide (l.core = core)))
    || (match mget none s.llc line with | some _ => true | none => false)

/-- A line in a core's L1 after a load that was answered with data (R190). -/
def l1Fill (s : State) (core : Nat) (swz : BitVec 4) (line : Nat) : State :=
  if s.l1.any fun l => l.line = line && decide (l.core = core) then s
  else
    let d := cohLine s swz line
    let s := match s.l1.find? fun l => l.line = line && l.writable with
      | some _ => recallL1 s line
      | none => s
    l1Put s core swz line d

/-- Whether a line comes by a request of its own: no slice may hold it (R286). -/
def uncached (s : State) (x : Xlat) (line : Nat) : Bool := isRemote s line && decide (x.ord ≠ .rc)

/-- A request for a response of its own: through a stream, or for a line that no slice may hold (R92, R286). It waits while its controller
has no room (R75). -/
def askResponse (s : State) (x : Xlat) (k : BitVec 6) (line uid : Nat) : State :=
  sendAll { s with waitReqs := s.waitReqs ++
    [{ line := line, swz := x.swz, rep := x.rep, key := none, stream := k, what := .resp, uid := uid }] }

/-- A response outstanding for the warp at issue, and its request on its way; into names the L1s that take the line (R101, R102, R190). -/
def askLine (s : State) (x : Xlat) (k : BitVec 6) (line : Nat) (into : List Nat) (pieces : List Piece) : State :=
  let own := decide (k ≠ 0) || uncached s x line
  let r : Resp :=
    { uid := s.warp.uid, ip := curIp s.warp, line := line, own := own, stream := k, data := none, err := none, pieces := pieces }
  let s := { s with resps := s.resps ++ [r] }
  if own then askResponse s x k line s.warp.uid else openMiss s x.swz line x.rep into

/-- A deferred line of the warp at issue: a response is outstanding, its request is on its way, and the warp retires at its next
instruction (R101, R102, R194). Its L1 takes the line when it comes, but for an SO page or a line through a stream (R190). -/
def deferLine (s : State) (x : Xlat) (k : BitVec 6) (line : Nat) (pieces : List Piece) : State :=
  setWarp (askLine s x k line (if x.ord = .so then [] else [s.warp.core]) pieces) fun w => { w with retire := true }

/-- The 32-bit registers of a lane's loaded bytes: element j of size es, zero- or sign-extended (R195). -/
def elemValue (t : Fmt) (bytes : List Byte) (j : Nat) : Nat :=
  let x := natOfBytes ((bytes.drop (j * t.bytes)).take t.bytes)
  if t.signed then (BitVec.ofInt 32 (sextNat t.width x)).toNat else x

/-- A lane's loaded bytes written to the registers from r. -/
def loadRegs (w : Warp) (t : Fmt) (r n k : Nat) (bytes : List Byte) : Warp :=
  (List.range n).foldl (fun w j =>
    let x := elemValue t bytes j
    if t.regs = 2 then
      setV (setV w (r + 2 * j) k (BitVec.ofNat 32 x)) (r + 2 * j + 1) k (BitVec.ofNat 32 (x / 2 ^ 32))
    else setV w (r + j) k (BitVec.ofNat 32 x)) w

/-- Bytes of the segment store buffer in use on a core (R272).
Log 51 (DEDUCED). -/
def bufferedBytes (s : State) (core : Nat) : Nat :=
  (residents s).foldl (fun n w => if w.core = core then n + w.sb.foldl (fun m e => m + e.bytes.length) 0 else n) 0

/-- Stores put into the warp's buffer, which drains if the core's buffer has passed 256 KiB (R272). -/
def bufferStores (s : State) (es : List StoreEnt) : State :=
  let s := setWarp s fun w => { w with sb := w.sb ++ es }
  if 262144 < bufferedBytes s s.warp.core then drain s else s

/-- The single-copy atomic parts of a lane's translated words: the two words of a naturally aligned 8-byte unit go together (R269). -/
def pairWords : List (Nat × Nat × Xlat) → List (Nat × Nat × Xlat)
  | w :: x :: t =>
    if w.2.1 = 4 ∧ x.2.1 = 4 ∧ w.1 % 8 = 0 ∧ x.1 = w.1 + 4 then (w.1, 8, w.2.2) :: pairWords t
    else w :: pairWords (x :: t)
  | l => l

/-- The store entries of one lane's translated words. -/
def laneStores (s : State) (k : BitVec 6) (group : Option (Nat × List Nat)) (ws : List (Nat × Nat × Xlat)) (bytes : List Byte) :
    List StoreEnt :=
  ((pairWords ws).foldl (fun (a : List StoreEnt × Nat) w =>
    let x := w.2.2
    let e : StoreEnt :=
      { inst := s.now, loc := x.loc, swz := x.swz, rep := x.rep, ord := x.ord, asid := s.warp.asid, va := w.1,
        bytes := (bytes.drop a.2).take w.2.1, stream := k, group := group }
    (a.1 ++ [e], a.2 + w.2.1)) ([], 0)).1

/-- Stores of an instruction, each under its page's kind: those on RC and UN pages are buffered, and those on SO pages are performed at
once, after the thread's earlier accesses, at the home slice; the segment is then no longer replayable (R16, R191, R270, R271). -/
def doStores (s : State) (es : List StoreEnt) : State :=
  let so := es.filter fun e => decide (e.ord = .so)
  let s := if so.isEmpty then s else let t := drain s; performStores t t.warp.core so
  bufferStores s (es.filter fun e => decide (e.ord ≠ .so))

/-! Loads of records (R133). -/

/-- A wait for a page, requested as PGRQ requests it; the instruction is issued again (R123, R348).
Log 50 (DEDUCED). -/
def waitPage (s : State) (va psz : Nat) : Step :=
  .wait (evPage s.warp.asid (va / 65536 / pszUnits psz * pszUnits psz)) none (askPage s s.warp.vi s.warp.asid va psz false)

/-- Whether the data of a line of a record load is at hand: its core's L1 or its slice answers, or its response has come. -/
def atHand (s : State) (x : Xlat) (line : Nat) : Bool :=
  answered s s.warp.core x.ord line || s.warp.got.any fun g => decide (g.1 = line)

/-- The bytes of a word of a record load: the warp's own stores first, then the line that has come for it, else memory. -/
def recBytesAt (s : State) (x : Xlat) (n : Nat) : List Byte :=
  (List.range n).map fun j =>
    (forwardByte s (x.loc.add j)).getD (match x.loc with
      | .host a => readHost s (a + j)
      | .dev a =>
        let line := (a + j) / 128
        if answered s s.warp.core x.ord line then readX s x j
        else match s.warp.got.find? fun g => g.1 = line with
          | some g => lineByte g.2 ((a + j) % 128)
          | none => readX s x j)

/-- The lines of translated words that are not at hand, each once, with one of its words. -/
def missingLines (s : State) (ws : List (Nat × Nat × Xlat)) : List (Nat × Xlat) :=
  ws.foldl (fun a w => match w.2.2.loc with
    | .host _ => a
    | .dev d => if atHand s w.2.2 (d / 128) || a.any fun y => decide (y.1 = d / 128) then a else a ++ [(d / 128, w.2.2)]) []

/-- A line asked for by an instruction that waits for it, once. -/
def askOnce (s : State) (x : Nat × Xlat) : State :=
  if s.resps.any fun r => r.uid = s.warp.uid && r.line = x.1 && r.pieces.isEmpty then s
  else askLine s x.2 0 x.1 (if x.2.ord = .so then [] else [s.warp.core]) []

/-- Bytes at a VA as a load by a single lane of the warp reads them, aligned to al bytes, with checks 3 to 5 of R121: the instruction
waits for walks, pages and lines that are not at hand, and is then issued again; on an SO page it first drains (R116, R123, R133, R271,
R348).
Log 50 (DEDUCED). -/
def recLoad (s : State) (va n al : Nat) (w : Bool) (f : State → List Byte → Step) : Step :=
  let vas := (List.range (n / 4)).map fun j => va + 4 * j
  if va % al ≠ 0 then .trap 7 0 none
  else withWalks s vas (match joinWords (vas.map fun a => (a, 4, translate s s.warp.space a w false)) with
    | .fail c d => .trap c d none
    | .nores a p => waitPage s a p
    | .clamped => f s []
    | .ok ws =>
      let s := touchVa s s.warp.vi s.warp.asid va n
      let s := if (ws.any fun x => decide (x.2.2.ord = .so)) && !s.warp.sb.isEmpty then drain s else s
      match missingLines s ws with
      | [] => f s (ws.flatMap fun x => recBytesAt s x.2.2 x.2.1)
      | ls => .wait evLine none (ls.foldl askOnce s))

/-- The 64-bit value of a scalar pair, as a VA may be given (R110). -/
def pairS (s : State) (o : Opnd) : Nat := srcBits s 0 o 2 0

end Sys2Proof.Machine
end

