-- ==== Sys2Proof/Machine/Image.lean ====
section
/-! DEFINITION. Launch images, region entries and buffer and layout records as the front end reads them (R58, R59, R61, R128 to
R132, R170), admission of a launch (R22, R343, R365, R367), and seed records. -/

namespace Sys2Proof.Machine

/-! Layout records. -/

/-- A layout record's fields (R128, R129). -/
structure LayRec where
  base : Nat
  sfmt : Nat
  cfmt : Nat
  grp : Nat
  kdim : Nat
  ndim : Nat
  tswz : Nat
  enc : Bool
  key : Nat
  glz : BitVec 6
  repx : Nat
  cmp : Bool
  size : List Nat
  stride : List Nat
  scale : Nat
  mesh : List Nat
  sd : List Nat
  shmap : Nat
deriving DecidableEq, Repr

/-- The fields of the 128 bytes of a layout record (R128, R129). -/
def layOf (r : BitVec 1024) : LayRec :=
  let x := r.toNat
  let f := bitsOf x 127 64
  let m := bitsOf x 639 576
  { base := bitsOf x 51 0, sfmt := bitsOf f 3 0, cfmt := bitsOf f 6 4, grp := bitsOf f 8 7, kdim := bitsOf f 11 9,
    ndim := bitsOf f 14 12, tswz := bitsOf f 16 15, enc := bitsOf f 17 17 = 1, key := bitsOf f 29 18,
    glz := BitVec.ofNat 6 (bitsOf f 35 30), repx := bitsOf f 45 36, cmp := bitsOf f 46 46 = 1,
    size := (List.range 6).map fun i => bitsOf x (151 + 64 * i) (128 + 64 * i),
    stride := (List.range 6).map fun i => bitsOf x (191 + 64 * i) (152 + 64 * i),
    scale := bitsOf x 563 512, mesh := (List.range 4).map fun j => bitsOf m (11 + 12 * j) (12 * j),
    sd := (List.range 4).map fun j => bitsOf m (50 + 3 * j) (48 + 3 * j), shmap := bitsOf x 691 640 }

/-- Mesh ways along a dimension: P_d (R131). -/
def LayRec.ways (l : LayRec) (d : Nat) : Nat :=
  (List.range 4).foldl (fun n j => if l.sd.getD j 7 = d then n * l.mesh.getD j 1 else n) 1

/-- The local size along a dimension (R131). -/
def LayRec.localSize (l : LayRec) (d : Nat) : Nat := l.size.getD d 0 / l.ways d

/-- The group length (R129). -/
def LayRec.group (l : LayRec) : Nat := 32 * 2 ^ l.grp

/-- Whether a storage format has scales (R130). -/
def scaledFmt (sfmt : Nat) : Bool := decide (3 ≤ sfmt ∧ sfmt ≤ 8)

/-- Whether SFMT, GRP and CFMT stand together in R130. -/
def fmtPair (sfmt grp cfmt : Nat) : Bool :=
  match sfmt with
  | 0 => grp = 0 && cfmt = 0
  | 1 => grp = 0 && (cfmt = 1 || cfmt = 0)
  | 2 => grp = 0 && (cfmt = 2 || cfmt = 0)
  | 3 => grp = 0 && (cfmt = 3 || cfmt = 1)
  | 4 => grp = 0 && (cfmt = 4 || cfmt = 1)
  | 5 => grp = 0 && (cfmt = 5 || cfmt = 1)
  | 6 => grp < 3 && (cfmt = 5 || cfmt = 1)
  | 7 => grp < 3 && (cfmt = 5 || cfmt = 1)
  | 8 => grp = 0 && (cfmt = 3 || cfmt = 1)
  | _ => false

/-- The product of the mesh sizes (R131). -/
def LayRec.parts (l : LayRec) : Nat := l.mesh.foldl (· * ·) 1

/-- Whether a layout record is refused (R132), compressed storage with a base not aligned to 4 KiB (R165) and I3G with a stride or size
that breaks its packs included (R142). SHMAP = 0 with a mesh of more than one part is refused as well: R131 allows it only without one.
Log 153 (DEDUCED). -/
def layBad (r : BitVec 1024) : Bool :=
  let x := r.toNat
  let l := layOf r
  let used := List.range l.ndim
  decide (bitsOf x 1023 704 ≠ 0 ∨ bitsOf x 703 692 ≠ 0 ∨ bitsOf x 639 636 ≠ 0 ∨ bitsOf x 127 111 ≠ 0 ∨ bitsOf x 63 52 ≠ 0
      ∨ bitsOf x 575 564 ≠ 0 ∨ l.tswz = 3 ∨ l.ndim = 0 ∨ 6 < l.ndim ∨ l.ndim ≤ l.kdim ∨ 1024 < l.parts)
    || !fmtPair l.sfmt l.grp l.cfmt
    || (List.range 6).any (fun d => decide (l.ndim ≤ d ∧ (l.size.getD d 0 ≠ 0 ∨ l.stride.getD d 0 ≠ 0)))
    || used.any (fun d => decide (l.size.getD d 0 = 0 ∨ l.size.getD d 0 % l.ways d ≠ 0))
    || l.sd.any (fun d => decide (d ≠ 7 ∧ l.ndim ≤ d)) || l.mesh.any (fun m => decide (m = 0 ∨ 1024 < m))
    || (scaledFmt l.sfmt && decide (l.size.getD l.kdim 0 % l.group ≠ 0)) || (scaledFmt l.sfmt == decide (l.scale = 0))
    || (!l.enc && decide (l.key ≠ 0)) || (l.cmp && decide (l.base % 4096 ≠ 0))
    || (decide (l.shmap = 0) && decide (l.parts ≠ 1))
    || (decide (l.sfmt = 7) && decide (l.stride.getD 0 0 ≠ 1 ∨ l.size.getD 0 0 % 32 ≠ 0))

/-- LREC.ld (R133). -/
def execLrecLd (c : Ctl) (lr : Fin 16) (a : Opnd) (s : State) : Host.Outcome State Fault Refusal :=
  issue (.lrecLd c lr a) c (fun s _ =>
    recLoad s (pairS s a) 128 64 false fun s bs =>
      let x : BitVec 1024 := BitVec.ofNat 1024 (natOfBytes bs)
      if layBad x then .trap 0xA 0 none
      else .done (setCrew s fun c => { c with lrec := mset 0 c.lrec lr.val x })) s

/-! Region entries. -/

/-- The region that 16 bytes give (R170). -/
def regionOf16 (x : Nat) : Region :=
  { base := bitsOf x 51 0, len := bitsOf x 95 64, glz := BitVec.ofNat 6 (bitsOf x 101 96), user := true,
    tile := if bitsOf x 111 111 = 1 then some (bitsOf x 110 104, bitsOf x 127 112) else none }

/-- Whether a region entry is refused (R170). -/
def regionBad (x : Nat) : Bool :=
  let r := regionOf16 x
  decide (bitsOf x 63 52 ≠ 0 ∨ bitsOf x 103 102 ≠ 0 ∨ r.len = 0) || (match r.tile with
    | none => decide (bitsOf x 127 104 ≠ 0)
    | some t => decide (t.2 % 128 ≠ 0 ∨ 16384 < t.2 + r.len))

/-! Launch images. -/

/-- The fields of the 64 bytes of a launch image, before its records and regions are read (R58, R59). -/
def imageOf (x : Nat) : Image :=
  { entry := BitVec.ofNat 48 x, nreg := bitsOf x 79 64, tiles := bitsOf x 87 80, mx := bitsOf x 88 88 = 1,
    cls := bitsOf x 90 89, gang := bitsOf x 92 91, frame := bitsOf x 127 96, waitwin := bitsOf x 143 128,
    timer := bitsOf x 159 144, recs := bitsOf x 191 160, livetab := bitsOf x 255 192, brecs := [], lrecs := [], regions := [] }

/-- Whether the image's own bytes are refused (R59). -/
def imageBad (x : Nat) : Bool :=
  let i := imageOf x
  decide (bitsOf x 511 472 ≠ 0 ∨ bitsOf x 63 48 ≠ 0 ∨ bitsOf x 95 93 ≠ 0 ∨ i.gang = 3 ∨ (i.mx = true ∧ i.gang = 0)
    ∨ i.nreg = 0 ∨ 1536 < i.nreg ∨ 128 < i.tiles ∨ 65536 < i.frame ∨ i.frame % 16 ≠ 0 ∨ 4096 < i.waitwin ∨ i.timer = 0
    ∨ 10000 < i.timer ∨ i.recs = 0 ∨ 8 < bitsOf x 471 464 ∨ (0 < bitsOf x 471 464) = (bitsOf x 319 256 = 0) ∨ bitsOf x 319 256 % 16 ≠ 0
    ∨ 2 ^ 52 ≤ i.livetab ∨ 2 ^ 52 ≤ bitsOf x 319 256 ∨ 2 ^ 52 ≤ bitsOf x 383 320)

/-- What reading a launch image comes to: the image, a page to wait for, or a packet status (R370). -/
inductive ImageRead where
  | ok (i : Image)
  | nores (va psz : Nat)
  | status (c : Byte)
deriving DecidableEq, Repr

/-- Bytes read for the front end at a VA: bytes, a page to wait for, or a status (R160, R370). -/
inductive EngineRead where
  | ok (bytes : List Byte)
  | nores (va psz : Nat)
  | status (c : Byte)
deriving DecidableEq, Repr

/-- Whether a range of resident pages has a line that cannot be had (R159, R386). -/
def rangeLost (s : State) (sp : Space) (va n : Nat) : Bool :=
  if n = 0 then false else
  (List.range ((va + n - 1) / 128 + 1 - va / 128)).any fun j =>
    match translate s sp ((va / 128 + j) * 128) false false with
    | .ok x => (match x.loc with | .dev a => (lineErr s x.rep (a / 128)).isSome | .host _ => false)
    | _ => false

/-- An engine's plain read of n bytes, checked whole before any byte is used. -/
def engineBytes (s : State) (sp : Space) (va n : Nat) : EngineRead :=
  match checkRange s sp va n false with
  | .nores a p => .nores a p
  | .status c => .status c
  | .ok =>
    if rangeLost s sp va n then .status 0xE
    else match readVa s sp va n with
      | some bs => .ok bs
      | none => .status 3

/-- Reads one after the other. -/
def EngineRead.bind (r : EngineRead) (f : List Byte → ImageRead) : ImageRead :=
  match r with
  | .ok bs => f bs
  | .nores a p => .nores a p
  | .status c => .status c

/-- A slice of bytes as a number. -/
def numAt (bs : List Byte) (a n : Nat) : Nat := natOfBytes ((bs.drop a).take n)

/-- The VA and length of an image's region table, and of its RECTAB: no bytes where it has none (R58). -/
def imageTables (x : Nat) : (Nat × Nat) × (Nat × Nat) :=
  ((bitsOf x 319 256, 16 * bitsOf x 471 464), (bitsOf x 383 320, if bitsOf x 463 384 = 0 then 0 else 4096))

/-- An image's regions from the bytes of its region table, unless one is refused (R59, R170). -/
def imageRegions (x : Nat) (rs : List Byte) : Option (List Region) :=
  let regs := (List.range (bitsOf x 471 464)).map fun j => numAt rs (16 * j) 16
  let regions := regs.map regionOf16
  let badTile := regions.any fun r => match r.tile with | some t => decide ((imageOf x).tiles ≤ t.1) | none => false
  if regs.any regionBad || badTile then none else some regions

/-- An image with its regions and the records of its RECTAB, unless one is refused (R126, R132). -/
def imageRecs (x : Nat) (regions : List Region) (ts : List Byte) : Option Image :=
  let bks := (List.range 64).filter fun k => (bitsOf x 447 384).testBit k
  let lks := (List.range 16).filter fun k => (bitsOf x 463 448).testBit k
  let brec := fun (k : Nat) => (BitVec.ofNat 256 (numAt ts (32 * k) 32))
  let lrec := fun (k : Nat) => (BitVec.ofNat 1024 (numAt ts (2048 + 128 * k) 128))
  if bks.any (fun k => bufBad (brec k)) || lks.any (fun k => layBad (lrec k)) then none
  else some { imageOf x with
    brecs := bks.foldl (fun m k => mset 0 m k (brec k)) []
    lrecs := lks.foldl (fun m k => mset 0 m k (lrec k)) []
    regions := regions }

/-- An image with its region entries and its RECTAB records, refused as R59, R126, R132 and R170 refuse (R61, R370). -/
def readImage (s : State) (sp : Space) (va : Nat) : ImageRead :=
  let part := fun (t : Nat × Nat) => if t.2 = 0 then EngineRead.ok [] else engineBytes s sp t.1 t.2
  (engineBytes s sp va 64).bind fun bs =>
    let x := natOfBytes bs
    if imageBad x then .status 0x10 else
    (part (imageTables x).1).bind fun rs =>
      match imageRegions x rs with
      | none => .status 0x10
      | some regions => (part (imageTables x).2).bind fun ts =>
        match imageRecs x regions ts with
        | none => .status 0x10
        | some i => .ok i

/-- The largest record of a launch (R333). -/
def maxRec (nreg : Nat) : Nat := (1276 + 128 * nreg + 63) / 64 * 64

/-- The pool bytes that a launch reserves (R343), with the save areas of its crews (R384).
Log 91 (DESIGN CHOICE). -/
def reservation (i : Image) (ncrew : Nat) : Nat :=
  i.recs * maxRec i.nreg + ncrew * (if ncrew = 0 then 0 else 16384 * i.tiles + 8192 + (if i.mx then 1048576 else 0))

/-- The next launch identifier of the package (R367): the least count from the running one that no launch holds, and no record here, on its
way to another package or mirrored. -/
def nextLaunchId (s : State) : Nat :=
  let held := s.launches.map (·.id) ++ s.recs.map (·.launch) ++ s.sent.map (·.2.launch) ++ s.sentCrews.map (·.2.launch)
    ++ s.mirrors.map (·.record.launch)
  let inUse := fun (id : Nat) => held.contains id
  let idAt := fun (j : Nat) => s.pkg * 2 ^ 22 + (s.launchCount + j) % 2 ^ 22
  match (List.range (held.length + 1)).find? fun j => !inUse (idAt j) with
  | some j => idAt j
  | none => idAt 0

/-- Whether the pool can reserve some bytes (R22). -/
def canReserve (s : State) (vi bytes : Nat) : Bool := decide (bytes ≤ poolFree s vi)

/-- A launch admitted (R22, R365 to R367). -/
def admitLaunch (s : State) (l : Launch) : State :=
  { s with launches := s.launches ++ [l], launchCount := (l.id + 1) % 2 ^ 22 }

/-- A launch with nothing seeded yet.
Log 141 (DEDUCED). -/
def newLaunch (s : State) (vi asid : Nat) (i : Image) (imageVa : Nat) (mode : LaunchMode) (chk : Bool) : Launch :=
  { id := nextLaunchId s, vi := vi, asid := asid, image := i, imageVa := imageVa, mode := mode, chk := chk, far := false,
    cpc := 1, wpc := 1, ncrew := 0, na := 0, frameVa := 0, nodeId := 0, closed := false, threads := 0, exited := 0,
    reserved := reservation i 0, charged := 0, seeds := [], arg := 0, suspended := false, hold := none, durable := false,
    packets := [], hwdog := (viOf s vi).hwdog, seglim := (viOf s vi).seglim }

/-- A LANE or item record of one thread of a crew-free launch (R349, R366), written for a core.
Log 99 (DEDUCED). -/
def itemRec (l : Launch) (core tid na : Nat) (args : List Word) (join : DWord) (kind : RecKind) : Rec :=
  { rid := 0, addr := 0, vi := l.vi, asid := l.asid, kind := kind, event := evReady, join := join, frame := l.frameVa,
    code := l.image.entry, mask := 1, launch := l.id, crew := none, nreg := l.image.nreg,
    livemap := BitVec.ofNat 16 (0xFF00 + na), cls := l.image.cls, prio := 0, wid := 0, tinfo := 0, regs := List.range na,
    v := (List.range na).foldl (fun m i => mset 0 m (i * 32) (args.getD i 0)) [], sr := [], p := [],
    tid := mset 0 [] 0 (BitVec.ofNat 32 tid), src := 0, pages := [], pgrq := [], cmp := 0, swz := 0, place := .held, runs := 0,
    walked := [], since := 0, core := core, pin := none, latchAt := none }

end Sys2Proof.Machine
end

