-- ==== Sys2Proof/Machine/Flags.lean ====
section
/-! DEFINITION. Results that go to predicates: comparisons, carries and votes (R211, R216, R223, R233). The machine has no
flags register: a flag is a bit of a predicate (R36, R144). -/

namespace Sys2Proof.Machine

/-- An operand of w bits as the type reads it: two's complement under an .i type, unsigned otherwise (R207). -/
def readInt (sg : Bool) (w x : Nat) : Int := if sg then sextNat w x else (x % 2 ^ w : Nat)

/-- The result of ICMP (R216). -/
def icmpResult (k : ICmpKind) (a b : Int) : Bool :=
  match k with
  | .eq => a = b
  | .ne => a ≠ b
  | .lt => a < b
  | .le => a ≤ b
  | .gt => b < a
  | .ge => b ≤ a

/-- Sum with carry-in, and its carry-out, at width w (R211). -/
def addCarry (w a b c : Nat) : Nat × Bool := ((a + b + c) % 2 ^ w, decide (2 ^ w ≤ a + b + c))

/-- Difference with borrow-in, and its borrow-out, at width w (R211). -/
def subBorrow (w a b c : Nat) : Nat × Bool := ((a + 2 ^ (w + 1) - b - c) % 2 ^ w, decide (a < b + c))

/-- A Bool as a number. -/
def b01 (b : Bool) : Nat := if b then 1 else 0

/-- The result of VOTE over the lanes of part (R223). -/
def voteResult (k : VoteKind) (p part : Mask) : Nat :=
  let m := p &&& part
  match k with
  | .some => b01 (m ≠ 0)
  | .every => b01 (m = part)
  | .same => b01 (m = 0 ∨ m = part)
  | .mask => m.toNat

end Sys2Proof.Machine
end

