-- ==== Sys2Proof/Machine/Integer.lean ====
section
/-! DEFINITION. Integer and logic instructions, moves and packing (R207 to R219). -/

namespace Sys2Proof.Machine

/-- A per-lane or warp instruction whose result of n registers is f of the lane (R32, R33). -/
def laneOp (i : Instr) (c : Ctl) (d : Opnd) (n : Nat) (f : State → Mask → Nat → Nat) (s : State) :
    Host.Outcome State Fault Refusal :=
  issue i c (fun s act => .done (writeDst s act d n (f s act))) s

/-- Registers of an element type. -/
abbrev rg (t : Fmt) : Nat := t.regs

/-- A source of a type as an integer (R207). -/
def srcInt (s : State) (act : Mask) (t : Fmt) (o : Opnd) (k : Nat) : Int :=
  readInt t.signed t.width (srcBits s act o t.regs k)

/-- An integer reduced modulo 2^w. -/
def wrap (w : Nat) (x : Int) : Nat := (BitVec.ofInt w x).toNat

/-- The least value of an integer type. -/
def loOf (t : Fmt) : Int := if t.signed then -(2 ^ (t.width - 1)) else 0
/-- The greatest value of an integer type. -/
def hiOf (t : Fmt) : Int := if t.signed then 2 ^ (t.width - 1) - 1 else 2 ^ t.width - 1

/-- sat of R9. -/
def satInt (x lo hi : Int) : Int := if x < lo then lo else if hi < x then hi else x

/-- A result, saturated to the type when sat is set, reduced to its width (R211). -/
def deliver (t : Fmt) (sat : Bool) (x : Int) : Nat := wrap t.width (if sat then satInt x (loOf t) (hiOf t) else x)

/-- A two-source integer result. -/
def intOp2 (i : Instr) (c : Ctl) (t : Fmt) (d a b : Opnd) (f : Int → Int → Nat) (s : State) :
    Host.Outcome State Fault Refusal :=
  laneOp i c d t.regs (fun s act k => f (srcInt s act t a k) (srcInt s act t b k)) s

/-- IADD (R211). -/
def execIadd (c : Ctl) (t : Fmt) (sat : Bool) (d a b : Opnd) (s : State) : Host.Outcome State Fault Refusal :=
  intOp2 (.iadd c t sat d a b) c t d a b (fun x y => deliver t sat (x + y)) s

/-- ISUB (R211). -/
def execIsub (c : Ctl) (t : Fmt) (sat : Bool) (d a b : Opnd) (s : State) : Host.Outcome State Fault Refusal :=
  intOp2 (.isub c t sat d a b) c t d a b (fun x y => deliver t sat (x - y)) s

/-- Sum or difference with carry of one lane (R211). -/
def addcLane (t : Fmt) (sub : Bool) (a b cin : Nat) : Nat × Bool :=
  if sub then subBorrow t.width a b cin else addCarry t.width a b cin

/-- ADDC: D and the carry-out predicate in the same lanes (R211). -/
def execAddc (c : Ctl) (t : Fmt) (sub : Bool) (cp : Fin 16) (d a b ci : Opnd) (s : State) :
    Host.Outcome State Fault Refusal :=
  issue (.addc c t sub cp d a b ci) c (fun s act =>
    let r := fun k => addcLane t sub (srcBits s act a t.regs k) (srcBits s act b t.regs k) (srcBits s act ci 1 k % 2)
    let s' := writeDst s act d t.regs fun k => (r k).1
    .done (writeDst s' act (.p cp) 1 fun k => b01 (r k).2)) s

/-- IMUL (R212). -/
def execImul (c : Ctl) (t : Fmt) (d a b : Opnd) (s : State) : Host.Outcome State Fault Refusal :=
  intOp2 (.imul c t d a b) c t d a b (fun x y => wrap t.width (x * y)) s

/-- IMULH (R212). -/
def execImulh (c : Ctl) (t : Fmt) (d a b : Opnd) (s : State) : Host.Outcome State Fault Refusal :=
  intOp2 (.imulh c t d a b) c t d a b (fun x y => wrap t.width (x * y / 2 ^ t.width)) s

/-- IMAD (R212). -/
def execImad (c : Ctl) (t : Fmt) (wide : Bool) (d a b e : Opnd) (s : State) : Host.Outcome State Fault Refusal :=
  let n := if wide then 2 else t.regs
  laneOp (.imad c t wide d a b e) c d n (fun s act k =>
    wrap (32 * n) (srcInt s act t a k * srcInt s act t b k + (srcBits s act e n k : Nat))) s

/-- IMIN (R213). -/
def execImin (c : Ctl) (t : Fmt) (d a b : Opnd) (s : State) : Host.Outcome State Fault Refusal :=
  intOp2 (.imin c t d a b) c t d a b (fun x y => wrap t.width (if x ≤ y then x else y)) s

/-- IMAX (R213). -/
def execImax (c : Ctl) (t : Fmt) (d a b : Opnd) (s : State) : Host.Outcome State Fault Refusal :=
  intOp2 (.imax c t d a b) c t d a b (fun x y => wrap t.width (if y ≤ x then x else y)) s

/-- IABS (R213). -/
def execIabs (c : Ctl) (t : Fmt) (sat : Bool) (d a : Opnd) (s : State) : Host.Outcome State Fault Refusal :=
  laneOp (.iabs c t sat d a) c d t.regs (fun s act k =>
    let x : Int := (srcInt s act t a k).natAbs
    wrap t.width (if sat then min x (hiOf t) else x)) s

/-- A bitwise result, b inverted under .notb (R213). -/
def logicOp (i : Instr) (c : Ctl) (t : Fmt) (notb : Bool) (d a b : Opnd) (f : DWord → DWord → DWord) (s : State) :
    Host.Outcome State Fault Refusal :=
  laneOp i c d t.regs (fun s act k =>
    let x := BitVec.ofNat 64 (srcBits s act a t.regs k)
    let y := BitVec.ofNat 64 (srcBits s act b t.regs k)
    (f x (if notb then ~~~y else y)).toNat % 2 ^ t.width) s

/-- AND (R213). -/
def execAnd (c : Ctl) (t : Fmt) (notb : Bool) (d a b : Opnd) (s : State) : Host.Outcome State Fault Refusal :=
  logicOp (.and c t notb d a b) c t notb d a b (· &&& ·) s

/-- OR (R213). -/
def execOr (c : Ctl) (t : Fmt) (notb : Bool) (d a b : Opnd) (s : State) : Host.Outcome State Fault Refusal :=
  logicOp (.or c t notb d a b) c t notb d a b (· ||| ·) s

/-- XOR (R213). -/
def execXor (c : Ctl) (t : Fmt) (notb : Bool) (d a b : Opnd) (s : State) : Host.Outcome State Fault Refusal :=
  logicOp (.xor c t notb d a b) c t notb d a b (· ^^^ ·) s

/-- SHL of a value (R214). -/
def shlVal (w a n : Nat) : Nat := if n < w then a * 2 ^ n % 2 ^ w else 0

/-- SHR of a value, arithmetic for a signed type (R214). -/
def shrVal (t : Fmt) (a n : Nat) : Nat :=
  let x := readInt t.signed t.width a
  if n < t.width then wrap t.width (x / 2 ^ n) else if x < 0 then wrap t.width (-1) else 0

/-- ROT of a value (R214). -/
def rotVal (w : Nat) (right : Bool) (a n : Nat) : Nat :=
  let m := n % w
  if right then (a / 2 ^ m + a * 2 ^ (w - m)) % 2 ^ w else (a * 2 ^ m + a / 2 ^ (w - m)) % 2 ^ w

/-- SHL: the count is 32 bits, unsigned (R214). -/
def execShl (c : Ctl) (t : Fmt) (d a b : Opnd) (s : State) : Host.Outcome State Fault Refusal :=
  laneOp (.shl c t d a b) c d t.regs (fun s act k => shlVal t.width (srcBits s act a t.regs k) (srcBits s act b 1 k)) s

/-- SHR (R214). -/
def execShr (c : Ctl) (t : Fmt) (d a b : Opnd) (s : State) : Host.Outcome State Fault Refusal :=
  laneOp (.shr c t d a b) c d t.regs (fun s act k => shrVal t (srcBits s act a t.regs k) (srcBits s act b 1 k)) s

/-- ROT (R214). -/
def execRot (c : Ctl) (t : Fmt) (right : Bool) (d a b : Opnd) (s : State) : Host.Outcome State Fault Refusal :=
  laneOp (.rot c t right d a b) c d t.regs (fun s act k =>
    rotVal t.width right (srcBits s act a t.regs k) (srcBits s act b 1 k)) s

/-- Set bits of a value of w bits (R215). -/
def popVal (w a : Nat) : Nat := ((List.range w).filter fun i => a / 2 ^ i % 2 = 1).length

/-- Leading zeros of a value of w bits (R215). -/
def clzVal (w a : Nat) : Nat := if a = 0 then w else w - 1 - a.log2

/-- Bits of a value of w bits in reverse order (R215). -/
def brevVal (w a : Nat) : Nat := (List.range w).foldl (fun r i => r * 2 + a / 2 ^ i % 2) 0

/-- POPC (R215). -/
def execPopc (c : Ctl) (t : Fmt) (d a : Opnd) (s : State) : Host.Outcome State Fault Refusal :=
  laneOp (.popc c t d a) c d 1 (fun s act k => popVal t.width (srcBits s act a t.regs k)) s

/-- CLZ (R215). -/
def execClz (c : Ctl) (t : Fmt) (d a : Opnd) (s : State) : Host.Outcome State Fault Refusal :=
  laneOp (.clz c t d a) c d 1 (fun s act k => clzVal t.width (srcBits s act a t.regs k)) s

/-- BREV (R215). -/
def execBrev (c : Ctl) (t : Fmt) (d a : Opnd) (s : State) : Host.Outcome State Fault Refusal :=
  laneOp (.brev c t d a) c d t.regs (fun s act k => brevVal t.width (srcBits s act a t.regs k)) s

/-- The field of BFX: position in bits [7:0] of the control, length in bits [15:8] (R215). -/
def bfxVal (t : Fmt) (a ctl : Nat) : Nat :=
  let w := t.width
  let len := min (ctl / 256 % 256) w
  let pos := ctl % 256
  let x : Int := readInt t.signed w a / 2 ^ pos
  if len = 0 then 0 else wrap w (readInt t.signed len (wrap len x))

/-- The value of BFX's control: the long immediate of B and X, or B (R37, R215). -/
def bfxCtl (s : State) (act : Mask) (x : BitVec 16) (b : Opnd) (k : Nat) : Nat :=
  match b with
  | .imm i => (BitVec.ofNat 27 (x.toNat * 2048 + i.toNat)).signExtend 32 |>.toNat
  | o => srcBits s act o 1 k

/-- BFX (R215). -/
def execBfx (c : Ctl) (t : Fmt) (x : BitVec 16) (d a b : Opnd) (s : State) : Host.Outcome State Fault Refusal :=
  laneOp (.bfx c t x d a b) c d t.regs (fun s act k => bfxVal t (srcBits s act a t.regs k) (bfxCtl s act x b k)) s

/-- The value of BFI (R215). -/
def bfiVal (w a b ctl : Nat) : Nat :=
  let p := min (ctl % 256) w
  let len := min (ctl / 256 % 256) (w - p)
  a % 2 ^ p + b % 2 ^ len * 2 ^ p + a / 2 ^ (p + len) * 2 ^ (p + len)

/-- BFI (R215). -/
def execBfi (c : Ctl) (t : Fmt) (d a b e : Opnd) (s : State) : Host.Outcome State Fault Refusal :=
  laneOp (.bfi c t d a b e) c d t.regs (fun s act k =>
    bfiVal t.width (srcBits s act a t.regs k) (srcBits s act b t.regs k) (srcBits s act e 1 k)) s

/-- ICMP (R216). -/
def execIcmp (c : Ctl) (t : Fmt) (q : ICmpKind) (d a b : Opnd) (s : State) : Host.Outcome State Fault Refusal :=
  laneOp (.icmp c t q d a b) c d 1 (fun s act k => b01 (icmpResult q (srcInt s act t a k) (srcInt s act t b k))) s

/-- SEL (R216). -/
def execSel (c : Ctl) (t : Fmt) (d a b e : Opnd) (s : State) : Host.Outcome State Fault Refusal :=
  laneOp (.sel c t d a b e) c d t.regs (fun s act k =>
    if srcBits s act e 1 k ≠ 0 then srcBits s act a t.regs k else srcBits s act b t.regs k) s

/-- The multiplier of LEA (R216). -/
def leaMul : LeaScale → Nat | .x1 => 1 | .x2 => 2 | .x4 => 4 | .x8 => 8 | .x16 => 16

/-- LEA (R216). -/
def execLea (c : Ctl) (m : LeaScale) (d a b : Opnd) (s : State) : Host.Outcome State Fault Refusal :=
  laneOp (.lea c m d a b) c d 2 (fun s act k =>
    wrap 64 ((srcBits s act a 2 k : Nat) + sextNat 32 (srcBits s act b 1 k) * leaMul m)) s

/-- PLOP: the truth table at 4a + 2b + c (R217). -/
def execPlop (c : Ctl) (tt : Byte) (d a b e : Opnd) (s : State) : Host.Outcome State Fault Refusal :=
  laneOp (.plop c tt d a b e) c d 1 (fun s act k =>
    b01 (tt.getLsbD (4 * srcBits s act a 1 k + 2 * srcBits s act b 1 k + srcBits s act e 1 k))) s

/-- MOV (R218). -/
def execMov (c : Ctl) (t : Fmt) (d a : Opnd) (s : State) : Host.Outcome State Fault Refusal :=
  laneOp (.mov c t d a) c d t.regs (fun s act k => srcBits s act a t.regs k) s

/-- MOVI.lo (R218). -/
def execMoviLo (c : Ctl) (t : Fmt) (d : Opnd) (imm : BitVec 27) (s : State) : Host.Outcome State Fault Refusal :=
  laneOp (.moviLo c t d imm) c d t.regs (fun _ _ _ => (imm.signExtend t.width).toNat) s

/-- A value with halfword h replaced (R218). -/
def setHalf (a h x : Nat) : Nat := a % 2 ^ (16 * h) + x % 65536 * 2 ^ (16 * h) + a / 2 ^ (16 * h + 16) * 2 ^ (16 * h + 16)

/-- MOVI.hi (R218). -/
def execMoviHi (c : Ctl) (t : Fmt) (h : BitVec 2) (d : Opnd) (imm : BitVec 27) (s : State) :
    Host.Outcome State Fault Refusal :=
  laneOp (.moviHi c t h d imm) c d t.regs (fun s act k => setHalf (srcBits s act d t.regs k) h.toNat imm.toNat) s

/-- PACK (R219). -/
def execPack (c : Ctl) (t : Fmt) (d a b : Opnd) (e : Option Opnd) (s : State) : Host.Outcome State Fault Refusal :=
  laneOp (.pack c t d a b e) c d 1 (fun s act k =>
    let x := srcBits s act a 1 k
    let y := srcBits s act b 1 k
    match e with
    | none => x % 65536 + y % 65536 * 65536
    | some o => x % 256 + y % 256 * 256 + srcBits s act o 1 k % 65536 * 65536) s

/-- UNPK (R219). -/
def execUnpk (c : Ctl) (t : Fmt) (d a b : Opnd) (s : State) : Host.Outcome State Fault Refusal :=
  laneOp (.unpk c t d a b) c d 1 (fun s act k =>
    let j := srcBits s act b 1 k % (32 / t.width)
    srcBits s act a 1 k / 2 ^ (t.width * j) % 2 ^ t.width) s

end Sys2Proof.Machine
end

