-- ==== Sys2Proof/Machine/Float.lean ====
section
/-! DEFINITION. Floating-point and signal instructions and CVT (R227 to R244). -/

namespace Sys2Proof.Machine

/-- The code of a float source of a type in lane k (R38, R139). -/
def srcF (s : State) (act : Mask) (t : Fmt) (o : Opnd) (k : Nat) : Nat :=
  match o with
  | .imm i => immFloat t i
  | o => srcBits s act o t.regs k % 2 ^ t.width

/-- The value of a float source. -/
def srcNum (s : State) (act : Mask) (t : Fmt) (o : Opnd) (k : Nat) : Num := numOf (ffOf t) (srcF s act t o k)

/-- A float result that is one fsum of terms (R228). -/
def fsumOp (i : Instr) (c : Ctl) (t : Fmt) (rm : RMode) (d : Opnd) (ts : State → Mask → Nat → List Num) (s : State) :
    Host.Outcome State Fault Refusal :=
  laneOp i c d t.regs (fun s act k => fsum (ffOf t) rm (ts s act k)) s

/-- FADD (R231). -/
def execFadd (c : Ctl) (t : Fmt) (rm : RMode) (d a b : Opnd) (s : State) : Host.Outcome State Fault Refusal :=
  fsumOp (.fadd c t rm d a b) c t rm d (fun s act k => [srcNum s act t a k, srcNum s act t b k]) s

/-- FSUB (R231). -/
def execFsub (c : Ctl) (t : Fmt) (rm : RMode) (d a b : Opnd) (s : State) : Host.Outcome State Fault Refusal :=
  fsumOp (.fsub c t rm d a b) c t rm d (fun s act k => [srcNum s act t a k, (srcNum s act t b k).neg]) s

/-- FMUL (R231). -/
def execFmul (c : Ctl) (t : Fmt) (rm : RMode) (d a b : Opnd) (s : State) : Host.Outcome State Fault Refusal :=
  fsumOp (.fmul c t rm d a b) c t rm d (fun s act k => [(srcNum s act t a k).mul (srcNum s act t b k)]) s

/-- FFMA (R231). -/
def execFfma (c : Ctl) (t : Fmt) (rm : RMode) (d a b e : Opnd) (s : State) : Host.Outcome State Fault Refusal :=
  fsumOp (.ffma c t rm d a b e) c t rm d
    (fun s act k => [(srcNum s act t a k).mul (srcNum s act t b k), srcNum s act t e k]) s

/-- FMIN (R232). -/
def execFmin (c : Ctl) (t : Fmt) (nan : Bool) (d a b : Opnd) (s : State) : Host.Outcome State Fault Refusal :=
  laneOp (.fmin c t nan d a b) c d t.regs
    (fun s act k => minMax (ffOf t) false nan (srcF s act t a k) (srcF s act t b k)) s

/-- FMAX (R232). -/
def execFmax (c : Ctl) (t : Fmt) (nan : Bool) (d a b : Opnd) (s : State) : Host.Outcome State Fault Refusal :=
  laneOp (.fmax c t nan d a b) c d t.regs
    (fun s act k => minMax (ffOf t) true nan (srcF s act t a k) (srcF s act t b k)) s

/-- The result of FCMP (R233). -/
def fcmpResult (q : FCmpKind) (a b : Num) : Bool :=
  if a.isNan || b.isNan then (match q with | .ne | .un => true | _ => false)
  else
    let r := a.cmp b
    match q with
    | .eq => r = 0
    | .ne => r ≠ 0
    | .lt => r < 0
    | .le => r ≤ 0
    | .gt => 0 < r
    | .ge => 0 ≤ r
    | .un => false
    | .ord => true

/-- FCMP (R233). -/
def execFcmp (c : Ctl) (t : Fmt) (q : FCmpKind) (d a b : Opnd) (s : State) : Host.Outcome State Fault Refusal :=
  laneOp (.fcmp c t q d a b) c d 1 (fun s act k => b01 (fcmpResult q (srcNum s act t a k) (srcNum s act t b k))) s

/-- A quotient of values, with the special operands of IEEE 754 (R236). -/
def divNum (a b : Num) : Num :=
  match a, b with
  | .nan, _ | _, .nan => .nan
  | .inf _, .inf _ => .nan
  | .inf s, .fin t _ _ => .inf (s != t)
  | .fin s _ _, .inf t => .fin (s != t) 0 1
  | .fin s n d, .fin t m e =>
    if m = 0 then (if n = 0 then .nan else .inf (s != t)) else .fin (s != t) (n * e) (d * m)

/-- One (R236). -/
def oneNum : Num := .fin false 1 1

/-- The square root of a value (R236, R237). -/
def sqrtOf : Num → Num
  | .nan => .nan
  | .inf s => if s then .nan else .inf false
  | .fin s n d => if n = 0 then .fin s 0 1 else if s then .nan else sqrtNum n d

/-- The reciprocal square root of a value (R236, R237). -/
def rsqrtOf : Num → Num
  | .nan => .nan
  | .inf s => if s then .nan else .fin false 0 1
  | .fin s n d => if n = 0 then .inf s else if s then .nan else sqrtNum d n

/-- FRCP (R236). -/
def execFrcp (c : Ctl) (t : Fmt) (rm : RMode) (d a : Opnd) (s : State) : Host.Outcome State Fault Refusal :=
  laneOp (.frcp c t rm d a) c d t.regs (fun s act k => roundNum (ffOf t) rm (divNum oneNum (srcNum s act t a k))) s

/-- FRSQ (R236). -/
def execFrsq (c : Ctl) (t : Fmt) (rm : RMode) (d a : Opnd) (s : State) : Host.Outcome State Fault Refusal :=
  laneOp (.frsq c t rm d a) c d t.regs (fun s act k => roundNum (ffOf t) rm (rsqrtOf (srcNum s act t a k))) s

/-- FSQRT (R236). -/
def execFsqrt (c : Ctl) (t : Fmt) (rm : RMode) (d a : Opnd) (s : State) : Host.Outcome State Fault Refusal :=
  laneOp (.fsqrt c t rm d a) c d t.regs (fun s act k => roundNum (ffOf t) rm (sqrtOf (srcNum s act t a k))) s

/-- FDIV (R236). -/
def execFdiv (c : Ctl) (t : Fmt) (rm : RMode) (d a b : Opnd) (s : State) : Host.Outcome State Fault Refusal :=
  laneOp (.fdiv c t rm d a b) c d t.regs
    (fun s act k => roundNum (ffOf t) rm (divNum (srcNum s act t a k) (srcNum s act t b k))) s

/-- The delivery of a transcendental result: RNE in FP16, one of the two bracketing values in FP32 (R237).
Log 25 (DESIGN CHOICE). -/
def approx (t : Fmt) (op x : Nat) (v : Num) : Nat :=
  match v with
  | .fin _ _ _ => if t = .f16 then roundNum fp16 .rne v else bracket fp32 (Config.approxUp op x) v
  | v => roundNum (ffOf t) .rne v

/-- 2^a (R237). -/
def exp2Of : Num → Num
  | .nan => .nan
  | .inf s => if s then .fin false 0 1 else .inf false
  | .fin s n d => exp2Num s n d

/-- log2 a (R237). -/
def log2Of : Num → Num
  | .nan => .nan
  | .inf s => if s then .nan else .inf false
  | .fin s n d => if n = 0 then .inf true else if s then .nan else log2Num n d

/-- sin(π a) (R237); an integer gives a zero with its sign. -/
def sinOf : Num → Num
  | .fin s n d => if n % d = 0 then .fin s 0 1 else (sinPi n d).negIf s
  | _ => .nan

/-- cos(π a) (R237). -/
def cosOf : Num → Num
  | .fin _ n d => cosPi n d
  | _ => .nan

/-- FEX2 (R237). -/
def execFex2 (c : Ctl) (t : Fmt) (d a : Opnd) (s : State) : Host.Outcome State Fault Refusal :=
  laneOp (.fex2 c t d a) c d t.regs (fun s act k => approx t 0x35 (srcF s act t a k) (exp2Of (srcNum s act t a k))) s

/-- FLG2 (R237). -/
def execFlg2 (c : Ctl) (t : Fmt) (d a : Opnd) (s : State) : Host.Outcome State Fault Refusal :=
  laneOp (.flg2 c t d a) c d t.regs (fun s act k => approx t 0x36 (srcF s act t a k) (log2Of (srcNum s act t a k))) s

/-- FSIN (R237). -/
def execFsin (c : Ctl) (t : Fmt) (d a : Opnd) (s : State) : Host.Outcome State Fault Refusal :=
  laneOp (.fsin c t d a) c d t.regs (fun s act k => approx t 0x37 (srcF s act t a k) (sinOf (srcNum s act t a k))) s

/-- FCOS (R237). -/
def execFcos (c : Ctl) (t : Fmt) (d a : Opnd) (s : State) : Host.Outcome State Fault Refusal :=
  laneOp (.fcos c t d a) c d t.regs (fun s act k => approx t 0x38 (srcF s act t a k) (cosOf (srcNum s act t a k))) s

/-- The class of a code, as the bit number of FCLS (R234). -/
def classOf (f : FF) (x : Nat) : Nat :=
  let s := decide (x / 2 ^ (f.w - 1) % 2 = 1)
  let e := x / 2 ^ f.fb % 2 ^ f.eb
  let m := x % 2 ^ f.fb
  if e = 2 ^ f.eb - 1 then
    if m = 0 then (if s then 0 else 7) else if m / 2 ^ (f.fb - 1) = 0 then 8 else 9
  else if e = 0 then
    if m = 0 then (if s then 3 else 4) else (if s then 2 else 5)
  else if s then 1 else 6

/-- FCLS (R234). -/
def execFcls (c : Ctl) (t : Fmt) (d a b : Opnd) (s : State) : Host.Outcome State Fault Refusal :=
  laneOp (.fcls c t d a b) c d 1
    (fun s act k => srcBits s act b 1 k / 2 ^ classOf (ffOf t) (srcF s act t a k) % 2) s

/-- FRND of a value (R235). -/
def frndVal (f : FF) (rm : RMode) (x : Nat) : Nat :=
  match numOf f x with
  | .nan => canonNan f
  | .inf _ => x
  | .fin s n d => if n = 0 then x else roundNum f .rne (.ofFrac (roundInt rm (.fin s n d)) 1 s)

/-- FRND (R235). -/
def execFrnd (c : Ctl) (t : Fmt) (rm : RMode) (d a : Opnd) (s : State) : Host.Outcome State Fault Refusal :=
  laneOp (.frnd c t rm d a) c d t.regs (fun s act k => frndVal (ffOf t) rm (srcF s act t a k)) s

/-- A value times 2^n; an exponent beyond every format's range is cut to one that rounds alike (R235).
Log 27 (DESIGN CHOICE). -/
def sclNum (x : Num) (n : Int) : Num :=
  match x with
  | .fin s a d =>
    let p := scaled a d (if n < -5000 then -5000 else if 5000 < n then 5000 else n)
    .fin s p.1 p.2
  | y => y

/-- FSCL (R235). -/
def execFscl (c : Ctl) (t : Fmt) (rm : RMode) (d a b : Opnd) (s : State) : Host.Outcome State Fault Refusal :=
  fsumOp (.fscl c t rm d a b) c t rm d
    (fun s act k => [sclNum (srcNum s act t a k) (sextNat 32 (srcBits s act b 1 k))]) s

/-! Complex forms. -/

/-- A register operand j registers further on. -/
def Opnd.plus (o : Opnd) (j : Nat) : Opnd :=
  match o with
  | .v r => .v (Fin.ofNat 1536 (r.val + j))
  | .s r => .s (Fin.ofNat 256 (r.val + j))
  | o => o

/-- Component j (2m real, 2m + 1 imaginary, of complex value m) of a Z operand (R227). -/
def srcZ (s : State) (act : Mask) (t : Fmt) (o : Opnd) (j k : Nat) : Num := srcNum s act t (Opnd.plus o (j * t.regs)) k

/-- The components of a Z destination written in order, each from the state before any is written (R33, R227). -/
def writeZ (s : State) (act : Mask) (t : Fmt) (d : Opnd) (fs : List (Nat → Nat)) : State :=
  (List.range fs.length).foldl
    (fun s' j => writeDst s' act (Opnd.plus d (j * t.regs)) t.regs (fs.getD j fun _ => 0)) s

/-- A complex instruction whose components are sums of terms. -/
def zOp (i : Instr) (c : Ctl) (t : Fmt) (rm : RMode) (d : Opnd) (ts : State → Mask → Nat → List (List Num)) (n : Nat)
    (s : State) : Host.Outcome State Fault Refusal :=
  issue i c (fun s act =>
    .done (writeZ s act t d ((List.range n).map fun j => fun k => fsum (ffOf t) rm ((ts s act k).getD j [])))) s

/-- The terms of a complex product, the second factor conjugated when cj is set (R238). -/
def cmulTerms (ar ai br bi : Num) (cj : Bool) : List Num × List Num :=
  let bi := bi.negIf cj
  ([ar.mul br, (ai.mul bi).neg], [ar.mul bi, ai.mul br])

/-- CMUL (R238). -/
def execCmul (c : Ctl) (t : Fmt) (rm : RMode) (cj : Bool) (d a b : Opnd) (s : State) : Host.Outcome State Fault Refusal :=
  zOp (.cmul c t rm cj d a b) c t rm d (fun s act k =>
    let p := cmulTerms (srcZ s act t a 0 k) (srcZ s act t a 1 k) (srcZ s act t b 0 k) (srcZ s act t b 1 k) cj
    [p.1, p.2]) 2 s

/-- CFMA (R238). -/
def execCfma (c : Ctl) (t : Fmt) (rm : RMode) (cj : Bool) (d a b e : Opnd) (s : State) :
    Host.Outcome State Fault Refusal :=
  zOp (.cfma c t rm cj d a b e) c t rm d (fun s act k =>
    let p := cmulTerms (srcZ s act t a 0 k) (srcZ s act t a 1 k) (srcZ s act t b 0 k) (srcZ s act t b 1 k) cj
    [p.1 ++ [srcZ s act t e 0 k], p.2 ++ [srcZ s act t e 1 k]]) 2 s

/-- BFLY (R239). -/
def execBfly (c : Ctl) (t : Fmt) (rm : RMode) (d a b e : Opnd) (s : State) : Host.Outcome State Fault Refusal :=
  zOp (.bfly c t rm d a b e) c t rm d (fun s act k =>
    let p := cmulTerms (srcZ s act t e 0 k) (srcZ s act t e 1 k) (srcZ s act t b 0 k) (srcZ s act t b 1 k) false
    let ar := srcZ s act t a 0 k
    let ai := srcZ s act t a 1 k
    [ar :: p.1, ai :: p.2, ar :: p.1.map Num.neg, ai :: p.2.map Num.neg]) 4 s

/-- Real and imaginary terms multiplied by (-i)^m (R240). -/
def rotTerms (m : Nat) (p : List Num × List Num) : List Num × List Num :=
  match m % 4 with
  | 0 => p
  | 1 => (p.2, p.1.map Num.neg)
  | 2 => (p.1.map Num.neg, p.2.map Num.neg)
  | _ => (p.2.map Num.neg, p.1)

/-- BFL4 (R240). -/
def execBfl4 (c : Ctl) (t : Fmt) (rm : RMode) (inv : Bool) (d a b : Opnd) (s : State) : Host.Outcome State Fault Refusal :=
  zOp (.bfl4 c t rm inv d a b) c t rm d (fun s act k =>
    let x := fun j => srcZ s act t a j k
    let w := fun j => srcZ s act t b j k
    let prod := fun (j : Nat) =>
      if j = 0 then ([x 0], [x 1]) else cmulTerms (w (2 * j - 2)) (w (2 * j - 1)) (x (2 * j)) (x (2 * j + 1)) false
    (List.range 4).flatMap fun y =>
      let ps := (List.range 4).map fun j => rotTerms (if inv then 3 * j * y else j * y) (prod j)
      [ps.flatMap (·.1), ps.flatMap (·.2)]) 8 s

/-- TWID's components for k and L (R241). -/
def twidVal (f : FF) (rm : RMode) (a l : Nat) : Nat × Nat :=
  if 24 < l then (canonNan f, canonNan f)
  else
    let n := 2 ^ l
    let j := a % n
    let im := sinPi (2 * j) n
    (roundNum f rm (cosPi (2 * j) n), roundNum f rm (if im.isZero then .fin false 0 1 else im.neg))

/-- TWID (R241).
Log 22 (DEDUCED). -/
def execTwid (c : Ctl) (t : Fmt) (rm : RMode) (d a b : Opnd) (s : State) : Host.Outcome State Fault Refusal :=
  issue (.twid c t rm d a b) c (fun s act =>
    let v := fun k => twidVal (ffOf t) rm (srcBits s act a 1 k) (srcBits s act b 1 k)
    .done (writeZ s act t d [fun k => (v k).1, fun k => (v k).2])) s

/-- FDT2 (R238). -/
def execFdt2 (c : Ctl) (t : Fmt) (rm : RMode) (sub : Bool) (d a b : Opnd) (s : State) : Host.Outcome State Fault Refusal :=
  fsumOp (.fdt2 c t rm sub d a b) c t rm d (fun s act k =>
    [(srcZ s act t a 0 k).mul (srcZ s act t b 0 k), ((srcZ s act t a 1 k).mul (srcZ s act t b 1 k)).negIf sub]) s

/-! CVT. -/

/-- The range of an integer destination (R243). -/
def cvtRange (t : Fmt) : Int × Int := if t = .w8 then (-128, 127) else (loOf t, hiOf t)

/-- A float result with SAT: infinities and overflow give the largest finite value, NaN stays (R243). -/
def satFloat (f : FF) (rm : RMode) (rb : Option Nat) (x : Num) : Nat :=
  match x with
  | .nan => canonNan f
  | .inf s => withSign f s (maxCode f)
  | x =>
    let r := rndNum f rm rb x
    if r % 2 ^ (f.w - 1) = infCode f then withSign f x.sign (maxCode f) else r

/-- The element of CVT without BLK (R243). -/
def cvtVal (t src : Fmt) (rm : RMode) (sat : Bool) (rb : Option Nat) (x : Nat) : Nat :=
  let v := elemNum src x
  if t.isFloat then
    let f := ffOf t
    if f.finite then rndNum f rm rb v
    else if sat then satFloat f rm rb v else rndNum f rm rb v
  else
    let r := cvtRange t
    if src.isFloat then
      match v with
      | .nan => 0
      | .inf s => wrap t.width (if s then r.1 else r.2)
      | v => wrap t.width (satInt (rndInt rm rb v) r.1 r.2)
    else
      let n := v.frac.1
      wrap t.width (if sat || decide (t = .w8) then satInt n r.1 r.2 else n)

/-- The bits of CVT's source: a float code or an integer; an immediate read as .w8 saturates (R38, R227, R242).
Log 28 (DEDUCED). -/
def cvtSrc (s : State) (act : Mask) (src : Fmt) (o : Opnd) (k : Nat) : Nat :=
  if src.isFloat then srcF s act src o k
  else match src, o with
    | .w8, .imm i => wrap 8 (satInt i.toInt (-128) 127)
    | _, _ => srcBits s act o src.regs k % 2 ^ src.width

/-- CVT (R242, R243). -/
def execCvt (c : Ctl) (t src : Fmt) (rm : RMode) (sat : Bool) (d a : Opnd) (rb : Option Opnd) (s : State) :
    Host.Outcome State Fault Refusal :=
  laneOp (.cvt c t src rm sat d a rb) c d t.regs (fun s act k =>
    cvtVal t src rm sat (rb.map fun o => srcBits s act o 1 k) (cvtSrc s act src a k)) s

/-- CVT.blk: one block across the warp (R244). -/
def execCvtBlk (c : Ctl) (t src : Fmt) (rm : RMode) (d a : Opnd) (rb : Option Opnd) (s : State) :
    Host.Outcome State Fault Refusal :=
  issue (.cvtBlk c t src rm d a rb) c (fun s act =>
    let part := act &&& ~~~s.warp.helpers
    let xs := (List.range 32).map fun k => if part.getLsbD k then srcNum s act src a k else .fin false 0 1
    let rbs := rb.map fun o => (List.range 32).map fun k => srcBits s act o 1 k
    let q := if t = .w8 then blkW8 rm rbs xs else blkK8 (ffOf t) rm rbs xs
    let s' := writeDst s act d 1 fun k => if part.getLsbD k then q.2.getD k 0 else 0
    .done (writeDst s' act (Opnd.plus d 1) 1 fun _ => q.1)) s

end Sys2Proof.Machine
end

