-- ==== Sys2Proof/Machine/Lane.lean ====
section
/-! DEFINITION. Lane exchange instructions (R208, R220 to R226). -/

namespace Sys2Proof.Machine

/-- Lanes of a segment of SHFL (R221). -/
def segLanes : ShflSeg → Nat | .w32 => 32 | .w16 => 16 | .w8 => 8 | .w4 => 4 | .w2 => 2

/-- The source lane of SHFL, and whether it is valid (R221). -/
def shflLane (q : ShflKind) (g k o : Nat) : Nat × Bool :=
  let base := k - k % g
  match q with
  | .idx => (base + o % g, true)
  | .up => (k - o, decide (o ≤ k - base))
  | .down => (k + o, decide (k + o < base + g))
  | .xor => (base + ((k - base) ^^^ (o % g)), true)

/-- SHFL (R221). -/
def execShfl (c : Ctl) (t : Fmt) (q : ShflKind) (g : ShflSeg) (d a b p : Opnd) (s : State) :
    Host.Outcome State Fault Refusal :=
  issue (.shfl c t q g d a b p) c (fun s act =>
    let src := fun k => shflLane q (segLanes g) k (srcBits s act b 1 k)
    let ok := fun k => (src k).2 && act.getLsbD (src k).1
    let s' := writeDst s act d t.regs fun k => srcBits s act a t.regs (if ok k then (src k).1 else k)
    .done (writeDst s' act p 1 fun k => b01 (ok k))) s

/-- The exchange distance of QSWP (R222). -/
def qswpMask : QswpKind → Nat | .h => 1 | .v => 2 | .d => 3

/-- QSWP (R222). -/
def execQswp (c : Ctl) (t : Fmt) (q : QswpKind) (d a : Opnd) (s : State) : Host.Outcome State Fault Refusal :=
  laneOp (.qswp c t q d a) c d t.regs (fun s act k =>
    let j := k ^^^ qswpMask q
    srcBits s act a t.regs (if act.getLsbD j then j else k)) s

/-- A reduction of two codes of a type (R222, R224). -/
def redOp (t : Fmt) (op : LredOp) (rm : RMode) (x y : Nat) : Nat :=
  match op with
  | .add =>
    if t.isFloat then fsum (ffOf t) rm [numOf (ffOf t) x, numOf (ffOf t) y] else (x + y) % 2 ^ t.width
  | .min =>
    if t.isFloat then minMax (ffOf t) false false x y
    else if readInt t.signed t.width x ≤ readInt t.signed t.width y then x else y
  | .max =>
    if t.isFloat then minMax (ffOf t) true false x y
    else if readInt t.signed t.width y ≤ readInt t.signed t.width x then x else y
  | .and => x &&& y
  | .or => x ||| y
  | .xor => x ^^^ y

/-- A tree node: an absent operand passes the other unchanged (R222, R224). -/
def joinOpt (f : Nat → Nat → Nat) : Option Nat → Option Nat → Option Nat
  | some x, some y => some (f x y)
  | some x, none => some x
  | none, y => y

/-- One level of the fixed tree: adjacent results combined (R224). -/
def treeLevel (f : Nat → Nat → Nat) : List (Option Nat) → List (Option Nat)
  | x :: y :: t => joinOpt f x y :: treeLevel f t
  | l => l

/-- The fixed tree over lanes or ranks: n levels (R109, R224, R299). -/
def treeRed (f : Nat → Nat → Nat) : Nat → List (Option Nat) → Option Nat
  | 0, l => l.head?.join
  | n + 1, l => treeRed f n (treeLevel f l)

/-- QRED's operation as one of LRED. -/
def qredOp : QredOp → LredOp | .add => .add | .min => .min | .max => .max

/-- QRED (R222). -/
def execQred (c : Ctl) (t : Fmt) (op : QredOp) (rm : RMode) (d a : Opnd) (s : State) : Host.Outcome State Fault Refusal :=
  laneOp (.qred c t op rm d a) c d 1 (fun s act k =>
    let q := k / 4 * 4
    let l := (List.range 4).map fun j => if act.getLsbD (q + j) then some (srcBits s act a 1 (q + j)) else none
    (treeRed (redOp t (qredOp op) rm) 2 l).getD 0) s

/-- VOTE (R223). -/
def execVote (c : Ctl) (q : VoteKind) (d a : Opnd) (s : State) : Host.Outcome State Fault Refusal :=
  laneOp (.vote c q d a) c d 1 (fun s act _ =>
    voteResult q (maskOf fun k => srcBits s act a 1 k = 1) (act &&& ~~~s.warp.helpers)) s

/-- PMOV.tomask (R223). -/
def execPmovTomask (c : Ctl) (d a : Opnd) (s : State) : Host.Outcome State Fault Refusal :=
  laneOp (.pmovTomask c d a) c d 1 (fun s act _ => (maskOf fun k => srcBits s act a 1 k = 1).toNat) s

/-- PMOV.topred (R223). -/
def execPmovTopred (c : Ctl) (d a : Opnd) (s : State) : Host.Outcome State Fault Refusal :=
  laneOp (.pmovTopred c d a) c d 1 (fun s act k => srcBits s act a 1 k / 2 ^ k % 2) s

/-- What LRED gives when part is empty (R224). -/
def lredIdentity (t : Fmt) (op : LredOp) : Nat :=
  match op with
  | .add | .or | .xor => 0
  | .and => 2 ^ t.width - 1
  | .min => if t.isFloat then infCode (ffOf t) else wrap t.width (hiOf t)
  | .max => if t.isFloat then withSign (ffOf t) true (infCode (ffOf t)) else wrap t.width (loOf t)

/-- LRED's result (R224). -/
def lredVal (s : State) (act : Mask) (t : Fmt) (op : LredOp) (rm : RMode) (a : Opnd) : Nat :=
  let part := act &&& ~~~s.warp.helpers
  let l := (List.range 32).map fun k => if part.getLsbD k then some (srcBits s act a t.regs k) else none
  (treeRed (redOp t op rm) 5 l).getD (lredIdentity t op)

/-- LRED (R224). -/
def execLred (c : Ctl) (t : Fmt) (op : LredOp) (rm : RMode) (d a : Opnd) (s : State) : Host.Outcome State Fault Refusal :=
  laneOp (.lred c t op rm d a) c d t.regs (fun s act _ => lredVal s act t op rm a) s

/-- PRFX's result for lane k (R224). -/
def prfxVal (s : State) (act : Mask) (t : Fmt) (excl : Bool) (rm : RMode) (a : Opnd) (k : Nat) : Nat :=
  let part := act &&& ~~~s.warp.helpers
  let ls := (lanesOf part).filter fun j => decide (j < k) || (!excl && decide (j = k))
  match ls with
  | [] => 0
  | j :: t' => t'.foldl (fun x i => redOp t .add rm x (srcBits s act a 1 i)) (srcBits s act a 1 j)

/-- PRFX (R224). -/
def execPrfx (c : Ctl) (t : Fmt) (excl : Bool) (rm : RMode) (d a : Opnd) (s : State) : Host.Outcome State Fault Refusal :=
  laneOp (.prfx c t excl rm d a) c d 1 (fun s act k => prfxVal s act t excl rm a k) s

/-- BCST (R225). -/
def execBcst (c : Ctl) (t : Fmt) (d a b : Opnd) (s : State) : Host.Outcome State Fault Refusal :=
  laneOp (.bcst c t d a b) c d t.regs (fun s act k =>
    let j := srcBits s act b 1 k
    if j < 32 ∧ (act &&& ~~~s.warp.helpers).getLsbD j then srcBits s act a t.regs j else 0) s

/-- MTCH (R225). -/
def execMtch (c : Ctl) (t : Fmt) (all : Bool) (d a : Opnd) (s : State) : Host.Outcome State Fault Refusal :=
  laneOp (.mtch c t all d a) c d 1 (fun s act k =>
    let part := act &&& ~~~s.warp.helpers
    let v := fun j => srcBits s act a t.regs j
    if all then
      let first := v (lowLane part)
      if (lanesOf part).all fun j => v j = first then part.toNat else 0
    else (maskOf fun j => part.getLsbD j && decide (v j = v k)).toNat) s

end Sys2Proof.Machine
end

