-- ==== Sys2Proof/Machine/Paged.lean ====
section
/-! DEFINITION. Instructions on paged memory: LD, ST, ATOM, MCST, WAKE, PREF, PGRQ, DSCD, FNCE, BREC and LREC (R76, R133 to
R135, R195 to R202, R283 to R285, R293 to R296). -/

namespace Sys2Proof.Machine

/-- The element index that a lane gives, read as unsigned 32 bits (R195). -/
def elemIndex (s : State) (act : Mask) (o : Opnd) (k : Nat) : Nat := srcBits s act o 1 k

/-- A status predicate written for the active lanes (R193). -/
def writeStatus (s : State) (act : Mask) (p : Opnd) (m : Mask) : State :=
  writeDst s act p 1 fun k => if m.getLsbD k then 1 else 0

/-- The number of a vector register operand. -/
def vecNum : Opnd → Nat
  | .v r => r.val
  | _ => 0

/-- The number of a predicate operand. -/
def predNum : Opnd → Nat
  | .p r => r.val
  | _ => 15

/-- The device lines that translated words touch, each with one of its words, lowest first seen. -/
def linesOf (l : List (Nat × LaneAcc)) : List (Nat × Xlat) :=
  (l.flatMap fun e => match e.2 with
    | .ok ws => ws.filterMap fun w => match w.2.2.loc with | .dev a => some (a / 128, w.2.2) | .host _ => none
    | _ => []).foldl (fun a x => if a.any fun y => y.1 = x.1 then a else a ++ [x]) []

/-- The response pieces of one lane's bytes that lie on a deferred line: one per element part within a word (R194).
Log 51 (DEDUCED). -/
def lanePieces (s : State) (t : Fmt) (d p k line : Nat) (fwd : Bool) (ws : List (Nat × Nat × Xlat)) : List Piece :=
  let starts := (ws.foldl (fun (a : List (Nat × (Nat × Nat × Xlat)) × Nat) w => (a.1 ++ [(a.2, w)], a.2 + w.2.1)) ([], 0)).1
  starts.flatMap fun sw =>
    let w := sw.2
    match w.2.2.loc with
    | .host _ => []
    | .dev a =>
      if a / 128 ≠ line then [] else
      let sz := min 4 t.bytes
      (List.range (w.2.1 / sz)).map fun j =>
        let o := sw.1 + j * sz
        let reg := d + (if t.regs = 2 then o / 4 else o / t.bytes)
        let ov := if fwd then (List.range sz).filterMap fun i =>
            (forwardByte s (.dev (a + j * sz + i))).map fun b => (i, b) else []
        { pred := p, reg := reg, lane := k, loc := .dev (a + j * sz), n := sz, sx := t.signed, ov := ov }

/-- LD's own part (R194, R196). A lane on a page of host memory reads across the link, and no stream acts there.
Log 150 (DESIGN CHOICE). -/
def loadBody (t : Fmt) (cnt : Count) (disp : BitVec 5) (d : Opnd) (br : Fin 64) (b p : Opnd) (s : State) (act : Mask) : Step :=
  let rec_ := slotRec s br
  let n := cnt.n * t.bytes
  match streamCheck s s.warp.vi rec_.glz false with
  | some x => .trap 0xB x none
  | none => withWalks s (maskVas act rec_ (elemIndex s act b) disp.toNat n) (
    let l := checkLanes s act rec_ (elemIndex s act b) disp.toNat n false
    match faultOf s.warp.helpers l with
    | some (c, x, k) => .trap c x (some k)
    | none =>
      let s := touchLanes s l
      let s := if touchesSo l && !s.warp.sb.isEmpty then drain s else s
      let deferred := (linesOf l).filter fun x =>
        rec_.glz ≠ 0 || !(answered s s.warp.core x.2.ord x.1)
      let isDef := fun (w : Nat × Nat × Xlat) => match w.2.2.loc with
        | .dev a => deferred.any fun x => x.1 = a / 128
        | .host _ => false
      let now := fun (s : State) (e : Nat × LaneAcc) => match e.2 with
        | .ok ws =>
          let bytes := ws.flatMap fun w => if isDef w then List.replicate w.2.1 0 else wordBytes s w.2.2 w.2.1
          setWarp s fun w => loadRegs w t (vecNum d) cnt.n e.1 bytes
        | _ => setWarp s fun w => loadRegs w t (vecNum d) cnt.n e.1 []
      let keep := fun (e : Nat × LaneAcc) => match e.2 with | .ok ws => !(ws.all isDef) | _ => true
      let early := fun (e : Nat × LaneAcc) => match e.2 with | .ok ws => ws.any isDef | _ => false
      let old := s
      let s1 := (l.filter keep).foldl now s
      let s1 := ((linesOf l).filter fun x => !(deferred.any fun y => y.1 = x.1) && decide (x.2.ord ≠ .so)).foldl
        (fun t x => l1Fill t t.warp.core x.2.swz x.1) s1
      let s2 := deferred.foldl (fun t' x =>
        let pieces := l.flatMap fun e => match e.2 with
          | .ok ws => lanePieces old t (vecNum d) (predNum p) e.1 x.1 (rec_.glz = 0) ws
          | _ => []
        deferLine t' x.2 rec_.glz x.1 pieces) s1
      let done := act &&& maskOf fun k => !((l.filter early).any fun e => e.1 = k)
      .done (writeStatus s2 done p (servedMask l)))

/-- LD (R196). -/
def execLd (c : Ctl) (t : Fmt) (n : Count) (disp : BitVec 5) (d : Opnd) (br : Fin 64) (b p : Opnd) (s : State) :
    Host.Outcome State Fault Refusal :=
  issue (.ld c t n disp d br b p) c (loadBody t n disp d br b p) s

/-- The bytes that a lane stores: count elements of a type from consecutive registers (R195). -/
def storeBytes (s : State) (act : Mask) (t : Fmt) (cnt : Nat) (d : Opnd) (k : Nat) : List Byte :=
  (List.range cnt).flatMap fun j => bytesOfNat t.bytes (srcBits s act (Opnd.plus d (j * t.regs)) t.regs k)

/-- What ST and MCST share: the checks, the stores of the non-helper lanes, the status (R196, R294). -/
def storeBody (t : Fmt) (cnt : Nat) (disp : Nat) (d : Opnd) (b p : Opnd) (rec_ : BufRec) (group : Option (Nat × List Nat)) (s : State)
    (act : Mask) : Step :=
  withWalks s (maskVas act rec_ (elemIndex s act b) disp (cnt * t.bytes)) (
  let l := checkLanes s act rec_ (elemIndex s act b) disp (cnt * t.bytes) true
  match faultOf s.warp.helpers l with
  | some (c, x, k) => .trap c x (some k)
  | none =>
    let mine := l.filter fun e => !s.warp.helpers.getLsbD e.1
    let es := mine.flatMap fun e => match e.2 with
      | .ok ws => laneStores s rec_.glz group ws (storeBytes s act t cnt d e.1)
      | _ => []
    .done (writeStatus (doStores (touchLanes s l) es) act p (servedMask l)))

/-- ST (R196). -/
def execSt (c : Ctl) (t : Fmt) (n : Count) (disp : BitVec 5) (d : Opnd) (br : Fin 64) (b p : Opnd) (s : State) :
    Host.Outcome State Fault Refusal :=
  issue (.st c t n disp d br b p) c (fun s act =>
    match streamCheck s s.warp.vi (slotRec s br).glz true with
    | some x => .trap 0xB x none
    | none => storeBody t n.n disp.toNat d b p (slotRec s br) none s act) s

/-- A type of 32 or 64 bits, unsigned. -/
def nType (w64 : Bool) : Fmt := if w64 then .n64 else .n32

/-- MCST: a store on every package that the header of the group as registered now reaches, and on its own if it is listed (R292,
R294).
Log 118 (DESIGN CHOICE), 119 (DEDUCED). -/
def execMcst (c : Ctl) (w64 : Bool) (grp : Byte) (d : Opnd) (br : Fin 64) (b p : Opnd) (s : State) :
    Host.Outcome State Fault Refusal :=
  issue (.mcst c w64 grp d br b p) c (fun s act =>
    if (slotRec s br).glz ≠ 0 then .trap 0xB 4 none
    else match s.groups.find? fun g => g.vi = s.warp.vi && g.grp = grp.toNat with
      | none => .trap 3 6 none
      | some g => storeBody (nType w64) 1 0 d b p (slotRec s br) (some (g.plane, groupTargets s g)) s act) s

/-! Atomics. -/

/-- The new value of a word under an operation by one lane (R199).
Log 38 (DESIGN CHOICE). -/
def atomStep (t : Fmt) (op : AtomOp) (rm : RMode) (m v new : Nat) : Nat :=
  let w := t.width
  match op with
  | .add => if t.isFloat then fsum (ffOf t) rm [numOf (ffOf t) m, numOf (ffOf t) v] else (m + v) % 2 ^ w
  | .min => if t.isFloat then minMax (ffOf t) false false m v
      else if readInt t.signed w v < readInt t.signed w m then v else m
  | .max => if t.isFloat then minMax (ffOf t) true false m v
      else if readInt t.signed w m < readInt t.signed w v then v else m
  | .and => m &&& v
  | .or => m ||| v
  | .xor => m ^^^ v
  | .exch => v
  | .cas => if m = v then new else m

/-- Whether a store covers a byte of n bytes from a location. -/
def StoreEnt.meets (e : StoreEnt) (l : Loc) (n : Nat) : Bool := (List.range n).any fun i => (e.offsetOf (l.add i)).isSome

/-- The stores that an atomic on a word of n bytes performs first, oldest first, and whether one of them is wider than the word: those to
any byte of it, the earlier ones in its 8-byte unit where such a store is wider (R269, R279), and the rest of a request through a
stream (R192).
Log 37 (DEDUCED). -/
def beforeAtom (l : Loc) (n : Nat) : List StoreEnt → List StoreEnt × Bool
  | [] => ([], false)
  | e :: t =>
    let r := beforeAtom l n t
    let base := match l with | .dev a => Loc.dev (a / 8 * 8) | .host a => .host (a / 8 * 8)
    let line := match l with | .dev a => some (a / 128) | .host _ => none
    let mine := match e.loc with | .dev a => decide (line = some (a / 128)) | .host _ => false
    if e.meets l n || (r.2 && e.meets base 8)
        || (decide (e.stream ≠ 0) && mine && r.1.any fun x => decide (x.inst = e.inst ∧ x.stream = e.stream)) then
      (e :: r.1, r.2 || (e.meets l n && decide (n < e.bytes.length)))
    else r

/-- Buffered stores of the warp to any byte of a word, performed first (R279). -/
def drainWord (s : State) (l : Loc) (n : Nat) : State :=
  let es := (beforeAtom l n s.warp.sb).1
  if es.isEmpty then s
  else noReplay (performStores (setWarp s fun w => { w with sb := w.sb.filter fun e => !es.contains e }) s.warp.core es)

/-- One lane's atomic on a word: the value fetched, and the state with the result at the home copy or the switch's atomic unit, and at
the buddy (R113, R199, R200, R279). -/
def atomWord (s : State) (x : Xlat) (va n : Nat) (f : Nat → Nat) : State × Nat :=
  let s := drainWord s x.loc n
  let old := natOfBytes (readXs s x 0 n)
  (atomWrite s x s.warp.asid va 0 (bytesOfNat n (f old)), old)

/-- Whether a scope reaches past the core, so that a release drains (R272). -/
def drainsAt (sc : Scope) : Bool := decide (sc ∈ [Scope.cl, .pk, .dm, .sy])

/-- The atomics of an instruction's lanes, in ascending order; the fetched values by lane (R199).
Log 38 (DESIGN CHOICE). -/
def atomLanes (s : State) (l : List (Nat × LaneAcc)) (n : Nat) (f : Nat → Nat → Nat) : State × List (Nat × Nat) :=
  l.foldl (fun (a : State × List (Nat × Nat)) e => match e.2 with
    | .ok (w :: _) => let r := atomWord a.1 w.2.2 w.1 n (f e.1); (r.1, a.2 ++ [(e.1, r.2)])
    | _ => a) (s, [])

/-- Whether the line of a lane's word answers an atomic with data: it is local and its slice holds it (R15, R101, R200). -/
def atomAnswered (s : State) (line : Nat) : Bool := !isRemote s line && (mget none s.llc line).isSome

/-- The response pieces of a fetched value that comes deferred: its bytes are those that the atomic unit read (R193, R200). -/
def fetchPieces (d p k n v : Nat) (l : Loc) : List Piece :=
  (List.range (n / 4)).map fun j =>
    { pred := p, reg := d + j, lane := k, loc := l.add (4 * j), n := 4, sx := false,
      ov := (bytesOfNat 4 (v / 2 ^ (32 * j))).zipIdx.map fun b => (b.2, b.1) }

/-- The lines of an atomic's lanes whose fetched values come deferred. -/
def lateLines (s : State) (mine : List (Nat × LaneAcc)) : List (Nat × Xlat) := (linesOf mine).filter fun x => !atomAnswered s x.1

/-- The line of the word of a lane's atomic. -/
def laneLine (e : Nat × LaneAcc) : Option Nat :=
  match e.2 with
  | .ok (w :: _) => (match w.2.2.loc with | .dev a => some (a / 128) | .host _ => none)
  | _ => none

/-- The fetched values of a line's lanes put into a response: at the line's own fill, or across the fabric for a line of another package,
where the switch's atomic unit answers (R200). The warp retires at its next instruction (R194). -/
def deferFetch (d p : Opnd) (n : Nat) (valueOf : Nat → Nat) (mine : List (Nat × LaneAcc)) (s : State) (x : Nat × Xlat) : State :=
  let pieces := mine.flatMap fun e => match e.2 with
    | .ok (w :: _) => if laneLine e = some x.1 then fetchPieces (vecNum d) (predNum p) e.1 n (valueOf e.1) w.2.2.loc else []
    | _ => []
  let s := setWarp s fun w => { w with retire := true }
  if isRemote s x.1 then askLine s { x.2 with ord := .un } 0 x.1 [] pieces else askLine s x.2 0 x.1 [] pieces

/-- What ATOM and WAKE share: checks, ordering and the lanes' atomics (R199, R279, R296). dst is the register that takes the fetched
values: those of lines that cannot answer at once come deferred (R15).
Log 39 (DEDUCED). -/
def atomBody (t : Fmt) (rel : Bool) (dst : Option Opnd) (b p : Opnd) (rec_ : BufRec) (f : State → Mask → Nat → Nat → Nat)
    (after : State → List (Nat × LaneAcc) → State) (s : State) (act : Mask) : Step :=
  if rec_.glz ≠ 0 then .trap 0xB 4 none else
  let n := t.bytes
  withWalks s (maskVas act rec_ (elemIndex s act b) 0 n) (
  let l := checkLanes s act rec_ (elemIndex s act b) 0 n true
  match faultOf s.warp.helpers l with
  | some (c, x, k) => .trap c x (some k)
  | none =>
    let mine := l.filter fun e => !s.warp.helpers.getLsbD e.1
    let s1 := touchLanes s l
    let s1 := if touchesSo mine then drain s1 else if rel then drainRel s1 else s1
    let late := if dst.isSome then lateLines s1 mine else []
    let lateMask := maskOf fun k => mine.any fun e => e.1 = k && (late.any fun x => laneLine e = some x.1)
    let r := atomLanes s1 mine n (f s act)
    let valueOf := fun (k : Nat) => match r.2.find? fun e => e.1 = k with | some e => e.2 | none => 0
    let s2 := if servedMask mine ≠ 0 then noReplay r.1 else r.1
    let s3 := match dst with
      | none => s2
      | some d => late.foldl (deferFetch d p n valueOf mine) (writeDst s2 (act &&& ~~~lateMask) d t.regs valueOf)
    .done (writeStatus (after s3 mine) (act &&& ~~~lateMask) p (servedMask l)))

/-- ATOM (R198, R199, R279). -/
def execAtom (c : Ctl) (t : Fmt) (op : AtomOp) (rm : RMode) (o : AtomOrd) (sc : Scope) (d : Opnd) (br : Fin 64) (b p : Opnd)
    (s : State) : Host.Outcome State Fault Refusal :=
  issue (.atom c t op rm o sc d br b p) c (fun s act =>
    atomBody t (decide (o = .rel ∨ o = .ar) && drainsAt sc) (some d) b p (slotRec s br)
      (fun s act k m => atomStep t op rm m (srcBits s act d t.regs k) (srcBits s act (Opnd.plus d t.regs) t.regs k))
      (fun s _ => s) s act) s

/-- WAKE: an exchange with release in each lane, then one memory-word event per word (R296).
Log 38 (DESIGN CHOICE). -/
def execWake (c : Ctl) (w64 : Bool) (sc : Scope) (d : Opnd) (br : Fin 64) (b p : Opnd) (s : State) :
    Host.Outcome State Fault Refusal :=
  issue (.wake c w64 sc d br b p) c (fun s act =>
    atomBody (nType w64) (drainsAt sc) none b p (slotRec s br)
      (fun s act k _ => srcBits s act d (nType w64).regs k)
      (fun s mine =>
        let words := (mine.flatMap fun e => match e.2 with
          | .ok (w :: _) => (match w.2.2.loc with | .dev a => [a] | .host _ => [])
          | _ => []).dedup
        words.foldl wordEvent s)
      s act) s

/-- PREF: each served line requested into the L1, for RC and UN pages, or into its home slice; nothing waits and nothing traps (R202).
Log 55 (DEDUCED). -/
def execPref (c : Ctl) (llc : Bool) (br : Fin 64) (b : Opnd) (s : State) : Host.Outcome State Fault Refusal :=
  issue (.pref c llc br b) c (fun s act =>
    let r := slotRec s br
    if r.glz ≠ 0 then .done s else
    let l := checkLanes s (act &&& ~~~s.warp.helpers) r (elemIndex s act b) 0 r.es false
    .done ((linesOf l).foldl (fun t x =>
      if !llc && decide (x.2.ord = .so) then t
      else if answered t t.warp.core x.2.ord x.1 then (if llc then t else l1Fill t t.warp.core x.2.swz x.1)
      else if uncached t x.2 x.1 then t
      else openMiss t x.2.swz x.1 x.2.rep (if llc then [] else [t.warp.core])) (touchLanes s l))) s

/-! Page requests. -/

/-- PGRQ's page translation of a lane: its page and whether it is resident, or a fault (R135). -/
def pgrqLane (s : State) (b : BufRec) (i : Nat) : LaneAcc :=
  if !inBounds b i 0 b.es then (if b.clamp then .clamped else .fail 6 0)
  else
    let va := b.base + i * b.stride
    match translate s s.warp.space va false false with
    | .malf => .fail 9 0
    | .prot x => .fail 8 x
    | .nores p => .nores va p
    | .ok x => .ok [(va, 1, x)]

/-- PGRQ (R135): with no page to request the status is written and the entry goes on; otherwise the pages are requested and the
segment ends at the next instruction on their page-ready events.
Log 63 (DEDUCED). -/
def execPgrq (c : Ctl) (d : Opnd) (br : Fin 64) (b : Opnd) (s : State) : Host.Outcome State Fault Refusal :=
  issue (.pgrq c d br b) c (fun s act =>
    let r := slotRec s br
    let vas := (lanesOf act).filterMap fun k =>
      let i := elemIndex s act b k
      if inBounds r i 0 r.es then some (r.base + i * r.stride) else none
    withWalks s vas <|
    let l := (lanesOf act).map fun k => (k, pgrqLane s r (elemIndex s act b k))
    match faultOf s.warp.helpers l with
    | some (x, y, k) => .trap x y (some k)
    | none =>
      let want := l.filterMap fun e => match e.2 with
        | .nores va psz => if s.warp.helpers.getLsbD e.1 then none else some (e.1, va, psz)
        | _ => none
      let s1 := writeStatus (touchLanes s l) act d (servedMask l)
      if want.isEmpty then .done s1
      else
        let asid := s.warp.asid
        let s2 := want.foldl (fun t e => askPage t t.warp.vi asid e.2.1 e.2.2 false) s1
        let pageOf := fun (e : Nat × Nat × Nat) =>
          (⟨asid, e.2.1 / 65536 / pszUnits e.2.2 * pszUnits e.2.2⟩ : Page)
        let pages := (want.map pageOf).dedup
        let low := pages.foldl (fun m p => min m p.vpn) (2 ^ 36)
        let waits := want.map fun e => (⟨predNum d, e.1, ⟨asid, e.2.1 / 65536⟩⟩ : PgrqWait)
        .ends { SegEnd.at (evPage asid low) (ipAdd (curIp s.warp) 1) with pages := pages, pgrq := waits } s2) s

/-! DSCD. -/

/-- Whether a line lies in a 2 MiB region. -/
def inRegion (r line : Nat) : Bool := decide (line / 16384 = r)

/-- A region discarded: its lines dropped from every L1, slice, queue and buffer without write-back, the copies that other packages
hold taken back, its live bit clear (R73, R77).
Log 54 (DEDUCED). -/
def discardRegion (s : State) (r : Nat) : State :=
  let lost := fun (q : CtrlReq) => inRegion r q.line && q.writes q.line
  { s with
    l1 := s.l1.filter fun l => !inRegion r l.line
    llc := s.llc.filter fun e => !inRegion r e.1
    dir := s.dir.filter fun e => !inRegion r e.1
    ctrls := s.ctrls.map fun c => { c with queue := c.queue.filter fun q => !lost q }
    wbufs := s.wbufs.filter fun q => !lost q
    bad := s.bad.filter fun l => !inRegion r l
    weak := s.weak.filter fun l => !inRegion r l
    live := s.live.filter fun x => x ≠ r }

/-- The regions that a chunk of DSCD discards: its own, and its replica's at a buddy that can be reached (R113); where that is not so the
page is marked stale.
Log 54 (DEDUCED). -/
def chunkRegions (s : State) (va a : Nat) (rep : Option Nat) : State × List Nat :=
  match rep with
  | none => (s, [a / 2 ^ 21])
  | some p =>
    if p ∈ s.unreach then (markStale s s.warp.asid va p a, [a / 2 ^ 21]) else (s, [a / 2 ^ 21, buddyDpa p a / 2 ^ 21])

/-- One chunk of DSCD: skipped, trapped with a code and detail, or discarded, with the regions that go (R77). A chunk that lies partly
outside the record counts as outside it, and one on a page of host memory is left untouched.
Log 53 (DEDUCED), 54 (DEDUCED), 149 (DESIGN CHOICE). -/
def dscdChunk (s : State) (b : BufRec) (va i : Nat) : Except (Nat × Nat) (State × List Nat) :=
  let o := va + i * 2 ^ 21
  if !(decide (b.base ≤ o ∧ o + 2 ^ 21 ≤ b.base + b.extent * b.stride)) then
    (if b.clamp then .ok (s, []) else .error (6, 0))
  else match translate s { s.warp.space with user := false } o false false with
    | .malf => .error (9, 0)
    | .prot 1 => .ok (s, [])
    | .prot x => .error (8, x)
    | .nores _ => .ok (s, [])
    | .ok x =>
      if x.psz = 0 then .ok (s, [])
      else match translate s s.warp.space o true false with
        | .ok y => match y.loc with
          | .dev a =>
            let r := chunkRegions s o a y.rep
            .ok (r.2.foldl discardRegion r.1, r.2)
          | .host _ => .ok (s, [])
        | .prot z => .error (8, z)
        | _ => .ok (s, [])

/-- The chunks of DSCD from i on, n of them: the state reached, the chunks skipped, the regions discarded, and the trap that stopped it.
Log 53 (DEDUCED). -/
def dscdFrom (b : BufRec) (va : Nat) : Nat → Nat → State → Nat → List Nat → State × Nat × List Nat × Option (Nat × Nat)
  | 0, _, s, k, rs => (s, k, rs, none)
  | n + 1, i, s, k, rs => match dscdChunk s b va i with
    | .error e => (s, k, rs, some e)
    | .ok (t, r) => dscdFrom b va n (i + 1) t (if r.isEmpty then k + 1 else k) (rs ++ r)

/-- The store buffer of a core drained: every warp's entries, whose segments can no longer be run again (R77, R272). -/
def drainCore (s : State) : State :=
  s.bench.foldl (fun t w =>
    if w.core = t.warp.core ∧ w.sb ≠ [] then
      let t := performStores t w.core w.sb
      { t with
        recs := t.recs.filter fun r => r.place ≠ .kept w.uid
        bench := t.bench.map fun x => if x.uid = w.uid then { x with sb := [], nonReplay := true, kept := [] } else x }
    else t) (drain s)

/-- DSCD's own part: what it discards before a trap stays discarded (R77). It waits until no miss of a region that it discards is open
(R104). -/
def dscdBody (d : Opnd) (br : Fin 64) (b e : Opnd) (s : State) (act : Mask) : Step :=
  let r := slotRec s br
  let va := r.base + pairS s b
  let n := srcBits s act e 1 0
  if 65536 < n then .trap 3 2 none
  else if va % 2 ^ 21 ≠ 0 then .trap 3 3 none
  else withWalks s ((List.range n).map fun i => va + i * 2 ^ 21) (
    let s := drainCore s
    let s := (List.range n).foldl (fun t i => tlbTouch t t.warp.vi t.warp.asid (va + i * 2 ^ 21)) s
    let x := dscdFrom r va n 0 s 0 []
    if s.misses.any fun m => x.2.2.1.any fun g => inRegion g m.line then .wait evLine none s
    else match x with
      | (t, _, _, some y) => .trapIn y.1 y.2 t
      | (t, k, _, none) => .done (writeDst t act d 1 fun _ => k))

/-- DSCD (R77). A trap is taken in the state that the earlier chunks left. -/
def execDscd (c : Ctl) (d : Opnd) (br : Fin 64) (b e : Opnd) (s : State) : Host.Outcome State Fault Refusal :=
  issue (.dscd c d br b e) c (dscdBody d br b e) s

/-! Fences and records. -/

/-- FNCE: release, acquire or both (R285). A deferred load has retired its warp before, so that what a fence waits for is at hand: its own
stores, which it drains, the writes on their way to the host, which it lands at .sy, and the values of loads, which are written when an
acquire completes. -/
def execFnce (c : Ctl) (k : FnceKind) (sc : Scope) (s : State) : Host.Outcome State Fault Refusal :=
  issue (.fnce c k sc) c (fun s _ =>
    let s := if k = .acq ∨ drainsAt sc = false then s else if k = .un then drain s else drainRel s
    let s := if k ≠ .acq ∧ sc = .sy then landHost s else s
    .done (if k = .rel then s else setWarp s fun w => { w with due := w.due.filter fun d => !(d.load && d.ready.isNone) })) s

/-- A record slot written whole (R127). Every warp of the crew uses the new record from then on, where the manual allows the old one
until a release or a barrier.
Log 152 (DESIGN CHOICE). -/
def setBrec (s : State) (br : Fin 64) (x : BitVec 256) : State :=
  setCrew s fun c => { c with brec := mset 0 c.brec br.val x }

/-- BREC.ld (R133). -/
def execBrecLd (c : Ctl) (br : Fin 64) (a : Opnd) (s : State) : Host.Outcome State Fault Refusal :=
  issue (.brecLd c br a) c (fun s _ =>
    recLoad s (pairS s a) 32 32 false fun s bs =>
      let x := BitVec.ofNat 256 (natOfBytes bs)
      if bufBad x then .trap 0xA 0 none else .done (setBrec s br x)) s

/-- BREC.set (R133). -/
def execBrecSet (c : Ctl) (br : Fin 64) (a : Opnd) (s : State) : Host.Outcome State Fault Refusal :=
  issue (.brecSet c br a) c (fun s act =>
    let x := BitVec.ofNat 256 ((List.range 8).foldl (fun n i => n + srcBits s act (Opnd.plus a i) 1 0 * 2 ^ (32 * i)) 0)
    if bufBad x then .trap 0xA 0 none else .done (setBrec s br x)) s

end Sys2Proof.Machine
end

