-- ==== Sys2Proof/Machine/Tile.lean ====
section
/-! DEFINITION. Scratchpad tiles: LDS, STS, ATMS, TGIV, TTAK and TSTA (R181, R184 to R189, R197, R199, R203 to R206). -/

namespace Sys2Proof.Machine

/-! Banks and parity (R181). -/

/-- The bank, row and group of a scratchpad byte address of a core. -/
def bankPlace (a : Nat) : Nat × Nat × Nat := (a / 4 % 32, a / 4 / 32, a / 4 % 32 / 4)

/-- The word that a bank of a core holds in a row. -/
def bankWord (s : State) (core bank row : Nat) : Word :=
  BitVec.ofNat 32 (natOfBytes (mgetRange 0 s.pad (core * 2 ^ 21 + (row * 32 + bank) * 4) 4))

/-- What the parity bank of a group holds in a row: the XOR of its four data banks. It is a view of State.pad, so every write keeps it
current. -/
def parityWord (s : State) (core group row : Nat) : Word :=
  (List.range 4).foldl (fun x j => x ^^^ bankWord s core (4 * group + j) row) 0

/-- A bank's word as a read rebuilds it, from the parity bank and the other three banks of its group (R182). -/
def rebuiltWord (s : State) (core bank row : Nat) : Word :=
  ((List.range 4).filter fun j => decide (4 * (bank / 4) + j ≠ bank)).foldl
    (fun x j => x ^^^ bankWord s core (4 * (bank / 4) + j) row) (parityWord s core (bank / 4) row)

/-- The core and physical tile of a tile access and the detail that a refusal of its state carries; rmt is the crew of a remote
access (R197). -/
def tileTarget (s : State) (act : Mask) (t : TileOp) (rmt : Option Opnd) : Except (Nat × Nat) (Nat × Nat × Nat) :=
  match tileIndex s t, tileOfOp s t, rmt with
  | _, .error e, _ => .error e
  | .error e, _, _ => .error e
  | _, .ok p, none => .ok (p.1, p.2, 2)
  | .ok k, .ok p, some o =>
    let n := srcBits s act o 1 0
    match s.warp.crew, crewOf s with
    | none, _ => if n = 0 then .ok (p.1, p.2, 3) else .error (0xC, 3)
    | some _, some c => match crewAt s s.warp.launch n with
      | some r => if r.cluster = c.cluster ∧ r.saved = false then
          (match r.tiles[k]? with | some q => .ok (r.core, q, 3) | none => .error (0xC, 3))
        else .error (0xC, 3)
      | none => .error (0xC, 3)
    | some _, none => .error (0xC, 3)

/-- The first lane whose tile offset is refused: misaligned, or past the tile (R197). -/
def offsetFault (act : Mask) (o : Nat → Nat) (n : Nat) : Option (Nat × Nat × Nat) :=
  (lanesOf act).findSome? fun k =>
    if o k % n ≠ 0 then some (7, 0, k) else if 16384 < o k + n then some (6, 0, k) else none

/-- Whether threads may use a tile: thread-owned and READY, and not being given away (R187, R204). -/
def threadTile (t : Tile) : Bool := t.thread && decide (t.st = .ready) && t.giving.isEmpty

/-- The first empty line that some lane reads in a tile being filled (R187). -/
def emptyLine (t : Tile) (act : Mask) (o : Nat → Nat) (n : Nat) : Option Nat :=
  (lanesOf act).findSome? fun k =>
    ((List.range ((o k + n - 1) / 128 + 1 - o k / 128)).map (o k / 128 + ·)).find? fun l => !t.full.getLsbD l

/-- What LDS, STS and ATMS share: target, offsets and the tile's state; an LDS may read full lines of a tile that fills and will
flip (R187, R197). -/
def withTile (s : State) (act : Mask) (tile : TileOp) (b : Opnd) (rmt : Option Opnd) (n : Nat) (load : Bool)
    (f : Nat → Nat → (Nat → Nat) → Step) : Step :=
  match tileTarget s act tile rmt with
  | .error e => .trap e.1 e.2 none
  | .ok (core, phys, detail) =>
    let o := fun (k : Nat) => srcBits s act b 1 k
    match offsetFault act o n with
    | some (c, x, k) => .trap c x (some k)
    | none =>
      let t := tileAt s core phys
      if threadTile t then f core phys o
      else if load && !t.thread && decide (t.st = .filling) && t.flip then
        (match emptyLine t act o n with
         | some l => .wait (evTileLine core phys l) none s
         | none => f core phys o)
      else .trap 0xC detail none

/-- LDS (R197). -/
def execLds (c : Ctl) (t : Fmt) (n : Count) (d : Opnd) (tile : TileOp) (b : Opnd) (rmt : Option Opnd) (s : State) :
    Host.Outcome State Fault Refusal :=
  issue (.lds c t n d tile b rmt) c (fun s act =>
    let sz := n.n * t.bytes
    withTile s act tile b rmt sz true fun core phys o =>
      .done (setWarp s fun w => (lanesOf act).foldl (fun w k =>
        loadRegs w t (vecNum d) n.n k (padBytes s core phys (o k) sz)) w)) s

/-- STS (R197); a write makes the segment non-replayable (R188). -/
def execSts (c : Ctl) (t : Fmt) (n : Count) (d : Opnd) (tile : TileOp) (b : Opnd) (rmt : Option Opnd) (s : State) :
    Host.Outcome State Fault Refusal :=
  issue (.sts c t n d tile b rmt) c (fun s act =>
    let sz := n.n * t.bytes
    withTile s act tile b rmt sz false fun core phys o =>
      let lanes := lanesOf (act &&& ~~~s.warp.helpers)
      let s1 := lanes.foldl (fun u k => padWrite u core phys (o k) (storeBytes s act t n.n d k)) s
      .done (if lanes.isEmpty then s1 else noReplay s1)) s

/-- ATMS (R199, R201). Its ordering is that of an ATOM: a release at a scope past the core drains the warp's buffered stores first.
Log 157 (DEDUCED). -/
def execAtms (c : Ctl) (t : Fmt) (op : AtomOp) (rm : RMode) (o : AtomOrd) (sc : Scope) (d : Opnd) (tile : TileOp) (b : Opnd)
    (rmt : Option Opnd) (s : State) : Host.Outcome State Fault Refusal :=
  issue (.atms c t op rm o sc d tile b rmt) c (fun s act =>
    withTile s act tile b rmt t.bytes false fun core phys off =>
      let lanes := lanesOf (act &&& ~~~s.warp.helpers)
      let s := if decide (o = .rel ∨ o = .ar) && drainsAt sc then drainRel s else s
      let r := lanes.foldl (fun (a : State × List (Nat × Nat)) k =>
        let old := natOfBytes (padBytes a.1 core phys (off k) t.bytes)
        let new := atomStep t op rm old (srcBits s act d t.regs k) (srcBits s act (Opnd.plus d t.regs) t.regs k)
        (padWrite a.1 core phys (off k) (bytesOfNat t.bytes new), a.2 ++ [(k, old)])) (s, [])
      let s1 := if lanes.isEmpty then r.1 else noReplay r.1
      .done (writeDst s1 act d t.regs fun k => match r.2.find? fun e => e.1 = k with | some e => e.2 | none => 0)) s

/-- A tile flipped to the engine side, with the slots of the TGIVs that waited released (R204). -/
def flipGiven (s : State) (core phys : Nat) : State :=
  let t := tileAt s core phys
  if t.giving.isEmpty || s.acpys.any fun a => a.core = core && a.phys = phys then s
  else
    let s := setTile s core phys fun t => { t with thread := false, st := .ready, giving := [] }
    settle (t.giving.foldl (fun u g => slotDown u g.1 g.2) s)

/-- TGIV: the tile is refused to threads at once and flips when the copies into it have been performed (R204). -/
def execTgiv (c : Ctl) (t : TileOp) (s : State) : Host.Outcome State Fault Refusal :=
  issue (.tgiv c t) c (fun s _ => match tileOfOp s t with
    | .error e => .trap e.1 e.2 none
    | .ok (core, phys) =>
      let x := tileAt s core phys
      if !x.thread then .done s
      else
        let sl := wslot c
        let s := noReplay (slotUp s sl)
        let uid := s.warp.uid
        .done (flipGiven (setTile s core phys fun x => { x with giving := x.giving ++ [(uid, sl)] }) core phys)) s

/-- TTAK (R205). -/
def execTtak (c : Ctl) (t : TileOp) (s : State) : Host.Outcome State Fault Refusal :=
  issue (.ttak c t) c (fun s _ => match tileOfOp s t with
    | .error e => .trap e.1 e.2 none
    | .ok (core, phys) =>
      let x := tileAt s core phys
      if x.thread then .done s
      else if x.hold || decide (x.mxr ≠ 0) then .wait (evTileChange core phys) none s
      else .done (settle (setTile s core phys fun x => { x with thread := true, st := .ready, full := fullMask }))) s

/-- A tile's state as TSTA reports it (R206). -/
def tileWord (t : Tile) (phys : Nat) : Nat :=
  let st := match t.st with | .empty => 0 | .filling => 1 | .ready => 2 | .draining => 3
  let cnt := ((List.range 128).filter fun i => t.full.getLsbD i).length
  phys % 128 + (if t.mxr ≠ 0 then 2 ^ 10 else 0) + (if t.flip then 2 ^ 11 else 0) + st * 2 ^ 12
    + (if t.thread then 2 ^ 14 else 0) + (if t.hold then 2 ^ 15 else 0) + cnt * 2 ^ 16

/-- TSTA (R206). -/
def execTsta (c : Ctl) (d : Opnd) (t : TileOp) (s : State) : Host.Outcome State Fault Refusal :=
  issue (.tsta c d t) c (fun s act => match tileOfOp s t with
    | .error e => .trap e.1 e.2 none
    | .ok (core, phys) => .done (writeDst s act d 1 fun _ => tileWord (tileAt s core phys) phys)) s

end Sys2Proof.Machine
end

