-- ==== Sys2Proof/Machine/Engine.lean ====
section
/-! DEFINITION. What threads ask of the engines: batch tags (R173), ACPY, STGR, BCLS, WAITB, QSTA, QPUT and COLL (R175 to R180,
R301), and the events of the copy unit and of the stage engine (R171, R172, R177). -/

namespace Sys2Proof.Machine

/-! Batch tags. -/

/-- A batch tag written. -/
def setTag (c : Crew) (wid k : Nat) (t : Tag) : Crew :=
  { c with tags := mset { st := .free, count := 0, zf := false, err := false, age := 0 } c.tags (wid * 8 + k) t }

/-- The tags of a warp number that are not FREE, oldest first. -/
def liveTags (c : Crew) (wid : Nat) : List Nat :=
  ((List.range 8).filter fun k => decide ((tagOf c wid k).st ≠ .free)).foldl (fun l k => ins k l) []
where
  /-- A tag put in its place by age. -/
  ins (k : Nat) : List Nat → List Nat
    | [] => [k]
    | h :: t => if (tagOf c wid k).age < (tagOf c wid h).age then k :: h :: t else h :: ins k t

/-- Tags of a warp number that become DONE or FREE (R173).
Log 85 (DEDUCED). -/
def settleTags (c : Crew) (wid : Nat) : Crew :=
  ((liveTags c wid).foldl (fun (a : Crew × Bool) k =>
    let t := tagOf a.1 wid k
    match t.st with
    | .closed => if t.count = 0 then (setTag a.1 wid k { t with st := if a.2 then .free else .done }, a.2) else (a.1, false)
    | .done => (setTag a.1 wid k { t with st := if a.2 then .free else .done }, a.2)
    | _ => (a.1, false)) (c, true)).1

/-- The OPEN tag of a warp number.
Log 85 (DEDUCED). -/
def openTag (c : Crew) (wid : Nat) : Option Nat := (List.range 8).find? fun k => decide ((tagOf c wid k).st = .opened)

/-- An operation that joins the open batch or opens one: the crew and the tag, or the event to wait for (R173). -/
def joinBatch (c : Crew) (wid : Nat) : Except DWord (Crew × Nat) :=
  match openTag c wid with
  | some k =>
    let t := tagOf c wid k
    if t.count = 255 then .error (evBatch wid 15) else .ok (setTag c wid k { t with count := t.count + 1 }, k)
  | none =>
    let k := mget 0 c.next wid
    if (tagOf c wid k).st ≠ .free then .error (evBatch wid 7)
    else
      let c := setTag c wid k { st := .opened, count := 1, zf := false, err := false, age := c.ages }
      .ok ({ c with next := mset 0 c.next wid ((k + 1) % 8), ages := c.ages + 1 }, k)

/-- The OPEN tag of a warp number closed (R178). -/
def closeBatch (c : Crew) (wid : Nat) : Crew :=
  match openTag c wid with
  | none => c
  | some k => settleTags (setTag c wid k { tagOf c wid k with st := .closed }) wid

/-- An operation of a batch completed, with its sticky flags (R173). -/
def batchDone (s : State) (launch crew wid k : Nat) (zf err : Bool) : State :=
  settle (setCrewAt s launch crew fun c =>
    let t := tagOf c wid k
    settleTags (setTag c wid k { t with count := t.count - 1, zf := t.zf || zf, err := t.err || err }) wid)

/-! ACPY. -/

/-- Where the bytes of a translated word of an ACPY come from: the warp's own buffered stores first, unless a stream reads the word
(R177, R191). -/
def acpySrc (s : State) (fwd : Bool) (w : Nat × Nat × Xlat) : List AcpySrc :=
  (List.range w.2.1).map fun j =>
    let l := w.2.2.loc.add j
    match (if fwd then forwardByte s l else none) with
    | some b => .val b
    | none => .mem l w.2.2.swz w.2.2.rep

/-- The checks of one lane of an ACPY: a trap code and detail, or what is to be copied (R177). -/
def acpyLane (s : State) (b : BufRec) (i off v n : Nat) : Except (Nat × Nat) (AcpyLane × List (Nat × Nat × Xlat)) :=
  let zero : AcpyLane := { off := off, n := n, src := List.replicate n (.val 0), zf := true, stream := 0 }
  if off % n ≠ 0 then .error (7, 0)
  else if 16384 < off + n then .error (6, 0)
  else if v = 0 then .ok ({ zero with zf := false }, [])
  else if !inBounds b i 0 v then (if b.clamp then .ok (zero, []) else .error (6, 0))
  else if (b.base + i * b.stride) % n ≠ 0 then .error (7, 0)
  else match joinWords ((accessWords b i 0 v).map fun a => (a.1, a.2, translate s s.warp.space a.1 false false)) with
    | .fail c d => .error (c, d)
    | .ok ws =>
      let src := ws.flatMap (acpySrc s (decide (b.glz = 0)))
      .ok ({ off := off, n := n, src := src ++ List.replicate (n - v) (.val 0), zf := false, stream := b.glz }, ws)
    | _ => .ok (zero, [])

/-- The addresses that a lane of an ACPY translates: none where it fails a check before, or reads no byte. -/
def acpyVas (b : BufRec) (i v n : Nat) : List Nat :=
  if v ≠ 0 ∧ inBounds b i 0 v ∧ (b.base + i * b.stride) % n = 0 then (accessWords b i 0 v).map (·.1) else []

/-- ACPY's size n. -/
def AcpySize.n : AcpySize → Nat
  | .sz4 => 4
  | .sz8 => 8
  | .sz16 => 16
  | .sz32 => 32

/-- The lanes of an ACPY, or the trap of the lowest lane that fails.
Log 84 (DEDUCED). -/
def acpyLanes (s : State) (act : Mask) (b : BufRec) (o e : Opnd) (n : Nat) :
    Except (Nat × Nat × Nat) (List (AcpyLane × List (Nat × Nat × Xlat))) :=
  (lanesOf (act &&& ~~~s.warp.helpers)).foldl (fun r k =>
    match r with
    | .error x => .error x
    | .ok l =>
      let v := min (srcBits s act e 1 k) n
      match acpyLane s b (srcBits s act o 1 k) (srcBits s act (Opnd.plus o 1) 1 k) v n with
      | .error x => .error (x.1, x.2, k)
      | .ok y => .ok (l ++ [y])) (.ok [])

/-- The valid bytes of a lane of an ACPY. -/
def acpyValid (s : State) (act : Mask) (e : Opnd) (n k : Nat) : Nat := min (srcBits s act e 1 k) n

/-- ACPY's effect once its lanes have passed their checks: a source on an SO page is read after the warp's earlier stores (R173, R177,
R271). -/
def acpyIssue (t : TileOp) (lanes : State → Except (Nat × Nat × Nat) (List (AcpyLane × List (Nat × Nat × Xlat)))) (s : State) : Step :=
  match lanes s with
  | .error x => .trap x.1 x.2.1 (some x.2.2)
  | .ok l => match tileOfOp s t, crewOf s with
    | .error x, _ => .trap x.1 x.2 none
    | .ok _, none => .trap 0xC 1 none
    | .ok (core, phys), some k =>
      if !threadTile (tileAt s core phys) then .trap 0xC 2 none
      else match joinBatch k s.warp.wid with
        | .error ev => .wait ev none s
        | .ok (k1, tag) =>
          let accs := l.map fun x => (0, LaneAcc.ok x.2)
          let s := touchLanes s accs
          let s := if touchesSo accs && !s.warp.sb.isEmpty then drain s else s
          let src := match lanes s with | .ok l => l | .error _ => l
          let op : AcpyOp :=
            { launch := s.warp.launch, crew := crewKey s.warp, wid := s.warp.wid, tag := tag, core := core, phys := phys,
              lanes := src.map (·.1) }
          .done (noReplay (setCrew { s with acpys := s.acpys ++ [op] } fun _ => k1))

/-- ACPY (R177). -/
def execAcpy (c : Ctl) (sz : AcpySize) (t : TileOp) (br : Fin 64) (b e : Opnd) (s : State) : Host.Outcome State Fault Refusal :=
  issue (.acpy c sz t br b e) c (fun s act =>
    match tileIndex s t with
    | .error x => .trap x.1 x.2 none
    | .ok _ =>
      let r := slotRec s br
      let n := AcpySize.n sz
      match streamCheck s s.warp.vi r.glz false with
      | some d => .trap 0xB d none
      | none =>
        let vas := (lanesOf (act &&& ~~~s.warp.helpers)).flatMap fun k => acpyVas r (srcBits s act b 1 k) (acpyValid s act e n k) n
        withWalks s vas (acpyIssue t (fun s => acpyLanes s act r b e n) s)) s

/-- The lines of memory that a lane of an ACPY reads, each once, with placement and replica. -/
def acpyLines (l : AcpyLane) : List (Nat × BitVec 4 × Option Nat) :=
  (l.src.filterMap fun x => match x with | .mem (.dev a) z r => some (a / 128, z, r) | _ => none).dedup

/-- A line that an ACPY cannot have: a free value in each byte.
Log 162 (DEDUCED). -/
def lostLine (s : State) (line : Nat) : Line :=
  lineOf ((List.range 128).map fun i => (Config.freeWord s.free (line * 128 + i)).extractLsb' 0 8)

/-- One lane of an ACPY performed: its source lines read now, and its bytes in the tile (R177).
Log 84 (DEDUCED), 162 (DEDUCED). -/
def acpyWrite (s : State) (core phys : Nat) (l : AcpyLane) : State :=
  let r := (acpyLines l).foldl (fun (a : State × List (Nat × Line)) x =>
    if (lineErr a.1 x.2.2 x.1).isSome then (a.1, a.2 ++ [(x.1, lostLine a.1 x.1)])
    else
      let y := streamRead a.1 (!isRemote a.1 x.1) x.2.2 x.2.1 none l.stream x.1
      (y.1, a.2 ++ [(x.1, y.2)])) (s, [])
  let byte := fun (x : AcpySrc) => match x with
    | .val b => b
    | .mem (.host a) _ _ => readHost r.1 a
    | .mem (.dev a) _ _ => match r.2.find? fun e => e.1 = a / 128 with
      | some e => lineByte e.2 (a % 128)
      | none => 0
  padWrite r.1 core phys l.off (l.src.map byte)

/-- Memory that a launch's access cannot have: the launch is suspended and reported, with the address or the package lost (R386). -/
def memReport (s : State) (vi launch asid line detail : Nat) : State :=
  let s := suspend s launch
  if detail = 2 then report s vi 10 launch asid 0 (line / 2 ^ 39) else report s vi 6 launch asid (line * 128) 0

/-- The lines that an ACPY cannot have, reported.
Log 162 (DEDUCED). -/
def acpyErrs (s : State) (a : AcpyOp) : State :=
  ((a.lanes.flatMap acpyLines).dedup).foldl (fun t x => match lineErr s x.2.2 x.1, launchOf t a.launch with
    | some d, some l => memReport t l.vi l.id l.asid x.1 d
    | _, _ => t) s

/-- Whether two ACPYs of one warp write a common byte.
Log 83 (DEDUCED). -/
def acpyClash (a b : AcpyOp) : Bool :=
  a.launch = b.launch && a.crew = b.crew && a.wid = b.wid && a.core = b.core && a.phys = b.phys
    && a.lanes.any fun x => b.lanes.any fun y => decide (x.off < y.off + y.n ∧ y.off < x.off + x.n)

/-- The k-th ACPY in flight completes; those of one warp that overlap do so in issue order (R177).
Log 9 (DESIGN CHOICE), 83 (DEDUCED). -/
def execAcpyComplete (k : Nat) (s : State) : Host.Outcome State Fault Refusal :=
  match s.acpys[k]? with
  | none => .next s
  | some a =>
    if (s.acpys.take k).any fun b => acpyClash b a then .next s
    else
      let s := a.lanes.foldl (fun t l => acpyWrite t a.core a.phys l) { acpyErrs s a with acpys := s.acpys.eraseIdx k, free := s.free + 1 }
      let s := batchDone s a.launch a.crew a.wid a.tag (a.lanes.any (·.zf)) false
      .next (launchEndIf (crewEndIf (flipGiven s a.core a.phys) a.launch a.crew) a.launch)

/-! STGR and staging. -/

/-- Whether a packet holds a tile: its holder is no stage region (R185). -/
def packetHolds (s : State) (core phys : Nat) : Bool :=
  (tileAt s core phys).hold && !(s.stageOps.any fun o => o.started && o.core = core && o.phys = some phys)

/-- The core and tile to which a STGR's region goes, or the trap code and detail (R179). -/
def stgrTarget (s : State) (r : Region) : Except (Nat × Nat) (Nat × Option Nat) :=
  match r.tile, crewOf s with
  | none, _ => .ok (s.warp.core, none)
  | some _, none => .error (0xC, 1)
  | some t, some k => match crewTile k t.1 with
    | .error e => .error e
    | .ok p => if (tileAt s k.core p).thread || packetHolds s k.core p then .error (0xC, 2) else .ok (k.core, some p)

/-- STGR (R179). -/
def execStgr (c : Ctl) (a : Opnd) (s : State) : Host.Outcome State Fault Refusal :=
  issue (.stgr c a) c (fun s _ =>
    let x := pairS s a + 2 ^ 64 * pairS s (Opnd.plus a 2)
    let r := { regionOf16 x with user := s.warp.space.user }
    if regionBad x then .trap 0xA 0 none
    else match streamCheck s s.warp.vi r.glz false with
      | some d => .trap 0xB d none
      | none => match stgrTarget s r, crewOf s with
        | .error e, _ => .trap e.1 e.2 none
        | .ok _, none => .trap 0xC 1 none
        | .ok (core, phys), some k => match joinBatch k s.warp.wid with
          | .error ev => .wait ev none s
          | .ok (k1, tag) =>
            let w := s.warp
            .done (noReplay (addStages (setCrew s fun _ => k1)
              [stageOp (.batch w.launch (crewKey w) w.wid tag) r w.asid w.vi core phys]))) s

/-- A tile let go by its holder: READY, or flipped to the threads with every line full (R169, R186). A crew that has ended gives
its tile up (R184). -/
def releaseTile (s : State) (core phys : Nat) : State :=
  let s := setTile s core phys fun t =>
    if t.flip then { t with hold := false, flip := false, thread := true, st := .ready, full := fullMask }
    else { t with hold := false, st := .ready }
  let t := tileAt s core phys
  match t.crew with
  | some (l, c) =>
    if (crewAt s l c).isSome then settle s
    else settle (setTile s core phys fun t => { Tile.reset with lastVi := t.lastVi })
  | none => settle s

/-- Bytes of a tile range whose lines are still empty filled with zero, and those lines marked full (R169). -/
def zeroRest (s : State) (core phys off len : Nat) : State :=
  let t := tileAt s core phys
  let empty := rangeLines off len &&& ~~~t.full
  let s := (List.range len).foldl (fun u i => if empty.getLsbD ((off + i) / 128) then padWrite u core phys (off + i) [0] else u) s
  setTile s core phys fun t => { t with full := t.full ||| rangeLines off len }

/-- The space in which the stage engine reads a region (R122). -/
def stageSpace (o : StageOp) : Space := { vi := o.vi, asid := o.asid, user := o.region.user }

/-- Whether a line of a region cannot be had (R386). -/
def stageLost (s : State) (o : StageOp) : Bool :=
  (List.range ((o.region.base + o.region.len - 1) / 128 + 1 - o.region.base / 128)).any fun j =>
    match translate s (stageSpace o) ((o.region.base / 128 + j) * 128) false false with
    | .ok x => (match x.loc with
        | .dev a => (lineErr s x.rep (a / 128)).isSome
        | .host _ => false)
    | _ => false

/-- What the stage engine meets on a region: ready, a page to wait for, or a status of R159.
Log 80 (DEDUCED). -/
def stageCheck (s : State) (o : StageOp) : RangeTr :=
  if !o.buf.isEmpty then .ok else
  match streamCheck s o.vi o.region.glz false with
  | some _ => .status 7
  | none => match checkRange s (stageSpace o) o.region.base o.region.len false with
    | .ok =>
      let owned := match o.phys with | some p => (tileAt s o.core p).thread && !o.started | none => false
      if owned then .status 0xD else if stageLost s o then .status 0xE else .ok
    | r => r

/-- An engine's read of a virtual range through a stream, byte for byte (R92).
Log 150 (DESIGN CHOICE). -/
def streamVa (s : State) (sp : Space) (k : BitVec 6) (va n : Nat) : State × List Byte :=
  if n = 0 then (s, []) else
  (List.range ((va + n - 1) / 128 + 1 - va / 128)).foldl (fun (a : State × List Byte) j =>
    let lo := max va ((va / 128 + j) * 128)
    let hi := min (va + n) ((va / 128 + j + 1) * 128)
    let s := tlbTouch a.1 sp.vi sp.asid lo
    match translate s sp lo false false with
    | .ok x => (match x.loc with
        | .dev d =>
          let r := readThrough s (!uncached s x (d / 128)) x.rep x.swz none k d (hi - lo)
          (r.1, a.2 ++ r.2)
        | .host h => (s, a.2 ++ (List.range (hi - lo)).map fun i => readHost s (h + i)))
    | _ => (s, a.2 ++ List.replicate (hi - lo) 0)) (s, [])

/-- A device line present in its home slice: an open miss of it filled, or the line read and installed clean (R172).
Log 82 (DEDUCED). -/
def llcPresent (s : State) (rep : Option Nat) (swz : BitVec 4) (line : Nat) : State :=
  match missOf s line with
  | some m => fillMiss (countFix s m.swz line) m (m.fill.getD (dramLine s m.swz (servingLine s m.rep line)))
  | none => (streamRead s true rep swz none 0 line).1

/-- The lines of an LLC region brought into their home slices, each passing the region's stream (R170, R172).
Log 82 (DEDUCED). -/
def stageLines (s : State) (o : StageOp) : State :=
  let l0 := o.region.base / 128
  (List.range ((o.region.base + o.region.len - 1) / 128 + 1 - l0)).foldl (fun t j =>
    let va := max o.region.base ((l0 + j) * 128)
    let t := tlbTouch t o.vi o.asid va
    match translate t (stageSpace o) va false false with
    | .ok x => (match x.loc with
        | .dev d =>
          let t := if o.region.glz = 0 then t else (streamRead t false x.rep x.swz none o.region.glz (d / 128)).1
          if uncached t x (d / 128) then t else llcPresent t x.rep x.swz (d / 128)
        | .host _ => t)
    | _ => t) s

/-- What a staging was for is told of its end; fail is a status of R159 (R166, R171, R179). -/
def stageTell (s : State) (o : StageOp) (fail : Option Byte) : State :=
  match o.what with
  | .saggar sid => { s with saggars := s.saggars.map fun g =>
      if g.sid = sid then
        { g with staging := g.staging - 1, fail := match g.fail with | none => fail | some f => some f }
      else g }
  | .batch l c w t => batchDone s l c w t false fail.isSome
  | .packet pid => { s with packets := s.packets.map fun p =>
      if p.pid = pid then
        let p := match fail with | some f => if p.status = 0 then { p with status := f } else p | none => p
        { p with left := p.left - 1, st := if p.left ≤ 1 then (if p.status = 0 then .moved else .failed) else p.st }
      else p }

/-- The k-th region in hand, put in its place. -/
def putStage (s : State) (k : Nat) (o : StageOp) : State := { s with stageOps := s.stageOps.modify k fun _ => o }

/-- A tile region's bytes read, once its tile is held; none while they cannot be had (R170, R186). -/
def stageRead (s : State) (k : Nat) (o : StageOp) : Option (State × StageOp) :=
  if !o.started || decide (stageCheck s o ≠ .ok) then none
  else if !o.buf.isEmpty then some (s, o)
  else
    let r := streamVa s (stageSpace o) o.region.glz o.region.base o.region.len
    let o := { o with buf := r.2 }
    some (putStage r.1 k o, o)

/-- A line of a tile region in the tile: its full bit set (R186). -/
def stageLine (s : State) (k : Nat) (o : StageOp) (line : Nat) : State :=
  match o.phys, o.region.tile with
  | some p, some t =>
    let s := padWrite s o.core p (line * 128) ((o.buf.drop (line * 128 - t.2)).take 128)
    let s := setTile s o.core p fun x => { x with full := x.full ||| rangeLines (line * 128) 128 }
    putStage s k { o with done := o.done ++ [line] }
  | _, _ => s

/-- The lines that a tile region has yet to write. -/
def stageLeft (o : StageOp) : List Nat :=
  match o.region.tile with
  | some t => (lineSpan t.2 o.region.len).filter fun l => !o.done.contains l
  | none => []

/-- A line of a tile region written, under the number of its region (R186). -/
def stageLineWritten (id line : Nat) (s : State) : State :=
  match s.stageOps.findIdx? fun o => o.id = id with
  | none => s
  | some k => match s.stageOps[k]? with
    | none => s
    | some o =>
      if line ∉ stageLeft o then s
      else match stageRead s k o with
        | none => s
        | some r => settle (stageLine r.1 k r.2 line)

/-- A region reported resident (R172): its lines are in their slices, or its bytes in the tile, whose last lines it writes and which
flips to the threads. A page that is not resident is requested, and a tile that is held is waited for (R160, R169).
Log 82 (DEDUCED). -/
def execStageRegionResident (k : Nat) (s : State) : Host.Outcome State Fault Refusal :=
  match s.stageOps[k]? with
  | none => .next s
  | some o =>
    let st := startStage s o
    let o := st.2
    let s := putStage st.1 k o
    match stageCheck s o with
    | .status _ => .next s
    | .nores va psz => .next (askPage s o.vi o.asid va psz true)
    | .ok => match o.phys with
      | none => .next (stageTell (stageLines { s with stageOps := s.stageOps.eraseIdx k } o) o none)
      | some p => match stageRead s k o with
        | none => .next s
        | some r =>
          let s := (stageLeft o).foldl (fun t l => stageLine t k r.2 l) r.1
          .next (stageTell (releaseTile { s with stageOps := s.stageOps.eraseIdx k } o.core p) o none)

/-- The staging of a region fails with the status that its access met; a tile that it holds is completed (R169, R171). -/
def execStageRegionFail (k : Nat) (status : Byte) (s : State) : Host.Outcome State Fault Refusal :=
  match s.stageOps[k]? with
  | none => .next s
  | some o =>
    match stageCheck s o with
    | .status c =>
      if c ≠ status then .next s else
      let gone := { s with stageOps := s.stageOps.eraseIdx k }
      (match o.started, o.phys, o.region.tile with
       | true, some p, some t =>
         .next (stageTell (releaseTile (zeroRest gone o.core p t.2 o.region.len) o.core p) o (some c))
       | _, _, _ => .next (stageTell gone o (some c)))
    | _ => .next s

/-! BCLS, WAITB and QSTA. -/

/-- BCLS (R178). -/
def execBcls (c : Ctl) (s : State) : Host.Outcome State Fault Refusal :=
  issue (.bcls c) c (fun s _ => .done (settle (setCrew s fun k => closeBatch k s.warp.wid))) s

/-- WAITB (R178). -/
def execWaitb (c : Ctl) (b : Opnd) (s : State) : Host.Outcome State Fault Refusal :=
  issue (.waitb c b) c (fun s act =>
    let n := srcBits s act b 1 0
    let s := settle (setCrew s fun k => closeBatch k s.warp.wid)
    match crewOf s with
    | none => .done s
    | some k =>
      if outstanding k s.warp.wid ≤ n then .done s
      else .wait (evBatch s.warp.wid n) (some (ipAdd (curIp s.warp) 1)) s) s

/-- A tag's state as QSTA writes it (R180). -/
def tagWord (c : Crew) (wid k : Nat) : Nat :=
  let t := tagOf c wid k
  let st := match t.st with | .free => 0 | .opened => 1 | .closed => 2 | .done => 3
  let o := match openTag c wid with | some j => 2 ^ 15 + j * 2 ^ 12 | none => 0
  t.count % 256 + st * 2 ^ 8 + (if t.zf then 2 ^ 10 else 0) + (if t.err then 2 ^ 11 else 0) + o

/-- QSTA (R180). -/
def execQsta (c : Ctl) (d b : Opnd) (s : State) : Host.Outcome State Fault Refusal :=
  issue (.qsta c d b) c (fun s act =>
    let n := srcBits s act b 1 0
    if 7 < n then .trap 3 2 none
    else .done (writeDst s act d 1 fun _ => match crewOf s with | some k => tagWord k s.warp.wid n | none => 0)) s

/-! QPUT and COLL. -/

/-- The segment ends at the instruction until a page is resident (R176). -/
def endForPage (s : State) (va psz : Nat) : Step :=
  .ends (.at (evPage s.warp.asid (va / 65536 / pszUnits psz * pszUnits psz)) (curIp s.warp)) (askPage s s.warp.vi s.warp.asid va psz false)

/-- The packet of a lane: sixteen registers from r.
Log 86 (DEDUCED). -/
def lanePacket (s : State) (r k : Nat) : BitVec 512 :=
  BitVec.ofNat 512 ((List.range 16).foldl (fun n i => n + (rdV s (r + i) k).toNat * 2 ^ (32 * i)) 0)

/-- A header or a record read as QPUT reads a header: on a page that is not resident the segment ends until it is ready, and else it is
read as BREC.ld reads (R133, R176, R301).
Log 50 (DEDUCED). -/
def headLoad (s : State) (va off n : Nat) (f : State → List Byte → Step) : Step :=
  withWalks s [va] (match translate s s.warp.space va false false with
  | .nores psz => endForPage s va psz
  | _ => recLoad s (va + off) n (min n 64) false f)

/-- The put of a QPUT with NOW: the segment's stores are released and its indices claimed; then it waits for ring room (R153, R176).
Log 86 (DEDUCED). -/
def putNow (s : State) (p : PutOp) : Step :=
  let s := claimPut (drain s) p
  if putting s s.warp.uid then .wait evLine (some (ipAdd (curIp s.warp) 1)) s else .done s

/-- QPUT once it has read CTL and RING (R176).
Log 86 (DEDUCED). -/
def putBody (now : Bool) (b : Opnd) (hva ring ctl : Nat) (act : Mask) (s : State) : Step :=
  let w := s.warp
  withWalks s [hva, ring] (match translate s w.space hva true false, translate s w.space ring true false with
  | .malf, _ | .ok _, .malf | .nores _, .malf => .trap 9 0 none
  | .prot d, _ | .ok _, .prot d | .nores _, .prot d => .trap 8 d none
  | .nores psz, _ => endForPage s hva psz
  | .ok _, .nores psz => endForPage s ring psz
  | .ok x, .ok y =>
    let s := tlbTouch s w.vi w.asid ring
    let lanes := lanesOf (act &&& ~~~w.helpers)
    let p : PutOp :=
      { uid := w.uid, hdr := x, hva := hva, hasid := w.asid, ring := y, rva := ring, asid := w.asid, log2n := bitsOf ctl 3 0, next := 0,
        packets := lanes.map (lanePacket s (vecNum b)), now := now }
    if lanes.isEmpty then .done s
    else if now then putNow s p
    else .done (setWarp s fun w => { w with held := w.held ++ [.put p] }))

/-- QPUT (R176). One with NOW that has claimed its indices only waits for its ring. -/
def execQput (c : Ctl) (sc : Scope) (now : Bool) (a b : Opnd) (s : State) : Host.Outcome State Fault Refusal :=
  issue (.qput c sc now a b) c (fun s act =>
    let hva := pairS s a
    if s.warp.wait.isSome && s.warp.resume.isSome then
      (let t := runPuts s; if putting t t.warp.uid then .wait evLine t.warp.resume t else .done t)
    else if hva % 64 ≠ 0 then .trap 7 0 none
    else headLoad s hva 16 16 fun s bs => putBody now b hva (numAt bs 0 8) (numAt bs 8 8) act s) s

/-- What the four forms of COLL share: the record is read and held until the segment ends (R301). -/
def collBody (i : Instr) (c : Ctl) (a : Opnd) (var : BitVec 2) (s : State) : Host.Outcome State Fault Refusal :=
  issue i c (fun s _ =>
    let va := pairS s a
    if va % 64 ≠ 0 then .trap 7 0 none
    else headLoad s va 0 64 fun s bs => .done (setWarp s fun w =>
      { w with held := w.held ++ [.coll va w.asid w.space.user (BitVec.ofNat 512 (natOfBytes bs)) var] })) s

/-- COLL.rs (R301). -/
def execCollRs (c : Ctl) (a : Opnd) (s : State) : Host.Outcome State Fault Refusal := collBody (.collRs c a) c a 0 s
/-- COLL.ag (R301). -/
def execCollAg (c : Ctl) (a : Opnd) (s : State) : Host.Outcome State Fault Refusal := collBody (.collAg c a) c a 1 s
/-- COLL.a2a (R301). -/
def execCollA2a (c : Ctl) (a : Opnd) (s : State) : Host.Outcome State Fault Refusal := collBody (.collA2a c a) c a 2 s
/-- COLL.rpart (R301). -/
def execCollRpart (c : Ctl) (a : Opnd) (s : State) : Host.Outcome State Fault Refusal := collBody (.collRpart c a) c a 3 s

end Sys2Proof.Machine
end

