-- ==== Sys2Proof/Machine/Gang.lean ====
section
/-! DEFINITION. Gangs (R245 to R249, R263): the gang register, the rendezvous latch, cones, forming and dissolving. -/

namespace Sys2Proof.Machine

/-- The gang register of a warp number (R245). -/
def gangReg (s : State) (w : Warp) : Word :=
  match crewAt s w.launch (crewKey w) with
  | some c => mget 0 c.gang w.wid
  | none => 0

/-- The warp numbers that a gang operand lists (R245). -/
def gangMembers (x : Word) : List Nat :=
  let n := x.toNat
  [bitsOf n 4 0, bitsOf n 9 5] ++ (if bitsOf n 21 20 = 2 then [bitsOf n 14 10, bitsOf n 19 15] else [])

/-- NZ of a gang operand (R245). -/
def gangNz (x : Word) : Nat := bitsOf x.toNat 26 22

/-- Whether GANG refuses a nonzero operand (R268). -/
def gangBad (x : Word) (wid flagGang : Nat) (formed : Bool) : Bool :=
  let n := x.toNat
  let size := bitsOf n 21 20
  let ms := gangMembers x
  decide (bitsOf n 31 27 ≠ 0 ∨ size = 0 ∨ size = 3 ∨ (size = 1 ∧ bitsOf n 19 10 ≠ 0) ∨ gangNz x = 0 ∨ 16 < gangNz x
      ∨ (flagGang ≠ 0 ∧ size ≠ flagGang))
    || !((List.range (ms.length - 1)).all fun i => decide (ms.getD i 0 < ms.getD (i + 1) 0)) || !ms.contains wid || formed

/-- The gang of a warp that has formed (R247). -/
def gangOf (s : State) (w : Warp) : Option Gang :=
  s.gangs.find? fun g => g.launch = w.launch && g.crew = crewKey w && g.members.contains w.wid

/-- Whether a gang has a member all of whose lanes have exited (R248). -/
def gangDead (s : State) (g : Gang) : Bool :=
  g.members.any fun m =>
    !((residents s).any fun w => w.launch = g.launch && crewKey w = g.crew && w.wid = m && !w.entries.isEmpty)
      && !(s.recs.any fun r => r.launch = g.launch && r.crew = some g.crew && r.wid = m && !r.isKept)

/-- Whether a matrix instruction of a gang has not completed (R262). -/
def gangWork (s : State) (g : Gang) : Bool :=
  (s.mxQueue.any fun m => m.launch = g.launch && m.crew = g.crew && m.members = g.members)
    || (s.mxOps.any fun m => m.launch = g.launch && m.crew = g.crew && m.members = g.members)

/-- A gang dissolved: accumulators freed, members' registers zeroed, cones returned (R248). -/
def dissolve (s : State) (g : Gang) : State :=
  let s := setCrewAt s g.launch g.crew fun c => { c with gang := g.members.foldl (fun m w => mset 0 m w 0) c.gang }
  { s with
    conesUsed := if g.cones then s.conesUsed - 9 else s.conesUsed
    gangs := s.gangs.filter fun h => h ≠ g
    latches := s.latches.filter fun l => !(l.launch = g.launch && l.crew = g.crew && l.members = g.members) }

/-- Gangs that a member's exit dissolves, once their matrix instructions have completed; members at the latch trap (R248). -/
def dissolveDead (s : State) : State :=
  s.gangs.foldl (fun t g =>
    if gangDead t g then
      let t := (t.latches.filter fun l => l.launch = g.launch && l.crew = g.crew && l.members = g.members).foldl
        (fun u l => breakLatch u l 3) t
      if gangWork t g then t else settle (dissolve t g)
    else t) s

/-- The latch at which a warp's arrival with some members stands. -/
def latchFor (s : State) (w : Warp) (ms : List Nat) : Option Latch :=
  s.latches.find? fun l => l.launch = w.launch && l.crew = crewKey w && l.members = ms

/-- A joint instruction without its guard and hints, as the latch compares it (R246). -/
def jointKey (i : Instr) : Instr :=
  let z : Ctl := { gneg := false, gpred := 15, wmask := 0, wslot := 0, stall := 0, yld := false }
  match i with
  | .mma _ ta tb l sw d t b kb => .mma z ta tb l sw d t b kb
  | .mmsp _ ta tb l sw h d t b kb => .mmsp z ta tb l sw h d t b kb
  | .gangForm _ a => .gangForm z a
  | .gangDissolve _ => .gangDissolve z
  | i => i

/-- What an arrival comes to: a mismatch that broke the latch, waiting for members, or every member there. -/
inductive Arrived where
  | broken (s : State)
  | waits (s : State)
  | full (s : State) (l : Latch)

/-- The warp's arrival at the latch of some members with the scalar values that its instruction reads (R246). -/
def arrive (s : State) (i : Instr) (ms : List Nat) (scalars : List Word) : Arrived :=
  let w := s.warp
  let core := w.core
  let a : Arrival := { uid := w.uid, instr := i, scalars := scalars }
  match latchWith s w with
  | some l =>
    let same := l.members = ms && l.arrived.all fun x =>
      decide (jointKey x.instr = jointKey i) && decide (x.scalars = scalars)
    if !same then .broken (breakLatch s l 1)
    else
      let l1 := { l with arrived := if l.arrived.any fun x => x.uid = w.uid then l.arrived else l.arrived ++ [a] }
      let s := { s with latches := s.latches.map fun k => if k = l then l1 else k }
      if l1.arrived.length = ms.length then .full s l1 else .waits s
  | none =>
    let l1 : Latch := { core := core, launch := w.launch, crew := crewKey w, members := ms, arrived := [a] }
    let s := { s with latches := (s.latches.filter fun k =>
      !(k.launch = w.launch && k.crew = crewKey w && k.members = ms)) ++ [l1] }
    if ms.length = 1 then .full s l1 else .waits s

/-- Every other member at a latch moved past its instruction, its slot counted and its segment no longer replayable. -/
def releaseMembers (s : State) (l : Latch) (f : State → State) : State :=
  let me := s.warp.uid
  let s := { s with latches := s.latches.filter fun k => k ≠ l }
  l.arrived.foldl (fun t a =>
    if a.uid = me then t else
    let t := focus t a.uid
    if t.warp.uid ≠ a.uid then t else
    focus (match a.instr.ctl with | some c => advance (f t) c | none => t) me) s

/-- Nine cones charged to a gang, when the limit allows (R358). -/
def chargeCones (s : State) (g : Gang) : Option State :=
  if g.cones then some s
  else if s.conesUsed + 9 ≤ s.coneLimit then
    some { s with conesUsed := s.conesUsed + 9, gangs := s.gangs.map fun h => if h = g then { h with cones := true } else h }
  else none

/-- Whether the warp's launch has FLAGS.MX set (R59). -/
def launchMx (s : State) (w : Warp) : Bool := match launchOf s w.launch with | some l => l.image.mx | none => false

/-- A joint instruction that a member traps at before it arrives breaks the latch for the members waiting there (R246). -/
def jointTrap (s : State) (i : Instr) (code detail : Nat) : Step := .trapIn code detail (breakFor s i)

/-- A formed gang: its accumulators taken and cleared, its register in every member (R249); it counts as fired when the first of its members
was (R265).
Log 77 (DEDUCED). -/
def formGang (s : State) (x : Word) : State :=
  let w := s.warp
  let ms := gangMembers x
  let accs := (freeAccs s w.core).take (gangNz x)
  let mates := (residents s).filter fun x => x.launch = w.launch && crewKey x = crewKey w && ms.contains x.wid && !x.entries.isEmpty
  let at_ := mates.foldl (fun n x => min n x.firedAt) s.now
  let g : Gang := { core := w.core, launch := w.launch, crew := crewKey w, members := ms, accs := accs, cones := false, firedAt := at_ }
  let s := accs.foldl (fun t a => clearAcc t w.core a) s
  let s := setCrew s fun c => { c with gang := ms.foldl (fun m k => mset 0 m k x) c.gang }
  { s with gangs := s.gangs ++ [g] }

/-- The members at a latch that is full waiting from now on for an event (R249, R252, R335). -/
def waitAll (s : State) (l : Latch) (ev : DWord) : State :=
  l.arrived.foldl (fun t a => updWarp t a.uid fun w =>
    if w.wait = some ev then w else { w with wait := some ev, waitTag := 2, waitSince := t.now }) s

/-- GANG's own part on a nonzero operand: the rendezvous, then accumulators, then, with FLAGS.MX, cones (R246, R249, R263). -/
def gangFormBody (i : Instr) (x : Word) (s : State) : Step :=
  let w := s.warp
  let flag := match launchOf s w.launch with | some l => l.image.gang | none => 0
  if gangBad x w.wid flag (decide (gangReg s w ≠ 0)) then jointTrap s i 3 4
  else match arrive s i (gangMembers x) [x] with
    | .broken t => .trapIn 4 1 t
    | .waits t => .wait evReady none t
    | .full t l =>
      if (freeAccs t w.core).length < gangNz x then .wait evAcc none (waitAll t l evAcc)
      else
        let f := formGang t x
        if launchMx s w then
          match f.gangs.find? fun g => g.launch = w.launch && g.crew = crewKey w && g.members = gangMembers x with
          | some g => (match chargeCones f g with
            | some f => .done (noReplay (releaseMembers f l noReplay))
            | none => .wait evReady none t)
          | none => .wait evReady none t
        else .done (noReplay (releaseMembers f l noReplay))

/-- GANG 0: dissolved jointly once the gang's matrix instructions have completed; no effect without a gang (R248). -/
def gangZeroBody (i : Instr) (s : State) : Step :=
  match gangOf s s.warp with
  | none => .done s
  | some g =>
    match arrive s i g.members [0] with
    | .broken t => .trapIn 4 1 t
    | .waits t => .wait evReady none t
    | .full t l =>
      if gangWork t g then .wait evReady none t
      else .done (settle (dissolve (noReplay (releaseMembers t l noReplay)) g))

/-- GANG with a scalar operand (R248, R249, R268). -/
def execGangForm (c : Ctl) (a : Fin 256) (s : State) : Host.Outcome State Fault Refusal :=
  issue (.gangForm c a) c (fun s _ =>
    let x := rdS s a.val
    if x = 0 then gangZeroBody (.gangForm c a) s else gangFormBody (.gangForm c a) x s) s

/-- GANG with %zero (R248). -/
def execGangDissolve (c : Ctl) (s : State) : Host.Outcome State Fault Refusal :=
  issue (.gangDissolve c) c (fun s _ => gangZeroBody (.gangDissolve c) s) s

end Sys2Proof.Machine
end

