-- ==== Sys2Proof/Machine/Kiln.lean ====
section
/-! DEFINITION. The kiln (R337 to R339, R355 to R362): which saggars may fire, the choice among them, the placing of clusters, and
the firing of a warp. -/

namespace Sys2Proof.Machine

/-- Vector-register bytes of a core (ch. 1, R355). -/
def regFileBytes : Nat := 3 * 2 ^ 20

/-- Resident warps of a core. -/
def coreWarps (s : State) (core : Nat) : List Warp := (residents s).filter fun w => w.core = core && !w.entries.isEmpty

/-- Whether a core can take a warp of some registers (R342, R355). -/
def coreRoom (s : State) (core nreg : Nat) : Bool :=
  let ws := coreWarps s core
  decide (ws.length < 341) && decide ((ws.foldl (fun n w => n + 128 * w.nreg) 0) + 128 * nreg ≤ regFileBytes)

/-- The records of a saggar in arrival order. -/
def saggarRecs (s : State) (g : Saggar) : List Rec := g.rids.filterMap fun id => s.recs.find? fun r => r.rid = id

/-- The records that one firing takes, in arrival order up to 32 lanes, and those kept (R338).
Log 78 (DEDUCED). -/
def takeLanes : Nat → List Rec → List Rec × List Rec
  | _, [] => ([], [])
  | n, r :: t =>
    if n + recLanes r ≤ 32 then let x := takeLanes (n + recLanes r) t; (r :: x.1, x.2) else ([], r :: t)

/-- The gang that a GANG record belongs to. -/
def recGang (s : State) (r : Rec) : Option Gang :=
  if r.kind = .gang then s.gangs.find? fun g => g.launch = r.launch && some g.crew = r.crew && g.members.contains r.wid else none

/-- The gang of a saggar's record, when the gang is not resident (R247). -/
def coldGang (s : State) (g : Saggar) : Option Gang :=
  match saggarRecs s g with
  | r :: _ => (match recGang s r with | some k => if gangResident s k then none else some k | none => none)
  | [] => none

/-- The DUE saggar that holds the record of a member of a gang. -/
def memberSaggar (s : State) (k : Gang) (m : Nat) : Option Saggar :=
  s.saggars.find? fun g => decide (g.st = .due) && ((saggarRecs s g).any fun r =>
    decide (r.kind = .gang ∧ r.launch = k.launch ∧ r.crew = some k.crew ∧ r.wid = m))

/-- Whether a launch uses the matrix engine (R59). -/
def mxLaunch (s : State) (id : Nat) : Bool := match launchOf s id with | some l => l.image.mx | none => false

/-- Whether a saggar's firing must first be charged cones (R263). -/
def needCones (s : State) (g : Saggar) : Bool :=
  mxLaunch s g.launch && (match coldGang s g with | some k => !k.cones | none => false)

/-- The interface whose warps a saggar's firing runs for. -/
def sagVi (s : State) (g : Saggar) : Nat := match launchOf s g.launch with | some l => l.vi | none => 0

/-- A saggar's class and its effective class, aged at the arithmetic clock (R356). -/
def sagClass (s : State) (g : Saggar) : Nat := (saggarRecs s g).foldl (fun n r => max n r.cls) 0
/-- Effective class.
Log 73 (DEDUCED). -/
def effClass (s : State) (g : Saggar) : Nat := min 3 (sagClass s g + (s.now - g.dueSince) / 400000)

/-- Crew state of a crew-bound saggar. -/
def sagCrew (s : State) (g : Saggar) : Option Crew :=
  match g.trap, g.crew with
  | false, some c => crewAt s g.launch c
  | _, _ => none

/-- Whether a saggar is crew-bound and its cluster is not placed. -/
def unbound (s : State) (g : Saggar) : Bool := !g.trap && g.crew.isSome && (sagCrew s g).isNone

/-- Whether the kiln of a core may fire a saggar, stealing aside (R337, R351, R362).
Log 74 (DEDUCED), 164 (DEDUCED). -/
def mayFire (s : State) (core : Nat) (g : Saggar) : Bool :=
  if g.pin.isSome then decide (g.pin = some core)
  else if g.trap || g.crew.isNone then decide (g.core / 24 = core / 24) else unbound s g || decide (g.core = core)

/-- The heavy crews that a core may hold (R360). -/
def heavyLimit (s : State) : Option Nat :=
  match s.ctrls.foldl (fun n c => max n c.level) 0 with
  | 0 => none
  | 1 => some 4
  | _ => some 1

/-- Heavy crews of a core. -/
def heavyCrews (s : State) (core : Nat) : Nat :=
  (((coreWarps s core).filter (·.heavy)).map fun w => (w.launch, crewKey w)).dedup.length

/-! Placing clusters (R362). -/

/-- Physical tiles of a core that no crew holds. -/
def freeTiles (s : State) (core : Nat) : List Nat :=
  (List.range 128).filter fun p => let t := tileAt s core p; t.crew.isNone && !t.hold

/-- Crew-bound crews that hold a barrier set of a core, which each does for its life, saved or not (R362). -/
def barSets (s : State) (core : Nat) : Nat := (s.crews.filter fun c => c.core = core && decide (c.crew < 2 ^ 32)).length

/-- The cores on which a kiln may place a cluster, its own first.
Log 75 (DEDUCED). -/
def placeCores (core : Nat) (far : Bool) : List Nat :=
  let q := core / 24
  let own := core :: ((List.range 24).map (24 * q + ·)).filter (· ≠ core)
  if far then own ++ (List.range 96).filter fun c => decide (c / 24 ≠ q) else own

/-- A core for each of n crews: tiles and barrier sets are taken as crews are placed.
Log 75 (DEDUCED). -/
def placeCrews (s : State) (tiles : Nat) (cores : List Nat) : Nat → List Nat → Option (List Nat)
  | 0, acc => some acc
  | n + 1, acc =>
    let used := fun (c : Nat) => (acc.filter (· = c)).length
    match cores.find? fun c => decide (tiles * (used c + 1) ≤ (freeTiles s c).length) && decide (barSets s c + used c < 64) with
    | none => none
    | some c => placeCrews s tiles cores n (acc ++ [c])

/-- The placement of the cluster of an unbound saggar by a kiln (R362).
Log 75 (DEDUCED). -/
def bindPlan (s : State) (core : Nat) (g : Saggar) : Option (List Nat) :=
  match launchOf s g.launch with
  | none => none
  | some l => placeCrews s l.image.tiles (placeCores core l.far) l.cpc []

/-- A crew placed on a core: its tiles taken, zeroed if another interface's crew held them last, and its slots loaded (R127, R184,
R328). -/
def placeCrew (s : State) (l : Launch) (crew core : Nat) : State :=
  let ts := (freeTiles s core).take l.image.tiles
  let s := ts.foldl (fun t p =>
    let last := (tileAt t core p).lastVi
    let t := if last.isSome ∧ last ≠ some l.vi then
      { t with pad := mdrop t.pad (core * 2 ^ 21 + p * 16384) (core * 2 ^ 21 + (p + 1) * 16384) } else t
    setTile t core p fun x => { Tile.reset with crew := some (l.id, crew), lastVi := x.lastVi }) s
  let c : Crew :=
    { launch := l.id, crew := crew, core := core, cluster := crew / l.cpc, tiles := ts, brec := l.image.brecs,
      lrec := l.image.lrecs, tags := [], next := [], ages := 0, gang := [], bars := [], mfence := [], staged := false, vi := l.vi,
      image := 0, saved := false, moving := none, savedTiles := [], savedAccs := [] }
  { s with crews := s.crews ++ [c], saggars := s.saggars.map fun g =>
      if g.launch = l.id ∧ g.crew = some crew ∧ g.trap = false then { g with core := core } else g }

/-- The cluster of a saggar bound, with its crews' tile regions sent to the stage engine (R171, R362). -/
def bindCluster (s : State) (core : Nat) (g : Saggar) : State :=
  match launchOf s g.launch, g.crew, bindPlan s core g with
  | some l, some c, some cores =>
    let first := c / l.cpc * l.cpc
    let s := (List.range l.cpc).foldl (fun t i => placeCrew t l (first + i) (cores.getD i core)) s
    let k : Cluster := { launch := l.id, idx := c / l.cpc, bars := [] }
    let s : State := { s with clusters := s.clusters ++ [k] }
    s.saggars.foldl (fun t h => if h.launch = l.id ∧ !h.trap then attachTiles t h else t) s
  | _, _, _ => s

/-! Candidates and the choice. -/

/-- Whether staging holds a saggar: a region of it is not resident and none has failed (R171). -/
def stagingHeld (g : Saggar) : Bool := decide (g.staging ≠ 0) && g.fail.isNone

/-- Whether a DUE saggar is held (R355), or its records may not be fired. -/
def held (s : State) (core : Nat) (g : Saggar) : Bool :=
  let rs := saggarRecs s g
  let nreg := match rs with | r :: _ => r.nreg | [] => 0
  let handler := match launchOf s ((viOf s (sagVi s g)).handler.getD (2 ^ 40)) with
    | some h => firable s h.id h.vi
    | none => false
  let gang := match coldGang s g with
    | some k => !(k.members.all fun m => (memberSaggar s k m).isSome)
    | none => false
  let crew := match sagCrew s g with
    | some c => c.saved || c.moving.isSome
        || decide (32 ≤ ((residents s).filter fun w => w.launch = g.launch && w.crew = g.crew && !w.entries.isEmpty).length)
    | none => false
  let heavy := decide (262144 < g.stagedLen) && (match heavyLimit s with
    | some n => decide (n ≤ heavyCrews s core)
    | none => false)
  stagingHeld g || (unbound s g && (bindPlan s core g).isNone)
    || (needCones s g && decide (s.coneLimit < s.conesUsed + 9)) || gang || crew || heavy
    || !firable s g.launch (sagVi s g) || (g.trap && !handler) || !coreRoom s core nreg

/-- The DUE saggars that a kiln may choose from; with none of its own it steals a crew-free one (R337, R355). -/
def candidates (s : State) (core : Nat) : List Saggar :=
  let due := s.saggars.filter fun g => decide (g.st = .due)
  let own := due.filter fun g => mayFire s core g && !held s core g
  let from_ := fun (q : Nat) => due.filter fun g =>
    (g.trap || g.crew.isNone) && g.pin.isNone && decide (g.core / 24 = q) && !held s core g
  if !own.isEmpty then own
  else
    let a := from_ (core / 24 ^^^ 1)
    if !a.isEmpty then a else from_ (core / 24 ^^^ 2)

/-- Whether a saggar may need the matrix engine's power (R359). -/
def matrixWork (s : State) (g : Saggar) : Bool := mxLaunch s g.launch || (coldGang s g).isSome

/-- Cones that an interface's gangs hold. -/
def viCones (s : State) (vi : Nat) : Nat :=
  9 * (s.gangs.filter fun k => k.cones && (match launchOf s k.launch with | some l => l.vi = vi | none => false)).length

/-- The gangs that wait to be charged cones.
Log 77 (DEDUCED). -/
def coneWaiters (s : State) : List Saggar := s.saggars.filter fun g => decide (g.st = .due) && needCones s g

/-- Whether the members at a full latch wait for cones: a GANG of an .mx launch that can take its accumulators, or the first matrix
instruction of a gang that holds none (R263).
Log 77 (DEDUCED). -/
def latchHungry (s : State) (l : Latch) : Bool :=
  decide (l.arrived.length = l.members.length) && (match l.arrived with
    | a :: _ => (match a.instr with
      | .gangForm .. => mxLaunch s l.launch && decide (gangNz (a.scalars.headD 0) ≤ (freeAccs s l.core).length)
      | .mma .. | .mmsp .. => s.gangs.any fun k => k.launch = l.launch && k.crew = l.crew && k.members = l.members && !k.cones
      | _ => false)
    | [] => false)

/-- The interfaces of launches whose latches wait for cones. -/
def hungryVis (s : State) : List Nat := (s.latches.filter (latchHungry s)).filterMap fun l => (launchOf s l.launch).map (·.vi)

/-- An interface's share of the cones (R359).
Log 77 (DEDUCED). -/
def coneShare (s : State) (vi : Nat) : Nat :=
  let vis := ((s.gangs.filter (·.cones)).filterMap (fun k => (launchOf s k.launch).map (·.vi))
    ++ (coneWaiters s).map (sagVi s) ++ hungryVis s).dedup
  let total := vis.foldl (fun n v => n + (viOf s v).cw) 0
  if total = 0 then 0 else s.coneLimit * (viOf s vi).cw / total

/-- The candidates left once shortage of cones is considered: one that waits for cones comes after any without matrix work, and one of an
interface at its share after any of an interface below its own (R359).
Log 77 (DEDUCED). -/
def coneOrder (s : State) (l : List Saggar) : List Saggar :=
  let n := ((coneWaiters s).filterMap (coldGang s)).dedup.length + (hungryVis s).length
  if n = 0 ∨ s.conesUsed + 9 * n ≤ s.coneLimit then l
  else
    let l := if l.any fun g => !matrixWork s g then l.filter fun g => !needCones s g else l
    let below := fun (g : Saggar) => decide (viCones s (sagVi s g) < coneShare s (sagVi s g))
    if l.any fun g => needCones s g && below g then l.filter fun g => !needCones s g || below g else l

/-- Whether one saggar is taken before another of its interface (R356). -/
def olderSag (a b : Saggar) : Bool :=
  decide (a.dueSince < b.dueSince ∨ (a.dueSince = b.dueSince ∧ (a.code < b.code ∨ (a.code = b.code ∧ a.launch < b.launch))))

/-- The oldest of some saggars. -/
def oldest (l : List Saggar) : Option Saggar :=
  l.foldl (fun b g => match b with | none => some g | some h => if olderSag g h then some g else some h) none

/-- The lanes of a saggar's next firing, helper lanes included.
Log 10 (DEDUCED), 78 (DEDUCED). -/
def fireLanes (s : State) (g : Saggar) : Nat :=
  let n := (takeLanes 0 (saggarRecs s g)).1.foldl (fun n r => n + recLanes r) 0
  (n + 3) / 4 * 4

/-- The interface that deficit round robin selects among those of a list in ascending order, with the counters after the firing; has tells
which interfaces have a candidate of any class (R361). A kiln's entry 255 is the interface that its round is visiting, plus one.
Log 76 (DEDUCED). -/
def drrPick (s : State) (core : Nat) (has : Nat → Bool) (vis : List Nat) (lanes : Nat → Nat) : Option Nat × SMap Nat :=
  let d := (List.range 64).foldl (fun m v => if has v then m else mset 0 m (core * 256 + v) 0) s.deficits
  let cur := mget 0 d (core * 256 + 255)
  let pay := fun (m : SMap Nat) (v : Nat) =>
    mset 0 (mset 0 m (core * 256 + v) (mget 0 m (core * 256 + v) - lanes v)) (core * 256 + 255) (v + 1)
  if cur ≠ 0 ∧ vis.contains (cur - 1) ∧ lanes (cur - 1) ≤ mget 0 d (core * 256 + (cur - 1)) then (some (cur - 1), pay d (cur - 1))
  else
    match (vis.find? fun v => decide (cur ≤ v)).orElse fun _ => vis.head? with
    | none => (none, d)
    | some v =>
      let d := mset 0 d (core * 256 + v) (mget 0 d (core * 256 + v) + 32 * (viOf s v).wt)
      (some v, pay d v)

/-- The saggar that a kiln chooses, and its counters afterwards (R356). -/
def choose (s : State) (core : Nat) : Option Saggar × SMap Nat :=
  let all := candidates s core
  let has := fun (v : Nat) => all.any fun g => decide (sagVi s g = v)
  let l := coneOrder s all
  let top := l.foldl (fun n g => max n (effClass s g)) 0
  let l := l.filter fun g => decide (effClass s g = top)
  let of := fun (v : Nat) => oldest (l.filter fun g => decide (sagVi s g = v))
  let vis := (List.range 64).filter fun v => (of v).isSome
  let p := drrPick s core has vis fun v => match of v with | some g => fireLanes s g | none => 0
  (match p.1 with | some v => of v | none => none, p.2)

/-! Firing (R339, R374). -/

/-- The record and position that each lane of a firing holds, one lane for a TRAP record; whole records keep their positions, and helper
lanes copy the lowest lane of their quad (R339, R374). -/
def seats (rs : List Rec) : List (Rec × Nat) × Nat :=
  let l := rs.flatMap fun r => ((lanesOf r.mask).take (recLanes r)).map fun p => (r, p)
  let n := l.length
  let pad := (List.range ((n + 3) / 4 * 4 - n)).filterMap fun _ => l[n / 4 * 4]?
  (l ++ pad, n)

/-- The lanes of the first n positions. -/
def lowMask (n : Nat) : Mask := BitVec.ofNat 32 (2 ^ n - 1)

/-- What a handler's lane starts with (R374). -/
def handlerRegs (l : List (Rec × Nat)) : SMap Word :=
  (List.range 4).foldl (fun m q => (List.range l.length).foldl (fun m k =>
    match l[k]? with
    | none => m
    | some (r, _) =>
      let x : Word := match q with
        | 0 => BitVec.ofNat 32 r.addr
        | 1 => BitVec.ofNat 32 (r.addr / 2 ^ 32)
        | 2 => r.tinfo
        | _ => BitVec.ofNat 32 r.launch
      mset 0 m (q * 32 + k) x) m) []

/-- The registers of a firing's lanes from their records.
Log 10 (DEDUCED). -/
def seatRegs (l : List (Rec × Nat)) : SMap Word :=
  (List.range l.length).foldl (fun m k => match l[k]? with
    | none => m
    | some (r, p) => (r.v.filter fun e => decide (e.1 % 32 = p)).foldl (fun m e => mset 0 m (e.1 / 32 * 32 + k) e.2) m) []

/-- The predicates of a firing's lanes.
Log 10 (DEDUCED). -/
def seatPreds (l : List (Rec × Nat)) : SMap Word :=
  (List.range 15).foldl (fun m q => mset 0 m q (maskOf fun k => match l[k]? with
    | some (r, p) => (mget 0 r.p q).getLsbD p
    | none => false)) []

/-- A per-lane map from the lanes' records. -/
def seatMap {α : Type} [DecidableEq α] (d : α) (l : List (Rec × Nat)) (f : Rec → Nat → α) : SMap α :=
  (List.range l.length).foldl (fun m k => match l[k]? with | some (r, p) => mset d m k (f r p) | none => m) []

/-- The warp number of a firing: its first record's, or, but for a GANG record, the lowest that no resident warp of the crew holds where
that one is taken (R247, R328, R329).
Log 163 (DEDUCED). -/
def pickWid (s : State) (launch : Nat) (crew : Option Nat) (gang : Bool) (want : Nat) : Nat :=
  match crew with
  | none => 0
  | some _ =>
    if gang then want else
    let used := ((residents s).filter fun w => w.launch = launch && w.crew = crew && !w.entries.isEmpty).map (·.wid)
    if used.contains want then ((List.range 32).find? fun n => !used.contains n).getD want else want

/-- A warp made resident: at issue if that place is empty. -/
def seatWarp (s : State) (w : Warp) : State := if s.warp.entries = [] then { s with warp := w } else { s with bench := s.bench ++ [w] }

/-- The crew of a crew-free firing (R328).
Log 79 (DEDUCED). -/
def freeCrew (s : State) (l : Launch) (key core : Nat) : State :=
  let c : Crew :=
    { launch := l.id, crew := key, core := core, cluster := 0, tiles := [], brec := l.image.brecs, lrec := l.image.lrecs,
      tags := [], next := [], ages := 0, gang := [], bars := [], mfence := [], staged := true, vi := l.vi, image := 0, saved := false,
      moving := none, savedTiles := [], savedAccs := [] }
  { s with crews := s.crews ++ [c] }

/-- Records fired as one warp of a launch: of their own, or of the handler's for TRAP records. -/
def fireRecs (s : State) (core : Nat) (l : Launch) (rs : List Rec) (handler heavy : Bool) : State :=
  match rs with
  | [] => s
  | r0 :: _ =>
    let x := seats rs
    let whole := decide (rs.length = 1 ∧ (r0.kind = .gang ∨ laneCount r0.mask = 32)) && !handler
    let lanes := x.1
    let lanes := if whole then (List.range 32).map fun p => (r0, p) else lanes
    let mask := if whole then r0.mask else lowMask lanes.length
    let uid := s.fresh
    let crew := if handler then none else r0.crew
    let w : Warp :=
      { uid := uid, core := core, launch := l.id, crew := crew, wid := pickWid s l.id crew (decide (r0.kind = .gang)) r0.wid, vi := l.vi, asid := l.asid,
        entries := [{ ip := if handler then l.image.entry else r0.code, mask := mask, prio := if handler then 0 else r0.prio }],
        helpers := if whole then 0 else mask &&& ~~~lowMask x.2, exited := 0,
        v := if handler then handlerRegs lanes else seatRegs lanes, sr := if handler then [] else r0.sr,
        p := if handler then [] else seatPreds lanes,
        tid := if handler then [] else seatMap 0 lanes fun r p => mget 0 r.tid p,
        join := if handler then [] else seatMap 0 lanes fun r _ => r.join,
        frame := if handler then 0 else r0.frame, nreg := if handler then l.image.nreg else r0.nreg,
        cls := if handler then l.image.cls else r0.cls, priv := if handler || decide (l.mode = .handler) then 1 else 0, chk := l.chk,
        gang := decide (r0.kind = .gang), waitwin := l.image.waitwin, nextAt := s.now, waitSince := 0, waitTag := 0,
        latchAt := if handler then none else r0.latchAt, hold := none, firedAt := s.now,
        markedAt := 0, got := [], walked := (rs.flatMap (·.walked)).dedup, slots := [0, 0, 0, 0, 0, 0, 0], due := [],
        late := [], sb := [], held := [], nonReplay := false, marked := false, victim := false, wait := none, resume := none,
        retire := false, kept := rs.map (·.rid), runs := rs.foldl (fun n r => max n r.runs) 0, heavy := heavy }
    let ids := rs.map (·.rid)
    let s := { s with
      fresh := s.fresh + 1
      mirrors := if handler then s.mirrors else s.mirrors.map fun m =>
        if m.pkg = s.pkg ∧ ids.contains m.record.rid then { m with taken := some uid } else m
      recs := s.recs.map fun r => if ids.contains r.rid then { r with place := if handler then .handled else .kept uid } else r }
    let s := if handler then s
      else rs.foldl (fun t r => uncharge t r.launch (recSize (laneCount r.mask) r.regs.length)) s
    let s := if crew.isNone then freeCrew s l (2 ^ 32 + uid) core else s
    seatWarp s w

/-- A saggar without the records that have been fired: gone, or gathering what was kept with its timer restarted (R338). Its regions are
done with, those still on their way included (R171). -/
def afterFire (s : State) (sid : Nat) (kept : List Rec) : State :=
  let s : State := { s with stageOps := s.stageOps.map fun o => if o.what = .saggar sid then { o with what := .saggar 0 } else o }
  if kept.isEmpty then { s with saggars := s.saggars.filter fun g => g.sid ≠ sid }
  else
    let full := decide (32 ≤ kept.foldl (fun n r => n + recLanes r) 0)
    { s with saggars := s.saggars.map fun g =>
      if g.sid = sid then
        { g with rids := kept.map (·.rid), st := if full then .due else .gather, since := s.now, dueSince := s.now, staging := 0,
                 fail := none, stagedLen := 0 }
      else g }

/-- Whether a record's CR.LIVEMAP names an entry of its launch's table: 0 is no map, and from 0xFF00 on it counts the registers that
arguments give (R60, R331). -/
def namesEntry (r : Rec) : Bool := decide (r.livemap.toNat ≠ 0 ∧ r.livemap.toNat < 0xFF00)

/-- The VA of the live-map entry that a record names (R60). -/
def entryVa (l : Launch) (r : Rec) : Nat := l.image.livetab + 8 + 200 * (r.livemap.toNat - 1)

/-- What reading the live-map entry that a record names comes to: fine, a page to request, or a fault (R416).
Log 147 (DEDUCED). -/
def liveCheck (s : State) (l : Launch) (r : Rec) : RangeTr :=
  if namesEntry r then checkRange s (liveSpace l) (entryVa l r) 200 false else .ok

/-- The vector registers that a record's payload holds as the kiln reads it at a firing: those of the table's entry as it now stands (R61).
Log 147 (DEDUCED). -/
def liveRegs (s : State) (l : Launch) (r : Rec) : List Nat :=
  if !namesEntry r then r.regs
  else match readVa s (liveSpace l) (entryVa l r + 8) 192 with
    | none => r.regs
    | some bs => (List.range r.nreg).filter fun k => (bs.getD (k / 8) 0).getLsbD (k % 8)

/-- A record as it is restored: under the entry that its CR.LIVEMAP names, read again at the firing (R61). Where the entry names other
registers than it did, the payload is taken as it then lies, and what lies past it is free.
Log 147 (DEDUCED). -/
def restored (s : State) (l : Launch) (r : Rec) : Rec :=
  let regs := liveRegs s l r
  if regs = r.regs then r
  else
    let past := (List.range (recSize (laneCount r.mask) regs.length)).map fun i => (Config.freeWord s.free i).extractLsb' 0 8
    { payloadFrom (recBytes r ++ past) regs r with regs := regs }

/-- A record whose live-map entry cannot be read is not fired: it is parked on the entry's page alone, or its launch is suspended (R416). -/
def liveFail (s : State) (l : Launch) (g : Saggar) (r : Rec) : Option State :=
  match liveCheck s l r with
  | .ok => none
  | .nores va psz =>
    let ev := evPage l.asid (va / 65536 / pszUnits psz * pszUnits psz)
    let s := askPage s l.vi l.asid va psz false
    let s := { s with recs := s.recs.map fun q =>
      if q.rid = r.rid then { q with place := .parked, event := ev, pages := [], pgrq := [], since := s.now } else q }
    some (afterFire s g.sid ((saggarRecs s g).filter fun q => q.rid ≠ r.rid))
  | .status _ => some (report (suspend s l.id) l.vi 13 l.id l.asid (entryVa l r) r.livemap.toNat)

/-- The uid of a warp just made resident, brought to trap there: a saggar whose staging failed fires as a TRAP segment (R171). -/
def failFired (s : State) (uid : Nat) (fail : Option Byte) : State :=
  match fail with
  | none => s
  | some f =>
    let me := s.warp.uid
    let t := focus s uid
    if t.warp.uid = uid then focus (takeTrap t 0xD f.toNat none (curIp t.warp)) me else s

/-- One saggar fired on a core. -/
def fireSaggar (s : State) (core : Nat) (g : Saggar) : State :=
  let x := takeLanes 0 (saggarRecs s g)
  if g.trap then
    match launchOf s ((viOf s (sagVi s g)).handler.getD (2 ^ 40)) with
    | some h => fireRecs (afterFire s g.sid x.2) core h x.1 true false
    | none => s
  else
    match launchOf s g.launch with
    | none => s
    | some l =>
      match x.1.findSome? (liveFail s l g) with
      | some t => t
      | none =>
        let uid := s.fresh
        let rs := x.1.map (restored s l)
        let s := { s with free := s.free + 1 }
        failFired (fireRecs (afterFire s g.sid x.2) core l rs false (decide (262144 < g.stagedLen))) uid g.fail

/-- Every member of a gang that is not resident fired together, with the gang's cones (R247, R263).
Log 163 (DEDUCED). -/
def fireGang (s : State) (core : Nat) (k : Gang) : State :=
  let s := if mxLaunch s k.launch then (chargeCones s k).getD s else s
  let s := { s with gangs := s.gangs.map fun h =>
    if h.launch = k.launch ∧ h.crew = k.crew ∧ h.members = k.members then { h with firedAt := s.now } else h }
  k.members.foldl (fun t m => match memberSaggar t k m with
    | some g => fireSaggar t core g
    | none => t) s

/-- Warps of a gang told to give its cones up (R265). -/
def makeVictim (s : State) (k : Gang) : State :=
  let mark := fun (w : Warp) =>
    if w.launch = k.launch ∧ crewKey w = k.crew ∧ k.members.contains w.wid ∧ w.entries ≠ [] then
      { w with victim := true, markedAt := if w.victim ∨ w.marked then w.markedAt else s.now } else w
  { s with warp := mark s.warp, bench := s.bench.map mark }

/-- The class of a resident gang. -/
def gangClass (s : State) (k : Gang) : Nat :=
  (residents s).foldl (fun n w => if w.launch = k.launch ∧ crewKey w = k.crew ∧ k.members.contains w.wid then max n w.cls else n) 0

/-- The class of the members at a latch. -/
def latchClass (s : State) (l : Latch) : Nat :=
  (residents s).foldl (fun n w => if l.arrived.any fun a => a.uid = w.uid then max n w.cls else n) 0

/-- Whether a saggar is a ready gang's, or a ready one of an .mx launch, whose gang holds no cones (R265).
Log 77 (DEDUCED). -/
def sagHungry (s : State) (g : Saggar) : Bool :=
  decide (g.st = .due) && !g.trap && mxLaunch s g.launch && (match coldGang s g with
    | some k => !k.cones && k.members.all fun m => (memberSaggar s k m).isSome
    | none => (saggarRecs s g).all fun r => (recGang s r).isNone)

/-- The resident gang of a core that gives its cones up for one of higher class that cannot be charged: the lowest class, and the one fired
earliest among equals (R265).
Log 77 (DEDUCED). -/
def victimFor (s : State) (core : Nat) : Option Gang :=
  let sags := s.saggars.filter fun g => decide (g.core = core) && sagHungry s g
  let latches := s.latches.filter fun l => decide (l.core = core) && latchHungry s l
  let short := decide (s.coneLimit < s.conesUsed + 9) && !(sags.isEmpty && latches.isEmpty)
  let cls := latches.foldl (fun n l => max n (latchClass s l)) (sags.foldl (fun n g => max n (effClass s g)) 0)
  let l := s.gangs.filter fun k => k.core = core && k.cones && gangResident s k && decide (gangClass s k < cls)
  if !short then none
  else l.foldl (fun b k => match b with
    | none => some k
    | some h => if gangClass s k < gangClass s h ∨ (gangClass s k = gangClass s h ∧ k.firedAt < h.firedAt) then some k
        else some h) none

/-- One decision of a core's kiln (R356). -/
def execKilnFire (core : Nat) (s : State) : Host.Outcome State Fault Refusal :=
  let s := match victimFor s core with | some k => makeVictim s k | none => s
  let p := choose s core
  let s := { s with deficits := p.2 }
  match p.1 with
  | none => .next s
  | some g =>
    let s := if unbound s g then bindCluster s core g else s
    match s.saggars.find? fun h => h.sid = g.sid with
    | none => .next s
    | some g =>
      if stagingHeld g ∨ ((sagCrew s g).isSome ∧ g.core ≠ core) then .next s
      else match coldGang s g with
        | some k => .next (fireGang s core k)
        | none => .next (fireSaggar s core g)

end Sys2Proof.Machine
end

