-- ==== Sys2Proof/Machine/Matrix.lean ====
section
/-! DEFINITION. The matrix engine (R250 to R267): panels and fragments, the sum of a step (R256), MMA, MMSP, MZRO, MRDA, MWRA and
MFNC, and the engine's own events. -/

namespace Sys2Proof.Machine

/-! Panels, fragments and the sum. -/

/-- The TSWZ code (R129, R257). -/
def tswzCode : Tswz → Nat
  | .sw0 => 0
  | .sw1 => 1
  | .sw2 => 2

/-- Whether an A type is an 8-bit float (R250). -/
def isK8 (t : Fmt) : Bool := decide (t = .k8e4 ∨ t = .k8e5)

/-- KS: stored columns of one step (R250). -/
def mxKs (ta : Fmt) : Nat := if isK8 ta then 32 else 8

/-- The byte offset of stored value i of row m in block kb (R148, R250, R255). -/
def aOffset (x : MxStep) (m i : Nat) : Nat :=
  let ks := mxKs x.ta
  let es := if isK8 x.ta then 1 else 2
  let rpl := if isK8 x.ta then 2 else 4
  if x.hdr then 128 * (x.kb * 128 / rpl + m / rpl) + 16 + m % rpl * ks * es + i * es
  else bswz (tswzCode x.tswz) (m * (ks * 2 ^ x.logc) * es + (ks * x.kb + i) * es)

/-- n bytes of the A tile from an offset, as a number. -/
def aNat (x : MxStep) (o n : Nat) : Nat := natOfBytes ((x.aData.drop o).take n)

/-- The scale of row m (R148, R255); 1 for 16-bit types. -/
def aScale (x : MxStep) (m : Nat) : Num :=
  if isK8 x.ta then
    s8Num (aNat x (if x.hdr then 8192 + m else bswz (tswzCode x.tswz) (4096 * 2 ^ x.logc + m * 2 ^ x.logc + x.kb)) 1)
  else .fin false 1 1

/-- The seed of a seed panel (R254). -/
def aSeed (x : MxStep) : Nat :=
  let hoff := (if isK8 x.ta then 4224 else 2048) * 2 ^ x.logc
  (List.range 4).foldl (fun n b => n + aNat x (bswz (tswzCode x.tswz) (hoff + b)) 1 * 256 ^ b) 0

/-- The pattern of a group (R254). -/
def seedPattern (seed m kb g : Nat) : Nat :=
  let x := seed ^^^ (m * 0x9E3779B9 % 2 ^ 32) ^^^ ((16 * kb + g) * 0x85EBCA6B % 2 ^ 32)
  let x := x ^^^ (x / 2 ^ 16)
  let x := x * 0x7FEB352D % 2 ^ 32
  let x := x ^^^ (x / 2 ^ 15)
  x % 6

/-- The positions of stored values 2g and 2g + 1 that a pattern gives (R254). -/
def patternPos (c odd : Nat) : Nat :=
  ([(0, 1), (0, 2), (0, 3), (1, 2), (1, 3), (2, 3)].map fun p => if odd = 0 then p.1 else p.2).getD c 0

/-- The logical row of stored value i of row m (R253 to R255). -/
def logicalRow (x : MxStep) (m i : Nat) : Nat :=
  if !x.sparse then i
  else if x.hdr then
    let rpl := if isK8 x.ta then 2 else 4
    let j := m % rpl * mxKs x.ta + i
    let h := aNat x (128 * (x.kb * 128 / rpl + m / rpl)) 16
    4 * (i / 2) + bitsOf h (2 * j + 1) (2 * j)
  else 4 * (i / 2) + patternPos (seedPattern (aSeed x) m x.kb (i / 2)) (i % 2)

/-- Row m of the A operand: its stored values with their logical rows. -/
def aRow (x : MxStep) (m : Nat) : List (Nat × Num) :=
  (List.range (mxKs x.ta)).map fun i =>
    (logicalRow x m i, elemNum x.ta (aNat x (aOffset x m i) (if isK8 x.ta then 1 else 2)))

/-- Register r of the B fragment of a rank in a lane. -/
def bReg (x : MxStep) (rank r lane : Nat) : Nat := (mget 0 (x.frags.getD rank []) (r * 32 + lane)).toNat

/-- Column n of the B operand: its elements, and the scale of each block (R251). An infinite group scale is multiplied into the
elements, as R141 reads them. -/
def bCol (x : MxStep) (n : Nat) : List Num × List Num :=
  let groups := if x.members.length = 4 then 1 else 2
  let rank := n / 32 / groups
  let base := n / 32 % groups * mmaNG x.sparse x.tb
  let lane := n % 32
  let k := mxKs x.ta * (if x.sparse then 2 else 1)
  let small := decide (x.tb ≠ .bf16 ∧ x.tb ≠ .f16)
  let code := fun (i : Nat) =>
    if small then bitsOf (bReg x rank (base + i / 4) lane) (8 * (i % 4) + 7) (8 * (i % 4))
    else bitsOf (bReg x rank (base + i / 2) lane) (16 * (i % 2) + 15) (16 * (i % 2))
  let vals := (List.range k).map fun i => elemNum x.tb (code i)
  let sc := bReg x rank (base + mmaNG x.sparse x.tb - 1) lane
  let scales := (List.range (max 1 (k / 32))).map fun j =>
    if !small then Num.fin false 1 1
    else if x.tb = .w8 then numOf fbf16 (bitsOf sc (16 * j + 15) (16 * j))
    else s8Num (bitsOf sc (8 * j + 7) (8 * j))
  let isInf := fun (s : Num) => match s with | .inf _ => true | _ => false
  ((List.range k).map fun i =>
      let s := scales.getD (i / 32) (.fin false 1 1)
      let v := vals.getD i .nan
      if isInf s then v.mul s else v,
   scales.map fun s => if isInf s then .fin false 1 1 else s)

/-- The new value of an element (R256). -/
def mxElem (row : List (Nat × Num)) (sa : Num) (col : List Num × List Num) (old : Nat) : Nat :=
  if sa.isNan || (row.any fun r => r.2.isNan) || (col.1.any Num.isNan) || (col.2.any Num.isNan) then canonNan fp32
  else
    let terms := (List.range col.2.length).map fun j =>
      let ps := (row.filter fun r => decide (r.1 / 32 = j)).map fun r => r.2.mul (col.1.getD r.1 .nan)
      (sa.mul (col.2.getD j .nan)).mul (sumNum .rne ps)
    msum (terms ++ [numOf fp32 old])

/-- n elements of an accumulator from key lo replaced; +0 is not listed. -/
def putAccs (m : SMap Word) (lo : Nat) (l : List Word) : SMap Word :=
  (m.filter fun e => decide (e.1 < lo))
    ++ ((List.range l.length).map fun i => (lo + i, l.getD i 0)).filter (fun e => decide (e.2 ≠ 0))
    ++ m.filter fun e => decide (lo + l.length ≤ e.1)

/-- The accumulator of a step with the step applied to the elements that have not taken it (R256, R261). -/
def applyStep (s : State) (x : MxStep) : State :=
  let cols := (List.range 128).map (bCol x)
  let l := (List.range 128).flatMap fun m =>
    let row := aRow x m
    let sa := aScale x m
    (List.range 128).map fun n =>
      let old := mget 0 s.accs (accKey x.core x.acc m n)
      if x.done.contains (m * 128 + n) then old else BitVec.ofNat 32 (mxElem row sa (cols.getD n ([], [])) old.toNat)
  { s with accs := putAccs s.accs (accKey x.core x.acc 0 0) l }

/-! Fences. -/

/-- Whether an outstanding operation is an MFNC. -/
def MxOp.isFence (o : MxOp) : Bool := match o.instr with | .mfnc _ => true | _ => false

/-- Whether a matrix instruction of a gang has not completed that an MFNC of a warp number covers: the steps whose rendezvous completed
before it, the warp's own instructions, and those of another member behind a crew barrier that completed before it (R262).
Log 89 (DEDUCED). -/
def covered (s : State) (g : Gang) (wid fence : Nat) : Bool :=
  (s.mxQueue.any fun m => m.launch = g.launch && m.crew = g.crew && m.members = g.members && decide (m.seq < fence))
    || (s.mxOps.any fun m => m.launch = g.launch && m.crew = g.crew && m.members = g.members && decide (m.seq < fence) && !m.isFence
          && (decide (m.wid = wid) || (match m.barAt with | some b => decide (b ≤ fence) | none => false)))

/-- Whether the warp's last MFNC still holds its matrix instructions (R262).
Log 89 (DEDUCED). -/
def fenced (s : State) (g : Gang) : Bool :=
  covered s g s.warp.wid (match crewOf s with | some c => mget 0 c.mfence s.warp.wid | none => 0)

/-- MFNCs whose covered instructions have completed release their slots (R262).
Log 89 (DEDUCED). -/
def releaseFences (s : State) : State :=
  s.mxOps.foldl (fun t m => match m.instr with
    | .mfnc _ =>
      let g : Gang := { core := m.core, launch := m.launch, crew := m.crew, members := m.members, accs := [], cones := false, firedAt := 0 }
      if covered t g m.wid m.seq then t else slotDown { t with mxOps := t.mxOps.filter fun o => o ≠ m } m.uid m.slot
    | _ => t) s

/-- What follows the completion of a matrix instruction of a crew, which may end for it (R184, R248). -/
def matrixDone (launch crew : Nat) (s : State) : State :=
  settle (launchEndIf (crewEndIf (dissolveDead (releaseFences s)) launch crew) launch)

/-! Unordered pairs (R261). -/

/-- The accumulator elements that an instruction of one warp touches, row by row (R260). -/
def MxOp.elems (o : MxOp) : List Nat :=
  match o.instr with
  | .mzro .. => List.range 16384
  | .mrda _ _ _ n _ _ _ => (List.range (n.n * 128)).map (o.row * 128 + ·)
  | .mwra _ _ _ n _ _ _ => (List.range (n.n * 128)).map (o.row * 128 + ·)
  | _ => []

/-- The elements among some that take an instruction ahead of one that it is not ordered with: an open choice (R261).
Log 88 (DEDUCED). -/
def earlyOf (s : State) (els done : List Nat) : List Nat := els.filter fun i => !done.contains i && Config.mxPick s.free i

/-- An accumulator element, and one written. -/
def accElem (s : State) (core acc i : Nat) : Word := mget 0 s.accs (accKey core acc 0 0 + i)
/-- An accumulator element written. -/
def putElem (s : State) (core acc i : Nat) (x : Word) : State := { s with accs := mset 0 s.accs (accKey core acc 0 0 + i) x }

/-- The elements of row i that MWRA writes (R260).
Log 88 (DEDUCED). -/
def mwraRow (o : MxOp) (t : Fmt) (rm : RMode) (i : Nat) : List Word :=
  (List.range 128).map fun col =>
    let j := col / 32
    let x := (mget 0 o.data ((rpr t * i + j) * 32 + col % 32)).toNat
    let e := (mget 0 o.data ((rpr t * i + 4 + j) * 32)).toNat % 256
    BitVec.ofNat 32 (
      if t = .f32 then x
      else if isK8 t then (if e = 255 then canonNan fp32 else roundNum fp32 rm ((numOf (ffOf t) (x % 256)).mul (s8Num e)))
      else roundNum fp32 .rne (numOf (ffOf t) (x % 2 ^ 16)))

/-- What an MZRO or MWRA writes to an element. -/
def MxOp.value (o : MxOp) (i : Nat) : Word :=
  match o.instr with
  | .mwra _ t rm _ _ _ _ => (mwraRow o t rm (i / 128 - o.row)).getD (i % 128) 0
  | _ => 0

/-- An instruction of one warp that some elements take now: a write is made there, and an MRDA has read them (R261). -/
def opEarly (s : State) (o : MxOp) : State :=
  let es := earlyOf s o.elems o.done
  let put := fun (q : MxOp) => { s with mxOps := s.mxOps.map fun p => if p = o then q else p }
  match o.instr with
  | .mrda .. => put { o with
      done := o.done ++ es, data := es.foldl (fun m i => mset 0 m i (accElem s o.core o.acc i)) o.data }
  | _ => es.foldl (fun t i => putElem t o.core o.acc i (o.value i)) (put { o with done := o.done ++ es })

/-- A step that some elements take now (R261). -/
def stepEarly (s : State) (x : MxStep) : State :=
  let es := earlyOf s (List.range 16384) x.done
  es.foldl (fun t i => putElem t x.core x.acc i
      (BitVec.ofNat 32 (mxElem (aRow x (i / 128)) (aScale x (i / 128)) (bCol x (i % 128)) (accElem t x.core x.acc i).toNat)))
    { s with mxQueue := s.mxQueue.map fun y => if y = x then { x with done := x.done ++ es } else y }

/-- Whether a step is the first of its shape on its accumulator (R261). -/
def firstOfShape (s : State) (x : MxStep) : Bool :=
  !(s.mxQueue.any fun y => y.core = x.core && decide (y.acc = x.acc) && decide (y.shape = x.shape) && decide (y.seq < x.seq))

/-- The instructions on an accumulator that are not ordered with one about to take effect, by its place and, for a step, its shape: each of
their elements may take effect before it (R261).
Log 88 (DEDUCED). -/
def unorderedFirst (s : State) (core acc seq : Nat) (shape : Option Nat) (writes : Bool) : State :=
  let ops := s.mxOps.filter fun o => o.core = core && decide (o.acc = acc) && decide (o.seq ≠ seq) && !o.isFence
    && (writes || !(match o.instr with | .mrda .. => true | _ => false))
  let steps := s.mxQueue.filter fun y => y.core = core && decide (y.acc = acc) && decide (y.seq ≠ seq) && y.readDone
    && decide (shape ≠ some y.shape) && firstOfShape s y
  if ops.isEmpty && steps.isEmpty then s
  else
    let s := ops.foldl (fun t o => { opEarly t o with free := t.free + 1 }) s
    steps.foldl (fun t x => { stepEarly t x with free := t.free + 1 }) s

/-! MMA and MMSP. -/

/-- The scalar values that a joint instruction reads (R246). -/
def jointScalars (s : State) (i : Instr) : List Word :=
  (i.reads.filter fun c => decide (0x600 ≤ c ∧ c < 0x700)).map fun c => rdS s (c - 0x600)

/-- A member's fragment of nb registers from b.
Log 87 (DEDUCED). -/
def fragOf (s : State) (w : Warp) (b nb : Nat) : SMap Word :=
  let t := { s with warp := w }
  (List.range nb).foldl (fun m r => (List.range 32).foldl (fun m k => mset 0 m (r * 32 + k) (rdV t (b + r) k)) m) []

/-- The resident warp of a gang's member. -/
def memberWarp (s : State) (g : Gang) (m : Nat) : Option Warp :=
  (residents s).find? fun w => w.launch = g.launch && crewKey w = g.crew && w.wid = m && !w.entries.isEmpty

/-- The step queued at the engine once its rendezvous has completed: MXR raised, every member's slot and B registers held
(R252, R258). -/
def queueStep (s : State) (g : Gang) (l : Latch) (x : MxStep) (b nb : Nat) : State :=
  let slotOf := fun (a : Arrival) => match a.instr.ctl with | some c => wslot c | none => none
  let x := { x with
    seq := s.fresh
    frags := g.members.map fun m => match memberWarp s g m with | some w => fragOf s w b nb | none => []
    uids := l.arrived.map (·.uid)
    slots := l.arrived.filterMap fun a => (slotOf a).map fun k => (a.uid, k) }
  let s := setTile { s with fresh := s.fresh + 1, mxQueue := s.mxQueue ++ [x] } x.core x.phys fun t => { t with mxr := t.mxr + 1 }
  let s := l.arrived.foldl (fun t a => updWarp t a.uid fun w => { w with
    late := w.late ++ [⟨x.seq, b, nb, slotOf a⟩]
    slots := match slotOf a with | some k => w.slots.modify k (· + 1) | none => w.slots }) s
  noReplay (releaseMembers s l noReplay)

/-- What MMA and MMSP share (R258). -/
def mmaBody (i : Instr) (ta tb : Fmt) (logc : BitVec 3) (sw : Tswz) (sparse hdr : Bool) (z : Fin 16) (t : TileOp) (b kb : Opnd)
    (s : State) (act : Mask) : Step :=
  let w := s.warp
  match tileIndex s t with
  | .error e => jointTrap s i e.1 e.2
  | .ok _ => match gangOf s w with
    | none => jointTrap s i 4 3
    | some g =>
      let nb := mmaNG sparse tb * (if g.members.length = 4 then 1 else 2)
      let top := vecNum b + nb - 1
      let kbv := srcBits s act kb 1 0
      if gangDead s g then jointTrap s i 4 3
      else if g.accs.length ≤ z.val then jointTrap s i 3 5
      else if 1535 < top ∨ w.nreg ≤ top then jointTrap s i 3 9
      else if 2 ^ logc.toNat ≤ kbv then jointTrap s i 3 2
      else match tileOfOp s t with
        | .error e => jointTrap s i e.1 e.2
        | .ok (core, phys) =>
          if fenced s g then .wait evLine none s
          else match arrive s i g.members (jointScalars s i) with
            | .broken u => .trapIn 4 1 u
            | .waits u => .wait evReady none u
            | .full u l =>
              let ti := tileAt u core phys
              if ti.thread then
                .trapIn 0xC 8 (l.arrived.foldl (fun v a => trapOther v a.uid 0xC 8)
                  { u with latches := u.latches.filter fun k => k ≠ l })
              else if ti.st ≠ .ready ∨ ti.hold then .wait (evTileChange core phys) none (waitAll u l (evTileChange core phys))
              else match (if launchMx u w then some u else chargeCones u g) with
                | none => .wait evReady none u
                | some u =>
                  let x : MxStep :=
                    { seq := 0, members := g.members, core := core, launch := w.launch, crew := crewKey w, cls := w.cls,
                      queuedAt := u.now, acc := g.accs.getD z.val 0, phys := phys, ta := ta, tb := tb, sparse := sparse, hdr := hdr,
                      logc := logc.toNat, tswz := sw, kb := kbv, frags := [], uids := [], slots := [],
                      shape := (if sparse then 256 else 0) + ta.code * 16 + tb.code, started := false, readDone := false,
                      aData := [], done := [] }
                  .done (queueStep u g l x (vecNum b) nb)

/-- MMA (R257, R258). -/
def execMma (c : Ctl) (ta tb : Fmt) (logc : BitVec 3) (sw : Tswz) (z : Fin 16) (t : TileOp) (b kb : Opnd) (s : State) :
    Host.Outcome State Fault Refusal :=
  issue (.mma c ta tb logc sw z t b kb) c
    (fun s act => mmaBody (.mma c ta tb logc sw z t b kb) ta tb logc sw false false z t b kb s act) s

/-- MMSP (R253 to R258). -/
def execMmsp (c : Ctl) (ta tb : Fmt) (logc : BitVec 3) (sw : Tswz) (hdr : Bool) (z : Fin 16) (t : TileOp) (b kb : Opnd) (s : State) :
    Host.Outcome State Fault Refusal :=
  issue (.mmsp c ta tb logc sw hdr z t b kb) c
    (fun s act => mmaBody (.mmsp c ta tb logc sw hdr z t b kb) ta tb logc sw true hdr z t b kb s act) s

/-! MZRO, MRDA, MWRA and MFNC. -/

/-- An accumulator instruction of one warp, once its checks pass, outstanding on its slot (R259, R260).
Log 88 (DEDUCED). -/
def accIssue (i : Instr) (c : Ctl) (z : Fin 16) (row n : Nat) (data : SMap Word) (s : State) : Step :=
  match gangOf s s.warp with
  | none => .trap 4 3 none
  | some g =>
    if gangDead s g then .trap 4 3 none
    else if g.accs.length ≤ z.val then .trap 3 5 none
    else if 128 < row + n then .trap 3 2 none
    else if fenced s g then .wait evLine none s
    else
      let o : MxOp :=
        { seq := s.fresh, members := g.members, slot := wslot c, uid := s.warp.uid, wid := s.warp.wid, core := s.warp.core,
          launch := g.launch, crew := g.crew, acc := g.accs.getD z.val 0, instr := i, row := row, data := data, done := [], bars := [],
          barAt := none }
      .done (slotUp { s with fresh := s.fresh + 1, mxOps := s.mxOps ++ [o] } (wslot c))

/-- MZRO (R260). -/
def execMzro (c : Ctl) (z : Fin 16) (s : State) : Host.Outcome State Fault Refusal :=
  issue (.mzro c z) c (fun s _ => match accIssue (.mzro c z) c z 0 0 [] s with
    | .done t => .done (noReplay t)
    | r => r) s

/-- MRDA (R260). -/
def execMrda (c : Ctl) (t : Fmt) (rm : RMode) (n : RowCount) (d : Opnd) (z : Fin 16) (row : Opnd) (s : State) :
    Host.Outcome State Fault Refusal :=
  issue (.mrda c t rm n d z row) c (fun s act => accIssue (.mrda c t rm n d z row) c z (srcBits s act row 1 0) n.n [] s) s

/-- MWRA (R260): its registers are read at issue. -/
def execMwra (c : Ctl) (t : Fmt) (rm : RMode) (n : RowCount) (z : Fin 16) (a row : Opnd) (s : State) :
    Host.Outcome State Fault Refusal :=
  issue (.mwra c t rm n z a row) c (fun s act =>
    let data := fragOf s s.warp (vecNum a) (n.n * rpr t)
    match accIssue (.mwra c t rm n z a row) c z (srcBits s act row 1 0) n.n data s with
    | .done u => .done (noReplay u)
    | r => r) s

/-- MFNC (R262).
Log 89 (DEDUCED). -/
def execMfnc (c : Ctl) (s : State) : Host.Outcome State Fault Refusal :=
  issue (.mfnc c) c (fun s _ => match gangOf s s.warp with
    | none => .done s
    | some g =>
      if gangDead s g then .trap 4 3 none
      else if !covered s g s.warp.wid s.fresh then .done s
      else
        let seq := s.fresh
        let o : MxOp :=
          { seq := seq, members := g.members, slot := wslot c, uid := s.warp.uid, wid := s.warp.wid, core := s.warp.core,
            launch := g.launch, crew := g.crew, acc := 0, instr := .mfnc c, row := 0, data := [], done := [], bars := [], barAt := none }
        let s := slotUp { s with fresh := s.fresh + 1, mxOps := s.mxOps ++ [o] } (wslot c)
        .done (setCrew s fun k => { k with mfence := mset 0 k.mfence s.warp.wid seq })) s

/-! The engine's events. -/

/-- The effective class of a queued step, aged from its rendezvous at the arithmetic clock (R264, R356).
Log 90 (DEDUCED). -/
def stepClass (s : State) (x : MxStep) : Nat := min 3 (x.cls + (s.now - x.queuedAt) / 400000)

/-- The queued step that the engine takes next: highest effective class, then oldest (R264).
Log 90 (DEDUCED). -/
def nextStep (s : State) (core : Nat) : Option MxStep :=
  (s.mxQueue.filter fun x => x.core = core && !x.started).foldl (fun b x => match b with
    | none => some x
    | some y => if stepClass s y < stepClass s x ∨ (stepClass s y = stepClass s x ∧ x.seq < y.seq) then some x else some y) none

/-- Whether an earlier step of a gang on the same accumulator with the same shape has not started (R261).
Log 90 (DEDUCED). -/
def overtakes (s : State) (x : MxStep) : Bool :=
  s.mxQueue.any fun y => !y.started && decide (y.seq < x.seq) && y.core = x.core && y.launch = x.launch && y.crew = x.crew
    && y.members = x.members && decide (y.acc = x.acc) && decide (y.shape = x.shape)

/-- The engine of a core starts the next step when it runs none (R264, R267). -/
def execMatrixStepStart (core : Nat) (s : State) : Host.Outcome State Fault Refusal :=
  if s.mxQueue.any fun x => x.core = core && x.started && !x.readDone then .next s
  else match nextStep s core with
    | none => .next s
    | some x =>
      let x := if overtakes s x then (s.mxQueue.find? fun y => !y.started && y.core = x.core && y.launch = x.launch && y.crew = x.crew
        && y.members = x.members && decide (y.acc = x.acc) && decide (y.shape = x.shape)).getD x else x
      let rest := s.mxQueue.filter fun y => y ≠ x
      .next { s with mxQueue :=
        (rest.filter (·.started)) ++ [{ x with started := true }] ++ rest.filter fun y => !y.started }

/-- A fragment as the engine reads it: a register rewritten before the read reads either value (R43, R261).
Log 87 (DEDUCED). -/
def lateFrag (s : State) (w : Warp) (b nb : Nat) (old : SMap Word) : SMap Word :=
  (List.range nb).foldl (fun m r => (List.range 32).foldl (fun m k =>
    let cur := mget 0 w.v ((b + r) * 32 + k)
    let was := mget 0 old (r * 32 + k)
    mset 0 m (r * 32 + k) (if cur = was ∨ Config.hazardPick s.free (b + r) k then cur else was)) m) []

/-- The step that runs has read its operands: the panel and fragments are taken, MXR falls and the slots are released
(R258, R267).
Log 87 (DEDUCED). -/
def execMatrixStepReadDone (core : Nat) (s : State) : Host.Outcome State Fault Refusal :=
  match s.mxQueue.find? fun x => x.core = core && x.started && !x.readDone with
  | none => .next s
  | some x =>
    let g : Gang := { core := core, launch := x.launch, crew := x.crew, members := x.members, accs := [], cones := false, firedAt := 0 }
    let frags := (List.range x.frags.length).map fun i =>
      let old := x.frags.getD i []
      match memberWarp s g (x.members.getD i 0) with
      | some w => if x.uids.contains w.uid then
          (match w.late.find? fun l => l.seq = x.seq with | some l => lateFrag s w l.reg l.n old | none => old) else old
      | none => old
    let y := { x with frags := frags, aData := padBytes s core x.phys 0 16384, readDone := true }
    let s := { s with free := s.free + 1, mxQueue := s.mxQueue.map fun z => if z = x then y else z }
    let s := setTile s core x.phys fun t => { t with mxr := t.mxr - 1 }
    let s := x.uids.foldl (fun t u => updWarp t u fun w => { w with late := w.late.filter fun l => l.seq ≠ x.seq }) s
    .next (settle (x.slots.foldl (fun t p => slotDown t p.1 (some p.2)) s))

/-- The step read first writes its accumulator and completes (R256, R267). -/
def execMatrixStepComplete (core : Nat) (s : State) : Host.Outcome State Fault Refusal :=
  match s.mxQueue.find? fun x => x.core = core && x.readDone with
  | none => .next s
  | some x =>
    let t := unorderedFirst s core x.acc x.seq (some x.shape) true
    .next (matrixDone x.launch x.crew { applyStep t x with mxQueue := t.mxQueue.filter fun y => y.seq ≠ x.seq })

/-- Registers of a warp written by the completion of an instruction of it: in the warp while it is resident, else in the record
that it has become (R21). -/
def writeOwner (s : State) (uid : Nat) (l : List (Nat × Nat × Word)) : State :=
  let inWarp := (residents s).any fun w => w.uid = uid && !w.entries.isEmpty
  if inWarp then updWarp s uid fun w => l.foldl (fun w e => setV w e.1 e.2.1 e.2.2) w
  else
    let f := fun (r : Rec) => { r with v := l.foldl (fun m e =>
      if r.regs.contains e.1 ∧ r.mask.getLsbD e.2.1 then mset 0 m (e.1 * 32 + e.2.1) e.2.2 else m) r.v }
    let mine := fun (r : Rec) => r.src = uid && !r.isKept
    let s := { s with recs := s.recs.map fun r => if mine r then f r else r }
    (s.recs.filter mine).foldl (fun t r => storeRec t r) s

/-- The registers that MRDA writes: register, lane and value (R260).
Log 88 (DEDUCED). -/
def mrdaWrites (s : State) (o : MxOp) (t : Fmt) (rm : RMode) (n d : Nat) : List (Nat × Nat × Word) :=
  (List.range n).flatMap fun i => (List.range 4).flatMap fun j =>
    let codes := (List.range 32).map fun l =>
      let e := (o.row + i) * 128 + 32 * j + l
      (if o.done.contains e then mget 0 o.data e else accElem s o.core o.acc e).toNat
    let reg := d + rpr t * i + j
    let put := fun (r : Nat) (f : Nat → Nat) => (List.range 32).map fun l => (r, l, BitVec.ofNat 32 (f l))
    if t = .f32 then put reg fun l => codes.getD l 0
    else if isK8 t then
      let q := blkK8 (ffOf t) rm none (codes.map (numOf fp32))
      put reg (fun l => q.2.getD l 0) ++ put (reg + 4) fun _ => q.1
    else put reg fun l => roundNum (ffOf t) rm (numOf fp32 (codes.getD l 0))

/-- The k-th accumulator instruction outstanding completes (R260, R267); an MFNC completes with what it covers.
Log 88 (DEDUCED). -/
def execMatrixAccOpComplete (k : Nat) (s : State) : Host.Outcome State Fault Refusal :=
  match s.mxOps[k]? with
  | none => .next s
  | some o0 =>
    let isRead := match o0.instr with | .mrda .. => true | _ => false
    let s := if o0.isFence then s else unorderedFirst s o0.core o0.acc o0.seq none (!isRead)
    let o := (s.mxOps[k]?).getD o0
    let gone := slotDown { s with mxOps := s.mxOps.eraseIdx k } o.uid o.slot
    let old := fun (i : Nat) (x : Word) => if o.done.contains i then accElem s o.core o.acc i else x
    let done := matrixDone o.launch o.crew
    match o.instr with
    | .mzro .. => .next (done (if o.done.isEmpty then clearAcc gone o.core o.acc
        else { gone with accs := putAccs s.accs (accKey o.core o.acc 0 0) ((List.range 16384).map fun i => old i 0) }))
    | .mrda _ t rm n d _ _ => .next (done (writeOwner gone o.uid (mrdaWrites s o t rm n.n (vecNum d))))
    | .mwra _ t rm n _ _ _ =>
      let l := ((List.range n.n).flatMap (mwraRow o t rm)).zipIdx.map fun e => old (o.row * 128 + e.2) e.1
      .next (done { gone with accs := putAccs s.accs (accKey o.core o.acc o.row 0) l })
    | _ => .next (done s)

end Sys2Proof.Machine
end

