-- ==== Sys2Proof/Machine/Segment.lean ====
section
/-! DEFINITION. Events of segments and records: waits that pass their window (R335), responses (R21), events and saggars (R336 to
R338), the pool (R343), pre-emption and watchdogs (R381, R388), soft errors (R385), saved crews (R174, R266) and the cone epoch
(R358). -/

namespace Sys2Proof.Machine

/-- An action on a resident warp, brought to the issue place for it. -/
def onWarp (s : State) (uid : Nat) (f : State → State) : State :=
  let me := s.warp.uid
  let t := focus s uid
  if t.warp.uid = uid ∧ t.warp.entries ≠ [] then focus (f t) me else s

/-- A join update that waited for a page is made once the page is ready (R350). -/
def execJoinUpdatePageReady (asid vpn : Nat) (s : State) : Host.Outcome State Fault Refusal :=
  let ready := fun (j : JoinWait) =>
    decide (j.asid = asid ∧ j.va / 65536 = vpn) && (match translate s { vi := j.vi, asid := asid, user := true } j.va true false with
      | .nores _ => false
      | _ => true)
  let js := s.joinWaits.filter ready
  let s := { s with joinWaits := s.joinWaits.filter fun j => !ready j }
  .next (js.foldl (fun t j => launchEndIf (joinUpdate t j.vi j.asid j.launch j.va j.amount j.rids) j.launch) s)

/-- A wait past its window ends the segment with the wait's event; before that nothing happens (R18, R335).
Log 70 (DEDUCED). -/
def execWaitWindowExpiry (uid : Nat) (s : State) : Host.Outcome State Fault Refusal :=
  .next (onWarp s uid fun t => match t.warp.wait with
    | some ev =>
      if t.warp.waitSince + t.warp.waitwin ≤ t.now then endSegment t (.at ev (t.warp.resume.getD (curIp t.warp))) else t
    | none => t)

/-- The value that a piece of a response writes to its register (R191, R195). -/
def pieceValue (x : Piece) (data : Line) : Word :=
  let o := match x.loc with | .dev a => a % 128 | .host a => a % 128
  let bytes := (List.range x.n).map fun j => match x.ov.find? fun e => e.1 = j with
    | some e => e.2
    | none => lineByte data (o + j)
  let n := natOfBytes bytes
  if x.sx then BitVec.ofInt 32 (sextNat (8 * x.n) n) else BitVec.ofNat 32 n

/-- Status bits of landed pieces set in the warp or in its records (R193). -/
def landPreds (s : State) (uid : Nat) (ps : List Piece) : State :=
  let put := fun (m : SMap Word) (x : Piece) => if x.pred = 15 then m else mset 0 m x.pred (mget 0 m x.pred ||| laneBit x.lane)
  let s := updWarp s uid fun w => if w.entries = [] then w else { w with p := ps.foldl put w.p }
  { s with recs := s.recs.map fun r =>
      if r.src = uid ∧ r.isKept = false then { r with p := (ps.filter fun x => r.mask.getLsbD x.lane).foldl put r.p } else r }

/-- Records of a warp tested once its last response has landed (R21, R336). -/
def testSrc (s : State) (uid : Nat) : State :=
  wakeAll (settle s) fun r => decide (r.src = uid)

/-- A record made a TRAP record where it stands, its threads going to the trap saggar of their launch (R373, R386, R388).
Log 69 (DEDUCED). -/
def toTrap (s : State) (r : Rec) (code : BitVec 48) (tinfo : Word) : State :=
  let q := { r with kind := RecKind.trap, tinfo := tinfo, event := evReady, code := code, place := .held }
  let s := { s with
    recs := s.recs.map fun x => if x.rid = r.rid then q else x
    saggars := (s.saggars.map fun g => { g with rids := g.rids.filter (· ≠ r.rid) }).filter fun g => !g.rids.isEmpty }
  releaseRec (trapPolicy (storeRec s q) r.vi r.launch r.asid r.addr tinfo) r.rid

/-- An uncorrectable response: the launch is suspended and reported, and the record that awaits the data, or the warp at its load,
traps MEMERR (R386). -/
def memErr (s : State) (x : Resp) (detail : Nat) : State :=
  let rs := s.recs.filter fun r => r.src = x.uid && !r.isKept
  let ws := (residents s).filter fun w => w.uid = x.uid && !w.entries.isEmpty
  let who := match ws, rs with
    | w :: _, _ => some (w.vi, w.launch, w.asid)
    | _, r :: _ => some (r.vi, r.launch, r.asid)
    | _, _ => none
  match who with
  | none => s
  | some (vi, launch, asid) =>
    let s := memReport s vi launch asid x.line detail
    let s := onWarp s x.uid fun t => takeTrap t 0x12 detail none x.ip
    let hit := rs.filter fun r => if x.pieces.isEmpty then decide (r.code = x.ip) else x.pieces.any fun p => r.mask.getLsbD p.lane
    hit.foldl (fun t r => toTrap t r x.ip (tinfoOf 0x12 detail none (decide (r.kind = .gang)))) s

/-- The k-th response lands: in the register file while the warp is resident, else in its records, whose event fires after the last
one (R21); one that an instruction waits for is put by for it (R133).
Log 9 (DESIGN CHOICE). -/
def execResponseLand (k : Nat) (s : State) : Host.Outcome State Fault Refusal :=
  match s.resps[k]? with
  | none => .next s
  | some x =>
    let gone := { s with resps := s.resps.eraseIdx k }
    match x.err, x.data with
    | some e, _ => .next (memErr gone x e)
    | none, none => .next s
    | none, some d =>
      let gone := if x.pieces.isEmpty then updWarp gone x.uid fun w => { w with got := w.got ++ [(x.line, d)] } else gone
      let s := writeOwner gone x.uid (x.pieces.map fun p => (p.reg, p.lane, pieceValue p d))
      .next (testSrc (landPreds s x.uid x.pieces) x.uid)

/-- The record of a removed entry appended to the shadow ring of its ASID (R118).
Log 126 (DEDUCED). -/
def shadowRecord (s : State) (t : TlbEnt) : State :=
  let a := asidEnt s t.asid
  let off := dbits a.shring 45 6 * 64
  if t.hits = 0 ∨ off = 0 then s
  else
    let base := s.pkg * 2 ^ 46 + off
    let n := (readDpa64 s base).toNat
    let rec_ := t.hits % 256 * 2 ^ 56 + t.psz % 4 * 2 ^ 54 + t.vpn * 65536
    let s := writeDpa s .rc 0 (base + 64 + 8 * (n % 2 ^ a.shlog2)) (bytesOfNat 8 rec_)
    writeDpa s .rc 0 base (bytesOfNat 8 (n + 1))

/-- An entry of the translation cache evicted (R118).
Log 33 (DESIGN CHOICE). -/
def tlbEvict (s : State) (k : Nat) : State :=
  match s.tlb[k]? with
  | some t => shadowRecord { s with tlb := s.tlb.eraseIdx k } t
  | none => s

/-- The entry of a page that has none filled from the tables, if its page is valid and resident (R116 to R118).
Log 33 (DESIGN CHOICE). -/
def tlbFill (s : State) (vi asid va : Nat) : State :=
  match tlbFind s vi asid (va / 65536), walk s vi asid va with
  | none, .leaf e psz =>
    if e.getLsbD 1 then
      { s with tlb := s.tlb ++
        [{ vi := vi, asid := asid, vpn := va / 65536 / pszUnits psz * pszUnits psz, psz := psz, leaf := e, hits := 0 }] }
    else s
  | _, _ => s

/-- Whether a walk is among the 128 that its sector runs at once, in order of request (R116).
Log 34 (DESIGN CHOICE). -/
def walkRuns (s : State) (q : WalkReq) : Bool := ((s.walks.filter fun r => r.sector = q.sector).take 128).contains q

/-- A page's walk done for the warp that waits for it, or for the records that it has become (R116). -/
def walkDone (s : State) (q : WalkReq) : State :=
  let t := updWarp { s with walks := s.walks.erase q } q.uid fun w => { w with walked := w.walked ++ [q.vpn] }
  testSrc { t with recs := t.recs.map fun r => if r.src = q.uid then { r with walked := r.walked ++ [q.vpn] } else r } q.uid

/-- A page walk completes and fills the translation and walk caches, for every access that waits for it; victim names the entry that
gives way, if one does (R116, R118).
Log 34 (DESIGN CHOICE). -/
def execPageWalkComplete (asid vpn : Nat) (victim : Option Nat) (s : State) : Host.Outcome State Fault Refusal :=
  let s := match victim with | some k => tlbEvict s k | none => s
  let vi := (asidEnt s asid).owner
  let done := s.walks.filter fun q => q.asid = asid && q.vpn = vpn && walkRuns s q
  .next (done.foldl walkDone (tlbFill (ptrFill s vi asid (vpn * 65536)) vi asid (vpn * 65536)))

/-- An event source fires: each record registered with it tests its condition. A memory-word event comes only with the writes that
fire it (R336). -/
def execRecordEventFire (ev : DWord) (s : State) : Host.Outcome State Fault Refusal :=
  .next (wakeAll (s.recs.foldl sendRec s) fun r => decide (r.event = ev) && !wordKind r)

/-- The timer of a saggar, in cycles: its launch's, in units of 0.1 µs, which are 400 cycles of the arithmetic clock (R20, R59). -/
def saggarTimer (s : State) (g : Saggar) : Nat := 400 * (match launchOf s g.launch with | some l => l.image.timer | none => 20)

/-- A saggar's timer lapses; before its time nothing happens (R20, R338).
Log 9 (DESIGN CHOICE). -/
def execSaggarTimerLapse (sid : Nat) (s : State) : Host.Outcome State Fault Refusal :=
  .next { s with saggars := s.saggars.map fun g =>
    if g.sid = sid ∧ g.st = .gather ∧ g.since + saggarTimer s g ≤ s.now then { g with st := .due, dueSince := s.now } else g }

/-- The record that came first to the overflow list of a core (R337, R339). -/
def oldestOverflow (s : State) (core : Nat) : Option Rec :=
  (sortRecs (s.recs.filter fun r => r.place = .overflow core)).foldl (fun b r => match b with
    | none => some r
    | some h => if r.since < h.since then some r else some h) none

/-- A freed slot given to the oldest record of the overflow list (R337). -/
def execSaggarSlotFree (core : Nat) (s : State) : Host.Outcome State Fault Refusal :=
  match oldestOverflow s core with
  | none => .next s
  | some r =>
    if (slotCore s core r).isNone && !(s.saggars.any fun g => sagMatch s core r (decide (r.kind = .trap)) g) then .next s
    else .next (joinSaggarAt s core r)

/-- The record that a GRID packet seeds for a warp of a crew (R365). -/
def seedRec (l : Launch) (crew wid : Nat) : Rec :=
  let arg := l.arg.toNat
  { rid := 0, addr := 0, vi := l.vi, asid := l.asid, kind := .normal, event := evReady, join := 0, frame := l.frameVa,
    code := l.image.entry, mask := BitVec.allOnes 32, launch := l.id, crew := some crew, nreg := l.image.nreg, livemap := 0,
    cls := l.image.cls, prio := 0, wid := wid, tinfo := 0, regs := List.range l.image.nreg, v := [],
    sr := mset 0 (mset 0 [] 0 (BitVec.ofNat 32 arg)) 1 (BitVec.ofNat 32 (arg / 2 ^ 32)), p := [],
    tid := (List.range 32).foldl (fun m k => mset 0 m k (BitVec.ofNat 32 (32 * (l.wpc * crew + wid) + k))) [], src := 0,
    pages := [], pgrq := [], cmp := 0, swz := 0, place := .held, runs := 0, walked := [], since := 0, core := 0,
    pin := none, latchAt := none }

/-- A record added to the pool and released, on a core for its saggar. -/
def addReleased (s : State) (core : Nat) (r : Rec) : State :=
  let rid := s.fresh
  releaseRec (addRec s { r with core := core }) rid

/-- The seeds of a launch written while its charge allows, in order of crew and warp (R365); the wait of one that is held is counted from the
moment at which its turn came (R388). -/
def writeSeeds (s : State) (id : Nat) : State :=
  match launchOf s id with
  | none => s
  | some l =>
    let wait := fun (t : State) => setLaunch t id fun l => { l with hold := if l.seeds.isEmpty then none else some (l.hold.getD s.now) }
    let r := l.seeds.foldl (fun (a : State × Bool) p =>
      if a.2 then a
      else
        let q := seedRec l p.1 p.2
        if roomFor a.1 id (recSize 32 l.image.nreg) then
          let t := setLaunch a.1 id fun l => { l with seeds := l.seeds.drop 1, hold := none }
          (addReleased t (p.1 % 96) q, false)
        else (a.1, true)) (s, false)
    wait r.1

/-- Freed pool space goes to held seeds and to waits on POOL; a warp that is held tries its end again when it next issues (R343). -/
def execPoolSpaceFreed (vi : Nat) (s : State) : Host.Outcome State Fault Refusal :=
  .next (settle (((s.launches.filter fun l => l.vi = vi && !l.seeds.isEmpty).map (·.id)).foldl writeSeeds s))

/-! Pre-emption and watchdogs. -/

/-- Cycles of the arithmetic clock in a microsecond (R12). -/
def usCycles : Nat := 4000

/-- A marked warp that has not ended within 16 µs ends at its next instruction boundary with every register saved, or as its wait
ends (R381). -/
def execPreemptBoundExpiry (uid : Nat) (s : State) : Host.Outcome State Fault Refusal :=
  .next (onWarp s uid fun t =>
    let w := t.warp
    if (!w.marked && !w.victim) || decide (t.now < w.markedAt + 16 * usCycles) then t
    else match w.wait with
      | some ev => endSegment t (.at ev (w.resume.getD (curIp w)))
      | none => endSegment t { SegEnd.at evReady (curIp w) with kind := .preempt, all := true })

/-- The segment limit and the watchdog's period of a launch, in cycles (R388). -/
def seglimOf (s : State) (launch vi : Nat) : Nat :=
  usCycles * (match launchOf s launch with | some l => l.seglim | none => (viOf s vi).seglim).toNat
/-- The watchdog's period. -/
def hwdogOf (s : State) (launch vi : Nat) : Nat :=
  usCycles * (match launchOf s launch with | some l => l.hwdog | none => (viOf s vi).hwdog).toNat

/-- A segment resident for longer than its limit is pre-empted (R388). -/
def execSeglimExpiry (uid : Nat) (s : State) : Host.Outcome State Fault Refusal :=
  .next (updWarp s uid fun w =>
    if w.entries = [] ∨ s.now ≤ w.firedAt + seglimOf s w.launch w.vi then w else w.mark s.now)

/-- The cycle from which a gang whose members are all ready has waited to be charged cones (R263, R388).
Log 165 (DEDUCED). -/
def coneSince (s : State) (k : Gang) : Option Nat :=
  let gs := k.members.map (memberSaggar s k)
  if mxLaunch s k.launch && !k.cones && !gangResident s k && decide (s.coneLimit < s.conesUsed + 9) then
    gs.foldl (fun n g => match n, g with | some n, some g => some (max n g.dueSince) | _, _ => none) (some 0)
  else none

/-- The cycle from which a record has waited on a counted wait: BAR or ACC as it stands parked, a latch or cones since the wait began, over
the firings that it has come through (R246, R388).
Log 165 (DEDUCED). -/
def countedSince (s : State) (r : Rec) : Option Nat :=
  let kind := dbits r.event 63 60
  if !firable s r.launch r.vi then none
  else match r.place with
    | .parked => if kind = 5 ∨ kind = 10 then some r.since else none
    | .saggar _ => r.latchAt.or ((recGang s r).bind (coneSince s))
    | _ => none

/-- A record that waits longer than hwdog on a counted wait: its condition is tested first, and else it becomes a TRAP record HANG
(R388, R389).
Log 69 (DEDUCED). -/
def execHwdogExpiry (rid : Nat) (s : State) : Host.Outcome State Fault Refusal :=
  match s.recs.find? fun r => r.rid = rid with
  | none => .next s
  | some r =>
    if !((countedSince s r).any fun t => decide (t + hwdogOf s r.launch r.vi < s.now)) then .next s
    else if r.place = .parked ∧ eventHolds s r = true then .next (wakeRec s r)
    else .next (toTrap s r r.code (tinfoOf 0xE (dbits r.event 63 60) none (decide (r.kind = .gang))))

/-- A pool hold of a warp or of the front end longer than hwdog suspends its launch and is reported (R388). -/
def execPoolHoldExpiry (launch : Nat) (s : State) : Host.Outcome State Fault Refusal :=
  match launchOf s launch with
  | none => .next s
  | some l =>
    let long := fun (h : Option Nat) => match h with | some t => decide (t + hwdogOf s launch l.vi < s.now) | none => false
    if !l.suspended && (long l.hold || (residents s).any fun w => decide (w.launch = launch) && long w.hold) then
      .next (report (suspend s launch) l.vi 7 launch l.asid 0 0)
    else .next s

/-! Soft errors. -/

/-- MCHK's detail (R371). -/
def softDetail : SoftErr → Nat
  | .residue => 1
  | .regParity => 2
  | .sram => 3

/-- Registers that may be corrupt: each a free value (R385).
Log 71 (DEDUCED). -/
def corrupt (s : State) : State :=
  let w := s.warp
  let word := fun (i : Nat) => BitVec.ofNat 32 (Config.freeWord s.free i).toNat
  let list := fun (lo n : Nat) => ((List.range n).map fun i => (i, word (lo + i))).filter fun e => decide (e.2 ≠ 0)
  setWarp { s with free := s.free + 1 } fun _ =>
    { w with v := list 0 (32 * w.nreg), sr := list 50000 256, p := list 51000 15 }

/-- The launches that a segment's held spawns have admitted withdrawn, with their records (R349, R385). -/
def withdraw (s : State) (hs : List Held) : State :=
  hs.foldl (fun t h => match h with
    | .spawn id _ rids => { t with
        launches := t.launches.filter fun l => l.id ≠ id
        recs := t.recs.filter fun r => !rids.contains r.rid }
    | _ => t) s

/-- A replayable segment discarded and its kept records fired again into their saggar (R385). -/
def replay (s : State) : State :=
  let w := s.warp
  let back := if w.priv = 1 ∧ (s.recs.any fun r => w.kept.contains r.rid && decide (r.place = .handled)) then
      s.recs.filter fun r => w.kept.contains r.rid && decide (r.place = .handled)
    else s.recs.filter fun r => r.place = .kept w.uid
  let s := withdraw s w.held
  let s := { s with
    warp := { Warp.none with core := w.core }
    resps := s.resps.filter fun r => r.uid ≠ w.uid
    walks := s.walks.filter fun r => r.uid ≠ w.uid
    mxOps := s.mxOps.filter fun m => m.uid ≠ w.uid
    latches := s.latches.map fun l => { l with arrived := l.arrived.filter fun a => a.uid ≠ w.uid }
    crews := if w.crew.isNone then s.crews.filter fun c => !(c.launch = w.launch && c.crew = crewKey w) else s.crews }
  let s := back.foldl (fun t r =>
    let again := decide (r.place = .handled)
    let t := if again then t else charge t r.launch (recSize (laneCount r.mask) r.regs.length)
    let q := { r with runs := w.runs + 1, place := .held }
    let t := { t with recs := t.recs.map fun x => if x.rid = r.rid then q else x }
    releaseRec t r.rid) s
  settle (returnCones s)

/-- A soft error in a resident warp: its segment is replayed while it is replayable and has not faulted on two runs before, and else
it traps MCHK with registers that may be corrupt (R385).
Log 71 (DEDUCED). -/
def execSoftError (uid : Nat) (e : SoftErr) (s : State) : Host.Outcome State Fault Refusal :=
  .next (onWarp s uid fun t =>
    if !t.warp.nonReplay ∧ t.warp.runs < 2 then replay t
    else takeTrap (corrupt t) 0x11 (softDetail e) none (curIp t.warp))

/-! Saved crews. -/

/-- Whether a crew may be restored on a core: where it was, or within the target of its FWD (R351). -/
def restoreOn (c : Crew) (core : Nat) : Bool :=
  match c.moving with
  | none => decide (core = c.core)
  | some (0, t) => decide (core = t)
  | some (1, t) => decide (core / 24 = t)
  | some _ => false

/-- The accumulators of a crew's gangs taken again on a core, with their contents, under the same z indices (R266). -/
def restoreGangs (s : State) (c : Crew) (core : Nat) : State :=
  c.savedAccs.foldl (fun t a =>
    let n := match t.gangs.find? fun g => g.launch = c.launch && g.crew = c.crew && g.members = a.1 with
      | some _ => gangNz (mget 0 c.gang (a.1.headD 0))
      | none => 0
    let accs := (freeAccs t core).take n
    let t := (List.range n).foldl (fun u z =>
      let words := (List.range 16384).map fun i => mget 0 a.2 (z * 16384 + i)
      { u with accs := putAccs u.accs (accKey core (accs.getD z 0) 0 0) words }) t
    { t with gangs := t.gangs.map fun g =>
        if g.launch = c.launch ∧ g.crew = c.crew ∧ g.members = a.1 then { g with core := core, accs := accs } else g }) s

/-- The accumulators that a saved crew needs. -/
def savedNeed (c : Crew) : Nat := c.savedAccs.foldl (fun n a => n + gangNz (mget 0 c.gang (a.1.headD 0))) 0

/-- A TILE event of a record, its tile having moved from one core and physical tiles to others (R174, R334). -/
def moveTileEvent (c0 : Nat) (from_ : List Nat) (c1 : Nat) (dst : List Nat) (ev : DWord) : DWord :=
  let key := dbits ev 59 0
  let phys := bitsOf key 6 0
  match (List.range from_.length).find? fun i => decide (from_[i]? = some phys) with
  | some i =>
    if dbits ev 63 60 = 1 ∧ bitsOf key 20 14 = c0 then
      eventOf 1 (key - c0 * 2 ^ 14 - phys + c1 * 2 ^ 14 + dst.getD i 0)
    else ev
  | none => ev

/-- A saved crew restored on a core: tiles, tile table, gangs and accumulators, once whatever was in flight for its save area has been
applied (R174, R266, R351).
Log 91 (DESIGN CHOICE). -/
def execCrewRestore (launch crew core : Nat) (s : State) : Host.Outcome State Fault Refusal :=
  match crewAt s launch crew, launchOf s launch with
  | some c, some l =>
    let ok := c.saved && restoreOn c core && firable s launch l.vi && decide (core < 96) && !crewInFlight s c
      && decide (c.tiles.length ≤ (freeTiles s core).length) && decide (barSets s core < (if core = c.core then 65 else 64))
      && decide (savedNeed c ≤ (freeAccs s core).length)
    if !ok then .next s
    else
      let ts := (freeTiles s core).take c.tiles.length
      let s := dropImage (moveTiles s c.image (List.range ts.length) core ts Tile.reset) c
      let s := restoreGangs s c core
      let s := setCrewAt s launch crew fun c =>
        { c with core := core, tiles := ts, saved := false, image := 0, moving := none, savedTiles := [], savedAccs := [] }
      let s : State := { s with
        recs := s.recs.map fun r =>
          if r.launch = launch ∧ r.crew = some crew then { r with event := moveTileEvent c.core c.tiles core ts r.event } else r
        saggars := s.saggars.map fun g =>
          if g.launch = launch ∧ g.crew = some crew ∧ g.trap = false then { g with core := core } else g }
      .next (settle s)
  | _, _ => .next s

/-! The cone epoch. -/

/-- Gangs of a core told to end until the cones held, less those about to return, are at most the limit: lowest class first, and the
latest fired among equals (R358). -/
def overVictims (s : State) : Nat → List Gang → Nat → State
  | 0, _, _ => s
  | n + 1, gs, iu =>
    if iu ≤ s.coneLimit then s
    else
      let pick := gs.foldl (fun b k => match b with
        | none => some k
        | some h => if gangClass s k < gangClass s h ∨ (gangClass s k = gangClass s h ∧ h.firedAt < k.firedAt) then some k
            else some h) none
      match pick with
      | none => s
      | some k => overVictims (makeVictim s k) n (gs.filter fun h => h ≠ k) (iu - 9)

/-- Every 100 µs the firmware that leads sets the cone limit; if the cones held already exceeded it at the last boundary and still do,
kilns pre-empt gangs. With no leader the limit stays (R358, R396).
Log 12 (DESIGN CHOICE), 146 (DESIGN CHOICE). -/
def execConeEpoch (limit : Nat) (s : State) : Host.Outcome State Fault Refusal :=
  if 4095 < limit ∨ s.now < s.epochAt + 100 * usCycles ∨ leaderOf s = none then .next s
  else
    let was := s.coneOver
    let s := { s with epochAt := s.now, coneLimit := limit, coneOver := decide (limit < s.conesUsed) }
    let gs := s.gangs.filter fun k => k.cones && gangResident s k
    .next (if was then overVictims s gs.length gs s.conesUsed else s)

end Sys2Proof.Machine
end

