-- ==== Sys2Proof/Machine/Cache.lean ====
section
/-! DEFINITION. Events of the cache slices, the L1s and the memory controllers (R64 to R75, R99 to R104, R190, R191, R286). -/

namespace Sys2Proof.Machine

/-- A lookup by an engine or a core: a held line answers with data and a miss opens an entry; a request with a key or a stream is
answered by its controller and installs nothing (R101, R102).
Log 40 (DEDUCED). -/
def execLlcLookup (line : Nat) (swz : BitVec 4) (keyed : Bool) (stream : BitVec 6) (s : State) :
    Host.Outcome State Fault Refusal :=
  if keyed || decide (stream ≠ 0) then .next s
  else match mget none s.llc line with
    | some _ => .next s
    | none => .next (openMiss s swz line)

/-- Whether a line may give way to another: it is held and lies in the same set (R99, R104).
Log 40 (DEDUCED). -/
def victimOk (s : State) (line v : Nat) : Bool := (mget none s.llc v).isSome && decide (v ≠ line) && sameSet s v line

/-- The fill of a miss arrives: merged with the entry's partial writes, installed over a victim, and given to every read that waits
(R102 to R104). -/
def execLlcMissFill (line : Nat) (victim : Option Nat) (s : State) : Host.Outcome State Fault Refusal :=
  match missOf s line with
  | none => .next s
  | some m => match m.fill with
    | none => .next s
    | some f => .next (fillMiss (match victim with | some v => if victimOk s line v then evictLine s v else s | none => s) m f)

/-- The placement of a line: that under which it is held or awaited, else that under which its region was first written (R66, R68).
Log 31 (DEDUCED). -/
def lineSwz (s : State) (line : Nat) : BitVec 4 :=
  match mget none s.llc line with
  | some l => l.swz
  | none => match missOf s line with
    | some m => m.swz
    | none => mget 0 s.placed (regionOf (line * 128))

/-- A write of part of a line by an agent outside the cores arrives at the slice, with the placement of its page's leaf (R66, R102). -/
def execLlcPartialWrite (line : Nat) (swz : BitVec 4) (w : PartWrite) (s : State) : Host.Outcome State Fault Refusal :=
  .next (homeStore s swz line w.mask w.data)

/-- An L1's line written back whole and dropped there; a line that was awaited is installed and its readers answered (R103, R190).
Log 9 (DESIGN CHOICE), 41 (DEDUCED). -/
def execLlcWriteback (core line : Nat) (s : State) : Host.Outcome State Fault Refusal :=
  match s.l1.find? fun l => l.core = core && l.line = line with
  | none => .next s
  | some l =>
    let t := { s with l1 := s.l1.filter fun x => !(x.core = core && x.line = line) }
    .next (if l.writable then acceptLine t l.swz line l.data else t)

/-- The home slice takes back the L1 copies of a line (R190).
Log 52 (DEDUCED). -/
def execL1Recall (line : Nat) (s : State) : Host.Outcome State Fault Refusal := .next (recallL1 s line)

/-! Controllers. -/

/-- The first read of a queue that no earlier write to its line precedes. -/
def firstRead : List CtrlReq → List Nat → Option CtrlReq
  | [], _ => none
  | q :: t, seen => match q.what with
    | .write .. => firstRead t (q.line :: seen)
    | _ => if q.line ∈ seen then firstRead t seen else some q

/-- The first write of a queue.
Log 43 (DEDUCED). -/
def firstWrite (l : List CtrlReq) : Option CtrlReq := l.find? fun q => match q.what with | .write .. => true | _ => false

/-- An uncorrectable fill: every response that waits for it gets the error, and partial writes that waited for it are discarded and
reported (R70, R386).
Log 42 (DEDUCED). -/
def failFill (s : State) (line detail : Nat) : State :=
  let merged := match missOf s line with | some m => decide (m.mask ≠ 0) | none => false
  let s := { s with
    misses := s.misses.filter fun m => m.line ≠ line
    resps := s.resps.map fun r => if r.line = line && r.data.isNone && !r.own then { r with err := some detail } else r }
  if merged then report s 0 6 0 0 (line * 128) 1 else s

/-- The fill of an open entry given its data. -/
def giveFill (s : State) (line : Nat) (data : Line) : State :=
  { s with misses := s.misses.map fun m => if m.line = line then { m with fill := some data } else m }

/-- What a fill reads: the line's DRAM image, or the buddy's copy where that serves the read (R386). -/
def fillData (s : State) (q : CtrlReq) : Line :=
  let line := servingLine s q.rep q.line
  if line = q.line then dramLine s q.swz line else cohLine s q.swz line

/-- The responses of their own that a request answers, given their data or an error. -/
def answerOwn (s : State) (q : CtrlReq) (data : Option Line) (err : Option Nat) : State :=
  { s with resps := s.resps.map fun r =>
      if r.uid = q.uid ∧ r.line = q.line ∧ r.own = true ∧ r.stream = q.stream ∧ r.data = none ∧ r.err = none then
        { r with data := data, err := err } else r }

/-- A controller performs its next read: the data after correction go to the miss entry, or through key and stream to the request
that asked; a line of another package comes across the fabric (R69, R92, R101, R286, R386). -/
def execControllerRead (ctrl : Nat) (s : State) : Host.Outcome State Fault Refusal :=
  match firstRead ((s.ctrls.getD ctrl Ctrl.reset).queue) [] with
  | none => .next s
  | some q =>
    let s := setCtrl s ctrl fun c => { c with queue := c.queue.erase q }
    let s := if isRemote s q.line then crossFabric s none else s
    match q.what, lineErr s q.rep q.line with
    | .write .., _ => .next s
    | .fill, some e => .next (sendAll (failFill s q.line e))
    | .fill, none => .next (sendAll (giveFill (countFix s q.swz q.line) q.line (fillData s q)))
    | .resp, some e => .next (sendAll (answerOwn s q none (some e)))
    | .resp, none =>
      let r := streamRead s false q.rep q.swz none q.stream q.line
      .next (sendAll (answerOwn r.1 q (some r.2) none))

/-- A controller performs its next write (R69, R103).
Log 41 (DEDUCED), 42 (DEDUCED). -/
def execControllerWrite (ctrl : Nat) (s : State) : Host.Outcome State Fault Refusal :=
  match firstWrite (s.ctrls.getD ctrl Ctrl.reset).queue with
  | none => .next s
  | some q =>
    let s := setCtrl s ctrl fun c => { c with queue := c.queue.erase q }
    match q.what with
    | .write mask data => .next (sendAll (dramWrite s q.swz q.line mask data))
    | _ => .next s

/-- The scrubber of a controller rewrites the correctable lines of its live regions; no value changes (R69, R73).
Log 9 (DESIGN CHOICE). -/
def execPatrolScrub (ctrl : Nat) (s : State) : Host.Outcome State Fault Refusal :=
  let mine := fun (line : Nat) =>
    decide (ctrlOf (lineSwz s line) (line * 128) = ctrl) && decide (regionOf (line * 128) ∈ s.live)
  let n := (s.weak.filter mine).length
  .next { setCtrl s ctrl (fun c => { c with corrected := c.corrected + n, scrubbed := c.scrubbed + n }) with
    weak := s.weak.filter fun l => !mine l }

/-- Refresh changes nothing that an agent can read (R74). -/
def execRefresh (_ctrl : Nat) (s : State) : Host.Outcome State Fault Refusal := .next s

/-- The congestion level that follows a level at an occupancy (R75). -/
def nextLevel (level occ : Nat) : Nat :=
  if 486 < occ then 2
  else if 435 < occ then (if level = 2 ∧ 460 < occ then 2 else 1)
  else if occ ≤ 384 then 0
  else min level 1

/-- A controller's queue occupancy changes, and with it the level that every kiln sees: the requests that the model holds and those that it
does not, 512 at most (R75).
Log 41 (DEDUCED). -/
def execCongestionLevel (ctrl : Nat) (occ : Nat) (s : State) : Host.Outcome State Fault Refusal :=
  if 512 < occ ∨ occ < (s.ctrls.getD ctrl Ctrl.reset).queue.length then .next s else .next (setCtrl s ctrl fun c => { c with level := nextLevel c.level occ })

/-- The switch directory takes a remote line back for another package's write, or turns an owned copy into a read-only one for its read
(R100, R286, R287).
Log 52 (DEDUCED), 117 (DESIGN CHOICE), 158 (DEDUCED). -/
def execDirectoryRecall (line : Nat) (exclusive : Bool) (s : State) : Host.Outcome State Fault Refusal :=
  if !isRemote s line then .next s
  else
    let s := recallL1 s line
    match mget none s.llc line with
    | none => .next (if exclusive then dirLeave s line else s)
    | some l =>
      let s := if l.st = .rown then dramWrite s l.swz line fullMask l.data else s
      if exclusive then .next (dirLeave { s with llc := mset none s.llc line none } line)
      else .next (dirRead { s with llc := mset none s.llc line (some { l with st := .rsh }) } line)

end Sys2Proof.Machine
end

