-- ==== Sys2Proof/Machine/Fabric.lean ====
section
/-! DEFINITION. The fabric links and the device time counter's beacons (R288, R289, R297). -/

namespace Sys2Proof.Machine

/-- Cycles of the arithmetic clock in ten milliseconds (R297). -/
def beaconWindow : Nat := 40000000

/-- A beacon arrives: the first after reset, during link training, sets GTC once; a later one steers it by slewing only, and a return
is reported (R297).
Log 116 (DESIGN CHOICE). -/
def execBeaconArrive (time : DWord) (s : State) : Host.Outcome State Fault Refusal :=
  let g := s.gtc
  if !g.aligned && !g.trained then
    .next { s with gtc := { g with value := time, beaconAt := s.now, aligned := true, arriving := true } }
  else
    let t := { s with gtc := { g with slew := (time - g.value).toInt, beaconAt := s.now, aligned := true, arriving := true } }
    if g.aligned && !g.arriving then .next (report t 0 3 0 0 0 0) else .next t

/-- Ten milliseconds without a beacon: GTC runs free, the loss of agreement is reported, and the window of the one step is over; before
that nothing happens (R297).
Log 116 (DESIGN CHOICE). -/
def execBeaconTimeout (s : State) : Host.Outcome State Fault Refusal :=
  if s.now < s.gtc.beaconAt + beaconWindow then .next s
  else
    let t := { s with gtc := { s.gtc with slew := 0, arriving := false, trained := true } }
    if s.gtc.arriving then .next (report t 0 2 0 0 0 0) else .next t

/-- A link updated.
Log 115 (DEDUCED). -/
def setLink (s : State) (k : Nat) (f : Link → Link) : State := { s with links := s.links.modify k f }

/-- The bytes of a group, flit after flit (R288). -/
def groupBytes (data : BitVec 2048) : List Byte := bytesOfNat 256 data.toNat

/-- What a group's arrival does to its link: released once and in order if its tag verifies; discarded whole otherwise, and the group that
is awaited asked for again if it is the one that failed (R288).
Log 114 (DESIGN CHOICE). -/
def linkReceive (l : Link) (seq : BitVec 3) (data : BitVec 2048) (tag : DWord) : Link :=
  if !l.up || decide (seq ≠ l.rxNext) then l
  else if crc64 (groupBytes data) ≠ tag.toNat then { l with fails := l.fails + 1, asks := l.asks ++ [seq] }
  else { l with fails := 0, rxNext := l.rxNext + 1, rxOut := l.rxOut ++ [data] }

/-- A group of flits with its tag arrives at a link (R288).
Log 114 (DESIGN CHOICE). -/
def execFlitGroupReceive (link : Nat) (seq : BitVec 3) (data : BitVec 2048) (tag : DWord) (s : State) :
    Host.Outcome State Fault Refusal := .next (setLink s link fun l => linkReceive l seq data tag)

/-- The far end asks again for a group: the buffer is sent again, in order from that group, and the groups before it are known to have
arrived (R288, R289). -/
def linkReplay (l : Link) (seq : BitVec 3) : Link :=
  if !l.up then l
  else
    let run := l.txBuf.dropWhile fun g => decide (g.seq ≠ seq)
    { l with
      txOut := l.txOut ++ run
      acked := if run.isEmpty then l.acked else l.txBuf.length - run.length
      asked := seq
      askedRun := if l.asked = seq then l.askedRun + 1 else 1 }

/-- A request for a replay arrives at a link (R288).
Log 114 (DESIGN CHOICE). -/
def execGroupReplay (link : Nat) (seq : BitVec 3) (s : State) : Host.Outcome State Fault Refusal :=
  .next (setLink s link fun l => linkReplay l seq)

/-- Whether a group has failed eight consecutive replays on a link (R289).
Log 115 (DEDUCED). -/
def linkFailed (l : Link) : Bool := l.up && (decide (9 ≤ l.fails) || decide (9 ≤ l.askedRun))

/-- A group moved to a link from one that is down: it goes out under the link's own next number, and nothing leaves its buffer for it
(R289). -/
def moveGroup (l : Link) (g : FlitGroup) : Link :=
  let h : FlitGroup := { g with seq := l.txSeq }
  { l with txSeq := l.txSeq + 1, txBuf := l.txBuf ++ [h], txOut := l.txOut ++ [h] }

/-- A link of this package goes down: its unacknowledged groups move to another link, and the loss is reported; with no link left no
other package can be reached (R289).
Log 115 (DEDUCED). -/
def ownLinkDown (s : State) (link : Nat) (l : Link) : State :=
  let left := (List.range s.links.length).filter fun k =>
    decide (k ≠ link) && (match s.links[k]? with | some x => x.up | none => false)
  let s := setLink s link fun l => { l with up := false, txBuf := if left.isEmpty then l.txBuf else [], acked := 0 }
  let s := match left with
    | [] => { s with unreach := (List.range s.domain).filter fun p => decide (p ≠ s.pkg) }
    | k :: _ => setLink s k fun x => (l.txBuf.drop l.acked).foldl moveGroup x
  report s 0 1 0 0 0 link

/-- A link of another package goes down; with all 20 of them down that package cannot be reached (R289).
Log 115 (DEDUCED). -/
def peerLinkDown (s : State) (p k : Nat) : State :=
  if p = s.pkg ∨ s.domain ≤ p ∨ 20 ≤ k then s
  else
    let mask := mget 0 s.peerDown p ||| 2 ^ k
    let s := { s with peerDown := mset 0 s.peerDown p mask }
    if mask = 2 ^ 20 - 1 ∧ p ∉ s.unreach then { s with unreach := s.unreach ++ [p] } else s

/-- A link goes down: one of this package that has failed, or one of another, whose links are numbered from 32 * (package + 1) on
(R289).
Log 115 (DEDUCED). -/
def execLinkDown (link : Nat) (s : State) : Host.Outcome State Fault Refusal :=
  if 32 ≤ link then .next (peerLinkDown s (link / 32 - 1) (link % 32))
  else match s.links[link]? with
    | none => .next s
    | some l => if linkFailed l then .next (ownLinkDown s link l) else .next s

end Sys2Proof.Machine
end

