-- ==== Sys2Proof/Machine/Packet.lean ====
section
/-! DEFINITION. The command front end's queues and the life of a packet: accepting (R153, R154, R363), starting in order (R154,
R157), completing and failing (R155, R168), and FENCE and INDIRECT (R166, R368). -/

namespace Sys2Proof.Machine

/-! Packet fields. -/

/-- n bytes of a packet from byte b, as a number. -/
def pktNum (p : Packet) (b n : Nat) : Nat := bitsOf p.raw.toNat (8 * (b + n) - 1) (8 * b)
/-- KIND (R157). -/
def pktKind (p : Packet) : Nat := pktNum p 1 1
/-- FLAGS (R157).
Log 100 (DEDUCED). -/
def pktFlag (p : Packet) (b : Nat) : Bool := (pktNum p 2 1).testBit b
/-- SEQ (R157). -/
def pktSeq (p : Packet) : Nat := pktNum p 3 5
/-- CWVA (R157). -/
def pktCw (p : Packet) : Nat := pktNum p 8 8

/-- Whether the header of a packet is refused as BADPKT: its reserved flags, its scope and its completion word (R157, R158,
R168).
Log 100 (DEDUCED). -/
def headBad (p : Packet) : Bool :=
  let sc := pktNum p 2 1 / 16 % 8
  let cw := pktCw p
  pktFlag p 1 || pktFlag p 3 || pktFlag p 7 || decide (pktKind p = 0) || decide (9 < pktKind p) || decide (sc = 7)
    || decide (2 ^ 52 ≤ cw) || decide (cw % 8 ≠ 0) || (decide (cw ≠ 0) && decide (sc < 4))

/-- The address space of a packet's accesses: its queue's ASID, at user level, or for a record of COLL its segment's (R122, R152).
Log 93 (DEDUCED). -/
def pktSpace (p : Packet) : Space := { vi := p.vi, asid := p.asid, user := p.user }

/-- An accepted packet by its number. -/
def findPkt (s : State) (pid : Nat) : Option Packet := s.packets.find? fun p => p.pid = pid

/-- A packet updated. -/
def setPkt (s : State) (pid : Nat) (f : Packet → Packet) : State :=
  { s with packets := s.packets.map fun p => if p.pid = pid then f p else p }

/-- A packet whose work has failed with a status, the first being kept (R155, R159). -/
def failPkt (s : State) (pid : Nat) (c : Byte) : State :=
  setPkt s pid fun p => { p with st := .failed, status := if p.status = 0 then c else p.status }

/-- A packet whose work is done. -/
def donePkt (s : State) (pid : Nat) : State := setPkt s pid fun p => { p with st := .moved }

/-! Queues. -/

/-- The space under which a queue's header is reached: its recorded control ASID (R391).
Log 93 (DEDUCED). -/
def ctlSpace (q : Queue) : Space := { vi := q.vi, asid := q.ctlAsid, user := false }

/-- The queue of an interface with a header VA. -/
def queueAt (s : State) (vi hva : Nat) : Option Queue := s.queues.find? fun q => q.vi = vi && q.hva = hva

/-- A queue updated. -/
def setQueue (s : State) (vi hva : Nat) (f : Queue → Queue) : State :=
  { s with queues := s.queues.map fun q => if q.vi = vi ∧ q.hva = hva then f q else q }

/-- Packets of a queue, in index order. -/
def queuePkts (s : State) (q : Queue) : List Packet := s.packets.filter fun p => p.vi = q.vi && p.queue = some q.hva

/-- Whether a queue has work: WRIDX differs from RDIDX, or a packet that it gave has not started (R363). -/
def queueWork (s : State) (q : Queue) : Bool :=
  (match read64 s (ctlSpace q) q.hva, read64 s (ctlSpace q) (q.hva + 8) with
   | some w, some r => decide (w ≠ r)
   | _, _ => false) || (queuePkts s q).any fun p => decide (p.st = .accepted)

/-- Whether a queue may hold a hardware slot: it is registered, runs, and its interface is not switched out (R155, R156, R382). -/
def queueLive (s : State) (q : Queue) : Bool := !q.waiting && !q.unreg && !q.halted && !(viOf s q.vi).switchedOut

/-- Mapped queues. -/
def mappedQueues (s : State) : List Queue := s.queues.filter fun q => q.slot.isSome

/-- The queue mapped longest. -/
def oldestMapped (l : List Queue) : Option Queue :=
  l.foldl (fun (a : Option Queue) q => match a with
    | none => some q
    | some b => if q.slot.getD 0 < b.slot.getD 0 then some q else some b) none

/-- A queue with work given a hardware slot, one of the 256 or that of the queue mapped longest once that has been mapped for 2 ms;
slot holds the time of mapping (R363). -/
def mapQueue (s : State) (q : Queue) : State :=
  if q.slot.isSome || !queueLive s q || !queueWork s q then s
  else
    let take := fun (t : State) => setQueue t q.vi q.hva fun x => { x with slot := some t.now }
    let m := mappedQueues s
    if m.length < 256 then take s
    else match oldestMapped m with
      | some o =>
        if o.slot.getD 0 + 8000000 ≤ s.now then take (setQueue s o.vi o.hva fun x => { x with slot := none }) else s
      | none => s

/-- Queues that have halted or whose work has run out unmapped (R363). -/
def unmapIdle (s : State) : State :=
  { s with queues := s.queues.map fun q =>
      if q.slot.isSome ∧ (queueLive s q = false ∨ queueWork s q = false) then { q with slot := none } else q }

/-- A write of a queue's header VA to its interface's doorbell (R363). -/
def execDoorbell (vi : Nat) (value : DWord) (s : State) : Host.Outcome State Fault Refusal :=
  if !s.boot.ready then .next s
  else match queueAt s vi value.toNat with
    | none => .next s
    | some q => .next (mapQueue s q)

/-- The scan of every registered queue (R363). -/
def execQueueScan (s : State) : Host.Outcome State Fault Refusal := .next (s.queues.foldl mapQueue (unmapIdle s))

/-- The front end copies the packet at RDIDX of a mapped queue, once its VALID byte is right, and raises RDIDX (R153, R154). -/
def execPacketAccept (vi hva : Nat) (s : State) : Host.Outcome State Fault Refusal :=
  match queueAt s vi hva with
  | none => .next s
  | some q =>
    if q.slot.isNone || !queueLive s q then .next s
    else match read64 s (ctlSpace q) (hva + 8) with
      | none => .next s
      | some n =>
        let sp : Space := { vi := vi, asid := q.asid, user := true }
        match readVa s sp (q.ring + 64 * (n % 2 ^ q.log2n)) 64 with
        | none => .next s
        | some bs =>
          if numAt bs 0 1 ≠ 0x80 + n / 2 ^ q.log2n % 128 then .next s
          else
            let p : Packet :=
              { pid := s.fresh, queue := some hva, idx := n, raw := BitVec.ofNat 512 (natOfBytes bs), vi := vi, asid := q.asid, user := true,
                st := .accepted, status := 0, tile := none, buf := [], got := [], done := [], parent := none, left := 0 }
            let t := { s with fresh := s.fresh + 1, packets := s.packets ++ [p] }
            .next (settle (unmapIdle ((writeVa t (ctlSpace q) (hva + 8) (bytesOfNat 8 (n + 1))).getD t)))

/-! Starting. -/

/-- Packets of the same queue before a packet, the INDIRECT that holds it aside (R154, R368). -/
def earlierPkts (s : State) (p : Packet) : List Packet :=
  (s.packets.takeWhile fun x => decide (x.pid ≠ p.pid)).filter fun x =>
    x.vi = p.vi && x.queue = p.queue && decide (some x.pid ≠ p.parent)

/-- Whether an accepted packet may start now: in index order on a mapped queue, after every earlier one has completed for BAR and
FENCE (R154). What the COLL instruction hands over starts at once (R301). -/
def canStart (s : State) (p : Packet) : Bool :=
  match p.queue with
  | none => true
  | some h =>
    let before := earlierPkts s p
    (match queueAt s p.vi h with | some q => q.slot.isSome && queueLive s q | none => false)
      && !(before.any fun x => decide (x.st = .accepted))
      && (before.isEmpty || !(pktFlag p 0 || decide (pktKind p = 9)))

/-- Whether a packet's KIND cannot be run: no kind at all, or, for a record that COLL issued, any but a collective's (R158, R301). -/
def badKind (p : Packet) : Bool := decide (pktKind p = 0 ∨ 9 < pktKind p ∨ (p.queue = none ∧ pktKind p ≠ 6))

/-- A packet of a kind taken up: refused by its header, or run. run gets the packet as it stands, accepted or started (R157,
R160). -/
def withPkt (s : State) (pid kind : Nat) (run : Packet → State → State) : Host.Outcome State Fault Refusal :=
  match findPkt s pid with
  | none => .next s
  | some p =>
    if pktKind p ≠ kind ∨ badKind p = true then .next s
    else match p.st with
      | .accepted =>
        if !canStart s p then .next s
        else if headBad p then .next (failPkt s pid 1)
        else .next (run p s)
      | .started => .next (run p s)
      | _ => .next s

/-- FENCE (R166). -/
def execFence (pid : Nat) (s : State) : Host.Outcome State Fault Refusal :=
  withPkt s pid 9 fun p s => if pktNum p 16 48 ≠ 0 then failPkt s pid 1 else donePkt s pid

/-- The packets of a block, as the front end runs them in the INDIRECT's place (R368).
Log 94 (DEDUCED). -/
def innerPkts (p : Packet) (first : Nat) (bs : List Byte) (n : Nat) : List Packet :=
  (List.range n).map fun j =>
    { pid := first + j, queue := p.queue, idx := p.idx, raw := BitVec.ofNat 512 (numAt bs (64 * j) 64), vi := p.vi, asid := p.asid,
      user := p.user, st := .accepted, status := 0, tile := none, buf := [], got := [], done := [], parent := some p.pid, left := 0 }

/-- A packet replaced in the list by itself and others after it.
Log 94 (DEDUCED). -/
def insertAfter (pid : Nat) (q : Packet) (new : List Packet) : List Packet → List Packet
  | [] => []
  | p :: t => if p.pid = pid then q :: new ++ t else p :: insertAfter pid q new t

/-- Whether a packet's ASID entry is valid for its interface (R115, R370).
Log 124 (DEDUCED). -/
def asidOk (s : State) (vi asid : Nat) : Bool := (asidEnt s asid).valid && decide ((asidEnt s asid).owner = vi)

/-- INDIRECT: its block read, and run as though its packets stood in the queue (R368 to R370).
Log 94 (DEDUCED). -/
def execIndirect (pid : Nat) (s : State) : Host.Outcome State Fault Refusal :=
  withPkt s pid 8 fun p s =>
    let block := pktNum p 16 8
    let n := pktNum p 24 4
    if p.st = .started then s
    else if p.parent.isSome then failPkt s pid 0x18
    else if 2 ^ 52 ≤ block ∨ block % 64 ≠ 0 ∨ n = 0 ∨ 2 ^ 20 < n ∨ pktNum p 28 36 ≠ 0 then failPkt s pid 1
    else if !asidOk s p.vi p.asid then failPkt s pid 0x12
    else match engineBytes s (pktSpace p) block (64 * n) with
      | .nores va psz => askPage s p.vi p.asid va psz true
      | .status c => failPkt s pid c
      | .ok bs =>
        let q := { p with st := PktState.started, left := n }
        let s := touchVa s p.vi p.asid block (64 * n)
        { s with fresh := s.fresh + n, packets := insertAfter pid q (innerPkts p s.fresh bs n) s.packets }

/-! Completing. -/

/-- What the raise of a completion word comes to (R168). -/
inductive Raise where
  | done (s : State)
  | wait (s : State)
  | status (c : Byte)

/-- The completion word of a packet raised: an atomic maximum with its word event in device memory, a plain write in host memory
(R168). -/
def raiseWord (s : State) (sp : Space) (va seq : Nat) : Raise :=
  if va = 0 then .done s
  else
    let s := tlbTouch s sp.vi sp.asid va
    match translate s sp va true false with
    | .nores psz => .wait (askPage s sp.vi sp.asid va psz true)
    | .malf => .status 4
    | .prot _ => .status 3
    | .ok x => match x.loc with
      | .host _ => .done (writeX s x sp.asid va 0 (bytesOfNat 8 seq))
      | .dev a => .done (wordEvent (atomWrite s x sp.asid va 0 (bytesOfNat 8 (max (natOfBytes (readXs s x 0 8)) seq))) a)

/-- ERR of a queue's header written, unless ERRV is set already: in the state reached, or in one that waits for the header's page; it
stays unwritten where the page has become unwritable (R155). -/
def writeErr (s : State) (q : Queue) (err : Nat) : Except State State :=
  let va := q.hva + 32
  match translate s (ctlSpace q) va true false with
  | .nores psz => .error (askPage s q.vi q.ctlAsid va psz true)
  | .ok x => .ok (if (natOfBytes (readXs s x 0 8)).testBit 63 then s else writeX s x q.ctlAsid va 0 (bytesOfNat 8 err))
  | _ => .ok s

/-- The packets of the block of a failed inner packet that have not started dropped (R368). -/
def dropBlock (s : State) (p : Packet) (c : Byte) : State :=
  let drop := fun (x : Packet) => decide (p.parent.isSome ∧ x.parent = p.parent ∧ x.st = .accepted)
  let n := (s.packets.filter drop).length
  let s := { s with packets := s.packets.filter fun x => !drop x }
  match p.parent with
  | some d => setPkt s d fun x => { x with left := x.left - n, status := if x.status = 0 then c else x.status }
  | none => s

/-- The failure of a packet told to its queue, which halts: the state reached, or one that waits for the header's page before ERR can be
written (R155, R368). -/
def haltQueue (s : State) (p : Packet) (c : Byte) : Except State State :=
  match p.queue with
  | none => .ok s
  | some h => match queueAt s p.vi h with
    | none => .ok s
    | some q =>
      let s := setQueue s p.vi h fun q => { q with halted := true, slot := none }
      match writeErr s q (p.idx % 2 ^ 40 + c.toNat * 2 ^ 40 + 2 ^ 63) with
      | .error t => .error t
      | .ok t => .ok (dropBlock t p c)

/-- An inner packet that has completed counted in its INDIRECT, which is done with its last one (R368). -/
def tellParent (s : State) (p : Packet) : State :=
  match p.parent with
  | none => s
  | some d => setPkt s d fun x =>
      { x with left := x.left - 1, st := if x.left ≤ 1 then (if x.status = 0 then .moved else .failed) else x.st }

/-- The interrupt of a completed packet (R157, R168). -/
def pktIrq (s : State) (p : Packet) : State :=
  match p.queue with
  | none => s
  | some h => match queueAt s p.vi h with
    | some q => if pktFlag p 2 && q.irqen then { s with out := s.out ++ [.msix p.vi q.vec] } else s
    | none => s

/-- Whether a packet's completion word can be raised at all: it has one, aligned and in range, with a scope that reaches it (R168). -/
def cwRaised (p : Packet) : Bool :=
  let sc := pktNum p 2 1 / 16 % 8
  let cw := pktCw p
  decide (cw ≠ 0 ∧ cw < 2 ^ 52 ∧ cw % 8 = 0 ∧ 4 ≤ sc ∧ sc ≤ 6)

/-- The collective sequence of an interface raised to the COLLID of a collective that has completed, never backwards (R299). -/
def raiseSeq (s : State) (p : Packet) : State :=
  if pktKind p ≠ 6 ∨ p.st = .failed then s
  else
    let id : Word := BitVec.ofNat 32 (pktNum p 44 4)
    setVi s p.vi fun v => if (id - v.collSeq).toNat ≠ 0 ∧ (id - v.collSeq).toNat < 2 ^ 31 then { v with collSeq := id } else v

/-- The failure of a record that COLL issued, which belongs to no queue, reported (R301). -/
def collReport (s : State) (p : Packet) (c : Byte) : State :=
  if p.queue.isNone ∧ c ≠ 0 then report s p.vi 14 (p.done.headD 0) p.asid p.idx c.toNat else s

/-- The last part of a packet's end: its interrupt, its INDIRECT told, and what waits for it tested. -/
def leavePkt (s : State) (p : Packet) : State :=
  let s := pktIrq s p
  let s := tellParent { s with packets := s.packets.filter fun x => decide (x.pid ≠ p.pid) } p
  unmapIdle (settle (saveCrews s))

/-- The end of a packet whose queue has been told of its failure, if it failed: the completion word, the collective sequence, the interrupt
(R155, R168, R299). A raise that fails leaves the packet's effect and gives its status. -/
def raisePkt (s : State) (p : Packet) : State :=
  match (if cwRaised p then raiseWord s (pktSpace p) (pktCw p) (pktSeq p) else Raise.done s) with
  | .wait t => t
  | .done t => leavePkt (raiseSeq (collReport t p p.status) p) p
  | .status c =>
    if p.st = .failed then leavePkt (raiseSeq (collReport s p p.status) p) p
    else
      let q := { p with status := c }
      match haltQueue s p c with
      | .error t => failPkt t p.pid c
      | .ok t => leavePkt (raiseSeq (collReport (setPkt t p.pid fun x => { x with status := c }) q c) q) q

/-- The end of a packet whose work is done or has failed: ERR and the halt come first (R155). -/
def endPkt (s : State) (p : Packet) : State :=
  if p.st = .failed then (match haltQueue s p p.status with
    | .error t => t
    | .ok t => raisePkt t p)
  else raisePkt s p

/-- A packet completes, once its work is done or has failed; a packet of an unknown kind fails when it would start (R158, R168). -/
def execPacketComplete (pid : Nat) (s : State) : Host.Outcome State Fault Refusal :=
  match findPkt s pid with
  | none => .next s
  | some p => match p.st with
    | .moved | .failed => .next (endPkt s p)
    | .accepted =>
      if p.queue.isSome && badKind p && canStart s p then
        .next (endPkt (failPkt s pid 1) { p with st := .failed, status := 1 })
      else .next s
    | .started => .next s

end Sys2Proof.Machine
end

