-- ==== Sys2Proof/Machine/Copy.lean ====
section
/-! DEFINITION. The copy engines' packets: COPY (R161, R162), TCOPY (R163 to R165, R149), the tiles they hold (R169), STAGE (R166)
and GLZLOAD (R89 to R91, R96, R167). -/

namespace Sys2Proof.Machine

/-! Lines of a virtual range. -/

/-- A whole line of a virtual line number as an engine reads it through a key and a stream (R71, R92). -/
def readLineVa (s : State) (sp : Space) (key : Option (BitVec 512)) (k : BitVec 6) (vl : Nat) : State × Line :=
  let s := tlbTouch s sp.vi sp.asid (vl * 128)
  match translate s sp (vl * 128) false false with
  | .ok x => match x.loc with
    | .dev a => streamRead s (!uncached s x (a / 128)) x.rep x.swz key k (a / 128)
    | .host h => (s, lineOf ((List.range 128).map fun i => readHost s (h + i)))
  | _ => (s, 0)

/-- The masked bytes of a virtual line written by an engine through a key and a stream, replicas included (R93, R113). -/
def writeLineVa (s : State) (sp : Space) (key : Option (BitVec 512)) (k : BitVec 6) (vl : Nat) (mask : BitVec 128) (data : Line) :
    State :=
  if mask = 0 then s else
  let s := tlbTouch s sp.vi sp.asid (vl * 128)
  match translate s sp (vl * 128) true false with
  | .ok x => (match x.loc with
    | .host h =>
      let s := landHost s
      { s with host := (List.range 128).foldl (fun m i =>
          if mask.getLsbD i then mset 0 m (h + i) (lineByte data i) else m) s.host }
    | .dev a =>
      let t := lineThrough s x.ord x.rep x.swz key k (a / 128) mask data
      match x.rep with
      | none => t
      | some b => if b ∈ t.unreach then markStale t sp.asid (vl * 128) b a else t)
  | _ => s

/-- What an engine meets on a virtual line that it reads or writes through a stream: ready, a page to wait for, or a status; each line's
request is checked for its stream as it is issued (R88, R91, R159, R160). -/
def lineCheck (s : State) (sp : Space) (k : BitVec 6) (vl : Nat) (w : Bool) : RangeTr :=
  if (streamCheck s sp.vi k w).isSome then .status 7 else
  match translate s sp (vl * 128) w false with
  | .malf => .status 4
  | .prot _ => .status 3
  | .nores psz => .nores (vl * 128) psz
  | .ok x => match x.loc with
    | .host _ => .ok
    | .dev a => if !w && (lineErr s x.rep (a / 128)).isSome then .status 0xE else .ok

/-- The first thing that an engine meets on a list of virtual lines. -/
def linesCheck (s : State) (sp : Space) (k : BitVec 6) (w : Bool) (vls : List Nat) : RangeTr :=
  vls.foldl (fun r vl => match r with | .ok => lineCheck s sp k vl w | r => r) .ok

/-- The virtual lines of a range. -/
def vaLines (va n : Nat) : List Nat := lineSpan va n

/-- Lines read one after the other, each once; a line is found by its virtual line number. -/
def readLines (s : State) (sp : Space) (key : Option (BitVec 512)) (k : BitVec 6) (vls : List Nat) : State × List (Nat × Line) :=
  vls.foldl (fun (a : State × List (Nat × Line)) vl =>
    let r := readLineVa a.1 sp key k vl
    (r.1, a.2 ++ [(vl, r.2)])) (s, [])

/-- The byte at a virtual address among lines that have been read. -/
def byteIn (ls : List (Nat × Line)) (va : Nat) : Byte :=
  match ls.find? fun e => e.1 = va / 128 with
  | some e => lineByte e.2 (va % 128)
  | none => 0

/-- The mask of a line's bytes that satisfy f. -/
def lineMask (f : Nat → Bool) : BitVec 128 := BitVec.ofNat 128 ((List.range 128).foldl (fun a i => if f i then a + 2 ^ i else a) 0)

/-- A write of listed bytes by virtual address, one write for each line (R93). -/
def writeCells (s : State) (sp : Space) (key : Option (BitVec 512)) (k : BitVec 6) (cells : List (Nat × Byte)) : State :=
  ((cells.map fun c => c.1 / 128).dedup).foldl (fun t vl =>
    let mine := cells.filter fun c => c.1 / 128 = vl
    let has := fun (i : Nat) => mine.any fun c => c.1 % 128 = i
    let byte := fun (i : Nat) => match mine.find? fun c => c.1 % 128 = i with | some c => c.2 | none => (0 : Byte)
    writeLineVa t sp key k vl (lineMask has) (lineOf ((List.range 128).map byte))) s

/-- The cells that a failed transfer may have written: those of good lines, each aligned 8-byte word written or not as a free value
says (R160).
Log 95 (DEDUCED). -/
def someCells (s : State) (good : Nat × Byte → Bool) (cells : List (Nat × Byte)) : List (Nat × Byte) :=
  cells.filter fun c => good c && (Config.freeWord s.free (c.1 / 8)).getLsbD 0

/-! Tiles that packets hold (R169). -/

/-- A packet's tile taken: a status, none while it must wait, or the state with the tile held (R169, R186). -/
def takeTile (s : State) (p : Packet) (core phys off len : Nat) (flip write : Bool) : Except Byte (Option State) :=
  let t := tileAt s core phys
  let mine := match t.crew with | some (l, _) => (match launchOf s l with | some l => decide (l.vi = p.vi) | none => false) | none => false
  if t.hold then .ok none
  else if !mine || t.thread then .error 0xD
  else if t.mxr ≠ 0 then .ok none
  else
    let s := if write then holdTile s core phys flip off len
      else setTile s core phys fun t => { t with hold := true, flip := flip, st := .draining }
    .ok (some (setPkt s p.pid fun q => { q with st := .started, tile := some (core, phys, off, len) }))

/-- A packet's hold of its tile ends once it has written every line, or has read the tile: the tile is READY, or flips to the
threads (R169, R186).
Log 96 (DEDUCED). -/
def execTileHolderComplete (pid : Nat) (s : State) : Host.Outcome State Fault Refusal :=
  match findPkt s pid with
  | none => .next s
  | some p => match p.tile with
    | none => .next s
    | some (core, phys, off, len) =>
      if p.st ≠ .started ∨ !((lineSpan off len).all fun l => decide (l ∈ p.done)) then .next s
      else .next (releaseTile (setPkt s pid fun q => { q with st := .moved, tile := none }) core phys)

/-- A packet that fails while it fills a tile: bytes of its range in lines still empty are zero, those lines full, and the tile
completed (R169). -/
def failTile (s : State) (p : Packet) (c : Byte) (offs : List Nat) : State :=
  match p.tile with
  | none => failPkt s p.pid c
  | some (core, phys, off, len) =>
    let empty := rangeLines off len &&& ~~~(tileAt s core phys).full
    let s := offs.foldl (fun t o => if empty.getLsbD (o / 128) then padWrite t core phys o [0] else t) s
    let s := setTile s core phys fun t => { t with full := t.full ||| rangeLines off len }
    releaseTile (failPkt (setPkt s p.pid fun q => { q with tile := none }) p.pid c) core phys

/-- A packet that fails while it reads a tile: the tile is let go as it is (R169). -/
def dropTile (s : State) (p : Packet) (c : Byte) : State :=
  match p.tile with
  | none => failPkt s p.pid c
  | some (core, phys, _, _) => releaseTile (failPkt (setPkt s p.pid fun q => { q with tile := none }) p.pid c) core phys

/-- Source lines of a packet that fills a tile read, each once: all that can be read now; with none, the page that the first of the rest
waits for is asked for, or its failure is the packet's (R160, R169).
Log 96 (DEDUCED). -/
def fillRead (s : State) (p : Packet) (key : Option (BitVec 512)) (k : BitVec 6) (vls : List Nat) (offs : List Nat) : State :=
  let rest := vls.filter fun v => !(p.got.any fun e => e.1 = v)
  match rest.filter (fun v => decide (lineCheck s (pktSpace p) k v false = .ok)) with
  | v :: l => let r := readLines s (pktSpace p) key k (v :: l); setPkt r.1 p.pid fun q => { q with got := q.got ++ r.2 }
  | [] => match linesCheck s (pktSpace p) k false rest with
    | .nores va psz => askPage s p.vi p.asid va psz true
    | .status c => failTile s p c offs
    | .ok => s

/-- Whether a packet has read some source lines. -/
def hasRead (p : Packet) (vls : List Nat) : Bool := vls.all fun v => p.got.any fun e => e.1 = v

/-! COPY. -/

/-- COPY's fields (R161). -/
structure CopyPkt where
  src : Nat
  dst : Nat
  len : Nat
  sglz : BitVec 6
  dglz : BitVec 6
  dtile : Bool
  flip : Bool
  fill : Bool
  pat : Nat
deriving DecidableEq, Repr

/-- The fields of a COPY packet (R161). -/
def copyOf (p : Packet) : CopyPkt :=
  let ctl := pktNum p 40 8
  { src := pktNum p 16 8, dst := pktNum p 24 8, len := pktNum p 32 8, sglz := BitVec.ofNat 6 ctl,
    dglz := BitVec.ofNat 6 (ctl / 64), dtile := ctl.testBit 12, flip := ctl.testBit 13, fill := ctl.testBit 14, pat := pktNum p 48 8 }

/-- Whether a COPY packet is refused as BADPKT (R161). -/
def copyBad (p : Packet) : Bool :=
  let c := copyOf p
  decide (pktNum p 56 8 ≠ 0 ∨ 2 ^ 32 ≤ c.pat ∨ 2 ^ 15 ≤ pktNum p 40 8 ∨ c.len = 0 ∨ 2 ^ 40 ≤ c.len ∨ 2 ^ 52 ≤ c.src)
    || (c.fill && decide (c.src ≠ 0 ∨ c.sglz ≠ 0))
    || (if c.dtile then decide (2 ^ 28 ≤ c.dst ∨ 96 ≤ bitsOf c.dst 13 7 ∨ 16384 < bitsOf c.dst 27 14 + c.len ∨ c.dglz ≠ 0)
        else c.flip || decide (2 ^ 52 ≤ c.dst))

/-- Bytes n of COPY's source: the pattern, or memory through its read stream (R162). -/
def copyBytes (s : State) (p : Packet) : State × List Byte :=
  let c := copyOf p
  if c.fill then (s, (List.range c.len).map fun i => BitVec.ofNat 8 (c.pat / 256 ^ (i % 4)))
  else
    let r := readLines s (pktSpace p) none c.sglz (vaLines c.src c.len)
    (r.1, (List.range c.len).map fun i => byteIn r.2 (c.src + i))

/-- What COPY in memory meets on its source and destination. -/
def copyCheck (s : State) (p : Packet) : RangeTr :=
  let c := copyOf p
  match (if c.fill then RangeTr.ok else linesCheck s (pktSpace p) c.sglz false (vaLines c.src c.len)) with
  | .ok => linesCheck s (pktSpace p) c.dglz true (vaLines c.dst c.len)
  | r => r

/-- COPY that fails on a page it reaches: some of the bytes whose pages are good may have been written (R160).
Log 95 (DEDUCED). -/
def copyPart (s : State) (p : Packet) : State :=
  let c := copyOf p
  let sp := pktSpace p
  let r := copyBytes s p
  let good := fun (x : Nat × Byte) =>
    (c.fill || decide (lineCheck s sp c.sglz ((c.src + (x.1 - c.dst)) / 128) false = .ok)) && decide (lineCheck s sp c.dglz (x.1 / 128) true = .ok)
  let cells := (List.range c.len).map fun i => (c.dst + i, r.2.getD i 0)
  let t := writeCells r.1 sp none c.dglz (someCells s good cells)
  { t with free := t.free + 1 }

/-- COPY in memory (R162): bytes read and then written, or a page waited for (R160).
Log 95 (DEDUCED). -/
def copyMove (s : State) (p : Packet) : State :=
  let c := copyOf p
  match copyCheck s p with
  | .nores va psz => askPage (setPkt s p.pid fun q => { q with st := .started }) p.vi p.asid va psz true
  | .status x => failPkt (copyPart s p) p.pid x
  | .ok =>
    let r := copyBytes s p
    donePkt (writeCells r.1 (pktSpace p) none c.dglz ((List.range c.len).map fun i => (c.dst + i, r.2.getD i 0))) p.pid

/-- COPY's source lines read for its tile (R162, R169). -/
def copyTile (s : State) (p : Packet) (off : Nat) : State :=
  let c := copyOf p
  if c.fill then s
  else fillRead s p none c.sglz (vaLines c.src c.len) ((List.range c.len).map (off + ·))

/-- The bytes that COPY gives to bytes lo to hi - 1 of its tile, as offset and byte, once their source is read (R162). -/
def copyCells (p : Packet) (off lo hi : Nat) : Option (List (Nat × Byte)) :=
  let c := copyOf p
  if c.fill then some ((List.range (hi - lo)).map fun i => (lo + i, BitVec.ofNat 8 (c.pat / 256 ^ ((lo - off + i) % 4))))
  else if hasRead p (vaLines (c.src + (lo - off)) (hi - lo)) then
    some ((List.range (hi - lo)).map fun i => (lo + i, byteIn p.got (c.src + (lo - off) + i)))
  else none

/-- COPY (R161, R162, R169). -/
def execCopy (pid : Nat) (s : State) : Host.Outcome State Fault Refusal :=
  withPkt s pid 1 fun p s =>
    let c := copyOf p
    if p.st = .accepted ∧ copyBad p then failPkt s pid 1
    else if p.st = .accepted ∧ ((streamCheck s p.vi c.sglz false).isSome ∨ (streamCheck s p.vi c.dglz true).isSome) then failPkt s pid 7
    else if !c.dtile then copyMove s p
    else
      let off := bitsOf c.dst 27 14
      match p.tile with
      | some _ => copyTile s p off
      | none => match takeTile s p (bitsOf c.dst 13 7) (bitsOf c.dst 6 0) off c.len c.flip true with
        | .error x => failPkt s pid x
        | .ok none => setPkt s pid fun q => { q with st := .started }
        | .ok (some t) => match findPkt t pid with | some q => copyTile t q off | none => t

/-! TCOPY. -/

/-- TCOPY's fields (R163). -/
structure TcopyPkt where
  lrec : Nat
  origin : List Nat
  rows : Nat
  cols : Nat
  rdim : Nat
  out : Bool
  tile : Nat
  core : Nat
  flip : Bool
deriving DecidableEq, Repr

/-- The fields of a TCOPY packet (R163). -/
def tcopyOf (p : Packet) : TcopyPkt :=
  let x := pktNum p 42 6
  { lrec := pktNum p 16 8, origin := (List.range 6).map fun i => pktNum p (24 + 3 * i) 3, rows := bitsOf x 13 0,
    cols := bitsOf x 27 14, rdim := bitsOf x 30 28, out := x.testBit 31, tile := bitsOf x 38 32, core := bitsOf x 45 39,
    flip := x.testBit 46 }

/-- The coordinates of a linear mesh index (R131). -/
def meshCoords (l : LayRec) (c : Nat) : List Nat :=
  let m := fun (j : Nat) => l.mesh.getD j 1
  [c % m 0, c / m 0 % m 1, c / (m 0 * m 1) % m 2, c / (m 0 * m 1 * m 2) % m 3]

/-- The shard index along a dimension of a linear mesh index (R131). -/
def shardIdx (l : LayRec) (c d : Nat) : Nat :=
  let cs := meshCoords l c
  (List.range 4).foldl (fun n j => if l.sd.getD j 7 = d then n * l.mesh.getD j 1 + cs.getD j 0 else n) 0

/-- Element and scale sizes of a canonical layout (R148). -/
def canonSizes (cfmt : Nat) : Nat × Nat :=
  match cfmt with
  | 0 => (4, 0)
  | 1 => (2, 0)
  | 2 => (2, 0)
  | 5 => (1, 2)
  | _ => (1, 1)

/-- Scale bytes of a storage format (R130). -/
def storeScale (sfmt : Nat) : Nat := if sfmt = 5 ∨ sfmt = 6 ∨ sfmt = 7 then 2 else if scaledFmt sfmt then 1 else 0

/-- Where element e of a storage format lies in the storage image: its first byte, how many bytes it touches, the bit in them at which
it starts, and its width (R142). -/
def storeBits (sfmt e : Nat) : Nat × Nat × Nat × Nat :=
  match sfmt with
  | 0 => (4 * e, 4, 0, 32)
  | 1 | 2 => (2 * e, 2, 0, 16)
  | 6 | 8 => (e / 2, 1, 4 * (e % 2), 4)
  | 7 =>
    let b := 3 * (e % 32)
    (12 * (e / 32) + b / 8, if 5 < b % 8 then 2 else 1, b % 8, 3)
  | _ => (e, 1, 0, 8)

/-- A panel: its record, its shape and the local index of its first element in each dimension. -/
structure Panel where
  lay : LayRec
  rows : Nat
  cols : Nat
  rdim : Nat
  orig : List Nat
deriving DecidableEq, Repr

/-- The local index of element (r, k) along a dimension (R164). -/
def Panel.idx (x : Panel) (r k d : Nat) : Nat :=
  x.orig.getD d 0 + (if d = x.rdim then r else 0) + (if d = x.lay.kdim then k else 0)

/-- The storage index of element (r, k) (R142, R164). -/
def Panel.elem (x : Panel) (r k : Nat) : Nat :=
  (List.range x.lay.ndim).foldl (fun n d => n + x.idx r k d * x.lay.stride.getD d 0) 0

/-- The number of the stored group that holds element (r, k) (R130). -/
def Panel.groupNo (x : Panel) (r k : Nat) : Nat :=
  let g := x.lay.group
  let f := fun (d n : Nat) => if d = x.lay.kdim then n / g else n
  ((List.range x.lay.ndim).foldl (fun (a : Nat × Nat) d =>
    (a.1 + f d (x.idx r k d) * a.2, a.2 * f d (x.lay.localSize d))) (0, 1)).1

/-- The VA of a byte of the scale of element (r, k).
Log 97 (DEDUCED). -/
def Panel.scaleVa (x : Panel) (r k : Nat) : Nat := x.lay.scale + x.groupNo r k * storeScale x.lay.sfmt

/-- The tile offset of a byte, with the layout's swizzle applied to its word (R148). -/
def Panel.swz (x : Panel) (off : Nat) : Nat := bswz x.lay.tswz (off / 4 * 4) + off % 4

/-- The tile offset of element (r, c) before the swizzle (R148). -/
def Panel.elemOff (x : Panel) (r c : Nat) : Nat := (r * x.cols + c) * (canonSizes x.lay.cfmt).1

/-- The tile offset at which scales begin (R148). -/
def Panel.scaleBase (x : Panel) : Nat := (x.rows * x.cols * (canonSizes x.lay.cfmt).1 + 127) / 128 * 128

/-- The tile offset of the scale of element (r, c) before the swizzle (R148). -/
def Panel.scaleOff (x : Panel) (r c : Nat) : Nat :=
  x.scaleBase + (r * (x.cols / 32) + c / 32) * (canonSizes x.lay.cfmt).2

/-- The bytes that the panel and its scales take in the tile, gaps included (R148). -/
def Panel.size (x : Panel) : Nat :=
  let ss := (canonSizes x.lay.cfmt).2
  if ss = 0 then x.rows * x.cols * (canonSizes x.lay.cfmt).1 else x.scaleBase + x.rows * (x.cols / 32) * ss

/-- The tile range whose lines the panel writes, in whole lines. -/
def Panel.range (x : Panel) : Nat := min 16384 ((x.size + 127) / 128 * 128)

/-- The elements of the panel. -/
def Panel.elems (x : Panel) : List (Nat × Nat) := (List.range x.rows).flatMap fun r => (List.range x.cols).map fun c => (r, c)

/-- The first elements of the panel's blocks of 32 columns. -/
def Panel.blocks (x : Panel) : List (Nat × Nat) :=
  (List.range x.rows).flatMap fun r => (List.range (x.cols / 32)).map fun c => (r, 32 * c)

/-- The canonical code of a stored element with its scale (R149). -/
def canonElem (sfmt cfmt x g : Nat) : Nat :=
  let bf := fun (v : Num) => roundNum fbf16 .rne v
  match sfmt, cfmt with
  | 1, 0 => roundNum fp32 .rne (numOf fbf16 x)
  | 2, 0 => roundNum fp32 .rne (numOf fp16 x)
  | 3, 1 => bf ((numOf fk8e4 x).mul (s8Num g))
  | 4, 1 => bf ((numOf fk8e5 x).mul (s8Num g))
  | 8, 1 => bf ((numOf fk4 x).mul (s8Num g))
  | 8, 3 => roundNum fk8e4 .rne (numOf fk4 x)
  | 5, 1 => bf ((intNum 8 x).mul (numOf fbf16 g))
  | 6, 1 => bf ((intNum 4 x).mul (numOf fbf16 g))
  | 7, 1 => bf ((intNum 3 x).mul (numOf fbf16 g))
  | 6, 5 => (BitVec.ofInt 8 (sextNat 4 x)).toNat
  | 7, 5 => (BitVec.ofInt 8 (sextNat 3 x)).toNat
  | _, _ => x

/-- A token stream decoded (R165). -/
def unpackTokens : Nat → List Byte → Option (List Byte)
  | _, [] => some []
  | 0, _ => none
  | n + 1, t :: r =>
    if t.toNat < 128 then
      if r.length < t.toNat + 1 then none
      else (unpackTokens n (r.drop (t.toNat + 1))).map fun o => r.take (t.toNat + 1) ++ o
    else (unpackTokens n r).map fun o => List.replicate (t.toNat - 0x7F) 0 ++ o

/-- The 4,032 bytes of a slot, or none for malformed storage (R165).
Log 97 (DEDUCED). -/
def unpackSlot (bs : List Byte) : Option (List Byte) :=
  let l := numAt bs 0 2
  if l = 0 ∨ 4094 < l then none
  else match unpackTokens 4094 ((bs.drop 2).take l) with
    | some o => if o.length = 4032 then some o else none
    | none => none

/-- Bytes of the storage image that an element touches. -/
def Panel.elemBytes (x : Panel) (e : Nat × Nat) : List Nat :=
  let b := storeBits x.lay.sfmt (x.elem e.1 e.2)
  (List.range b.2.1).map (b.1 + ·)

/-- Chunks of compressed storage that the panel touches (R165). -/
def Panel.chunks (x : Panel) : List Nat := ((x.elems.flatMap x.elemBytes).map (· / 4032)).dedup

/-- The virtual lines that the panel's elements and scales lie in (R164, R165). -/
def Panel.lines (x : Panel) : List Nat :=
  let l := x.lay
  let el := if l.cmp then x.chunks.flatMap fun j => vaLines (l.base + 4096 * j) 4096
    else x.elems.flatMap fun e => (x.elemBytes e).map fun b => (l.base + b) / 128
  let sc := if scaledFmt l.sfmt then x.elems.flatMap fun e =>
      vaLines (x.scaleVa e.1 e.2) (storeScale l.sfmt) else []
  (el ++ sc).dedup

/-- The panel's bytes in its tile, as offset and byte, from lines that have been read; none for malformed compressed storage (R149,
R164, R165). -/
def Panel.fill (x : Panel) (ls : List (Nat × Line)) : Option (List (Nat × Byte)) :=
  let l := x.lay
  let es := (canonSizes l.cfmt).1
  let ss := (canonSizes l.cfmt).2
  let slots := if l.cmp then x.chunks.mapM fun j =>
      (unpackSlot ((List.range 4096).map fun i => byteIn ls (l.base + 4096 * j + i))).map fun o => (j, o)
    else some []
  slots.map fun sl =>
    let image := fun (b : Nat) =>
      if l.cmp then (match sl.find? fun e => e.1 = b / 4032 with | some e => e.2.getD (b % 4032) 0 | none => 0)
      else byteIn ls (l.base + b)
    let scale := fun (r c : Nat) =>
      natOfBytes ((List.range (storeScale l.sfmt)).map fun i => byteIn ls (x.scaleVa r c + i))
    let elems := x.elems.flatMap fun e =>
      let b := storeBits l.sfmt (x.elem e.1 e.2)
      let raw := natOfBytes ((x.elemBytes e).map image) / 2 ^ b.2.2.1 % 2 ^ b.2.2.2
      let v := bytesOfNat es (canonElem l.sfmt l.cfmt raw (scale e.1 e.2))
      (List.range es).map fun i => (x.swz (x.elemOff e.1 e.2 + i), v.getD i 0)
    let scales := if ss = 0 then [] else x.blocks.flatMap fun e =>
      let v := bytesOfNat ss (scale e.1 e.2)
      (List.range ss).map fun i => (x.swz (x.scaleOff e.1 e.2 + i), v.getD i 0)
    elems ++ scales

/-- The tile offsets of the panel's bytes and of its scales' bytes. -/
def Panel.offs (x : Panel) : List Nat :=
  let es := (canonSizes x.lay.cfmt).1
  let ss := (canonSizes x.lay.cfmt).2
  (x.elems.flatMap fun e => (List.range es).map fun i => x.swz (x.elemOff e.1 e.2 + i))
    ++ (if ss = 0 then [] else x.blocks.flatMap fun e => (List.range ss).map fun i => x.swz (x.scaleOff e.1 e.2 + i))

/-- The bytes that a panel gives to memory from its tile, as virtual address and byte (R164). -/
def Panel.cells (x : Panel) (pad : List Byte) : List (Nat × Byte) :=
  let es := (canonSizes x.lay.cfmt).1
  let ss := (canonSizes x.lay.cfmt).2
  (x.elems.flatMap fun e => (List.range es).map fun i =>
      (x.lay.base + es * x.elem e.1 e.2 + i, pad.getD (x.swz (x.elemOff e.1 e.2 + i)) 0))
    ++ (if ss = 0 then [] else x.blocks.flatMap fun e => (List.range ss).map fun i =>
      (x.scaleVa e.1 e.2 + i, pad.getD (x.swz (x.scaleOff e.1 e.2 + i)) 0))

/-- What the checks of a TCOPY packet that move nothing come to (R164); the panel comes with its record's bytes and the index of its
shard. -/
inductive PanelCheck where
  | ok (x : Panel) (buf : List Byte)
  | nores (va psz : Nat)
  | status (c : Byte)

/-- The linear mesh index of the own package's shard, by a record and its shard map (R131, R164). -/
def ownShard (s : State) (sp : Space) (l : LayRec) : Except RangeTr Nat :=
  if l.shmap = 0 then .ok 0
  else match engineBytes s sp l.shmap (2 * l.parts) with
    | .nores va psz => .error (.nores va psz)
    | .status c => .error (.status c)
    | .ok bs =>
      let es := (List.range l.parts).map fun i => numAt bs (2 * i) 2
      match (List.range l.parts).filter fun i => decide (es.getD i 0 = s.pkg) with
      | [c] => if es.any fun e => decide (1024 ≤ e) then .error (.status 5) else .ok c
      | _ => .error (.status 5)

/-- A panel's shape and place checked against its record (R148, R164). -/
def panelBad (x : TcopyPkt) (l : LayRec) : Bool :=
  let z := canonSizes l.cfmt
  let q : Panel := { lay := l, rows := x.rows, cols := x.cols, rdim := x.rdim, orig := [] }
  decide (x.rdim = l.kdim ∨ l.ndim ≤ x.rdim ∨ x.cols * z.1 % 16 ≠ 0 ∨ (z.2 ≠ 0 ∧ x.cols % 32 ≠ 0) ∨ 16384 < q.size)
    || (List.range 6).any (fun d => decide (l.ndim ≤ d ∧ x.origin.getD d 0 ≠ 0))
    || (scaledFmt l.sfmt && decide (x.origin.getD l.kdim 0 % 32 ≠ 0 ∨ x.cols % 32 ≠ 0))
    || (x.out && (l.cmp || decide (5 < l.sfmt ∨ l.cfmt ≠ l.sfmt)))

/-- The panel of a TCOPY packet in the shard with a mesh index (R164). -/
def panelOf (x : TcopyPkt) (l : LayRec) (c : Nat) : Panel :=
  { lay := l, rows := x.rows, cols := x.cols, rdim := x.rdim,
    orig := (List.range 6).map fun d => x.origin.getD d 0 - shardIdx l c d * l.localSize d }

/-- The panel of a TCOPY packet that holds its tile, by what it read at its start. -/
def panelAt (p : Packet) : Panel := panelOf (tcopyOf p) (layOf (BitVec.ofNat 1024 (numAt p.buf 0 128))) (numAt p.buf 128 4)

/-- The checks of a TCOPY packet before any byte moves, its tile aside (R160, R163, R164).
Log 98 (DEDUCED). -/
def tcopyCheck (s : State) (p : Packet) : PanelCheck :=
  let x := tcopyOf p
  let sp := pktSpace p
  if pktNum p 48 16 ≠ 0 ∨ (pktNum p 42 6).testBit 47 ∨ 2 ^ 52 ≤ x.lrec ∨ x.lrec % 64 ≠ 0 ∨ 96 ≤ x.core then .status 1
  else match engineBytes s sp x.lrec 128 with
    | .nores va psz => .nores va psz
    | .status c => .status c
    | .ok bs =>
      let w := BitVec.ofNat 1024 (natOfBytes bs)
      let l := layOf w
      if layBad w then .status 5
      else match ownShard s sp l with
        | .error (.nores va psz) => .nores va psz
        | .error (.status c) => .status c
        | .error .ok => .status 5
        | .ok c =>
          if l.enc && (keyFor s p.vi l.key).isNone then .status 6
          else if (streamCheck s p.vi l.glz x.out).isSome then .status 7
          else if panelBad x l then .status 1
          else
            let lo := fun (d : Nat) => shardIdx l c d * l.localSize d
            let n := fun (d : Nat) => if d = x.rdim then x.rows else if d = l.kdim then x.cols else 1
            let out := (List.range l.ndim).any fun d =>
              decide (x.origin.getD d 0 < lo d ∨ lo d + l.localSize d < x.origin.getD d 0 + n d)
            if out then .status 2
            else .ok (panelOf x l c) (bs ++ bytesOfNat 4 c)

/-- The key of a record. -/
def layKey (s : State) (vi : Nat) (l : LayRec) : Option (BitVec 512) := if l.enc then keyFor s vi l.key else none

/-- The virtual lines whose bytes go to a line of the tile; all of them for compressed storage, whose slots are read whole (R164,
R165). -/
def Panel.need (x : Panel) (line : Nat) : List Nat :=
  let l := x.lay
  if l.cmp then x.lines
  else
    let es := (canonSizes l.cfmt).1
    let ss := (canonSizes l.cfmt).2
    let here := fun (o n : Nat) => (List.range n).any fun i => decide (x.swz (o + i) / 128 = line)
    let of := fun (e : Nat × Nat) => ((x.elemBytes e).map fun b => (l.base + b) / 128)
      ++ (if scaledFmt l.sfmt then vaLines (x.scaleVa e.1 e.2) (storeScale l.sfmt) else [])
    ((x.elems.filter fun e => here (x.elemOff e.1 e.2) es).flatMap of
      ++ (x.blocks.filter fun e => here (x.scaleOff e.1 e.2) ss).flatMap of).dedup

/-- The panel read for its tile: lines read, a page waited for, or a failure (R149, R164, R169).
Log 96 (DEDUCED), 97 (DEDUCED). -/
def tcopyFill (s : State) (p : Packet) (x : Panel) : State :=
  if hasRead p x.lines then (match x.fill p.got with | none => failTile s p 0xF x.offs | some _ => s)
  else fillRead s p (layKey s p.vi x.lay) x.lay.glz x.lines x.offs

/-- The panel written from its tile: a page waited for, a failure, or every line written (R164).
Log 96 (DEDUCED). -/
def tcopyDrain (s : State) (p : Packet) (x : Panel) : State :=
  match p.done, p.tile with
  | [], some (core, phys, off, len) =>
    let sp := pktSpace p
    let key := layKey s p.vi x.lay
    let cells := x.cells (padBytes s core phys 0 16384)
    (match linesCheck s sp x.lay.glz true ((cells.map fun c => c.1 / 128).dedup) with
     | .nores va psz => askPage s p.vi p.asid va psz true
     | .status c =>
       let good := fun (e : Nat × Byte) => decide (lineCheck s sp x.lay.glz (e.1 / 128) true = .ok)
       let t := writeCells s sp key x.lay.glz (someCells s good cells)
       dropTile { t with free := t.free + 1 } p c
     | .ok => setPkt (writeCells s sp key x.lay.glz cells) p.pid fun q => { q with done := lineSpan off len })
  | _, _ => s

/-- A TCOPY that holds its tile gone on with; its key must still be its interface's (R71). -/
def tcopyRun (s : State) (p : Packet) (x : Panel) : State :=
  let lost := x.lay.enc && (keyFor s p.vi x.lay.key).isNone
  if (tcopyOf p).out then (if lost then dropTile s p 6 else tcopyDrain s p x)
  else if lost then failTile s p 6 x.offs else tcopyFill s p x

/-- TCOPY (R163 to R165, R169): once it holds its tile it goes by the record and the shard index that it has read.
Log 98 (DEDUCED). -/
def execTcopy (pid : Nat) (s : State) : Host.Outcome State Fault Refusal :=
  withPkt s pid 2 fun p s =>
    let o := tcopyOf p
    match p.tile with
    | some _ => tcopyRun s p (panelAt p)
    | none => match tcopyCheck s p with
      | .nores va psz => askPage s p.vi p.asid va psz true
      | .status c => failPkt s pid c
      | .ok x buf => match takeTile s p o.core o.tile 0 x.range o.flip (!o.out) with
        | .error c => failPkt s pid c
        | .ok none => setPkt s pid fun q => { q with st := .started }
        | .ok (some t) =>
          let t := setPkt (touchVa t p.vi p.asid o.lrec 128) pid fun q => { q with buf := buf }
          match findPkt t pid with | some q => tcopyRun t q x | none => t

/-- The bytes that a packet gives to a line of the tile it fills, as offset and byte, once their source is read (R162, R164).
Log 96 (DEDUCED). -/
def fillCells (p : Packet) (line : Nat) : Option (List (Nat × Byte)) :=
  match p.tile with
  | none => none
  | some (_, _, off, len) =>
    if pktKind p = 1 then copyCells p off (max off (line * 128)) (min (off + len) ((line + 1) * 128))
    else
      let x := panelAt p
      if (tcopyOf p).out || !hasRead p (x.need line) then none
      else (x.fill p.got).map fun cs => cs.filter fun c => decide (c.1 / 128 = line)

/-- A line of the tile that a packet, or a stage region of that number, fills written once its source is read, and its full bit set
(R169, R186).
Log 96 (DEDUCED). -/
def execTileLineWritten (pid line : Nat) (s : State) : Host.Outcome State Fault Refusal :=
  match findPkt s pid with
  | none => .next (stageLineWritten pid line s)
  | some p => match p.tile with
    | none => .next s
    | some (core, phys, off, len) =>
      if p.st ≠ .started ∨ line ∉ lineSpan off len ∨ line ∈ p.done then .next s
      else match fillCells p line with
        | none => .next s
        | some cs =>
          let s := cs.foldl (fun t c => padWrite t core phys c.1 [c.2]) s
          let s := setTile s core phys fun t => { t with full := t.full ||| rangeLines (line * 128) 128 }
          .next (settle (setPkt s pid fun q => { q with done := q.done ++ [line] }))

/-! STAGE. -/

/-- STAGE (R166): its regions go to the stage engine, which tells the packet when each is resident. -/
def execStage (pid : Nat) (s : State) : Host.Outcome State Fault Refusal :=
  withPkt s pid 3 fun p s =>
    if p.st = .started then s
    else
      let xs := ([16, 32, 48].map fun b => pktNum p b 16).filter fun x => decide (x ≠ 0)
      if xs.any fun x => regionBad x || (regionOf16 x).tile.isSome then failPkt s pid 1
      else if xs.any fun x => (streamCheck s p.vi (regionOf16 x).glz false).isSome then failPkt s pid 7
      else if xs.isEmpty then donePkt s pid
      else
        let ops := xs.map fun x => stageOp (.packet pid) { regionOf16 x with user := p.user } p.asid p.vi 0 none
        addStages (setPkt s pid fun q => { q with st := .started, left := xs.length }) ops

/-! GLZLOAD. -/

/-- The stream that a GLZLOAD packet names. -/
def glzStream (p : Packet) : BitVec 6 := BitVec.ofNat 6 (pktNum p 16 8 / 4)

/-- Whether a GLZLOAD packet's own fields are refused, by operation (R167). -/
def glzBad (p : Packet) : Bool :=
  let op := pktNum p 16 8 % 4
  let ava := pktNum p 24 8
  let hva := pktNum p 32 8
  decide (256 ≤ pktNum p 16 8 ∨ pktNum p 40 24 ≠ 0 ∨ (op < 2 ∧ hva ≠ 0) ∨ (op = 1 ∧ ava ≠ 0) ∨ ava % 64 ≠ 0 ∨ hva % 64 ≠ 0
    ∨ 2 ^ 52 ≤ ava ∨ 2 ^ 52 ≤ hva)

/-- The status with which a GLZLOAD is refused for its stream (R87): BADSTREAM, WRONGVI. -/
def glzOwner (s : State) (p : Packet) : Byte :=
  let k := glzStream p
  if k = 0 then 0xC
  else match (streamOf s k).st with
    | .bound v | .loaded v => if v = p.vi then 0 else 0xB
    | .free => 0xB

/-- The digests of a stream in every controller (R94). -/
def clearDigests (s : State) (k : BitVec 6) : State :=
  { s with digests := s.digests.filter fun e => e.1 % 64 ≠ k.toNat }

/-- The side outputs of a stream cleared: its digests and its saturation flag (R87). -/
def clearSides (s : State) (k : BitVec 6) : State := setStream (clearDigests s k) k fun q => { q with hsat := false }

/-- The histogram released if a stream holds it (R90).
Log 92 (DEDUCED). -/
def releaseHist (s : State) (k : BitVec 6) : State :=
  if s.histOwner = some (.stream k.toNat) then { s with histOwner := none, hist := [] } else s

/-- A configuration installed in every controller; with MODE.HEN it claims the histogram, every bin zero, and else releases it (R87,
R90). -/
def installCfg (s : State) (k : BitVec 6) (vi : Nat) (c : BitVec 8192) : State :=
  let s := clearSides s k
  let s := if cfgMode c 5 then { s with histOwner := some (.stream k.toNat), hist := [] } else releaseHist s k
  setStream s k fun q => { q with st := .loaded vi, cfg := c, pending := if q.unbind then some none else none, pid := none }

/-- Whether a change of a stream is marked and waits for its drain (R91). -/
def Stream.changing (q : Stream) : Bool := q.pid.isSome || q.pending.isSome || q.unbind

/-- Whether another holder keeps a stream from the histogram (R90). -/
def histBusy (s : State) (k : BitVec 6) : Bool :=
  match s.histOwner with
  | none => false
  | some o => decide (o ≠ .stream k.toNat)

/-- A GLZLOAD of an operation taken up once its fields and stream pass (R87, R167).
Log 151 (DESIGN CHOICE). -/
def withGlz (s : State) (pid op : Nat) (run : Packet → BitVec 6 → State → State) : Host.Outcome State Fault Refusal :=
  withPkt s pid 4 fun p s =>
    if pktNum p 16 8 % 4 ≠ op then s
    else if p.st = .accepted ∧ glzBad p then failPkt s pid 1
    else if glzOwner s p ≠ 0 then failPkt s pid (glzOwner s p)
    else run p (glzStream p) s

/-- LOAD: the configuration read, checked and installed at once on a bound stream; on a loaded one the change is marked and waits for
the drain, with the histogram claimed meanwhile (R90, R91). Of several refusals that hold, the manual gives no order: the packet's
fields, the stream, the page, the configuration and the histogram are tested in this one.
Log 151 (DESIGN CHOICE). -/
def execGlzloadLoad (pid : Nat) (s : State) : Host.Outcome State Fault Refusal :=
  withGlz s pid 0 fun p k s =>
    let q := streamOf s k
    if q.changing then s
    else match engineBytes s (pktSpace p) (pktNum p 24 8) 1024 with
      | .nores va psz => askPage s p.vi p.asid va psz true
      | .status c => failPkt s pid c
      | .ok bs =>
        let c := BitVec.ofNat 8192 (natOfBytes bs)
        let s := touchVa s p.vi p.asid (pktNum p 24 8) 1024
        if cfgBad c then failPkt s pid 8
        else if cfgMode c 5 && histBusy s k then failPkt s pid 9
        else match q.st with
          | .loaded _ =>
            let s := if cfgMode c 5 && s.histOwner.isNone then { s with histOwner := some (.stream k.toNat), hist := [] } else s
            setStream (setPkt s pid fun x => { x with st := .started }) k fun q => { q with pending := some (some c), pid := some pid }
          | _ => donePkt (installCfg s k p.vi c) pid

/-- UNLOAD: the stream is marked and waits for the drain; a stream that is only bound is refused (R87, R91). -/
def execGlzloadUnload (pid : Nat) (s : State) : Host.Outcome State Fault Refusal :=
  withGlz s pid 1 fun _ k s =>
    let q := streamOf s k
    match q.st with
    | .loaded _ =>
      if q.changing then s
      else setStream (setPkt s pid fun x => { x with st := .started }) k fun q => { q with pending := some none, pid := some pid }
    | _ => failPkt s pid 0xA

/-- The 64 bytes of a side record: digests of the twelve controllers combined, and the flags (R96).
Log 29 (DEDUCED). -/
def sideRecord (s : State) (k : BitVec 6) (sat : Bool) : List Byte :=
  let ds := (List.range 12).map fun c => digestOf s c k
  let crc := ds.foldl (fun x d => x ^^^ d.crcx) (0 : Word)
  let sum := ds.foldl (fun x d => x + d.sum64) (0 : DWord)
  let lines := ds.foldl (fun x d => x + d.lines) (0 : DWord)
  let own := decide (s.histOwner = some (.stream k.toNat))
  bytesOfNat 8 sum.toNat ++ bytesOfNat 4 crc.toNat ++ bytesOfNat 4 ((if sat then 1 else 0) + (if own then 2 else 0))
    ++ bytesOfNat 8 lines.toNat ++ List.replicate 40 0

/-- A bin of the histogram combined over the controllers, and whether an integer addition saturated (R96). -/
def histBin (s : State) (fp : Bool) (i : Nat) : Word × Bool :=
  (List.range 12).foldl (fun (a : Word × Bool) c =>
    if c = 0 then (mget 0 s.hist i, false)
    else let r := binAdd fp a.1 (mget 0 s.hist (c * 65536 + i)); (r.1, a.2 || (!fp && r.2))) (0, false)

/-- What READ and READCLR share: the histogram, when it is asked for and held, then the side record; READCLR clears what it read
(R89, R96). -/
def glzRead (clr : Bool) (p : Packet) (k : BitVec 6) (s : State) : State :=
  let sp := pktSpace p
  let ava := pktNum p 24 8
  let hva := pktNum p 32 8
  let own := decide (hva ≠ 0 ∧ s.histOwner = some (.stream k.toNat))
  match checkRange s sp ava 64 true, (if own then checkRange s sp hva 262144 true else .ok) with
  | .nores va psz, _ | .ok, .nores va psz => askPage s p.vi p.asid va psz true
  | .status c, _ | .ok, .status c => failPkt s p.pid c
  | .ok, .ok =>
    let fp := cfgMode (streamOf s k).cfg 6
    let bins := if own then (List.range 65536).map (histBin s fp) else []
    let sat := (streamOf s k).hsat || bins.any (·.2)
    let t := setStream s k fun q => { q with hsat := sat }
    let t := if own then (writeVa t sp hva (bins.flatMap fun b => bytesOfNat 4 b.1.toNat)).getD t else t
    let t := (writeVa t sp ava (sideRecord s k sat)).getD t
    let t := if clr then clearSides t k else t
    let t := if clr && own then { t with hist := [] } else t
    donePkt t p.pid

/-- READ (R96). -/
def execGlzloadRead (pid : Nat) (s : State) : Host.Outcome State Fault Refusal := withGlz s pid 2 (glzRead false)

/-- READCLR (R96). -/
def execGlzloadReadclr (pid : Nat) (s : State) : Host.Outcome State Fault Refusal := withGlz s pid 3 (glzRead true)

/-- Whether a line accepted under a stream is still on its way: a request that is queued or waits for room, a response not yet answered, an
ACPY or a buffered store names it (R91). -/
def streamBusy (s : State) (k : BitVec 6) : Bool :=
  (s.ctrls.any fun c => c.queue.any fun q => decide (q.stream = k))
    || (s.waitReqs.any fun q => decide (q.stream = k))
    || (s.resps.any fun r => r.own && decide (r.stream = k) && r.data.isNone && r.err.isNone)
    || (s.acpys.any fun a => a.lanes.any fun l => decide (l.stream = k))
    || ((residents s).any fun w => w.sb.any fun e => decide (e.stream = k))

/-- The accepted lines of a stream have left every array: a replacing LOAD installs its configuration, an UNLOAD leaves the stream
BOUND, and a stream that firmware unbinds is FREE (R87, R91). -/
def execGlazeDrainDone (k : BitVec 6) (s : State) : Host.Outcome State Fault Refusal :=
  let q := streamOf s k
  if streamBusy s k then .next s
  else
    let tell := fun (t : State) => match q.pid with | some pid => donePkt t pid | none => t
    match q.st, q.pending with
    | .loaded v, some (some c) => .next (tell (installCfg s k v c))
    | .loaded v, some none =>
      let t := releaseHist s k
      if q.unbind then .next (tell { (clearDigests t k) with streams := mset freeStream t.streams k.toNat freeStream })
      else .next (tell (setStream t k fun q => { q with st := .bound v, cfg := 0, pending := none, pid := none }))
    | _, _ => .next s

end Sys2Proof.Machine
end

