-- ==== Sys2Proof/Machine/Launch.lean ====
section
/-! DEFINITION. LAUNCH packets: GRID (R364, R365) and NODE (R366) launches, and their admission (R22, R370). -/

namespace Sys2Proof.Machine

/-- A LAUNCH packet's fields (R364). -/
structure LaunchPkt where
  image : Nat
  arg : DWord
  node : Bool
  chk : Bool
  close : Bool
  far : Bool
  na : Nat
  cpc : Nat
  wpc : Nat
  ncrew : Nat
  nitem : Nat
  nodeId : Nat
  args : Nat
  frameVa : Nat
deriving DecidableEq, Repr

/-- The fields of a LAUNCH packet (R364). -/
def launchFields (p : Packet) : LaunchPkt :=
  let ctl := pktNum p 32 8
  let cnt := pktNum p 40 8
  { image := pktNum p 16 8, arg := BitVec.ofNat 64 (pktNum p 24 8), node := ctl.testBit 0, chk := ctl.testBit 1,
    close := ctl.testBit 2, far := ctl.testBit 3, na := bitsOf ctl 7 4, cpc := bitsOf ctl 11 8 + 1, wpc := bitsOf ctl 16 12 + 1,
    ncrew := bitsOf cnt 19 0 + 1, nitem := bitsOf cnt 31 0, nodeId := bitsOf cnt 63 32, args := pktNum p 48 8,
    frameVa := pktNum p 56 8 }

/-- Whether a LAUNCH packet's own fields are refused, but for FRAMEVA, which a packet that does not open its node ignores (R364). -/
def launchBad (p : Packet) : Bool :=
  let x := launchFields p
  let ctl := pktNum p 32 8
  decide (2 ^ 17 ≤ ctl ∨ 2 ^ 52 ≤ x.image ∨ x.image % 64 ≠ 0)
    || (if x.node then x.far || decide (bitsOf ctl 16 8 ≠ 0 ∨ 2 ^ 52 ≤ x.args ∨ x.args % 4 ≠ 0 ∨ (x.na = 0 ∧ x.args ≠ 0))
        else x.close || decide (x.na ≠ 0 ∨ x.args ≠ 0 ∨ 2 ^ 20 ≤ pktNum p 40 8 ∨ x.ncrew % x.cpc ≠ 0))

/-- Whether a packet's queue is durable (R387). -/
def pktDurable (s : State) (p : Packet) : Bool :=
  match p.queue with
  | some h => (match queueAt s p.vi h with | some q => q.durable | none => false)
  | none => false

/-- A new launch of a packet, checked against its image and the pool: an image, a page waited for, a failure, or no room yet (R22,
R364, R370). -/
def openLaunch (s : State) (p : Packet) (ncrew : Nat) (bad : Image → Bool) (go : State → Image → State) : State :=
  let x := launchFields p
  if !asidOk s p.vi p.asid then failPkt s p.pid 0x12
  else match readImage s (pktSpace p) x.image with
    | .nores va psz => askPage s p.vi p.asid va psz true
    | .status c => failPkt s p.pid c
    | .ok i =>
      if bad i || decide ((x.frameVa = 0) ≠ (i.frame = 0) ∨ 2 ^ 52 ≤ x.frameVa ∨ x.frameVa % 64 ≠ 0) then failPkt s p.pid 1
      else if (viOf s p.vi).poolSize < reservation i ncrew then failPkt s p.pid 0x11
      else if !canReserve s p.vi (reservation i ncrew) then s
      else go (touchVa s p.vi p.asid x.image 64) i

/-- A GRID launch admitted: its seed records are written, or held while the pool is full (R365). -/
def startGrid (s : State) (p : Packet) : State :=
  let x := launchFields p
  openLaunch s p x.ncrew (fun _ => false) fun s i =>
    let l0 := newLaunch s p.vi p.asid i x.image .grid x.chk
    let l := { l0 with
      far := x.far, cpc := x.cpc, wpc := x.wpc, ncrew := x.ncrew, frameVa := BitVec.ofNat 64 x.frameVa,
      threads := 32 * x.wpc * x.ncrew, reserved := reservation i x.ncrew, arg := x.arg, closed := true, durable := pktDurable s p
      packets := [p.pid]
      seeds := (List.range x.ncrew).flatMap fun c => (List.range x.wpc).map fun w => (c, w) }
    writeSeeds (setPkt (admitLaunch s l) p.pid fun q => { q with st := .started }) l.id

/-- The node of an interface with an identifier, while its launch has not ended (R366). -/
def nodeOf (s : State) (vi id : Nat) : Option Launch := s.launches.find? fun l => l.vi = vi && l.mode = .node && l.nodeId = id

/-- The core in whose sector the front end puts item records: one of the sector that serves the queue (R151, R366).
Log 99 (DEDUCED). -/
def itemCore (s : State) (p : Packet) : Nat :=
  match p.queue with
  | some h => (match queueAt s p.vi h with | some q => 24 * q.sect | none => 0)
  | none => 0

/-- The records of a NODE packet's items from item i on, n of them, while the pool has room; the next item (R343, R366).
Log 99 (DEDUCED). -/
def addNodeItems (p : Packet) (l : Launch) (base : Nat) (args : List Byte) : Nat → Nat → State → State × Nat
  | 0, i, s => (s, i)
  | n + 1, i, s =>
    if !roomFor s l.id (recSize 1 l.na) then (s, i)
    else
      let words := (List.range l.na).map fun j => BitVec.ofNat 32 (numAt args (4 * (l.na * i + j)) 4)
      let r0 := itemRec l (itemCore s p) (base + i) l.na words 0 .lane
      let arg := (launchFields p).arg.toNat
      let r := { r0 with sr := mset 0 (mset 0 [] 0 (BitVec.ofNat 32 arg)) 1 (BitVec.ofNat 32 (arg / 2 ^ 32)) }
      addNodeItems p l base args n (i + 1) (addReleased s (itemCore s p) r)

/-- Whether some of n items of a node wait in an overflow list (R337, R366). -/
def listed (s : State) (l : Launch) (base n : Nat) : Bool :=
  s.recs.any fun r => decide (r.launch = l.id) && (match r.place with | .overflow _ => true | _ => false)
    && (lanesOf r.mask).any fun k => decide (base ≤ (mget 0 r.tid k).toNat ∧ (mget 0 r.tid k).toNat < base + n)

/-- The items of a started NODE packet, from the first not yet seeded; with all of them in saggars the packet is done, or, with CLOSE,
waits for the node's end (R366). -/
def seedItems (s : State) (p : Packet) : State :=
  let x := launchFields p
  match nodeOf s p.vi x.nodeId, p.done with
  | some l, [base] =>
    let r := addNodeItems p l base p.buf (x.nitem - p.left) p.left s
    let s := setPkt r.1 p.pid fun q => { q with left := r.2 }
    let s := setLaunch s l.id fun k => { k with hold := if x.nitem ≤ r.2 then none else if p.left < r.2 then some s.now else some (k.hold.getD s.now) }
    if r.2 < x.nitem ∨ listed s l base x.nitem = true then s
    else if x.close then launchEndIf s l.id
    else donePkt s p.pid
  | _, _ => s

/-- A NODE packet's items taken up by an open node (R366): the arguments read, thread indices given, and CLOSE noted. -/
def joinNode (s : State) (p : Packet) (l : Launch) : State :=
  let x := launchFields p
  match (if x.nitem * x.na = 0 then EngineRead.ok [] else engineBytes s (pktSpace p) x.args (4 * x.na * x.nitem)) with
  | .nores va psz => askPage s p.vi p.asid va psz true
  | .status c => failPkt s p.pid c
  | .ok bs =>
    let s := setLaunch (touchVa s p.vi p.asid x.args (4 * x.na * x.nitem)) l.id fun l =>
      { l with threads := l.threads + x.nitem, closed := l.closed || x.close,
               packets := if x.close then l.packets ++ [p.pid] else l.packets }
    let q := { p with st := PktState.started, buf := bs, done := [l.threads], left := 0 }
    seedItems (setPkt s p.pid fun _ => q) q

/-- A NODE packet: joins its open node, waits for a closed one, or opens the node (R366). -/
def startNode (s : State) (p : Packet) : State :=
  let x := launchFields p
  match nodeOf s p.vi x.nodeId with
  | some l =>
    if l.closed then s
    else if l.imageVa ≠ x.image ∨ l.na ≠ x.na then failPkt s p.pid 0x13
    else joinNode s p l
  | none =>
    openLaunch s p 0 (fun i => decide (i.tiles ≠ 0 ∨ i.gang ≠ 0 ∨ i.nreg < x.na)) fun s i =>
      let l0 := newLaunch s p.vi p.asid i x.image .node x.chk
      let l := { l0 with na := x.na, frameVa := BitVec.ofNat 64 x.frameVa, nodeId := x.nodeId, arg := x.arg, durable := pktDurable s p }
      match (if x.nitem * x.na = 0 then EngineRead.ok [] else engineBytes s (pktSpace p) x.args (4 * x.na * x.nitem)) with
      | .nores va psz => askPage s p.vi p.asid va psz true
      | .status c => failPkt s p.pid c
      | .ok _ => joinNode (admitLaunch s l) p l

/-- A LAUNCH packet of a mode taken up. -/
def withLaunch (s : State) (pid : Nat) (node : Bool) : Host.Outcome State Fault Refusal :=
  withPkt s pid 7 fun p s =>
    if (launchFields p).node ≠ node then s
    else match p.st with
      | .started => if node then seedItems s p else s
      | _ => if launchBad p then failPkt s pid 1 else if node then startNode s p else startGrid s p

/-- LAUNCH in GRID mode (R365). -/
def execLaunchGrid (pid : Nat) (s : State) : Host.Outcome State Fault Refusal := withLaunch s pid false

/-- LAUNCH in NODE mode (R366). -/
def execLaunchNode (pid : Nat) (s : State) : Host.Outcome State Fault Refusal := withLaunch s pid true

/-- A launch that waits for its pool reservation is admitted once it can be made (R22, R370). -/
def execLaunchAdmit (pid : Nat) (s : State) : Host.Outcome State Fault Refusal :=
  match findPkt s pid with
  | none => .next s
  | some p => if p.st = .accepted then withLaunch s pid (launchFields p).node else .next s

end Sys2Proof.Machine
end

