-- ==== Sys2Proof/Machine/Collective.lean ====
section
/-! DEFINITION. The collectives .rs, .ag and .a2a: their records, checks, signatures and movement (R109, R298 to R301). -/

namespace Sys2Proof.Machine

/-! Records. -/

/-- A collective record's fields, those of a repartition included (R298, R302). -/
structure CollRec where
  src : Nat
  dst : Nat
  count : Nat
  cstride : Nat
  eop : Nat
  rank : Nat
  npart : Nat
  ncont : Nat
  reissue : Bool
  collid : Nat
  plist : Nat
  var : Nat
deriving DecidableEq, Repr

/-- The fields of a collective record (R298, R302). -/
def collRec (p : Packet) : CollRec :=
  let c1 := pktNum p 32 8
  let c2 := pktNum p 40 8
  { src := pktNum p 16 8, dst := pktNum p 24 8, count := bitsOf c1 31 0, cstride := bitsOf c1 63 32, eop := bitsOf c2 3 0,
    rank := bitsOf c2 13 4, npart := bitsOf c2 23 14 + 1, ncont := bitsOf c2 30 24, reissue := c2.testBit 24,
    collid := bitsOf c2 63 32, plist := pktNum p 48 8, var := pktNum p 56 1 % 4 }

/-- The variant under which a record is run: its FN if COLL issued it, else its VAR (R298, R301). -/
def collVar (p : Packet) : Nat := if p.queue.isNone then p.left else (collRec p).var

/-- Element bytes of an EOP (R298). -/
def eopBytes (eop : Nat) : Nat :=
  match eop with
  | 1 | 11 => 2
  | 10 => 1
  | 13 => 8
  | _ => 4

/-- Element bytes of an EOP's result (R299). -/
def eopOut (eop : Nat) : Nat := if eop = 1 then 4 else eopBytes eop

/-- What a participant's own checks come to (R160, R300): its signature and what it keeps, a page to wait for, or a status. -/
inductive CollCheck where
  | ok (sig : CollSig) (split : List Triple)
  | nores (va psz : Nat)
  | status (c : Byte)

/-- Whether two ranges overlap.
Log 105 (DEDUCED). -/
def rangesMeet (a m b n : Nat) : Bool := decide (0 < m ∧ 0 < n ∧ a < b + n ∧ b < a + m)

/-- The entries of PLIST as bytes give them (R128, R298). -/
def plistOf (x : CollRec) (bs : List Byte) : List (BitVec 16) := (List.range x.npart).map fun i => BitVec.ofNat 16 (numAt bs (2 * i) 2)

/-- PLIST read and checked: a status, a page, or its entries (R300). -/
def readPlist (s : State) (p : Packet) (x : CollRec) (ok : List (BitVec 16) → CollCheck) : CollCheck :=
  match engineBytes s (pktSpace p) x.plist (2 * x.npart) with
  | .nores va psz => .nores va psz
  | .status c => .status c
  | .ok bs =>
    let es := plistOf x bs
    if es.any (fun e => decide (1024 ≤ e.toNat ∨ s.domain ≤ e.toNat)) || decide (es.dedup.length ≠ x.npart)
        || decide ((es.getD x.rank 0xFFFF).toNat ≠ s.pkg) then .status 1
    else ok es

/-- Bytes that a record's SRC and DST take (R299). -/
def collSizes (x : CollRec) : Nat × Nat :=
  let b := x.count * eopBytes x.eop
  match x.var with
  | 0 => ((x.ncont - 1) * x.cstride + x.npart * b, x.count * eopOut x.eop)
  | 1 => (b, x.npart * b)
  | _ => (x.npart * b, x.npart * b)

/-- The ranges that a record's SRC takes, as VA and bytes: each contribution of .rs, or the one source of the others (R299). -/
def srcSpans (x : CollRec) : List (Nat × Nat) :=
  if x.var = 0 then (List.range x.ncont).map fun j => (x.src + j * x.cstride, x.npart * (x.count * eopBytes x.eop))
  else [(x.src, (collSizes x).1)]

/-- The own checks of a .rs, .ag or .a2a record (R298, R300, R301). -/
def collCheck (s : State) (p : Packet) : CollCheck :=
  let x := collRec p
  let fits := if x.var = 0 then decide (x.eop ≤ 9 ∧ 1 ≤ x.ncont ∧ x.ncont ≤ 96) else decide (10 ≤ x.eop ∧ x.eop ≤ 13 ∧ x.ncont = 1)
  let z := collSizes x
  if headBad p || decide (pktKind p ≠ 6 ∨ collVar p ≠ x.var ∨ x.var = 3 ∨ pktNum p 57 7 ≠ 0 ∨ 4 ≤ pktNum p 56 1
      ∨ (pktNum p 40 8).testBit 31 ∨ 2 ^ 52 ≤ x.plist ∨ 2 ^ 52 ≤ x.src ∨ 2 ^ 52 ≤ x.dst ∨ 2 ^ 52 < x.src + z.1 ∨ 2 ^ 52 < x.dst + z.2 ∨ x.count = 0 ∨ x.cstride % 128 ≠ 0
      ∨ x.npart ≤ x.rank) || !fits || (srcSpans x).any (fun r => rangesMeet r.1 r.2 x.dst z.2) then .status 1
  else readPlist s p x fun es =>
    .ok ⟨BitVec.ofNat 32 x.collid, BitVec.ofNat 2 x.var, BitVec.ofNat 4 x.eop, BitVec.ofNat 32 x.count, x.npart, es, []⟩ []

/-! Start and signatures. -/

/-- Whether another record with a COLLID is in flight for an interface (R300). -/
def collidBusy (s : State) (p : Packet) : Bool :=
  s.packets.any fun x => x.pid ≠ p.pid && x.vi = p.vi && decide (pktKind x = 6 ∧ x.st = .started)
    && decide ((collRec x).collid = (collRec p).collid)

/-- The packet of a collective. -/
def collPkt (s : State) (c : Coll) : Option Packet := findPkt s c.pid

/-- A collective updated. -/
def setColl (s : State) (cid : Nat) (f : Coll → Coll) : State :=
  { s with colls := s.colls.map fun c => if c.cid = cid then f c else c }

/-- A collective taken off the list, with the histogram let go if it holds it (R98).
Log 92 (DEDUCED). -/
def dropColl (s : State) (cid : Nat) : State :=
  let s := if s.histOwner = some (.rpart cid) then { s with histOwner := none, hist := [] } else s
  { s with colls := s.colls.filter fun c => c.cid ≠ cid }

/-- A note to the other participants of a packet's collective (R300, R307). -/
def tellColl (s : State) (p : Packet) (plist : List (BitVec 16)) (note : CollNote) : State :=
  { s with collOut := s.collOut ++ [⟨p.vi, BitVec.ofNat 32 (collRec p).collid, plist, note⟩] }

/-- A failed signature sent to the participants that PLIST names, where it can be read (R300). -/
def tellFailed (s : State) (p : Packet) : State :=
  let x := collRec p
  let es := match engineBytes s (pktSpace p) x.plist (2 * x.npart) with | .ok bs => plistOf x bs | _ => []
  tellColl s p es .failed

/-- A .rs, .ag or .a2a collective that fails: nothing more moves (R300). -/
def failMove (s : State) (c : Coll) (st : Byte) : State := failPkt (dropColl s c.cid) c.pid st

/-- Whether a participant of a collective cannot be reached (R289, R300). -/
def collLost (s : State) (c : Coll) : Bool := c.sig.plist.any fun e => decide (e.toNat ∈ s.unreach)

/-- Whether every other participant has sent its signature.
Log 102 (DEDUCED). -/
def allSigned (c : Coll) : Bool :=
  (List.range c.sig.npart).all fun r => decide (r = c.rank) || c.sigs.any fun x => decide (x.1 = r)

/-- The state of a collective once every signature agrees: movement, or the first step of a repartition (R300, R307).
Log 102 (DEDUCED). -/
def signedState (c : Coll) (reissue : Bool) : CollState :=
  if c.sig.var ≠ 3 then .move else if reissue then .assign else .keypass

/-- A collective started by its packet, its signature sent to the other participants (R300, R307). -/
def openColl (s : State) (p : Packet) (sig : CollSig) (split : List Triple) : State :=
  let x := collRec p
  let c : Coll :=
    { cid := p.pid, pid := p.pid, instr := p.queue.isNone, recVa := p.idx, st := .sign, failed := none, sig := sig, sigs := [],
      rank := x.rank, unitw := false, hist := [], splitters := split, counts := [], caps := [], items := [] }
  let s := tellColl (touchVa s p.vi p.asid x.plist (2 * x.npart)) p sig.plist (.signed sig)
  let c := if allSigned c then { c with st := signedState c x.reissue } else c
  setPkt { s with colls := s.colls ++ [c] } p.pid fun q => { q with st := .started }

/-- A COLL packet, or a record that COLL has handed over, taken up in its turn (R154, R301). -/
def withColl (s : State) (pid : Nat) (rpart : Bool) (run : Packet → State → State) : Host.Outcome State Fault Refusal :=
  match findPkt s pid with
  | none => .next s
  | some p =>
    if (p.queue.isSome ∧ pktKind p ≠ 6) ∨ decide (collVar p = 3) ≠ rpart ∨ (s.colls.any fun c => c.pid = pid) then .next s
    else match p.st with
      | .accepted => if canStart s p then .next (run p s) else .next s
      | .started => .next (run p s)
      | _ => .next s

/-- COLL of .rs, .ag or .a2a: its checks, then the exchange of signatures (R300). -/
def execColl (pid : Nat) (s : State) : Host.Outcome State Fault Refusal :=
  withColl s pid false fun p s =>
    if collidBusy s p then failPkt s pid 1
    else match collCheck s p with
      | .status c => failPkt (tellFailed s p) pid c
      | .nores va psz => askPage (setPkt s pid fun q => { q with st := .started }) p.vi p.asid va psz true
      | .ok sig sp => openColl s p sig sp

/-! The reduction of .rs. -/

/-- One node of a reduction on two operands (R109, R298). -/
def combine (eop : Nat) (a b : Nat) : Nat :=
  match eop with
  | 0 | 1 => fsum fp32 .rne [numOf fp32 a, numOf fp32 b]
  | 2 | 3 => (a + b) % 2 ^ 32
  | 4 => if sextNat 32 b < sextNat 32 a then b else a
  | 5 => min a b
  | 6 => minMax fp32 false false a b
  | 7 => if sextNat 32 a < sextNat 32 b then b else a
  | 8 => max a b
  | _ => minMax fp32 true false a b

/-- A node that may lack operands: a single one passes unchanged (R109). -/
def node (f : Nat → Nat → Nat) : Option Nat → Option Nat → Option Nat
  | some a, some b => some (f a b)
  | some a, none => some a
  | none, b => b

/-- One level of a tree: adjacent operands combined (R109, R299). -/
def pairUp (f : Nat → Nat → Nat) : List (Option Nat) → List (Option Nat)
  | a :: b :: t => node f a b :: pairUp f t
  | l => l

/-- Levels of adjacent pairing until one result is left; n bounds their number (R299). -/
def treeFold (f : Nat → Nat → Nat) : Nat → List (Option Nat) → Option Nat
  | _, [] => none
  | _, [a] => a
  | 0, a :: _ => a
  | n + 1, l => treeFold f n (pairUp f l)

/-- The tree of one sector over its 24 cores: three levels of pairs, then (L3[0] + L3[1]) + L3[2] (R109). -/
def sectorTree (f : Nat → Nat → Nat) (l : List (Option Nat)) : Option Nat :=
  let t := pairUp f (pairUp f (pairUp f l))
  node f (node f (t.getD 0 none) (t.getD 1 none)) (t.getD 2 none)

/-- The package's result of contributions that take the places of cores 0 upwards: (S0 + S1) + (S2 + S3) (R109, R299). -/
def packageTree (f : Nat → Nat → Nat) (l : List Nat) : Option Nat :=
  let at_ := fun (q : Nat) => sectorTree f ((List.range 24).map fun i => l[24 * q + i]?)
  node f (node f (at_ 0) (at_ 1)) (node f (at_ 2) (at_ 3))

/-- A leaf of the reduction: BF16 is widened exactly (R109), by R137's sixteen zero bits, so that a NaN that meets no other operand is
passed unchanged.
Log 156 (DEDUCED). -/
def leafWord (eop x : Nat) : Nat := if eop = 1 then x * 65536 else x

/-- Element i of block q of this package's contributions, reduced (R299). -/
def ownReduced (x : CollRec) (contrib : List (List Byte)) (q i : Nat) : Nat :=
  let es := eopBytes x.eop
  let leaves := contrib.map fun bs => leafWord x.eop (numAt bs ((q * x.count + i) * es) es)
  (packageTree (combine x.eop) leaves).getD 0

/-- The results of the packages combined over ranks (R299). -/
def ranksReduced (x : CollRec) (vals : List Nat) : Nat := (treeFold (combine x.eop) 11 (vals.map some)).getD 0

/-! Movement. -/

/-- What a rank's engine sends to this participant: its own bytes, or those that its peer gave.
Log 103 (DEDUCED). -/
def rankBytes (c : Coll) (own : List Byte) (peers : List (Nat × List Byte)) (r : Nat) : List Byte :=
  if r = c.rank then own else match peers.find? fun e => e.1 = r with | some e => e.2 | none => []

/-- Whether every other participant's bytes have arrived, of a length.
Log 103 (DEDUCED). -/
def peersReady (c : Coll) (n : Nat) (peers : List (Nat × List Byte)) : Bool :=
  (List.range c.sig.npart).all fun r => decide (r = c.rank) || peers.any fun e => decide (e.1 = r ∧ e.2.length = n)

/-- The bytes that a collective writes to DST from the ranges of its source and its peers' bytes (R299). -/
def collResult (x : CollRec) (c : Coll) (contrib : List (List Byte)) (peers : List (Nat × List Byte)) : List Byte :=
  let n := x.count * eopBytes x.eop
  let o := eopOut x.eop
  match x.var with
  | 0 =>
    let own := (List.range x.count).flatMap fun i => bytesOfNat o (ownReduced x contrib c.rank i)
    (List.range x.count).flatMap fun i =>
      bytesOfNat o (ranksReduced x ((List.range x.npart).map fun r => numAt (rankBytes c own peers r) (o * i) o))
  | 1 => (List.range x.npart).flatMap fun r => rankBytes c (contrib.getD 0 []) peers r
  | _ => (List.range x.npart).flatMap fun r => rankBytes c (((contrib.getD 0 []).drop (c.rank * n)).take n) peers r

/-- What a peer sends to this participant, in bytes (R299). -/
def peerLen (x : CollRec) : Nat := if x.var = 0 then x.count * eopOut x.eop else x.count * eopBytes x.eop

/-- The movement of a .rs, .ag or .a2a collective once every participant's bytes are there: DST written and the packet done; a page
that fails leaves what may have been written (R160, R299, R300). -/
def moveColl (s : State) (c : Coll) (p : Packet) (peers : List (Nat × List Byte)) : State :=
  let x := collRec p
  let z := collSizes x
  let sp := pktSpace p
  if !peersReady c (peerLen x) peers then s
  else
    let ls := ((srcSpans x).flatMap fun r => vaLines r.1 r.2).dedup
    match linesCheck s sp 0 false ls with
    | .nores va psz => askPage s p.vi p.asid va psz true
    | .status e => failMove s c e
    | .ok =>
      let r := readLines s sp none 0 ls
      let src := (srcSpans x).map fun q => (List.range q.2).map fun i => byteIn r.2 (q.1 + i)
      let out := collResult x c src peers
      let cells := (List.range out.length).map fun i => (x.dst + i, out.getD i 0)
      match linesCheck r.1 sp 0 true (vaLines x.dst z.2) with
      | .nores va psz => askPage s p.vi p.asid va psz true
      | .status e =>
        let good := fun (q : Nat × Byte) => decide (lineCheck s sp 0 (q.1 / 128) true = .ok)
        let t := writeCells r.1 sp none 0 (someCells s good cells)
        failMove { t with free := t.free + 1 } c e
      | .ok => donePkt (dropColl (writeCells r.1 sp none 0 cells) c.cid) p.pid

end Sys2Proof.Machine
end

