-- ==== Sys2Proof/Machine/Control.lean ====
section
/-! DEFINITION. Control instructions (R344 to R354), TRAP and TRET (R377, R378), and the special registers (R379, R380). -/

namespace Sys2Proof.Machine

/-! Spills and paths. -/

/-- The LANE records of the non-helper lanes of paths, in ascending lane order (R341). -/
def spillRecs (s : State) (paths : List Entry) : List Rec :=
  let w := s.warp
  (List.range 32).flatMap fun k =>
    match paths.find? fun e => e.mask.getLsbD k with
    | some e =>
      if w.helpers.getLsbD k then []
      else planRecs s w ⟨laneBit k, e.ip, e.prio, .lane, evReady, false, 0, [], [], 0, 0⟩
    | none => []

/-- Lanes ended as LANE records: the store buffer drains first; none when the pool has no room, in which case the warp is held
(R272, R341, R343). -/
def spill (s : State) (paths : List Entry) : Option State :=
  let rs := spillRecs s paths
  let bytes := rs.foldl (fun n r => n + recSize (laneCount r.mask) r.regs.length) 0
  if rs.isEmpty then some s
  else if !roomFor s s.warp.launch bytes then none
  else
    let s := drain (holdWarp s false)
    let first := s.fresh
    let s := rs.foldl addRec s
    let rids := (s.recs.filter fun r => decide (first ≤ r.rid)).map (·.rid)
    some (rids.foldl releaseRec s)

/-- The issuing entry replaced by paths, lanes that do not fit being spilled (R341); a member of a gang never spills (R247). -/
def transfer (s : State) (paths : List Entry) : Step :=
  let w := s.warp
  let r := splitPaths w (paths.filter fun e => e.mask ≠ 0)
  if r.2.isEmpty then .moved (setWarp s fun w => { w with entries := r.1 })
  else if inGang s w then .trap 4 2 none
  else match spill s r.2 with
    | some t => .moved (setWarp t fun w => { w with entries := r.1 })
    | none => .hold (holdWarp s true)

/-- The path of the entry's lanes outside active, which go to IP + 1 (R346). -/
def fallPath (s : State) (act : Mask) : Entry :=
  let w := s.warp
  { ip := ipAdd (curIp w) 1, mask := entryMask w &&& ~~~act, prio := curPrio w }

/-- Lanes of active to one target, the others on (R346). -/
def branchTo (prio : BitVec 4) (t : BitVec 48) (s : State) (act : Mask) : Step :=
  transfer s [{ ip := t, mask := act, prio := prio }, fallPath s act]

/-- Each active lane to the target in its pair of registers (R346). -/
def jumpLanes (prio : BitVec 4) (a : Opnd) (s : State) (act : Mask) : Step :=
  transfer s (((lanesOf act).map fun k =>
    ({ ip := BitVec.ofNat 48 (srcBits s act a 2 k), mask := laneBit k, prio := prio } : Entry)) ++ [fallPath s act])

/-- The target of a relative branch (R25, R346). -/
def relTarget (s : State) (off : BitVec 27) : BitVec 48 := ipAdd (curIp s.warp) off.toInt

/-- The return IP in D's pair of every active lane (R346). -/
def writeReturn (s : State) (act : Mask) (d : Opnd) : State :=
  writeDst s act d 2 fun _ => (ipAdd (curIp s.warp) 1).toNat

/-- ILL: ILLOP with detail 1, once a deferred access has not retired the warp before (R346). -/
def execIll (s : State) : Host.Outcome State Fault Refusal :=
  let w := s.warp
  if w.entries = [] then .next s
  else if w.retire then .next (endSegment s (.at evLine (curIp w)))
  else .next (takeTrap s 1 1 none (curIp w))

/-- NOP (R346). -/
def execNop (c : Ctl) (s : State) : Host.Outcome State Fault Refusal := issue (.nop c) c (fun s _ => .done s) s

/-- BRA.rel (R346). -/
def execBraRel (c : Ctl) (prio : BitVec 4) (off : BitVec 27) (s : State) : Host.Outcome State Fault Refusal :=
  issue (.braRel c prio off) c (fun s act => branchTo prio (relTarget s off) s act) s

/-- Every entry lane to a target (R346). -/
def branchEntry (prio : BitVec 4) (t : BitVec 48) (s : State) : Step :=
  transfer s [{ ip := t, mask := entryMask s.warp, prio := prio }]

/-- BRA.any (R346). -/
def execBraAny (c : Ctl) (prio : BitVec 4) (off : BitVec 27) (s : State) : Host.Outcome State Fault Refusal :=
  issue (.braAny c prio off) c (fun s _ => branchEntry prio (relTarget s off) s) s

/-- BRA.all (R346). -/
def execBraAll (c : Ctl) (prio : BitVec 4) (off : BitVec 27) (s : State) : Host.Outcome State Fault Refusal :=
  issueWith true (.braAll c prio off) c (fun s act =>
    if act = entryMask s.warp then branchEntry prio (relTarget s off) s else .done s) s

/-- JUMP.lane (R346). -/
def execJumpLane (c : Ctl) (prio : BitVec 4) (a : Opnd) (s : State) : Host.Outcome State Fault Refusal :=
  issue (.jumpLane c prio a) c (jumpLanes prio a) s

/-- JUMP.warp (R346). -/
def execJumpWarp (c : Ctl) (prio : BitVec 4) (a : Opnd) (s : State) : Host.Outcome State Fault Refusal :=
  issue (.jumpWarp c prio a) c (fun s act => branchTo prio (BitVec.ofNat 48 (pairS s a)) s act) s

/-- CALL.rel (R346). -/
def execCallRel (c : Ctl) (prio : BitVec 4) (d : Opnd) (off : BitVec 27) (s : State) : Host.Outcome State Fault Refusal :=
  issue (.callRel c prio d off) c (fun s act => branchTo prio (relTarget s off) (writeReturn s act d) act) s

/-- CALL.s (R346). -/
def execCallS (c : Ctl) (prio : BitVec 4) (d a : Opnd) (s : State) : Host.Outcome State Fault Refusal :=
  issue (.callS c prio d a) c (fun s act => branchTo prio (BitVec.ofNat 48 (pairS s a)) (writeReturn s act d) act) s

/-- RET (R346). -/
def execRet (c : Ctl) (prio : BitVec 4) (a : Opnd) (s : State) : Host.Outcome State Fault Refusal :=
  issue (.ret c prio a) c (jumpLanes prio a) s

/-- SPLIT: every other entry spilled (R347). -/
def execSplit (c : Ctl) (s : State) : Host.Outcome State Fault Refusal :=
  issue (.split c) c (fun s _ =>
    let others := s.warp.entries.drop 1
    if inGang s s.warp then .trap 4 2 none
    else match spill s others with
      | some t => .done (setWarp t fun w => { w with entries := w.entries.take 1 })
      | none => .hold (holdWarp s true)) s

/-! Barriers (R352). -/

/-- Thread indices of lanes. -/
def tidsOf (w : Warp) (m : Mask) : List Nat := (lanesOf m).map fun k => (mget 0 w.tid k).toNat

/-- The lanes of part arrive: the state, and the latest generation at which one arrived; none when a lane stands at both open
instances (R352). -/
def arriveBar (s : State) (cl : Bool) (b : Nat) (part : Mask) : Option (State × Word) :=
  let w := s.warp
  let x := barOf (barSet s w cl) b
  let ts := tidsOf w part
  if ts.any fun t => x.now.contains t && x.next.contains t then none
  else
    let later := ts.filter fun t => x.now.contains t
    let x1 : Barrier := { x with now := x.now ++ ts.filter (fun t => !x.now.contains t), next := x.next ++ later }
    let g := if later.isEmpty then x.gen else x.gen + 1
    let s := if cl then drainRel s else s
    let s := if ts.isEmpty then s else noReplay (setBar (if cl then s else barOps s w b g) w cl b fun _ => x1)
    some (settle (completeBar s w cl b), g)

/-- The event of an instance of a barrier (R334). -/
def barEvent (g : Word) (cl : Bool) (bar : BitVec 4) : DWord := evBar g.toNat cl bar.toNat

/-- BAR.wait: arrival, then a hold until the instance completes; once arrived the instruction only waits (R352). -/
def execBarWait (c : Ctl) (bar : BitVec 4) (cl : Bool) (s : State) : Host.Outcome State Fault Refusal :=
  issue (.barWait c bar cl) c (fun s act =>
    let next := some (ipAdd (curIp s.warp) 1)
    let held := fun (t : State) (g : Word) =>
      if barDone (barOf (barSet t t.warp cl) bar.toNat).gen g then Step.done t else .wait (barEvent g cl bar) next t
    match s.warp.wait, s.warp.resume with
    | some ev, some _ => held s (BitVec.ofNat 32 (dbits ev 36 5))
    | _, _ => match arriveBar s cl bar.toNat (act &&& ~~~s.warp.helpers) with
      | none => .wait (barEvent (barOf (barSet s s.warp cl) bar.toNat).gen cl bar) none s
      | some r => held r.1 r.2) s

/-- BAR.post (R352). -/
def execBarPost (c : Ctl) (bar : BitVec 4) (cl : Bool) (d : Opnd) (s : State) : Host.Outcome State Fault Refusal :=
  issue (.barPost c bar cl d) c (fun s act =>
    match arriveBar s cl bar.toNat (act &&& ~~~s.warp.helpers) with
    | none => .wait (barEvent (barOf (barSet s s.warp cl) bar.toNat).gen cl bar) none s
    | some r => .done (writeDst r.1 act d 1 fun _ => r.2.toNat)) s

/-! Exits and joins. -/

/-- The lanes of part exit: added to exited, their join decrements held (R347, R350). -/
def exitLanes (s : State) (part : Mask) : State :=
  setWarp s fun w => { w with
    exited := w.exited ||| part
    held := w.held ++ (lanesOf part).filterMap fun k =>
      let j := mget 0 w.join k
      if j = 0 then none else some (.joinDec j.toNat w.asid) }

/-- What follows the exits of a warp: barriers that they complete (R352). -/
def afterExit (s : State) : State := settle (completeBars s s.warp)

/-- A warp left with no entry ends its segment and writes no record; otherwise it goes on (R347).
Log 60 (DEDUCED). -/
def exitStep (s : State) : Step :=
  let t := afterExit s
  if t.warp.entries = [] then .ends (SegEnd.at evReady 0) t else .moved t

/-- EXIT (R347). -/
def execExit (c : Ctl) (s : State) : Host.Outcome State Fault Refusal :=
  match issue (.exit c) c (fun s act =>
    let w := s.warp
    let rest := fallPath s act
    exitStep (setWarp (exitLanes s (act &&& ~~~w.helpers)) fun w => { w with
      entries := frontier w.helpers (rest :: w.entries.drop 1) })) s with
  | .next t => .next (dissolveDead t)
  | r => r

/-- YIELD (R347). -/
def execYield (c : Ctl) (s : State) : Host.Outcome State Fault Refusal :=
  issue (.yield c) c (fun s _ => .ends (.at evReady (ipAdd (curIp s.warp) 1)) s) s

/-- JOINC (R350). -/
def execJoinc (c : Ctl) (s : State) : Host.Outcome State Fault Refusal :=
  issue (.joinc c) c (fun s act =>
    let part := act &&& ~~~s.warp.helpers
    .done (setWarp s fun w => { w with
      held := w.held ++ (lanesOf part).filterMap fun k =>
        let j := mget 0 w.join k
        if j = 0 then none else some (.joinDec j.toNat w.asid)
      join := (lanesOf part).foldl (fun m k => mset 0 m k 0) w.join })) s

/-! Waits on events (R348). -/

/-- The end of a segment at IP + 1 with an event. -/
def waitEvent (s : State) (ev : DWord) : Step := .ends (.at ev (ipAdd (curIp s.warp) 1)) s

/-- WAITE.tile. -/
def execWaiteTile (c : Ctl) (t : TileOp) (s : State) : Host.Outcome State Fault Refusal :=
  issue (.waiteTile c t) c (fun s _ => match tileOfOp s t with
    | .error e => .trap e.1 e.2 none
    | .ok p => waitEvent s (evTileReady p.1 p.2)) s

/-- WAITE.batch. -/
def execWaiteBatch (c : Ctl) (b : Opnd) (s : State) : Host.Outcome State Fault Refusal :=
  issue (.waiteBatch c b) c (fun s act => waitEvent s (evBatch s.warp.wid (min 8 (srcBits s act b 1 0)))) s

/-- The code of a WAITE.word condition (R348). -/
def condCode : WordCond → Nat
  | .eq => 0 | .ne => 1 | .geu => 2 | .ltu => 3 | .ges => 4 | .lts => 5

/-- An element checked as a one-lane LD, once its page walk is done; CLAMP does not apply (R116, R348). -/
def withWord (s : State) (br : Fin 64) (i n : Nat) (f : State → LaneAcc → Step) : Step :=
  let r := { slotRec s br with clamp := false }
  match streamCheck s s.warp.vi r.glz false with
  | some x => .trap 0xB x none
  | none => withWalks s (laneVas r i 0 n) (match checkLane s r i 0 n false with
    | .fail c d => .trap c d none
    | x => f (touchLanes s [(0, x)]) x)

/-- A wait on a word at a location. A word in host memory has no memory-word event, so its condition is tested each time the
instruction is issued.
Log 64 (DEDUCED). -/
def waitLoc (s : State) (x : Xlat) (n : Nat) (ev : Nat → DWord) (cond : Nat → Bool) (cmp : DWord) : Step :=
  match x.loc with
  | .dev a => .ends { SegEnd.at (ev a) (ipAdd (curIp s.warp) 1) with cmp := cmp, swz := x.swz } s
  | .host a =>
    if cond (natOfBytes (readLocs s x.swz (.host a) n)) then waitEvent s evReady
    else .ends (.at evReady (curIp s.warp)) s

/-- WAITE.word.
Log 64 (DEDUCED). -/
def execWaiteWord (c : Ctl) (cond : WordCond) (w64 : Bool) (br : Fin 64) (b r : Opnd) (s : State) :
    Host.Outcome State Fault Refusal :=
  issue (.waiteWord c cond w64 br b r) c (fun s act =>
    let n := if w64 then 8 else 4
    let cmp := srcBits s act r (n / 4) 0
    withWord s br (srcBits s act b 1 0) n fun s l => match l with
    | .nores va p => waitPage s va p
    | .ok (w :: _) =>
      waitLoc s w.2.2 n (evWord w64 (condCode cond)) (fun x => wordCond (condCode cond) (8 * n) x cmp) (BitVec.ofNat 64 cmp)
    | _ => .done s) s

/-- WAITE.join.
Log 64 (DEDUCED). -/
def execWaiteJoin (c : Ctl) (a : Opnd) (s : State) : Host.Outcome State Fault Refusal :=
  issue (.waiteJoin c a) c (fun s _ =>
    let va := pairS s a
    if va % 8 ≠ 0 then .trap 7 0 none else
    withWalks s [va] (match translate s s.warp.space va false false with
    | .malf => .trap 9 0 none
    | .prot d => .trap 8 d none
    | .nores p => waitPage s va p
    | .ok x => waitLoc (tlbTouch s s.warp.vi s.warp.asid va) x 8 evJoin (fun v => decide (v = 0)) 0)) s

/-- WAITE.bar. -/
def execWaiteBar (c : Ctl) (bar : BitVec 4) (cl : Bool) (a : Opnd) (s : State) : Host.Outcome State Fault Refusal :=
  issue (.waiteBar c bar cl a) c (fun s act => waitEvent s (barEvent (BitVec.ofNat 32 (srcBits s act a 1 0)) cl bar)) s

/-- WAITE.gtc. -/
def execWaiteGtc (c : Ctl) (a : Opnd) (s : State) : Host.Outcome State Fault Refusal :=
  issue (.waiteGtc c a) c (fun s _ =>
    let t := pairS s a
    if 2 ^ 60 ≤ t then .trap 3 7 none else waitEvent s (evGtc t)) s

/-- WAITE.page. -/
def execWaitePage (c : Ctl) (br : Fin 64) (b : Opnd) (s : State) : Host.Outcome State Fault Refusal :=
  issue (.waitePage c br b) c (fun s act =>
    withWord s br (srcBits s act b 1 0) 4 fun s l => match l with
    | .nores va p =>
      let asid := s.warp.asid
      let pg : Page := ⟨asid, va / 65536 / pszUnits p * pszUnits p⟩
      .ends { SegEnd.at (evPage asid pg.vpn) (ipAdd (curIp s.warp) 1) with pages := [pg] }
        (askPage s s.warp.vi asid va p false)
    | _ => waitEvent s evReady) s

/-- WAITE.coll. -/
def execWaiteColl (c : Ctl) (a : Opnd) (s : State) : Host.Outcome State Fault Refusal :=
  issue (.waiteColl c a) c (fun s act => waitEvent s (evColl (srcBits s act a 1 0))) s

/-! SPAWN (R349). -/

/-- Thread records of a child launch, added to the pool and held until the segment's end; their identifiers (R349). -/
def addItems (s : State) (rs : List Rec) : State × List Nat :=
  let first := s.fresh
  let s := rs.foldl addRec s
  (s, (s.recs.filter fun r => decide (first ≤ r.rid)).map (·.rid))

/-- Bytes of a table that SPAWN reads, as BREC.ld reads (R133); none to read gives none.
Log 62 (DEDUCED). -/
def tableLoad (s : State) (t : Nat × Nat) (f : State → List Byte → Step) : Step :=
  if t.2 = 0 then f s [] else recLoad s (t.1 / 8 * 8) (t.2 + 8) 8 false fun s bs => f s ((bs.drop (t.1 % 8)).take t.2)

/-- SPAWN's effect with an image that it has read and accepted (R349).
Log 62 (DEDUCED). -/
def spawnImage (na iv jv : Nat) (b : Opnd) (regions : List Nat) (act : Mask) (img : Image) (s : State) : Step :=
  let w := s.warp
  if regions.any fun r => regionBad r || (regionOf16 r).tile.isSome then .trap 0xA 0 none
  else
    let lanes := lanesOf (act &&& ~~~w.helpers)
    if lanes.isEmpty then .done s
    else if !canReserve s w.vi (reservation img 0) then .wait evPool none s
    else
      let l0 := newLaunch s w.vi w.asid { img with regions := img.regions ++ regions.map fun x => { regionOf16 x with user := w.space.user } } iv .spawn w.chk
      let l := { l0 with threads := lanes.length, closed := true }
      let recs := (List.range lanes.length).map fun j =>
        let k := lanes.getD j 0
        itemRec l w.core j na ((List.range na).map fun q => rdV s (vecNum b + q) k) (BitVec.ofNat 64 jv) .lane
      let r := addItems (admitLaunch s l) recs
      .done (setWarp r.1 fun w => { w with held := w.held ++ [.spawn l.id jv r.2] })

/-- SPAWN's own part; regions are those of the .stage form (R349).
Log 62 (DEDUCED). -/
def spawnBody (na : Nat) (d a b : Opnd) (regions : List Nat) (s : State) (act : Mask) : Step :=
  let iv := pairS s a
  let jv := match d with | .s _ => pairS s d | _ => 0
  if iv % 64 ≠ 0 ∨ jv % 8 ≠ 0 then .trap 7 0 none
  else if 2 ^ 52 ≤ iv ∨ 2 ^ 52 ≤ jv then .trap 8 5 none
  else recLoad s iv 64 64 false fun s bs =>
    let x := natOfBytes bs
    let i := imageOf x
    if imageBad x || decide (i.tiles ≠ 0 ∨ i.gang ≠ 0 ∨ i.frame ≠ 0 ∨ i.nreg < na ∨ 1536 < vecNum b + na) then .trap 3 7 none
    else tableLoad s (imageTables x).1 fun s rs => match imageRegions x rs with
      | none => .trap 3 7 none
      | some own => tableLoad s (imageTables x).2 fun s ts => match imageRecs x own ts with
        | none => .trap 3 7 none
        | some img => spawnImage na iv jv b regions act img s

/-- SPAWN.node. -/
def execSpawnNode (c : Ctl) (na : BitVec 4) (d a b : Opnd) (s : State) : Host.Outcome State Fault Refusal :=
  issue (.spawnNode c na d a b) c (spawnBody na.toNat d a b []) s

/-- SPAWN.stage. -/
def execSpawnStage (c : Ctl) (na : BitVec 4) (k : BitVec 3) (d a b r : Opnd) (s : State) : Host.Outcome State Fault Refusal :=
  issue (.spawnStage c na k d a b r) c (fun s act =>
    let entry := fun (i : Nat) => (List.range 4).foldl (fun n j =>
      n + srcBits s act (Opnd.plus r (4 * i + j)) 1 0 * 2 ^ (32 * j)) 0
    spawnBody na.toNat d a b ((List.range (k.toNat + 1)).map entry) s act) s

/-! FWD (R351). -/

/-- The number of records that lie in a sector's saggars and overflow lists.
Log 67 (DEDUCED). -/
def sectorRecs (s : State) (q : Nat) : Nat :=
  (s.recs.filter fun r => match r.place with
    | .saggar sid => s.saggars.any fun g => g.sid = sid && decide (g.core / 24 = q)
    | .overflow c => decide (c / 24 = q)
    | _ => false).length

/-- The sector that holds the fewest records, the lowest among equals.
Log 67 (DEDUCED). -/
def leastSector (s : State) : Nat :=
  (List.range 4).foldl (fun b q => if sectorRecs s q < sectorRecs s b then q else b) 0

/-- Whether a crew may move to a target: its cluster stays within its class, and a crew of a larger cluster stays on the package
(R351). -/
def moveOk (s : State) (c : Crew) (kind target : Nat) : Bool :=
  match launchOf s c.launch with
  | none => false
  | some l =>
    if l.cpc = 1 then true
    else if kind = 2 then false
    else l.far || decide ((if kind = 0 then target / 24 else target) = c.core / 24)

/-- FWD of a warp to a target: kind 0 a core, 1 a sector, 2 another package (R351).
Log 66 (DEDUCED), 74 (DEDUCED). -/
def forward (kind target : Nat) (s : State) : Step :=
  let w := s.warp
  let next := SegEnd.at evReady (ipAdd (curIp w) 1)
  match w.crew with
  | none => .ends { next with dest := some (kind, target) } s
  | some k =>
    match crewAt s w.launch k with
    | none => .ends next s
    | some c =>
      if c.moving.isSome then .ends next s
      else if !moveOk s c kind target then .trap 3 8 none
      else
        let s := setCrewAt s w.launch k fun c => { c with moving := some (kind, target) }
        let mark := fun (x : Warp) => if x.launch = w.launch ∧ x.crew = some k ∧ x.entries ≠ [] then x.mark s.now else x
        .ends next { s with bench := s.bench.map mark }

/-- FWD. -/
def execFwd (c : Ctl) (t : FwdTarget) (s : State) : Host.Outcome State Fault Refusal :=
  issue (.fwd c t) c (fun s act =>
    let go := fun (kind lim : Nat) (a : Opnd) =>
      let x := srcBits s act a 1 0
      if lim ≤ x then Step.trap 3 7 none
      else if kind = 2 ∧ x = s.pkg then forward 1 (s.warp.core / 24) s
      else forward kind x s
    match t with
    | .core a => go 0 96 a
    | .sect a => go 1 4 a
    | .pkg a => go 2 s.domain a
    | .any => forward 1 (leastSector s) s) s

/-- What REFILL does with the index fetched for its finished lanes: the lanes that get an item take it, the others exit (R354). -/
def refillLanes (d p : Opnd) (lanes : List Nat) (base lim : Nat) (s : State) : State × Mask :=
  let give := (List.range lanes.length).filter fun j => decide ((base + j) % 2 ^ 64 < lim)
  let got := maskOf fun k => give.any fun j => lanes.getD j 32 = k
  let out := maskOf fun k => lanes.contains k && !got.getLsbD k
  let idx := fun (k : Nat) => match (List.range lanes.length).find? fun j => lanes.getD j 32 = k with
    | some j => (base + j) % 2 ^ 32
    | none => 0
  let s := writeDst s got d 1 idx
  (exitLanes (writeDst s got p 1 fun _ => 0) out, out)

/-- How REFILL ends: at the next instruction, without the lanes that exit, or in a wait for the fetched value where its line could not
answer (R15, R335, R354). -/
def refillEnd (out : Mask) (late : Bool) (s : State) : Step :=
  let w := s.warp
  let left := entryMask w &&& ~~~out
  let at_ := fun (ip : BitVec 48) => setWarp s fun w => { w with
    entries := frontier w.helpers ({ ip := ip, mask := left, prio := curPrio w } :: w.entries.drop 1) }
  if late && decide (left &&& ~~~w.helpers ≠ 0) then .wait evLine (some (ipAdd (curIp w) 1)) (afterExit (at_ (curIp w)))
  else if out = 0 then .done s
  else exitStep (at_ (ipAdd (curIp w) 1))

/-- REFILL's own part; a REFILL whose atomic has been made only waits for its value (R354). -/
def refillBody (d a b p : Opnd) (s : State) (act : Mask) : Step :=
  let w := s.warp
  if w.wait.isSome && w.resume.isSome then
    (if s.resps.any fun r => r.uid = w.uid && r.pieces.isEmpty then .wait evLine w.resume s else .done s)
  else
    let lanes := lanesOf (act &&& ~~~w.helpers &&& rdP s (predNum p))
    if lanes.isEmpty then .done s else
    let cv := pairS s a
    if cv % 8 ≠ 0 then .trap 7 0 none else
    withWalks s [cv] (match translate s w.space cv true false with
    | .malf => .trap 9 0 none
    | .prot e => .trap 8 e none
    | .nores q => waitPage s cv q
    | .ok x =>
      let line := match x.loc with | .dev a => some (a / 128) | .host _ => none
      let late := match line with | some l => !atomAnswered s l | none => false
      let r := atomWord (tlbTouch s w.vi w.asid cv) x cv 8 (fun m => m + lanes.length)
      let s := noReplay r.1
      let s := match line with
        | some l => if late then askLine s (if isRemote s l then { x with ord := .un } else x) 0 l [] [] else s
        | none => s
      let t := refillLanes d p lanes r.2 (srcBits s act b 1 0) s
      refillEnd t.2 late t.1)

/-- REFILL (R354). -/
def execRefill (c : Ctl) (sc : Scope) (d a b p : Opnd) (s : State) : Host.Outcome State Fault Refusal :=
  match issue (.refill c sc d a b p) c (refillBody d a b p) s with
  | .next t => .next (dissolveDead t)
  | r => r

/-! TRAP and TRET. -/

/-- TRAP: USER with its detail; the record's CODE is IP + 1 (R373, R377). -/
def execTrap (c : Ctl) (detail : Byte) (s : State) : Host.Outcome State Fault Refusal :=
  issue (.trap c detail) c (fun s _ => .trapAt 0xF detail.toNat (ipAdd (curIp s.warp) 1)) s

/-- TRET's own part: the pairs held until the segment's end (R378). -/
def tretBody (a : Opnd) (kill : Bool) (s : State) (act : Mask) : Step :=
  if s.warp.priv = 0 then .trap 0x10 1 none
  else
    let vas := (lanesOf (act &&& ~~~s.warp.helpers)).map fun k => (k, srcBits s act a 2 k)
    match vas.find? fun e => decide (e.2 % 64 ≠ 0) with
    | some e => .trap 7 0 (some e.1)
    | none => .done (setWarp s fun w => { w with held := w.held ++ vas.map fun e => .tret e.2 kill })

/-- TRET. -/
def execTret (c : Ctl) (a : Opnd) (s : State) : Host.Outcome State Fault Refusal := issue (.tret c a) c (tretBody a false) s

/-- TRET.kill. -/
def execTretKill (c : Ctl) (a : Opnd) (s : State) : Host.Outcome State Fault Refusal :=
  issue (.tretKill c a) c (tretBody a true) s

/-! Special registers. -/

/-- The value of a special register in a lane (R379). -/
def special (s : State) (act : Mask) (num k : Nat) : Nat :=
  let w := s.warp
  match num with
  | 0x00 => s.gtc.value.toNat
  | 0x01 => k
  | 0x02 => k / 4
  | 0x03 => w.wid
  | 0x04 => selValue s act .crewid 1 k
  | 0x05 => w.core
  | 0x06 => w.core / 24
  | 0x07 => s.pkg
  | 0x08 => w.cls
  | 0x09 => w.vi
  | 0x0A => if w.chk then 1 else 0
  | 0x0B => (mget 0 w.tid k).toNat
  | 0x0C => w.frame.toNat
  | 0x0D => w.launch
  | 0x0E => w.nreg
  | 0x0F => w.priv
  | 0x10 => (match launchOf s w.launch with | some l => l.hwdog | none => (viOf s w.vi).hwdog).toNat
  | 0x11 => (match launchOf s w.launch with | some l => l.seglim | none => (viOf s w.vi).seglim).toNat
  | _ => 0

/-- SRD (R380). -/
def execSrd (c : Ctl) (w64 : Bool) (num : Byte) (d : Opnd) (s : State) : Host.Outcome State Fault Refusal :=
  issue (.srd c w64 num d) c (fun s act =>
    let n := if w64 then 2 else 1
    .done (writeDst s act d n fun k => special s act num.toNat k % 2 ^ (32 * n))) s

/-- SWR: only class may be written, a higher value by supervisor segments alone (R379, R380). -/
def execSwr (c : Ctl) (w64 : Bool) (num : Byte) (a : Opnd) (s : State) : Host.Outcome State Fault Refusal :=
  issue (.swr c w64 num a) c (fun s act =>
    if num ≠ 0x08 then .trap 0x10 2 none
    else
      let x := srcBits s act a (if w64 then 2 else 1) 0
      if 3 < x then .done s
      else if s.warp.priv = 0 ∧ s.warp.cls < x then .trap 0x10 2 none
      else .done (setWarp s fun w => { w with cls := x })) s

end Sys2Proof.Machine
end

