-- ==== Sys2Proof/Machine/Repartition.lean ====
section
/-! DEFINITION. The repartition collective: records, keys, histogram, splitters, placement and completion (R98, R302 to R314), and
the signatures and ends that every collective shares (R300, R307). -/

namespace Sys2Proof.Machine

/-- A parameter block's fields (R303). -/
structure RpBlk where
  pbuf : Nat
  sbuf : Nat
  retv : Nat
  crec : Nat
  splv : Nat
  hwk : Nat
  pcap : Nat
  scap : Nat
  iszl : Nat
  coff : Nat
  woff : Nat
  koff : Nat
  kkind : Nat
  n32 : Bool
  lo : List Word
  hi : List Word
deriving DecidableEq, Repr

/-- The fields of the 128 bytes of a parameter block (R303). -/
def rpBlk (bs : List Byte) : RpBlk :=
  { pbuf := numAt bs 0 8, sbuf := numAt bs 8 8, retv := numAt bs 16 8, crec := numAt bs 24 8, splv := numAt bs 32 8,
    hwk := numAt bs 40 8, pcap := numAt bs 48 4, scap := numAt bs 52 4, iszl := numAt bs 56 1, coff := numAt bs 57 1,
    woff := numAt bs 58 1, koff := numAt bs 59 1, kkind := numAt bs 60 1 % 4, n32 := (numAt bs 60 1).testBit 2,
    lo := (List.range 3).map fun i => BitVec.ofNat 32 (numAt bs (64 + 4 * i) 4),
    hi := (List.range 3).map fun i => BitVec.ofNat 32 (numAt bs (76 + 4 * i) 4) }

/-- ISZ (R303). -/
def RpBlk.isz (b : RpBlk) : Nat := 2 ^ b.iszl

/-! Keys (R306). -/

/-- A finite FP32 value in units of 2^-149. -/
def fixInt (x : Word) : Int :=
  match numOf fp32 x.toNat with
  | .fin s n d => let m : Int := (n * 2 ^ 149 / d : Nat); if s then -m else m
  | _ => 0

/-- A cell number held between 0 and 2^21 - 1. -/
def cellSat (x : Int) : Nat := (max 0 (min (2 ^ 21 - 1) x)).toNat

/-- axisf (R306). -/
def axisF (x lo hi : Word) : Nat :=
  match numOf fp32 x.toNat with
  | .nan => 0
  | .inf s => if s then 0 else 2 ^ 21 - 1
  | .fin .. => cellSat ((fixInt x - fixInt lo) * 2 ^ 21 / (fixInt hi - fixInt lo))

/-- axisn (R306). -/
def axisN (x lo hi : Word) : Nat :=
  cellSat (((x.toNat : Int) - lo.toNat) * 2 ^ 21 / ((hi.toNat : Int) - lo.toNat + 1))

/-- interleave (R306). -/
def interleave (x0 x1 x2 : Nat) : Nat :=
  (List.range 21).foldl (fun n i => n + x0 / 2 ^ i % 2 * 2 ^ (3 * i + 2) + x1 / 2 ^ i % 2 * 2 ^ (3 * i + 1) + x2 / 2 ^ i % 2 * 2 ^ (3 * i)) 0

/-- One step of hilbert on an axis, under the mask P below the bit Q (R306). -/
def hilbertStep (q i : Nat) (x : Nat × Nat × Nat) : Nat × Nat × Nat :=
  let p := q - 1
  let xi := match i with | 0 => x.1 | 1 => x.2.1 | _ => x.2.2
  if xi / q % 2 = 1 then (x.1 ^^^ p, x.2.1, x.2.2)
  else
    let t := (x.1 ^^^ xi) &&& p
    match i with
    | 0 => (x.1 ^^^ t ^^^ t, x.2.1, x.2.2)
    | 1 => (x.1 ^^^ t, x.2.1 ^^^ t, x.2.2)
    | _ => (x.1 ^^^ t, x.2.1, x.2.2 ^^^ t)

/-- hilbert (R306). -/
def hilbert (x0 x1 x2 : Nat) : Nat :=
  let qs := (List.range 20).map fun j => 2 ^ (20 - j)
  let x := qs.foldl (fun x q => hilbertStep q 2 (hilbertStep q 1 (hilbertStep q 0 x))) (x0, x1, x2)
  let y1 := x.2.1 ^^^ x.1
  let y2 := x.2.2 ^^^ y1
  let t := qs.foldl (fun t q => if y2 / q % 2 = 1 then t ^^^ (q - 1) else t) 0
  interleave (x.1 ^^^ t) (y1 ^^^ t) (y2 ^^^ t)

/-- The 63-bit key of an item's bytes (R306). -/
def itemKey (b : RpBlk) (bs : List Byte) : Nat :=
  if b.kkind = 2 then numAt bs (8 * b.koff) 8 % 2 ^ 63
  else
    let u := fun (a : Nat) =>
      let x : Word := BitVec.ofNat 32 (numAt bs (4 * b.coff + 4 * a) 4)
      if b.n32 then axisN x (b.lo.getD a 0) (b.hi.getD a 0) else axisF x (b.lo.getD a 0) (b.hi.getD a 0)
    if b.kkind = 0 then hilbert (u 0) (u 1) (u 2) else interleave (u 0) (u 1) (u 2)

/-- An item's weight; -0 reads as 0 (R307). -/
def itemWeight (b : RpBlk) (unitw : Bool) (bs : List Byte) : Word :=
  if unitw then 0x3F800000
  else let w : Word := BitVec.ofNat 32 (numAt bs (4 * b.woff) 4); if w = 0x80000000 then 0 else w

/-- Whether a weight is valid: finite and not below zero (R307). -/
def weightOk (w : Word) : Bool := match numOf fp32 w.toNat with | .fin s n _ => !s || decide (n = 0) | _ => false

/-- Triple order (R306). -/
def tripleLt (a b : Triple) : Bool :=
  decide (a.key < b.key) || decide (a.key = b.key) && (decide (a.rank < b.rank) || decide (a.rank = b.rank) && decide (a.index < b.index))

/-- An element put in its place in a list kept in order; equal ones keep their order. -/
def putSorted {α : Type} (lt : α → α → Bool) (x : α) : List α → List α
  | [] => [x]
  | h :: t => if lt x h then x :: h :: t else h :: putSorted lt x t

/-- A list put in order. -/
def sortBy {α : Type} (lt : α → α → Bool) (l : List α) : List α := l.foldl (fun a x => putSorted lt x a) []

/-! Checks (R304). -/

/-- Whether a parameter block's modes and box are refused (R303, R304). -/
def rpBlkBad (bs : List Byte) : Bool :=
  let b := rpBlk bs
  let isz := b.isz
  let fin := fun (x : Word) => match numOf fp32 x.toNat with | .fin .. => true | _ => false
  decide (numAt bs 88 40 ≠ 0 ∨ numAt bs 61 3 ≠ 0 ∨ 8 ≤ numAt bs 60 1 ∨ b.iszl < 4 ∨ 7 < b.iszl ∨ b.kkind = 3 ∨ isz < 4 * b.woff + 4)
    || (if b.kkind = 2 then decide (isz < 8 * b.koff + 8 ∨ b.coff ≠ 0 ∨ b.n32 = true) || (b.lo ++ b.hi).any (fun x => decide (x ≠ 0))
        else decide (isz < 4 * b.coff + 12 ∨ b.koff ≠ 0) || (List.range 3).any fun a =>
          let lo := b.lo.getD a 0
          let hi := b.hi.getD a 0
          if b.n32 then decide (hi < lo) else !fin lo || !fin hi || decide (fixInt hi ≤ fixInt lo))

/-- A region that a repartition names: its VA, bytes, alignment, and how it is reached (none: it has been read already). -/
structure RpRegion where
  va : Nat
  n : Nat
  align : Nat
  w : Option Bool
deriving DecidableEq, Repr

/-- The VA of the 64 bytes that hold a record: its ring slot, or what COLL named (R304). -/
def recordVa (s : State) (p : Packet) : Option Nat :=
  match p.queue, p.parent with
  | none, _ => some p.idx
  | some h, none => (queueAt s p.vi h).map fun q => q.ring + 64 * (p.idx % 2 ^ q.log2n)
  | some _, some _ => none

/-- The regions of a repartition (R302 to R304).
Log 105 (DEDUCED). -/
def rpRegions (s : State) (p : Packet) (b : RpBlk) : List RpRegion :=
  let x := collRec p
  let n := bitsOf (pktNum p 32 8) 31 0
  [⟨x.src, n * b.isz, 128, some false⟩, ⟨b.pbuf, b.pcap * b.isz, 128, some true⟩, ⟨b.sbuf, b.scap * b.isz, 128, some true⟩,
    ⟨b.retv, 4 * n, 4, some true⟩, ⟨b.crec, 64 + 16 * x.npart, 64, some true⟩,
    ⟨b.splv, 16 * x.npart - 16, 16, some (!x.reissue)⟩, ⟨b.hwk, 262144, 128, some (!x.reissue)⟩,
    ⟨x.dst, 128, 64, none⟩] ++ (match recordVa s p with | some a => [⟨a, 64, 1, none⟩] | none => [])

/-- Whether some two regions overlap (R304).
Log 105 (DEDUCED). -/
def regionsMeet : List RpRegion → Bool
  | [] => false
  | r :: t => t.any (fun q => rangesMeet r.va r.n q.va q.n) || regionsMeet t

/-- The splitters that a reissue reads (R309, R313). -/
def splitOf (bs : List Byte) (n : Nat) : List Triple :=
  (List.range n).map fun j =>
    ⟨BitVec.ofNat 64 (numAt bs (16 * j) 8), BitVec.ofNat 16 (numAt bs (16 * j + 8) 2), BitVec.ofNat 32 (numAt bs (16 * j + 12) 4)⟩

/-- The own checks of a repartition, its parameter block read (R160, R300, R302 to R304, R307). -/
def rpCheck (s : State) (p : Packet) (bs : List Byte) : CollCheck :=
  let x := collRec p
  let b := rpBlk bs
  let sp := pktSpace p
  let rs := rpRegions s p b
  if headBad p || decide (pktKind p ≠ 6 ∨ collVar p ≠ x.var ∨ pktNum p 56 1 ≠ 3 ∨ x.eop ≠ 14 ∨ pktNum p 57 7 ≠ 0
      ∨ bitsOf (pktNum p 40 8) 31 25 ≠ 0 ∨ 2 ^ 32 ≤ pktNum p 32 8 ∨ 2 ^ 52 ≤ x.plist ∨ x.npart ≤ x.rank) || rpBlkBad bs
      || rs.any (fun r => decide (r.va % r.align ≠ 0 ∨ 2 ^ 52 < r.va + r.n ∨ 2 ^ 52 ≤ r.va)) || regionsMeet rs then .status 1
  else readPlist s p x fun es =>
    let check := rs.foldl (fun (a : RangeTr) r => match a, r.w with
      | .ok, some w => checkRange s sp r.va r.n w
      | a, _ => a) .ok
    match check with
    | .nores va psz => .nores va psz
    | .status c => .status c
    | .ok =>
      let split := if x.reissue then (readVa s sp b.splv (16 * x.npart - 16)).getD [] else []
      let words := (List.range (2 * (x.npart - 1))).map fun j => BitVec.ofNat 64 (numAt split (8 * j) 8)
      let nat := fun (n : Nat) => (BitVec.ofNat 64 n : DWord)
      let params := [nat (numAt bs 60 1), nat b.iszl, nat b.coff, nat b.woff, nat b.koff]
        ++ (b.lo ++ b.hi).map (fun w => nat w.toNat) ++ [nat (if x.reissue then 1 else 0)] ++ (if x.reissue then words else [])
      let hist := match s.histOwner with | some (.stream _) => true | _ => false
      if hist then .status 0x35
      else .ok ⟨BitVec.ofNat 32 x.collid, 3, 14, 0, x.npart, es, params⟩ (splitOf split (if x.reissue then x.npart - 1 else 0))

/-! Failure. -/

/-- The header of a completion record, and its entries (R312).
Log 104 (DEDUCED). -/
def crecBytes (collid status flags npart : Nat) (wtot ntot : DWord) (entries : List (Nat × Nat × Nat × Nat)) : List Byte :=
  bytesOfNat 4 collid ++ bytesOfNat 4 status ++ bytesOfNat 4 flags ++ bytesOfNat 4 npart ++ bytesOfNat 8 wtot.toNat
    ++ bytesOfNat 8 ntot.toNat ++ List.replicate 32 0
    ++ entries.flatMap fun e => bytesOfNat 4 e.1 ++ bytesOfNat 4 e.2.1 ++ bytesOfNat 4 e.2.2.1 ++ bytesOfNat 4 e.2.2.2

/-- A repartition that fails: the header of CREC written with the status and zero entries, where its page allows, and the packet failed;
a page that is not resident is waited for (R307). What the manual does not state of the header's totals is free.
Log 104 (DEDUCED). -/
def rpFail (s : State) (p : Packet) (cid : Option Nat) (unitw : Bool) (status : Byte) : State :=
  let x := collRec p
  let b := rpBlk p.buf
  let sp := pktSpace p
  let n := 64 + 16 * x.npart
  let s0 := match cid with | some k => dropColl s k | none => s
  if p.buf = [] ∨ b.crec % 64 ≠ 0 ∨ 2 ^ 52 < b.crec + n then failPkt s0 p.pid status
  else match checkRange s sp b.crec n true with
    | .nores va psz =>
      let c : Coll :=
        { cid := p.pid, pid := p.pid, instr := p.queue.isNone, recVa := p.idx, st := .run, failed := some status,
          sig := ⟨BitVec.ofNat 32 x.collid, 3, 14, 0, 0, [], []⟩, sigs := [], rank := x.rank, unitw := unitw, hist := [], splitters := [],
          counts := [], caps := [], items := [] }
      askPage (setPkt { s0 with colls := s0.colls ++ [c] } p.pid fun q => { q with st := .started, buf := p.buf })
        p.vi p.asid va psz true
    | .status e => failPkt s0 p.pid e
    | .ok =>
      let flags := (if unitw then 1 else 0) + (if x.reissue then 2 else 0)
      let wtot := if x.reissue then 0 else Config.freeWord s.free 0
      let bytes := crecBytes x.collid status.toNat flags x.npart wtot (Config.freeWord s.free 1)
        (List.replicate x.npart (0, 0, 0, 0))
      let t := (writeVa s0 sp b.crec bytes).getD s0
      failPkt { t with free := t.free + 1 } p.pid status

/-- A collective that fails, of any variant (R300, R307).
Log 102 (DEDUCED), 104 (DEDUCED). -/
def collFail (s : State) (c : Coll) (status : Byte) : State :=
  match collPkt s c with
  | none => dropColl s c.cid
  | some p => if c.sig.var = 3 then rpFail s p (some c.cid) c.unitw status else failMove s c status

/-- COLL of .rpart: the parameter block read, the checks, and the exchange of signatures (R307). -/
def execCollRpartPacket (pid : Nat) (s : State) : Host.Outcome State Fault Refusal :=
  withColl s pid true fun p s =>
    let x := collRec p
    let start := fun (t : State) (bs : List Byte) =>
      let t := setPkt t pid fun q => { q with buf := bs }
      let p := { p with buf := bs }
      if collidBusy s p then rpFail t p none false 1
      else match rpCheck t p bs with
        | .status c => rpFail (tellFailed t p) p none false c
        | .nores va psz => askPage (setPkt t pid fun q => { q with st := .started }) p.vi p.asid va psz true
        | .ok sig sp => openColl (touchVa t p.vi p.asid x.dst 128) p sig sp
    if x.dst % 64 ≠ 0 ∨ 2 ^ 52 ≤ x.dst then failPkt (tellFailed s p) pid 1
    else match engineBytes s (pktSpace p) x.dst 128 with
      | .nores va psz => askPage (setPkt s pid fun q => { q with st := .started }) p.vi p.asid va psz true
      | .status c => failPkt (tellFailed s p) pid c
      | .ok bs => start s bs

/-- A collective event taken up: it fails when a participant cannot be reached (R300, R307). -/
def withCollAt (s : State) (cid : Nat) (run : Coll → Packet → State → State) : Host.Outcome State Fault Refusal :=
  match s.colls.find? fun c => c.cid = cid with
  | none => .next s
  | some c => match collPkt s c with
    | none => .next s
    | some p =>
      if c.st ≠ .run ∧ collLost s c = true then .next (collFail s c 0x32)
      else .next (run c p s)

/-- A participant's signature arrives: a failed one or one that differs ends the collective, and the last that agrees starts it (R300,
R307).
Log 102 (DEDUCED), 103 (DEDUCED). -/
def execCollSignature (cid rank : Nat) (ok : Bool) (sig : CollSig) (s : State) : Host.Outcome State Fault Refusal :=
  withCollAt s cid fun c p s =>
    if c.st ≠ .sign ∨ c.sig.npart ≤ rank ∨ rank = c.rank ∨ c.sigs.any (fun x => decide (x.1 = rank)) then s
    else if !ok then collFail s c 0x31
    else if sig ≠ c.sig then collFail s c 0x30
    else
      let c1 := { c with sigs := c.sigs ++ [(rank, ok, sig)] }
      setColl s cid fun _ => if allSigned c1 then { c1 with st := signedState c1 (collRec p).reissue } else c1

/-- A collective completes: the movement of .rs, .ag and .a2a, or the completion record of a failed repartition that waited for its
page (R299, R307). -/
def execCollComplete (cid : Nat) (peers : List (Nat × List Byte)) (s : State) : Host.Outcome State Fault Refusal :=
  withCollAt s cid fun c p s =>
    match c.st with
    | .move => if c.sig.var = 3 then s else moveColl s c p peers
    | .run => rpFail s p (some cid) c.unitw (c.failed.getD 0)
    | _ => s

/-! The key pass and the histogram. -/

/-- A local item: its triple, its weight, its controller and DPA, and its bytes. -/
structure LocalItem where
  triple : Triple
  weight : Word
  ctrl : Nat
  dpa : Nat
  bytes : List Byte
deriving DecidableEq, Repr

/-- Where an item lies: its controller and device address. -/
def itemPlace (s : State) (sp : Space) (va : Nat) : Nat × Nat :=
  match translate s sp va false false with
  | .ok x => (match x.loc with | .dev a => (ctrlOf x.swz a, a) | .host a => (0, a))
  | _ => (0, va)

/-- The local items of a repartition, from lines that have been read (R302, R306). -/
def localItems (s : State) (c : Coll) (p : Packet) (ls : List (Nat × Line)) : List LocalItem :=
  let b := rpBlk p.buf
  let src := (collRec p).src
  (List.range (pktNum p 32 4)).map fun i =>
    let va := src + i * b.isz
    let bs := (List.range b.isz).map fun j => byteIn ls (va + j)
    let pl := itemPlace s (pktSpace p) va
    { triple := ⟨BitVec.ofNat 64 (itemKey b bs), BitVec.ofNat 16 c.rank, BitVec.ofNat 32 i⟩, weight := itemWeight b c.unitw bs,
      ctrl := pl.1, dpa := pl.2, bytes := bs }

/-- The bucket of an item (R306). -/
def bucketOf (t : Triple) : Nat := t.key.toNat / 2 ^ 47

/-- A bin with a weight added by rne32 (R98). -/
def addWeight (m : SMap Word) (b : Nat) (w : Word) : SMap Word :=
  mset 0 m b (BitVec.ofNat 32 (combine 0 (mget 0 m b).toNat w.toNat))

/-- The package's histogram: each controller's updates in ascending item address, then the controllers in order 0 to 11 (R308).
Log 92 (DEDUCED). -/
def localHist (items : List LocalItem) : SMap Word :=
  let sorted := sortBy (fun (a b : LocalItem) => decide (a.dpa < b.dpa)) items
  let of_ := fun (k : Nat) => (sorted.filter fun i => i.ctrl = k).foldl (fun m i => addWeight m (bucketOf i.triple) i.weight) ([] : SMap Word)
  (List.range 12).foldl (fun m k => (of_ k).foldl (fun m e => addWeight m e.1 e.2) m) []

/-- The bytes of a histogram area (R303). -/
def histBytes (m : SMap Word) : List Byte := (List.range 65536).flatMap fun i => bytesOfNat 4 (mget 0 m i).toNat

/-- SRC read, or why not: the items and the state, or what the engine does instead. -/
def readItems (s : State) (c : Coll) (p : Packet) (go : State → List LocalItem → State) : State :=
  let b := rpBlk p.buf
  let ls := vaLines (collRec p).src (pktNum p 32 4 * b.isz)
  match linesCheck s (pktSpace p) 0 false ls with
  | .nores va psz => askPage s p.vi p.asid va psz true
  | .status e => collFail s c e
  | .ok => let r := readLines s (pktSpace p) none 0 ls; go r.1 (localItems r.1 c p r.2)

/-- A write of an engine's bytes at a VA, or what it does instead. -/
def putBytes (s : State) (c : Coll) (p : Packet) (va : Nat) (bytes : List Byte) (go : State → State) : State :=
  match checkRange s (pktSpace p) va bytes.length true with
  | .nores a psz => askPage s p.vi p.asid a psz true
  | .status e => collFail s c e
  | .ok => go ((writeVa s (pktSpace p) va bytes).getD s)

/-- The pass of a repartition that holds the histogram: SRC read through RPKEY, the local histogram written to HWK and the histogram
released; an invalid weight is told to every participant and fails the repartition (R98, R307, R308). -/
def keypass (s : State) (c : Coll) (p : Packet) : State :=
  readItems s c p fun s items =>
    if !(items.all fun i => weightOk i.weight) then collFail (tellColl s p c.sig.plist .weight) c 0x34
    else
      let h := localHist items
      putBytes s c p (rpBlk p.buf).hwk (histBytes h) fun s =>
        setColl { s with histOwner := none, hist := [] } c.cid fun c => { c with hist := h, st := .reduce }

/-- The key pass: a free histogram is claimed and cleared, and a pass that holds it is run; one that another repartition holds is waited
for, and one that a stream has taken refuses the repartition (R98, R307).
Log 92 (DEDUCED). -/
def execRpartKeypass (cid : Nat) (s : State) : Host.Outcome State Fault Refusal :=
  withCollAt s cid fun c p s =>
    if c.st ≠ .keypass then s
    else match s.histOwner with
      | none => { s with histOwner := some (.rpart cid), hist := [] }
      | some (.rpart k) => if k = cid then keypass s c p else s
      | some (.stream _) => collFail s c 0x35

/-- Histograms combined bin by bin over ranks, in the pairing of R299 (R308). -/
def reduceHist (maps : List (SMap Word)) : SMap Word :=
  ((maps.flatMap fun m => m.map (·.1)).dedup).foldl (fun g b =>
    mset 0 g b (BitVec.ofNat 32 ((treeFold (combine 0) 11 (maps.map fun m => some (mget 0 m b).toNat)).getD 0))) []

/-- W, the exact sum of a histogram's bins, in units of 2^-149 (R309). -/
def histSum (m : SMap Word) : Int := m.foldl (fun n e => n + fixInt e.2) 0

/-- The package histograms are reduced over ranks into HWK: an infinite bin fails the repartition, and a sum of zero runs the key pass
again with unit weights (R307, R308). -/
def execRpartReduce (cid : Nat) (peers : List (Nat × SMap Word)) (s : State) : Host.Outcome State Fault Refusal :=
  withCollAt s cid fun c p s =>
    let ready := (List.range c.sig.npart).all fun r => decide (r = c.rank) || peers.any fun e => decide (e.1 = r)
    if c.st ≠ .reduce ∨ !ready then s
    else
      let g := reduceHist ((List.range c.sig.npart).map fun r =>
        if r = c.rank then c.hist else match peers.find? fun e => e.1 = r with | some e => e.2 | none => [])
      let inf := g.any fun e => match numOf fp32 e.2.toNat with | .fin .. => false | _ => true
      if inf then collFail s c 0x36
      else putBytes s c p (rpBlk p.buf).hwk (histBytes g) fun s =>
        setColl s cid fun c =>
          if histSum g = 0 ∧ c.unitw = false then { c with unitw := true, st := .keypass } else { c with hist := g, st := .refine }

/-! Splitters (R309). -/

/-- END (R309). -/
def endTriple : Triple := ⟨0xFFFFFFFFFFFFFFFF, 0xFFFF, 0xFFFFFFFF⟩

/-- The smallest bucket whose running sum reaches j * W / n, with the sum below it. -/
def bucketFor (n j : Nat) (w : Int) : Int → SMap Word → Nat × Int
  | c, [] => (65535, c)
  | c, (b, x) :: t =>
    let c1 := c + fixInt x
    if j * w ≤ c1 * n then (b, c) else bucketFor n j w c1 t

/-- The first item whose running sum passes j * W / n. -/
def passItem (n j : Nat) (w : Int) : Int → List RpItem → Option Triple
  | _, [] => none
  | c, i :: t =>
    let c1 := c + fixInt i.weight
    if j * w < c1 * n then some i.triple else passItem n j w c1 t

/-- Splitter S_j from the global histogram and the items in triple order (R309). -/
def splitter (h : SMap Word) (items : List RpItem) (n j : Nat) : Triple :=
  let w := histSum h
  if w = 0 then endTriple
  else
    let b := bucketFor n j w 0 h
    match passItem n j w b.2 (items.filter fun i => bucketOf i.triple = b.1) with
    | some t => t
    | none => match items.find? fun i => decide (b.1 < bucketOf i.triple) with
      | some i => i.triple
      | none => endTriple

/-- The bytes of a splitter in SPLV (R309). -/
def splitBytes (t : Triple) : List Byte :=
  bytesOfNat 8 t.key.toNat ++ bytesOfNat 2 t.rank.toNat ++ [0, 0] ++ bytesOfNat 4 t.index.toNat

/-- The splitters chosen from the items that the participants list, and written to SPLV (R307, R309). -/
def execRpartRefine (cid : Nat) (peers : List RpItem) (s : State) : Host.Outcome State Fault Refusal :=
  withCollAt s cid fun c p s =>
    if c.st ≠ .refine then s
    else readItems s c p fun s items =>
      let one := fun (i : RpItem) => if c.unitw then { i with weight := 0x3F800000 } else i
      let own := items.map fun i => ({ triple := i.triple, weight := i.weight } : RpItem)
      let others := (peers.filter fun i => decide (i.triple.rank.toNat ≠ c.rank)).map one
      let all := sortBy (fun (a b : RpItem) => tripleLt a.triple b.triple) (own ++ others)
      let ss := (List.range (c.sig.npart - 1)).map fun j => splitter c.hist all c.sig.npart (j + 1)
      putBytes s c p (rpBlk p.buf).splv (ss.flatMap splitBytes) fun s =>
        setColl s cid fun c => { c with splitters := ss, st := .assign }

/-! Placement (R310). -/

/-- The participant to which an item goes: the number of splitters that are not above its triple (R310). -/
def destOf (ss : List Triple) (t : Triple) : Nat := (ss.filter fun x => !tripleLt t x).length

/-- The items of a sender for one destination, in key order and then index order (R310). -/
def itemsFor (ss : List Triple) (items : List LocalItem) (d : Nat) : List LocalItem :=
  sortBy (fun (a b : LocalItem) => tripleLt a.triple b.triple) (items.filter fun i => destOf ss i.triple = d)

/-- Items that the senders below rank r send to a participant (R310). -/
def baseOf (counts : List (List Nat)) (r d : Nat) : Nat := (List.range r).foldl (fun n q => n + (counts.getD q []).getD d 0) 0

/-- The counts of every sender are exchanged, and placements follow from them; this participant's own row and capacities are its own
(R307, R310). -/
def execRpartAssign (cid : Nat) (counts : List (List Nat)) (caps : List (Nat × Nat)) (s : State) :
    Host.Outcome State Fault Refusal :=
  withCollAt s cid fun c p s =>
    let n := c.sig.npart
    let b := rpBlk p.buf
    if c.st ≠ .assign then s
    else readItems s c p fun s items =>
      let row := (List.range n).map fun d => (itemsFor c.splitters items d).length
      if counts.length = n ∧ caps.length = n ∧ (counts.all fun r => decide (r.length = n)) = true ∧ counts.getD c.rank [] = row
          ∧ caps.getD c.rank (0, 0) = (b.pcap, b.scap) then
        setColl s cid fun c => { c with counts := counts, caps := caps, items := items.map (·.triple), st := .move }
      else s

/-- The room of a participant, primary and spill. -/
def roomAt (c : Coll) (d : Nat) : Nat := let x := c.caps.getD d (0, 0); x.1 + x.2

/-- Items of sender r for d that find no room (R310). -/
def keptOf (c : Coll) (r d : Nat) : Nat :=
  let m := (c.counts.getD r []).getD d 0
  m - min m (roomAt c d - baseOf c.counts r d)

/-- The entry of participant p in the completion record (R312). -/
def crecEntry (c : Coll) (p : Nat) : Nat × Nat × Nat × Nat :=
  let total := baseOf c.counts c.sig.npart p
  let x := c.caps.getD p (0, 0)
  let prim := min total x.1
  let spill := min (total - prim) x.2
  (prim, spill, (List.range c.sig.npart).foldl (fun n d => n + keptOf c p d) 0, total - prim - spill)

/-- The completion record of a repartition that is done (R312). -/
def crecDone (c : Coll) (x : CollRec) : List Byte :=
  let es := (List.range c.sig.npart).map (crecEntry c)
  let some_ := es.any fun e => decide (e.2.2.2 ≠ 0)
  let flags := (if c.unitw then 1 else 0) + (if x.reissue then 2 else 0) + (if some_ then 4 else 0)
  let ntot := (List.range c.sig.npart).foldl (fun n d => n + baseOf c.counts c.sig.npart d) 0
  let w := if x.reissue then 0 else roundNum fp64 .rne (.fin false (histSum c.hist).toNat (2 ^ 149))
  crecBytes x.collid 0 flags c.sig.npart (BitVec.ofNat 64 w) (BitVec.ofNat 64 ntot) es

/-- Where position q of a receiver's sequence goes, if it is placed (R310). -/
def slotVa (b : RpBlk) (q : Nat) : Option Nat :=
  if q < b.pcap then some (b.pbuf + q * b.isz)
  else if q < b.pcap + b.scap then some (b.sbuf + (q - b.pcap) * b.isz) else none

/-- The items of one sender placed at this participant, as virtual address and byte (R310). -/
def placeCells (b : RpBlk) (base : Nat) (items : List (List Byte)) : List (Nat × Byte) :=
  (List.range items.length).flatMap fun i => match slotVa b (base + i) with
    | none => []
    | some va => let bs := items.getD i []; (List.range b.isz).map fun j => (va + j, bs.getD j 0)

/-- The items that a peer sent, in key order and then index order. -/
def peerItems (peers : List (Triple × List Byte)) (r : Nat) : List (Triple × List Byte) :=
  sortBy (fun (a b : Triple × List Byte) => tripleLt a.1 b.1) (peers.filter fun i => i.1.rank.toNat = r)

/-- Everything that is to be placed at this participant has arrived (R307, R310). -/
def moveReady (c : Coll) (isz : Nat) (peers : List (Triple × List Byte)) : Bool :=
  (List.range c.sig.npart).all fun r =>
    decide (r = c.rank) || (let m := (c.counts.getD r []).getD c.rank 0
      decide ((peerItems peers r).length = m - keptOf c r c.rank) && (peerItems peers r).all fun i => decide (i.2.length = isz))

/-- Items as they are read for the move, under the triples by which they have been counted (R314). -/
def countedItems (c : Coll) (items : List LocalItem) : List LocalItem :=
  items.mapIdx fun i x => { x with triple := c.items.getD i x.triple }

/-- The indices of the own items that are retained, ascending (R310). -/
def retained (c : Coll) (items : List LocalItem) : List Nat :=
  sortBy (fun a b => decide (a < b)) ((List.range c.sig.npart).flatMap fun d =>
    let l := itemsFor c.splitters items d
    ((l.drop (l.length - keptOf c c.rank d)).map fun i => i.triple.index.toNat))

/-- The items for this participant are placed, RETV and CREC written, and the packet is done (R307, R310, R312). -/
def execRpartMoveDone (cid : Nat) (peers : List (Triple × List Byte)) (s : State) : Host.Outcome State Fault Refusal :=
  withCollAt s cid fun c p s =>
    let b := rpBlk p.buf
    let x := collRec p
    let sp := pktSpace p
    if c.st ≠ .move ∨ c.sig.var ≠ 3 ∨ !moveReady c b.isz peers then s
    else readItems s c p fun s read =>
      let items := countedItems c read
      let at_ := fun (r : Nat) => if r = c.rank then (itemsFor c.splitters items c.rank).map (·.bytes) else (peerItems peers r).map (·.2)
      let cells := (List.range c.sig.npart).flatMap fun r => placeCells b (baseOf c.counts r c.rank) (at_ r)
      let ret := (retained c items).flatMap (bytesOfNat 4)
      let cells := cells ++ (List.range ret.length).map fun i => (b.retv + i, ret.getD i 0)
      match linesCheck s sp 0 true ((cells.map fun e => e.1 / 128).dedup), checkRange s sp b.crec (64 + 16 * x.npart) true with
      | .nores va psz, _ => askPage s p.vi p.asid va psz true
      | .status e, _ =>
        let good := fun (q : Nat × Byte) => decide (lineCheck s sp 0 (q.1 / 128) true = .ok)
        let t := writeCells s sp none 0 (someCells s good cells)
        collFail { t with free := t.free + 1 } c e
      | .ok, .nores va psz => askPage s p.vi p.asid va psz true
      | .ok, .status e => failPkt (dropColl (writeCells s sp none 0 cells) cid) p.pid e
      | .ok, .ok =>
        let t := writeCells s sp none 0 cells
        donePkt (dropColl ((writeVa t sp b.crec (crecDone c x)).getD t) cid) p.pid

/-- A weight failure from a peer (R307). -/
def execRpartWeightFail (cid : Nat) (s : State) : Host.Outcome State Fault Refusal :=
  withCollAt s cid fun c _ s => if c.sig.var = 3 ∧ c.st ≠ .run then collFail s c 0x34 else s

end Sys2Proof.Machine
end

