-- ==== Sys2Proof/Machine/Reshard.lean ====
section
/-! DEFINITION. The re-sharding engine (R315 to R326): the plan of an RSHD packet, its checks, its transfers and its progress
record. -/

namespace Sys2Proof.Machine

/-! Packet and plan. -/

/-- The fields of an RSHD packet (R316). -/
structure RshdPkt where
  srec : Nat
  trec : Nat
  prog : Nat
  lost : Option Nat
deriving DecidableEq, Repr

/-- The fields of an RSHD packet (R316). -/
def rshdOf (p : Packet) : RshdPkt :=
  let ctl := pktNum p 40 8
  { srec := pktNum p 16 8, trec := pktNum p 24 8, prog := pktNum p 32 8,
    lost := if ctl.testBit 0 then some (bitsOf ctl 10 1) else none }

/-- Whether the packet's own fields are refused (R316, R317 check 1). -/
def rshdBad (p : Packet) : Bool :=
  let x := rshdOf p
  let sc := pktNum p 2 1 / 16 % 8
  decide (pktNum p 48 16 ≠ 0 ∨ 2 ^ 11 ≤ pktNum p 40 8 ∨ sc < 4 ∨ 6 < sc)
    || [(x.srec, 128), (x.trec, 128), (x.prog, 64)].any fun v => decide (v.1 % 64 ≠ 0 ∨ 2 ^ 52 < v.1 + v.2)

/-- A plan: the two records and their shard maps, as read when the packet started (R319, R320). -/
structure RsPlan where
  own : Nat
  src : LayRec
  dst : LayRec
  smap : List Nat
  tmap : List Nat
deriving DecidableEq, Repr

/-- Linear mesh indices of a record that a package holds, ascending. -/
def heldBy (map : List Nat) (pkg : Nat) : List Nat := (List.range map.length).filter fun c => decide (map.getD c 1024 = pkg)

/-- The shard of a linear mesh index (R131). -/
def shardOf (l : LayRec) (c : Nat) : List Nat := (List.range 6).map fun d => if d < l.ndim then shardIdx l c d else 0

/-- Local size along a dimension, 1 past NDIM. -/
def locLen (l : LayRec) (d : Nat) : Nat := if d < l.ndim then l.localSize d else 1

/-- The number of target rows (R320). -/
def RsPlan.rows (q : RsPlan) : Nat := ((List.range 5).map fun d => locLen q.dst (d + 1)).foldl (· * ·) 1

/-- The local indices of element i of row r of the own target shard; dimension NDIM - 1 is the most significant (R320). -/
def RsPlan.at (q : RsPlan) (r i : Nat) : List Nat :=
  i :: ((List.range 5).map fun d =>
    r / (((List.range d).map fun e => locLen q.dst (e + 1)).foldl (· * ·) 1) % locLen q.dst (d + 1))

/-- The global indices of local indices of the own target shard (R131). -/
def RsPlan.glob (q : RsPlan) (l : List Nat) : List Nat :=
  match heldBy q.tmap q.own with
  | [] => l
  | c :: _ => (List.range 6).map fun d => (shardOf q.dst c).getD d 0 * locLen q.dst d + l.getD d 0

/-- The source coordinate of a global index: a digit of the issuing package where it has one, else the smallest (R319). -/
def RsPlan.coord (q : RsPlan) (g : List Nat) : Nat :=
  let ok := (List.range q.smap.length).filter fun c => (List.range q.src.ndim).all fun d =>
    decide (shardIdx q.src c d = g.getD d 0 / q.src.localSize d)
  match ok.find? fun c => decide (q.smap.getD c 0 = q.own) with
  | some c => c
  | none => ok.headD 0

/-- The source package of element i of row r (R319). -/
def RsPlan.pkgAt (q : RsPlan) (r i : Nat) : Nat := q.smap.getD (q.coord (q.glob (q.at r i))) 0

/-- The source packages of a row, ascending (R320). -/
def RsPlan.rowPkgs (q : RsPlan) (r : Nat) : List Nat :=
  sortBy (fun a b => decide (a < b)) (((List.range (locLen q.dst 0)).map (q.pkgAt r)).dedup)

/-- The transfers in canonical order, as row and source package (R320). -/
def RsPlan.transfers (q : RsPlan) : List (Nat × Nat) :=
  match heldBy q.tmap q.own with
  | [] => []
  | _ :: _ => (List.range q.rows).flatMap fun r => (q.rowPkgs r).map fun p => (r, p)

/-- The dimension-0 indices of a transfer's elements. -/
def RsPlan.elems (q : RsPlan) (t : Nat × Nat) : List Nat :=
  (List.range (locLen q.dst 0)).filter fun i => decide (q.pkgAt t.1 i = t.2)

/-- One element of the source shard, by the local indices of the target. -/
def RsPlan.srcAt (q : RsPlan) (l : List Nat) : Panel :=
  { lay := q.src, rows := 1, cols := 1, rdim := 6, orig := (List.range 6).map fun d => (q.glob l).getD d 0 % locLen q.src d }

/-- One element of the own target shard. -/
def RsPlan.dstAt (q : RsPlan) (l : List Nat) : Panel := { lay := q.dst, rows := 1, cols := 1, rdim := 6, orig := l }

/-! The bytes of one element and of its scale. -/

/-- The VAs of the storage bytes of a one-element panel. -/
def elemVas (x : Panel) : List Nat :=
  let b := storeBits x.lay.sfmt (x.elem 0 0)
  (List.range b.2.1).map fun i => x.lay.base + b.1 + i

/-- The VAs of the scale bytes of a one-element panel. -/
def scaleVas (x : Panel) : List Nat :=
  if scaledFmt x.lay.sfmt then (List.range (storeScale x.lay.sfmt)).map fun i => x.scaleVa 0 0 + i else []

/-- The raw code of an element among lines that have been read. -/
def rawAt (x : Panel) (ls : List (Nat × Line)) : Nat :=
  let b := storeBits x.lay.sfmt (x.elem 0 0)
  natOfBytes ((elemVas x).map (byteIn ls)) / 2 ^ b.2.2.1 % 2 ^ b.2.2.2

/-- The scale of an element among lines that have been read. -/
def scaleAt (x : Panel) (ls : List (Nat × Line)) : Nat := natOfBytes ((scaleVas x).map (byteIn ls))

/-- Bits to be put into memory: a VA, the bits written and their values.
Log 110 (DEDUCED). -/
abbrev BitCell := Nat × Byte × Byte

/-- An element's code put at its place in the target, which may share bytes with others (R142, R321).
Log 110 (DEDUCED). -/
def elemCells (x : Panel) (code : Nat) : List BitCell :=
  let b := storeBits x.lay.sfmt (x.elem 0 0)
  let mask := (2 ^ b.2.2.2 - 1) * 2 ^ b.2.2.1
  let val := code % 2 ^ b.2.2.2 * 2 ^ b.2.2.1
  (List.range b.2.1).map fun i => (x.lay.base + b.1 + i, BitVec.ofNat 8 (mask / 256 ^ i), BitVec.ofNat 8 (val / 256 ^ i))

/-- A scale put at its place. -/
def scaleCells (x : Panel) (g : Nat) : List BitCell :=
  let vas := scaleVas x
  (List.range vas.length).map fun i => (vas.getD i 0, 255, BitVec.ofNat 8 (g / 256 ^ i))

/-! Format pairs. -/

/-- Whether a pair converts by blocks along dimension 0 (R321).
Log 106 (DEDUCED). -/
def blockPair (a b : Nat) : Bool := decide (a ≤ 2 ∧ 3 ≤ b ∧ b ≤ 5)

/-- Whether a pair of records is allowed by the table of R321, in format and group length.
Log 106 (DEDUCED). -/
def pairOk (a b : LayRec) : Bool :=
  if a.sfmt = b.sfmt then decide (a.grp = b.grp)
  else match a.sfmt, b.sfmt with
    | 1, 0 | 2, 0 | 0, 1 | 0, 2 => true
    | 3, 1 | 4, 1 | 8, 1 | 5, 1 | 6, 1 | 7, 1 | 6, 5 | 7, 5 | 8, 3 => true
    | x, y => blockPair x y && decide (b.kdim = 0)

/-- The format of a plain floating source. -/
def plainFF (sfmt : Nat) : FF := match sfmt with | 1 => fbf16 | 2 => fp16 | _ => fp32

/-- The target code of an element that converts by itself, from its code and its scale (R321). -/
def convElem (a b x g : Nat) : Nat :=
  if a = b then x
  else match a, b with
    | 0, 1 => roundNum fbf16 .rne (numOf fp32 x)
    | 0, 2 => roundNum fp16 .rne (numOf fp32 x)
    | 6, 5 | 7, 5 => canonElem a 5 x g
    | 8, 3 => canonElem 8 3 x g
    | _, 1 => canonElem a 1 x g
    | _, _ => canonElem a 0 x g

/-- The cells of a transfer whose elements convert one by one: each element, and the scale of each group that starts among them
(R321). -/
def RsPlan.plainCells (q : RsPlan) (r : Nat) (is : List Nat) (ls : List (Nat × Line)) : List BitCell :=
  is.flatMap fun i =>
    let l := q.at r i
    let a := q.srcAt l
    let b := q.dstAt l
    let g := scaleAt a ls
    let sc := if scaledFmt q.dst.sfmt && decide (l.getD q.dst.kdim 0 % q.dst.group = 0) then scaleCells b g else []
    elemCells b (convElem q.src.sfmt q.dst.sfmt (rawAt a ls) g) ++ sc

/-- The cells of a transfer that converts whole blocks of 32 along dimension 0 (R147, R321). -/
def RsPlan.blockCells (q : RsPlan) (r : Nat) (is : List Nat) (ls : List (Nat × Line)) : List BitCell :=
  ((is.map (· / 32)).dedup).flatMap fun k =>
    let js := is.filter fun i => decide (i / 32 = k)
    let xs := js.map fun i => numOf (plainFF q.src.sfmt) (rawAt (q.srcAt (q.at r i)) ls)
    let b := if q.dst.sfmt = 5 then blkW8 .rne none xs else blkK8 (if q.dst.sfmt = 3 then fk8e4 else fk8e5) .rne none xs
    scaleCells (q.dstAt (q.at r (32 * k))) b.1
      ++ (List.range js.length).flatMap fun j => elemCells (q.dstAt (q.at r (js.getD j 0))) (b.2.getD j 0)

/-- The cells that elements of a transfer give the target. -/
def RsPlan.cells (q : RsPlan) (r : Nat) (is : List Nat) (ls : List (Nat × Line)) : List BitCell :=
  if blockPair q.src.sfmt q.dst.sfmt then q.blockCells r is ls else q.plainCells r is ls

/-- The virtual lines of the source that elements of a transfer need. -/
def RsPlan.srcLines (q : RsPlan) (r : Nat) (is : List Nat) : List Nat :=
  (is.flatMap fun i => let a := q.srcAt (q.at r i); (elemVas a ++ scaleVas a).map (· / 128)).dedup

/-- Elements of a transfer that are converted together with element i. -/
def RsPlan.withElem (q : RsPlan) (is : List Nat) (i : Nat) : List Nat :=
  if blockPair q.src.sfmt q.dst.sfmt then is.filter fun j => decide (j / 32 = i / 32) else [i]

/-! Reading at the source package. -/

/-- The ASID context entry that a package holds, or that its buddy mirrors (R115, R326).
Log 107 (DEDUCED). -/
def entOf (s : State) (pkg asid : Nat) : AsidEnt :=
  if pkg = s.pkg then asidEnt s asid else mget { ctl := 0, root := 0, shring := 0 } s.peerAsids (pkg * 1024 + asid)

/-- A source line found: its location, placement and replica. -/
structure SrcLine where
  loc : Loc
  swz : BitVec 4
  rep : Option Nat
deriving DecidableEq, Repr

/-- A virtual line translated by the walkers of another package, under its own tables (R321).
Log 107 (DEDUCED). -/
def remoteLine (s : State) (vi asid pkg vl : Nat) : Except RangeTr SrcLine :=
  let e := entOf s pkg asid
  if pkg ∈ s.unreach then .error (.status 0x24)
  else if !(e.valid && decide (e.owner = vi)) then .error (.status 3)
  else match walkFrom s e.budv pkg (vl * 128) 4 (dbits e.root 45 12 * 4096) with
    | .malf => .error (.status 4)
    | .inval => .error (.status 3)
    | .leaf x psz =>
      if !x.getLsbD 61 then .error (.status 3)
      else if !x.getLsbD 1 then .error (.nores (vl * 128) psz)
      else .ok { loc := .dev (dbits x 55 16 * 65536 + vl * 128 % (65536 * pszUnits psz)), swz := BitVec.ofNat 4 (dbits x 15 12),
                 rep := if x.getLsbD 60 then some e.buddy else none }

/-- A virtual line of a lost package, found at its buddy through the lost package's tables there (R326).
Log 108 (DEDUCED). -/
def replicaLine (s : State) (vi asid pkg buddy vl : Nat) : Except RangeTr SrcLine :=
  let e := entOf s pkg asid
  let bad : Except RangeTr SrcLine := .error (.status 0x24)
  if buddy ∈ s.unreach ∨ !(e.valid && decide (e.owner = vi)) then bad
  else match walkFrom s e.budv buddy (vl * 128) 4 (dbits e.root 45 12 * 4096) with
    | .leaf x psz =>
      let dpa := dbits x 55 16 * 65536 + vl * 128 % (65536 * pszUnits psz)
      if x.getLsbD 61 && x.getLsbD 1 && x.getLsbD 60 && !isStale s dpa then
        .ok { loc := .dev (buddyLine buddy (dpa / 128) * 128), swz := BitVec.ofNat 4 (dbits x 15 12), rep := none }
      else bad
    | _ => bad

/-- A source line as a transfer finds it, its data to be had (R321, R326). -/
def srcLine (s : State) (p : Packet) (q : RsPlan) (pkg vl : Nat) : Except RangeTr SrcLine :=
  let lost := decide ((rshdOf p).lost = some pkg)
  let found : Except RangeTr SrcLine :=
    if lost then replicaLine s p.vi p.asid pkg (pkg ^^^ q.src.repx) vl
    else if pkg = s.pkg then
      (match translate s (pktSpace p) (vl * 128) false false with
       | .malf => .error (.status 4)
       | .prot _ => .error (.status 3)
       | .nores psz => .error (.nores (vl * 128) psz)
       | .ok x => .ok { loc := x.loc, swz := x.swz, rep := x.rep })
    else remoteLine s p.vi p.asid pkg vl
  match found with
  | .error r => .error r
  | .ok l => match l.loc with
    | .host _ => .ok l
    | .dev a => match lineErr s l.rep (a / 128) with
      | none => .ok l
      | some e => .error (.status (if lost ∨ e = 2 then 0x24 else 0xE))

/-- What a transfer meets on its source lines.
Log 108 (DEDUCED). -/
def srcCheck (s : State) (p : Packet) (q : RsPlan) (pkg : Nat) (vls : List Nat) : RangeTr :=
  vls.foldl (fun r vl => match r with
    | .ok => (match srcLine s p q pkg vl with | .ok _ => .ok | .error e => e)
    | r => r) .ok

/-- Source lines read through the record's key and stream (R321); a line of another package is read there.
Log 107 (DEDUCED). -/
def readSrc (s : State) (p : Packet) (q : RsPlan) (pkg : Nat) (vls : List Nat) : State × List (Nat × Line) :=
  vls.foldl (fun (a : State × List (Nat × Line)) vl =>
    match srcLine a.1 p q pkg vl with
    | .error _ => a
    | .ok l => match l.loc with
      | .host h => (a.1, a.2 ++ [(vl, lineOf ((List.range 128).map fun i => readHost s (h + i)))])
      | .dev d =>
        let t := if pkg = s.pkg then tlbTouch a.1 p.vi p.asid (vl * 128) else a.1
        let r := streamRead t (!isRemote s (d / 128)) l.rep l.swz (layKey s p.vi q.src) q.src.glz (d / 128)
        (r.1, a.2 ++ [(vl, r.2)])) (s, [])

/-- Bytes for the target from the bits to be put there, what stands beside them being kept (R321).
Log 110 (DEDUCED). -/
def mergeCells (s : State) (p : Packet) (q : RsPlan) (cs : List BitCell) : List (Nat × Byte) :=
  let old := readLines s (pktSpace p) (layKey s p.vi q.dst) 0
    (((cs.filter fun c => decide (c.2.1 ≠ 255)).map fun c => c.1 / 128).dedup)
  ((cs.map (·.1)).dedup).map fun va =>
    (va, (cs.filter fun c => decide (c.1 = va)).foldl (fun b c => (b &&& ~~~c.2.1) ||| c.2.2) (byteIn old.2 va))

/-! The progress record. -/

/-- A progress record's fields (R322). -/
structure Progress where
  pseq : Nat
  cursor : Nat
  dmask : Word
  state : Nat
  status : Nat
  ntrans : Nat
  sva : Nat
  tva : Nat
  rhash : Nat
deriving DecidableEq, Repr

/-- The fields of the 64 bytes of a progress record (R322). -/
def progOf (bs : List Byte) : Progress :=
  { pseq := numAt bs 0 8, cursor := numAt bs 8 8, dmask := BitVec.ofNat 32 (numAt bs 16 4), state := numAt bs 20 1,
    status := numAt bs 21 1, ntrans := numAt bs 24 8, sva := numAt bs 32 8, tva := numAt bs 40 8, rhash := numAt bs 48 4 }

/-- The 64 bytes of a progress record (R322). -/
def progBytes (x : Progress) : List Byte :=
  bytesOfNat 8 x.pseq ++ bytesOfNat 8 x.cursor ++ bytesOfNat 4 x.dmask.toNat ++ bytesOfNat 1 x.state ++ bytesOfNat 1 x.status
    ++ bytesOfNat 2 0 ++ bytesOfNat 8 x.ntrans ++ bytesOfNat 8 x.sva ++ bytesOfNat 8 x.tva ++ bytesOfNat 4 x.rhash
    ++ bytesOfNat 12 0

/-- Whether a progress record is refused (R322).
Log 113 (DEDUCED). -/
def progBad (bs : List Byte) : Bool :=
  let x := progOf bs
  decide (3 < x.state ∨ 2 ^ 40 ≤ x.pseq ∨ (x.state = 0 ∧ natOfBytes bs ≠ 0) ∨ numAt bs 22 2 ≠ 0 ∨ numAt bs 52 12 ≠ 0)

/-- RHASH of a packet's records (R322). -/
def rhashOf (bs : List Byte) : Nat := crc32c (bs.take 256)

/-! Starting. -/

/-- The plan kept in a started packet: the records' bytes and the shard maps (R320).
Log 111 (DEDUCED). -/
def planOf (s : State) (p : Packet) : RsPlan :=
  let src := layOf (BitVec.ofNat 1024 (numAt p.buf 0 128))
  let dst := layOf (BitVec.ofNat 1024 (numAt p.buf 128 128))
  let map := fun (l : LayRec) (at_ : Nat) =>
    if l.shmap = 0 then [s.pkg] else (List.range l.parts).map fun i => numAt p.buf (at_ + 2 * i) 2
  { own := s.pkg, src := src, dst := dst, smap := map src 256,
    tmap := map dst (256 + (if src.shmap = 0 then 0 else 2 * src.parts)) }

/-- Bytes read one range after another.
Log 111 (DEDUCED). -/
def readAll (s : State) (sp : Space) : List (Nat × Nat) → EngineRead
  | [] => .ok []
  | v :: t => match engineBytes s sp v.1 v.2 with
    | .ok bs => (match readAll s sp t with | .ok r => .ok (bs ++ r) | e => e)
    | e => e

/-- Whether a shard map cannot be used: an entry past the domain, or two different shards on the own package (R317 check 2). -/
def mapBad (s : State) (l : LayRec) (map : List Nat) : Bool :=
  map.any (fun e => decide (s.domain ≤ e ∨ 1024 ≤ e)) || decide (1 < (((heldBy map s.pkg).map (shardOf l)).dedup).length)

/-- The ranges of storage of a shard, elements and scales, as VA and length (R317). -/
def shardRanges (l : LayRec) : List (Nat × Nat) :=
  let top := (List.range l.ndim).foldl (fun n d => n + (l.localSize d - 1) * l.stride.getD d 0) 0
  let b := storeBits l.sfmt top
  let groups := (List.range l.ndim).foldl (fun n d => n * (if d = l.kdim then l.localSize d / l.group else l.localSize d)) 1
  (l.base, b.1 + b.2.1) :: (if scaledFmt l.sfmt then [(l.scale, groups * storeScale l.sfmt)] else [])

/-- Check 10 of R317: each source package's buddy is the one that REPX gives.
Log 108 (DEDUCED). -/
def replicasBad (s : State) (p : Packet) (q : RsPlan) : Bool :=
  let x := rshdOf p
  if q.src.repx = 0 then x.lost.isSome
  else q.smap.any fun pkg =>
    let e := entOf s pkg p.asid
    let at_ := if x.lost = some pkg then pkg ^^^ q.src.repx else pkg
    decide (at_ ∈ s.unreach ∨ e.buddy ≠ pkg ^^^ q.src.repx) || !e.budv

/-- The checks 5 to 10 of R317, in their order; 0 when all pass. -/
def planStatus (s : State) (p : Packet) (q : RsPlan) : Byte :=
  let scaled := scaledFmt q.src.sfmt || scaledFmt q.dst.sfmt
  let g := max q.src.group q.dst.group
  let meet := !(heldBy q.smap s.pkg).isEmpty && !(heldBy q.tmap s.pkg).isEmpty && (shardRanges q.src).any fun a =>
    (shardRanges q.dst).any fun b => rangesMeet a.1 a.2 b.1 b.2
  if q.src.ndim ≠ q.dst.ndim ∨ q.src.size ≠ q.dst.size ∨ (scaled = true ∧ q.src.kdim ≠ q.dst.kdim) then 0x20
  else if !pairOk q.src q.dst || q.src.cmp || q.dst.cmp || (scaled && decide (q.src.localSize q.src.kdim % g ≠ 0
      ∨ q.dst.localSize q.dst.kdim % g ≠ 0)) then 0x21
  else if (q.src.enc && (keyFor s p.vi q.src.key).isNone) || (q.dst.enc && (keyFor s p.vi q.dst.key).isNone) then 6
  else if (streamCheck s p.vi q.src.glz false).isSome || (streamCheck s p.vi q.dst.glz true).isSome then 7
  else if meet then 1
  else if replicasBad s p q then 0x24
  else 0

/-- What the checks of an RSHD packet come to. -/
inductive RshdCheck where
  | ok (buf : List Byte) (x : Progress)
  | nores (va psz : Nat)
  | status (c : Byte)

/-- Whether a progress record that is not FRESH agrees with a packet (R323).
Log 109 (DEDUCED), 113 (DEDUCED). -/
def agrees (x : Progress) (r : RshdPkt) (hash ntrans : Nat) : Bool :=
  decide (x.sva = r.srec ∧ x.tva = r.trec ∧ x.rhash = hash ∧ x.ntrans = ntrans)

/-- Checks 3 to 10 of R317 on a plan that has been read. -/
def rshdCheckPlan (s : State) (p : Packet) (buf : List Byte) : RshdCheck :=
  let r := rshdOf p
  let sp := pktSpace p
  let q := planOf s { p with buf := buf }
  match engineBytes s sp r.prog 64, checkRange s sp r.prog 64 true with
  | .nores va psz, _ | .ok _, .nores va psz => .nores va psz
  | .status c, _ | .ok _, .status c => .status c
  | .ok bs, .ok =>
    let x := progOf bs
    let n := q.transfers.length
    let hash := rhashOf buf
    if progBad bs then .status 1
    else if x.state ≠ 0 ∧ agrees x r hash n = false then .status 0x22
    else if s.rshds.any fun h => h.prog = r.prog && (match findPkt s h.pid with
        | some o => decide (o.pid ≠ p.pid ∧ o.vi = p.vi ∧ o.asid = p.asid)
        | none => false) then .status 0x23
    else if planStatus s p q ≠ 0 then .status (planStatus s p q)
    else .ok buf (if x.state = 0 then
        { pseq := 0, cursor := 0, dmask := 0, state := 0, status := 0, ntrans := n, sva := r.srec, tva := r.trec, rhash := hash }
      else x)

/-- The checks of an RSHD packet before any byte moves (R317). -/
def rshdCheck (s : State) (p : Packet) : RshdCheck :=
  let r := rshdOf p
  let sp := pktSpace p
  if headBad p || rshdBad p then .status 1
  else match readAll s sp [(r.srec, 128), (r.trec, 128)] with
    | .nores va psz => .nores va psz
    | .status c => .status c
    | .ok recs =>
      let a := BitVec.ofNat 1024 (numAt recs 0 128)
      let b := BitVec.ofNat 1024 (numAt recs 128 128)
      if layBad a || layBad b then .status 5
      else match readAll s sp (([layOf a, layOf b].filter fun l => decide (l.shmap ≠ 0)).map fun l => (l.shmap, 2 * l.parts)) with
        | .nores va psz => .nores va psz
        | .status c => .status c
        | .ok maps =>
          let buf := recs ++ maps
          let q := planOf s { p with buf := buf }
          if mapBad s q.src q.smap || mapBad s q.dst q.tmap then .status 5 else rshdCheckPlan s p buf

/-- The plan of a packet in progress. -/
def rshdAt (s : State) (pid : Nat) : Option Rshd := s.rshds.find? fun h => h.pid = pid

/-- A plan in progress updated. -/
def setRshd (s : State) (pid : Nat) (f : Rshd → Rshd) : State :=
  { s with rshds := s.rshds.map fun h => if h.pid = pid then f h else h }

/-- The progress record written for a plan, with a state (R322 to R324): the state reached, or what its page met. -/
def putProgress (s : State) (p : Packet) (h : Rshd) (state : Nat) (status : Byte) : Except RangeTr State :=
  let r := rshdOf p
  let x : Progress :=
    { pseq := pktSeq p, cursor := h.cursor, dmask := h.dmask, state := state, status := status.toNat, ntrans := h.ntrans,
      sva := r.srec, tva := r.trec, rhash := rhashOf p.buf }
  match checkRange s (pktSpace p) r.prog 64 true with
  | .ok => .ok ((writeVa s (pktSpace p) r.prog (progBytes x)).getD s)
  | e => .error e

/-- Transfers issued: those in the window above CURSOR that have not completed and are not in flight, while nothing has failed and the
interface is not switched out (R315, R323, R325).
Log 109 (DEDUCED). -/
def rsIssue (s : State) (p : Packet) (h : Rshd) : Rshd :=
  if p.status ≠ 0 ∨ (viOf s p.vi).switchedOut = true ∨ (viOf s p.vi).outPending.isSome = true then h
  else
    { h with inflight := (List.range (min 32 (h.ntrans - h.cursor))).filterMap fun i =>
        if h.dmask.getLsbD i then none else some (h.cursor + i) }

/-- What follows a change of a plan in progress: DONE, FAILED once nothing is in flight, suspended with its record written, or further
transfers issued (R323, R325). A page of the record that is not resident is waited for. -/
def rsFinish (s : State) (p : Packet) (h : Rshd) : State :=
  let h := rsIssue s p h
  let s := setRshd s p.pid fun _ => h
  let leave := fun (t : State) => { t with rshds := t.rshds.filter fun k => k.pid ≠ p.pid }
  let putWith := fun (state : Nat) (status : Byte) (next : State → State) =>
    match putProgress s p h state status with
    | .ok t => next (leave t)
    | .error (.nores va psz) => askPage s p.vi p.asid va psz true
    | .error (.status c) => failPkt (leave s) p.pid c
    | .error .ok => s
  if h.inflight ≠ [] then s
  else if h.ntrans ≤ h.cursor then putWith 2 0 fun t => donePkt t p.pid
  else if p.status ≠ 0 then putWith 3 p.status fun t => failPkt t p.pid p.status
  else putWith 1 0 id

/-- A running plan's progress record written, and its time noted (R324). -/
def writeRunning (s : State) (p : Packet) (h : Rshd) : Except RangeTr (State × Rshd) :=
  match putProgress s p h 1 0 with
  | .ok t => .ok (t, { h with wroteAt := s.now })
  | .error e => .error e

/-- What follows a transfer: the progress record written when 10 µs have passed since it was last (R324), then what follows a change of
the plan. -/
def keepProgress (s : State) (p : Packet) (h : Rshd) : State :=
  if s.now < h.wroteAt + 40000 then rsFinish s p h
  else match writeRunning s p h with
    | .ok r => rsFinish r.1 p r.2
    | .error _ => rsFinish s p h

/-- A plan begun or resumed from its progress record (R323).
Log 109 (DEDUCED). -/
def rshdStart (s : State) (p : Packet) (buf : List Byte) (x : Progress) : State :=
  let h : Rshd := { pid := p.pid, prog := (rshdOf p).prog, cursor := x.cursor, dmask := x.dmask, ntrans := x.ntrans, inflight := [], wroteAt := s.now }
  let p1 := { p with st := .started, buf := buf }
  let s := setPkt s p.pid fun _ => p1
  if x.state = 2 then donePkt s p.pid
  else
    let s := { s with rshds := s.rshds ++ [h] }
    let state := if x.ntrans ≤ x.cursor then 2 else 1
    match putProgress s p1 h state 0 with
    | .ok t => rsFinish t p1 h
    | .error _ => rsFinish s p1 h

/-- RSHD: its checks, then its plan started or resumed; at most four plans run at once (R315, R317, R323). Issued again for a plan in
progress, it looks at it anew. -/
def execRshd (pid : Nat) (s : State) : Host.Outcome State Fault Refusal :=
  withPkt s pid 5 fun p s =>
    let v := viOf s p.vi
    match rshdAt s pid with
    | some h => rsFinish s p h
    | none =>
      if 4 ≤ s.rshds.length ∨ v.switchedOut = true ∨ v.outPending.isSome = true then setPkt s pid fun q => { q with st := .started }
      else match rshdCheck s p with
        | .status c => failPkt s pid c
        | .nores va psz => askPage (setPkt s pid fun q => { q with st := .started }) p.vi p.asid va psz true
        | .ok buf x => rshdStart s p buf x

/-! Transfers. -/

/-- A plan in progress with its packet, when a transfer is in flight. -/
def withTransfer (s : State) (pid i : Nat) (run : Packet → Rshd → RsPlan → Nat × Nat → State) : Host.Outcome State Fault Refusal :=
  match findPkt s pid, rshdAt s pid with
  | some p, some h =>
    let q := planOf s p
    (match q.transfers[i]? with
     | some t => if i ∈ h.inflight then .next (run p h q t) else .next s
     | none => .next s)
  | _, _ => .next s

/-- CURSOR advanced past every completed transfer, DMASK being shifted with it (R323). -/
def advanceCursor : Nat → Nat × Word → Nat × Word
  | 0, c => c
  | n + 1, c => if c.2.getLsbD 0 then advanceCursor n (c.1 + 1, c.2 >>> 1) else c

/-- A transfer counted as completed (R323). -/
def countDone (h : Rshd) (i : Nat) : Rshd :=
  let c := advanceCursor 33 (h.cursor, h.dmask ||| (1#32 <<< (i - h.cursor)))
  { h with cursor := c.1, dmask := c.2, inflight := h.inflight.filter (· ≠ i) }

/-- What a transfer meets on its source and its target, whose keys and streams must still pass (R71, R88, R91).
Log 108 (DEDUCED). -/
def transferCheck (s : State) (p : Packet) (q : RsPlan) (t : Nat × Nat) : RangeTr :=
  let is := q.elems t
  if (q.src.enc && (keyFor s p.vi q.src.key).isNone) || (q.dst.enc && (keyFor s p.vi q.dst.key).isNone) then .status 6
  else if (streamCheck s p.vi q.src.glz false).isSome then .status 7
  else match srcCheck s p q t.2 (q.srcLines t.1 is) with
  | .ok => linesCheck s (pktSpace p) q.dst.glz true (((q.cells t.1 is []).map fun c => c.1 / 128).dedup)
  | .nores va psz => .nores va (if t.2 = s.pkg then psz else 8 + psz)
  | r => r

/-- A transfer completes: its elements read at their source, converted and written, and CURSOR or DMASK moved on (R321, R323). A page
that is not resident is asked for, at the own package, and the transfer stays in flight. -/
def execRshdTransferDone (pid i : Nat) (s : State) : Host.Outcome State Fault Refusal :=
  withTransfer s pid i fun p h q t =>
    match transferCheck s p q t with
    | .status _ => s
    | .nores va psz => if 8 ≤ psz then s else askPage s p.vi p.asid va psz true
    | .ok =>
      let is := q.elems t
      let r := readSrc s p q t.2 (q.srcLines t.1 is)
      let cells := mergeCells r.1 p q (q.cells t.1 is r.2)
      keepProgress (writeCells r.1 (pktSpace p) (layKey s p.vi q.dst) q.dst.glz cells) p (countDone h i)

/-- The bytes that a failing transfer may have written: of elements whose source lines and target line are good, a free part
(R160).
Log 112 (DEDUCED). -/
def transferPart (s : State) (p : Packet) (q : RsPlan) (t : Nat × Nat) : State :=
  let open_ := (keyOk s p.vi (if q.src.enc then some q.src.key else none)) && keyOk s p.vi (if q.dst.enc then some q.dst.key else none)
    && (streamCheck s p.vi q.src.glz false).isNone
  let ok := fun (is : List Nat) => open_ && decide (srcCheck s p q t.2 (q.srcLines t.1 is) = .ok)
  let is := q.elems t
  let good := is.filter fun i => ok (q.withElem is i)
  let r := readSrc s p q t.2 (q.srcLines t.1 good)
  let fits := fun (c : Nat × Byte) => decide (lineCheck s (pktSpace p) q.dst.glz (c.1 / 128) true = .ok)
  let cells := someCells s fits (mergeCells r.1 p q (q.cells t.1 good r.2))
  let u := writeCells r.1 (pktSpace p) (layKey s p.vi q.dst) q.dst.glz cells
  { u with free := u.free + 1 }

/-- A transfer fails, for an uncorrectable error or for another cause: nothing more is issued, and once nothing is in flight the
record goes to FAILED (R323, R326).
Log 112 (DEDUCED). -/
def execRshdTransferFail (pid i : Nat) (memerr : Bool) (s : State) : Host.Outcome State Fault Refusal :=
  withTransfer s pid i fun p h q t =>
    match transferCheck s p q t with
    | .status c =>
      if decide (c = 0xE) ≠ memerr then s
      else
        let u := transferPart s p q t
        let p1 := { p with status := if p.status = 0 then c else p.status }
        rsFinish (setPkt u pid fun _ => p1) p1 { h with inflight := h.inflight.filter (· ≠ i) }
    | _ => s

/-- The progress record of a running plan written (R324). -/
def execRshdProgressWrite (pid : Nat) (s : State) : Host.Outcome State Fault Refusal :=
  match findPkt s pid, rshdAt s pid with
  | some p, some h =>
    (match writeRunning s p h with
     | .ok r => .next (rsFinish r.1 p r.2)
     | .error (.nores va psz) => .next (askPage s p.vi p.asid va psz true)
     | .error _ => .next (rsFinish s p h))
  | _, _ => .next s

end Sys2Proof.Machine
end

