-- ==== Sys2Proof/Machine/Register.lean ====
section
/-! DEFINITION. The host's side: queue registration (R151, R152, R155, R156), invalidation (R118 to R120), the page-request and report
rings (R136, R394), the registers of BAR0 (R391), the device-memory window (R392) and the SPDM mailbox (R399). -/

namespace Sys2Proof.Machine

/-! Queues. -/

/-- Whether an ASID has been granted to an interface (R393).
Log 124 (DEDUCED). -/
def ownsAsid (s : State) (vi asid : Nat) : Bool := decide (asid ∈ (viOf s vi).asids)

/-- A report in QDONE (R156): 1 for a QREG, 2 for a QUNREG, 3 for a QRESET. -/
def qdoneReport (s : State) (vi req result hva : Nat) : State :=
  setVi s vi fun v => { v with
    qdone := BitVec.ofNat 64 (2 ^ 63 + (dbits v.qdone 62 60 + 1) % 8 * 2 ^ 60 + result % 16 * 2 ^ 56 + req % 16 * 2 ^ 52 + hva % 2 ^ 52) }

/-- What a try at registering a queue comes to (R152). -/
inductive RegTry where
  | ok (q : Queue)
  | wait (asid va psz : Nat)
  | refuse (c : Nat)

/-- A queue that has only been named.
Log 121 (DEDUCED). -/
def namedQueue (vi hva ctl : Nat) (durable : Bool) : Queue :=
  { hva := hva, vi := vi, ctlAsid := ctl, ring := 0, log2n := 4, sect := 0, irqen := false, vec := 0, asid := 0, durable := durable,
    halted := false, slot := none, unreg := false, waiting := true }

/-- Whether the words of a header that the front end reads break R151.
Log 93 (DEDUCED). -/
def headerBad (bs : List Byte) : Bool :=
  let ring := numAt bs 16 8
  let ctl := numAt bs 24 8
  decide (numAt bs 40 24 ≠ 0 ∨ bitsOf (numAt bs 32 8) 62 48 ≠ 0 ∨ 2 ^ 26 ≤ ctl ∨ bitsOf ctl 15 13 ≠ 0 ∨ bitsOf ctl 3 0 < 4 ∨ 10 < bitsOf ctl 3 0 ∨ 2 ^ 52 ≤ ring
    ∨ ring % (64 * 2 ^ bitsOf ctl 3 0) ≠ 0)

/-- The queue that a header describes (R151). -/
def headerQueue (n : Queue) (bs : List Byte) : Queue :=
  let ctl := numAt bs 24 8
  { n with ring := numAt bs 16 8, log2n := bitsOf ctl 3 0, sect := bitsOf ctl 5 4, irqen := ctl.testBit 6, vec := bitsOf ctl 12 7,
           asid := bitsOf ctl 25 16, waiting := false }

/-- A queue's header and ring tried (R152).
Log 121 (DEDUCED). -/
def tryRegister (s : State) (n : Queue) : RegTry :=
  let sp := ctlSpace n
  if n.hva % 64 ≠ 0 then .refuse 1
  else match translate s sp n.hva true false with
    | .nores psz => .wait n.ctlAsid n.hva psz
    | .malf | .prot _ => .refuse 6
    | .ok _ => match readVa s sp n.hva 64 with
      | none => .refuse 6
      | some bs =>
        let q := headerQueue n bs
        if headerBad bs then .refuse 1
        else if !ownsAsid s n.vi q.asid then .refuse 2
        else match checkRange s { vi := n.vi, asid := q.asid, user := true } q.ring (64 * 2 ^ q.log2n) false with
          | .nores va psz => .wait q.asid va psz
          | .status _ => .refuse 6
          | .ok => .ok q

/-- The list of queues without one of them. -/
def dropQueue (s : State) (vi hva : Nat) : State := { s with queues := s.queues.filter fun q => !(q.vi = vi && q.hva = hva) }

/-- A registration tried, and finished if nothing is to be waited for (R152, R156).
Log 121 (DEDUCED). -/
def registerQueue (s : State) (n : Queue) : State :=
  let t := dropQueue s n.vi n.hva
  match tryRegister s n with
  | .ok q => qdoneReport { t with queues := t.queues ++ [q] } n.vi 1 0 n.hva
  | .refuse c => qdoneReport t n.vi 1 c n.hva
  | .wait asid va psz => askPage { t with queues := t.queues ++ [n] } n.vi asid va psz false

/-- QREG: a queue registered under the control ASID of the moment, durable if bit 63 is set (R152, R387, R391).
Log 121 (DEDUCED). -/
def execQreg (vi : Nat) (value : DWord) (s : State) : Host.Outcome State Fault Refusal :=
  let hva := dbits value 51 0
  if !s.boot.ready then .next s
  else if (queueAt s vi hva).isSome then .next (qdoneReport s vi 1 5 hva)
  else if 1024 ≤ (s.queues.filter fun q => q.vi = vi).length then .next (qdoneReport s vi 1 3 hva)
  else .next (registerQueue s (namedQueue vi hva (viOf s vi).ctlasid.toNat (value.getLsbD 63)))

/-- A QREG that waits for its pages is tried again (R156). -/
def execQregFinish (vi hva : Nat) (s : State) : Host.Outcome State Fault Refusal :=
  match queueAt s vi hva with
  | some q => if q.waiting then .next (registerQueue s q) else .next s
  | none => .next s

/-- The packets of a queue that have been claimed but not started discarded; an INDIRECT whose block loses packets is told (R155,
R156).
Log 123 (DEDUCED). -/
def dropUnstarted (s : State) (q : Queue) : State :=
  let drop := fun (p : Packet) => p.vi = q.vi && p.queue = some q.hva && decide (p.st = .accepted)
  let gone := s.packets.filter drop
  gone.foldl tellParent { s with packets := s.packets.filter fun p => !drop p }

/-- Collectives of a queue that still wait fail with COLLABORT (R300, R307).
Log 123 (DEDUCED). -/
def abortColls (s : State) (q : Queue) : State :=
  s.colls.foldl (fun t c =>
    let own := match findPkt t c.pid with | some p => p.vi = q.vi && p.queue = some q.hva | none => false
    if own && decide (c.st ≠ .run) then collFail t c 0x33 else t) s

/-- A halted queue started again: RDIDX takes the value of WRIDX, ERR is cleared, and what was claimed below is discarded (R155).
Log 122 (DEDUCED). -/
def restartQueue (s : State) (q : Queue) : State :=
  let sp := ctlSpace q
  match read64 s sp q.hva with
  | none => qdoneReport s q.vi 3 6 q.hva
  | some n =>
    match writeVa s sp (q.hva + 8) (bytesOfNat 8 n) with
    | none => qdoneReport s q.vi 3 6 q.hva
    | some t =>
      let t := (writeVa t sp (q.hva + 32) (bytesOfNat 8 0)).getD t
      let t := setQueue (dropUnstarted t q) q.vi q.hva fun q => { q with halted := false }
      qdoneReport (abortColls t q) q.vi 3 0 q.hva

/-- QRESET (R155, R156).
Log 122 (DEDUCED). -/
def execQreset (vi : Nat) (value : DWord) (s : State) : Host.Outcome State Fault Refusal :=
  let hva := value.toNat
  if !s.boot.ready then .next s
  else match queueAt s vi hva with
    | none => .next (qdoneReport s vi 3 4 hva)
    | some q =>
      if q.waiting || q.unreg then .next (qdoneReport s vi 3 4 hva)
      else if !q.halted then .next (qdoneReport s vi 3 0 hva)
      else .next (restartQueue s q)

/-- An unregistration finished once no packet of the queue is left (R156). -/
def finishUnreg (s : State) (q : Queue) : State :=
  if (queuePkts s q).isEmpty then qdoneReport (dropQueue s q.vi q.hva) q.vi 2 0 q.hva else s

/-- QUNREG: no further packet of the queue starts, those not started are discarded, and its slot is given up (R156).
Log 122 (DEDUCED). -/
def execQunreg (vi : Nat) (value : DWord) (s : State) : Host.Outcome State Fault Refusal :=
  let hva := dbits value 51 0
  if !s.boot.ready then .next s
  else match queueAt s vi hva with
    | none => .next (qdoneReport s vi 2 4 hva)
    | some q =>
      if q.waiting || q.unreg then .next (qdoneReport s vi 2 4 hva)
      else
        let s := setQueue s vi hva fun q => { q with unreg := true, slot := none }
        .next (finishUnreg (dropUnstarted s q) q)

/-- A QUNREG finishes when the started packets of its queue have completed (R156). -/
def execQunregFinish (vi hva : Nat) (s : State) : Host.Outcome State Fault Refusal :=
  match queueAt s vi hva with
  | some q => if q.unreg then .next (finishUnreg s q) else .next s
  | none => .next s

/-! Invalidation. -/

/-- The pieces of INVREQ written so far agree with a request that is taken (R391). -/
def invTaken (s : State) (vi : Nat) (req : BitVec 256) : Bool :=
  decide (req.toNat % 2 ^ 192 = (viOf s vi).invreq.toNat % 2 ^ 192)

/-- Whether an invalidation request is refused (R119). -/
def invBad (s : State) (vi : Nat) (req : BitVec 256) : Bool :=
  let ctl := bitsOf req.toNat 63 0
  let va := bitsOf req.toNat 127 64
  let n := bitsOf req.toNat 191 128
  let kind := ctl % 4
  decide (2 ≤ kind ∨ bitsOf ctl 15 2 ≠ 0 ∨ 2 ^ 26 ≤ ctl) || !ownsAsid s vi (bitsOf ctl 25 16)
    || (if kind = 0 then decide (va % 65536 ≠ 0 ∨ 2 ^ 52 ≤ va ∨ n = 0 ∨ 2 ^ 36 < n) else decide (va ≠ 0 ∨ n ≠ 0))

/-- An invalidation request taken: refused in INVERR, or accepted in its turn (R119). -/
def takeInval (s : State) (vi : Nat) (req : BitVec 256) : State :=
  let x := req.toNat
  let seq := BitVec.ofNat 64 (bitsOf x 255 192)
  let s := setVi s vi fun v => { v with invreq := 0 }
  if invBad s vi req then setVi s vi fun v => { v with inverr := seq }
  else
    let r : Inval :=
      { vi := vi, seq := seq, asid := bitsOf x 25 16, va := bitsOf x 127 64,
        count := if bitsOf x 1 0 = 0 then some (bitsOf x 191 128) else none }
    { s with invals := s.invals ++ [r] }

/-- INVREQ of any KIND but whole ASID (R119). -/
def execInvreqRange (vi : Nat) (req : BitVec 256) (s : State) : Host.Outcome State Fault Refusal :=
  if !s.boot.ready || !invTaken s vi req || decide (req.toNat % 4 = 1) then .next s else .next (takeInval s vi req)

/-- INVREQ of a whole ASID (R119). -/
def execInvreqWholeAsid (vi : Nat) (req : BitVec 256) (s : State) : Host.Outcome State Fault Refusal :=
  if !s.boot.ready || !invTaken s vi req || decide (req.toNat % 4 ≠ 1) then .next s else .next (takeInval s vi req)

/-- Whether an invalidation covers some 64 KiB pages of an ASID. -/
def Inval.covers (r : Inval) (asid vpn n : Nat) : Bool :=
  decide (r.asid = asid) && (match r.count with
    | none => true
    | some c => decide (vpn < r.va / 65536 + c ∧ r.va / 65536 < vpn + n))

/-- The ASID of the warp or record that a response is for. -/
def respAsid (s : State) (r : Resp) : Option Nat :=
  match (residents s).find? fun w => w.uid = r.uid && !w.entries.isEmpty with
  | some w => some w.asid
  | none => (s.recs.find? fun q => q.src = r.uid).map (·.asid)

/-- Whether a put uses a translation that an invalidation removes (R120, R176).
Log 125 (DEDUCED). -/
def putCovered (r : Inval) (p : PutOp) : Bool := r.covers p.hasid (p.hva / 65536) 1 || r.covers p.asid (p.rva / 65536) 1

/-- Whether an access that may have been translated through a removed entry is still under way: a load's response, an ACPY, or a
put that has claimed its indices (R120, R176).
Log 125 (DEDUCED). -/
def invalWaits (s : State) (r : Inval) : Bool :=
  (s.resps.any fun x => decide (respAsid s x = some r.asid))
    || (s.acpys.any fun a => match launchOf s a.launch with | some l => decide (l.asid = r.asid) | none => false)
    || s.puts.any (putCovered r)

/-- Buffered stores and held puts translated through a removed entry performed, with what stands in the same buffer (R120, R176, R272).
Log 125 (DEDUCED). -/
def drainCovered (s : State) (r : Inval) : State :=
  let stores := fun (w : Warp) => w.sb.any fun e => r.covers e.asid (e.va / 65536) 1
  let puts := fun (w : Warp) => w.held.any fun h => match h with | .put p => putCovered r p | _ => false
  ((residents s).filter fun w => stores w || puts w).foldl (fun t w => onWarp t w.uid (if puts w then startPuts else drain)) s

/-- The first VA of the code line of an IP (R25). -/
def lineVa (ip : BitVec 48) : Nat := ip.toNat / 16 * 192

/-- The oldest invalidation of an interface completes: entries and buffered instructions removed, shadow records written, buffered
stores performed, and INVDONE set (R118 to R120).
Log 125 (DEDUCED), 126 (DEDUCED). -/
def execInvalidationComplete (vi : Nat) (s : State) : Host.Outcome State Fault Refusal :=
  match s.invals.find? fun r => r.vi = vi with
  | none => .next s
  | some r =>
    let s := drainCovered s r
    if invalWaits s r then .next s
    else
      let out := fun (t : TlbEnt) => r.covers t.asid t.vpn (pszUnits t.psz)
      let gone := s.tlb.filter out
      let ptr := fun (p : PtrEnt) => r.covers p.asid (p.idx * 2 ^ (9 * p.level)) (2 ^ (9 * p.level))
      let s := gone.foldl shadowRecord { s with tlb := s.tlb.filter fun t => !out t, ptrs := s.ptrs.filter fun p => !ptr p }
      let touch := fun (w : IbufWord) => r.covers w.asid (lineVa w.ip / 65536) 1 || r.covers w.asid ((lineVa w.ip + 191) / 65536) 1
      let s := { s with ibuf := s.ibuf.filter fun w => !touch w, invals := s.invals.erase r }
      .next (setVi (staleAfter s r.asid fun vpn => r.covers r.asid vpn 1) vi fun v => { v with invdone := r.seq })

/-! Rings. -/

/-- A value for a ring register: the fields that it has (R391). -/
def ringValue (x : DWord) : DWord := x &&& 0x000FFFFFFFFFF01F

/-- PGRING: the ring placed under the control ASID of the moment, and waiting requests tried (R136, R391).
Log 129 (DEDUCED). -/
def execPgring (vi : Nat) (value : DWord) (s : State) : Host.Outcome State Fault Refusal :=
  if !s.boot.ready then .next s
  else .next (postPageReqs (setVi s vi fun v => { v with pgring := ringValue value, pgringAsid := v.ctlasid.toNat }) vi)

/-- Waiting page requests tried again (R136). -/
def execPgringRetry (vi : Nat) (s : State) : Host.Outcome State Fault Refusal := .next (postPageReqs s vi)

/-- PGDONE: the page-ready event of an outstanding page is fired, and the ring is tried again (R136).
Log 127 (DEDUCED). -/
def execPgdone (vi : Nat) (value : BitVec 128) (s : State) : Host.Outcome State Fault Refusal :=
  if !s.boot.ready || decide (value.toNat % 2 ^ 64 ≠ (viOf s vi).pgdone.toNat % 2 ^ 64) then .next s
  else
    let page : Page := { asid := bitsOf value.toNat 9 0, vpn := bitsOf value.toNat 115 80 }
    let s := setVi s vi fun v => { v with pgdone := 0 }
    let s := { s with pageReqs := s.pageReqs.filter fun r => !(r.vi = vi && r.page = page) }
    .next (settle (postPageReqs s vi))

/-- A report's 64 bytes (R394). The sector is left open.
Log 128 (DEDUCED). -/
def reportBytes (s : State) (r : Report) (lost : Bool) : List Byte :=
  let sector := (Config.freeWord s.free 0).toNat % 4
  bytesOfNat 8 (r.kind % 256 + sector * 256 + s.pkg % 1024 * 1024 + (if lost then 2 ^ 20 else 0))
    ++ bytesOfNat 8 (r.launch % 2 ^ 32 + r.asid % 1024 * 2 ^ 32 + r.vi % 64 * 2 ^ 42) ++ bytesOfNat 8 r.gtc.toNat
    ++ bytesOfNat 8 r.addr.toNat ++ bytesOfNat 8 r.data.toNat ++ List.replicate 24 0

/-- One report put into the ring of its interface if it has room: the entry, then HEAD, then MSI-X vector 0 (R394).
Log 128 (DEDUCED). -/
def postReport (s : State) (r : Report) : Option State :=
  let v := viOf s r.vi
  let ring := dbits v.repring 51 12 * 4096
  let log := dbits v.repring 4 0
  let sp : Space := { vi := r.vi, asid := v.repringAsid, user := false }
  if v.repring = 0 ∨ log < 4 ∨ 16 < log then none else
  match read64 s sp ring, read64 s sp (ring + 8), checkRange s sp ring (64 + 64 * 2 ^ log) true with
  | some head, some tail, .ok =>
    if (head + 2 ^ 64 - tail) % 2 ^ 64 < 2 ^ log then
      (writeVa s sp (ring + 64 + 64 * (head % 2 ^ log)) (reportBytes s r v.lostr)).bind fun t =>
        (writeVa t sp ring (bytesOfNat 8 (head + 1))).map fun t =>
          let t := setVi t r.vi fun v => { v with lostr := false }
          { t with out := t.out ++ [.msix r.vi 0], free := t.free + 1, reports := t.reports.erase r }
    else none
  | _, _, _ => none

/-- Held reports of an interface put into its ring while it takes them (R394). -/
def postReports (s : State) (vi : Nat) : State :=
  ((s.reports.filter fun r => r.vi = vi).foldl (fun (a : State × Bool) r =>
    if a.2 then a else match postReport a.1 r with | some t => (t, false) | none => (a.1, true)) (s, false)).1

/-- REPRING: the ring placed under the control ASID of the moment, and held reports tried (R391, R394).
Log 129 (DEDUCED). -/
def execRepring (vi : Nat) (value : DWord) (s : State) : Host.Outcome State Fault Refusal :=
  if !s.boot.ready then .next s
  else .next (postReports (setVi s vi fun v => { v with repring := ringValue value, repringAsid := v.ctlasid.toNat }) vi)

/-- Held reports tried again (R394). -/
def execReportRingRetry (vi : Nat) (s : State) : Host.Outcome State Fault Refusal := .next (postReports s vi)

/-! Other registers. -/

/-- CTRL: ATOMEN, on the physical function only (R390, R391). -/
def execCtrl (vi : Nat) (value : Word) (s : State) : Host.Outcome State Fault Refusal :=
  if !s.boot.ready || decide (vi ≠ 0) then .next s else .next (setVi s vi fun v => { v with ctrl := value &&& 1 })

/-- CTLASID (R391).
Log 129 (DEDUCED). -/
def execCtlasid (vi : Nat) (value : Word) (s : State) : Host.Outcome State Fault Refusal :=
  if !s.boot.ready then .next s else .next (setVi s vi fun v => { v with ctlasid := value &&& 0x3FF })

/-- APER: an entry of the aperture table (R392).
Log 129 (DEDUCED). -/
def execAper (vi : Nat) (w : Fin 256) (value : DWord) (s : State) : Host.Outcome State Fault Refusal :=
  if !s.boot.ready then .next s
  else .next (setVi s vi fun v => { v with aper := mset 0 v.aper w.val (value &&& 0x000FFFFFFC000FFF) })

/-- A write to an offset without behaviour, or of a width that a register does not take, is ignored (R391). -/
def execRegisterWriteOther (_vi _off _width : Nat) (_value : DWord) (s : State) : Host.Outcome State Fault Refusal := .next s

/-- A wide register's bytes with a piece put at an offset.
Log 130 (DEDUCED). -/
def putPiece {n : Nat} (x : BitVec n) (off : Nat) (data : List Byte) : BitVec n :=
  let mask : BitVec n := BitVec.ofNat n ((2 ^ (8 * data.length) - 1) * 2 ^ (8 * off))
  (x &&& ~~~mask) ||| BitVec.ofNat n (natOfBytes data * 2 ^ (8 * off))

/-- The bytes of a wide register (R391).
Log 130 (DEDUCED). -/
def pieceSize : PieceReg → Nat
  | .invreq => 32
  | .pgdone => 16
  | .mbox => 64

/-- A piece of 4 or 8 bytes written to a wide register, short of its last byte, kept until the register is taken (R391).
Log 130 (DEDUCED). -/
def execRegisterPieceWrite (vi : Nat) (reg : PieceReg) (off : Nat) (data : List Byte) (s : State) :
    Host.Outcome State Fault Refusal :=
  let n := data.length
  if !s.boot.ready || decide ((n ≠ 4 ∧ n ≠ 8) ∨ off % n ≠ 0 ∨ pieceSize reg ≤ off + n) then .next s
  else .next (setVi s vi fun v => match reg with
    | .invreq => { v with invreq := putPiece v.invreq off data }
    | .pgdone => { v with pgdone := putPiece v.pgdone off data }
    | .mbox => { v with mbox := putPiece v.mbox off data })

/-- BOOTSTAT (R391). -/
def bootstat (s : State) : Nat :=
  (if s.boot.ready then 1 else 0) + (match leaderOf s with | some k => 2 * (k % 4) + 8 | none => 0)

/-- What a read of a BAR0 register answers: nothing but BOOTSTAT before READY, and 0 for what is write-only or not listed (R391). -/
def regRead (s : State) (vi off : Nat) : DWord :=
  let v := viOf s vi
  if off = 0 then BitVec.ofNat 64 (bootstat s)
  else if !s.boot.ready then 0
  else match off with
    | 0x40 => v.invdone
    | 0x48 => v.inverr
    | 0x50 => v.pgring
    | 0xC0 => v.mbdone
    | 0xC8 => v.ctrl.setWidth 64
    | 0xD0 => v.repring
    | 0xE0 => v.qdone
    | 0xE8 => v.ctlasid.setWidth 64
    | n => if 0x1000 ≤ n ∧ n < 0x1800 ∧ n % 8 = 0 then mget 0 v.aper ((n - 0x1000) / 8) else 0

/-! The device-memory window. -/

/-- The space, address and ASID that a BAR2 offset names, or the check that fails (R121, R392).
Log 131 (DEDUCED). -/
def hostCheck (s : State) (vi off : Nat) (w : Bool) : Except Nat (Space × Nat) :=
  let e := mget 0 (viOf s vi).aper (off / 2 ^ 26)
  let sp : Space := { vi := vi, asid := dbits e 11 2, user := false }
  let va := dbits e 51 26 * 2 ^ 26 + off % 2 ^ 26
  if !e.getLsbD 0 || (w && !e.getLsbD 1) then .error 4
  else match translate s sp va w false with
    | .malf => .error 3
    | .prot _ => .error 4
    | .nores _ => .error 5
    | .ok _ => .ok (sp, va)

/-- The report of a host access that fails (R392, R394). -/
def hostFault (s : State) (vi off chk : Nat) : State :=
  report s vi 11 0 (dbits (mget 0 (viOf s vi).aper (off / 2 ^ 26)) 11 2) off chk

/-- Whether an offset and length make one PCIe request of the window (R392). -/
def hostRequest (off n : Nat) : Bool := decide (0 < n ∧ off % 4096 + n ≤ 4096 ∧ off + n ≤ 2 ^ 34)

/-- An Unsupported Request to an interface's host. -/
def unsupported (s : State) (vi : Nat) : State := { s with out := s.out ++ [.unsupported vi] }

/-- The first line of a host access that cannot be read, by its DPA, with the cause (R70, R386).
Log 131 (DEDUCED). -/
def hostBad (s : State) (sp : Space) (va n : Nat) : Option (Nat × Nat) :=
  (vaLines va n).findSome? fun vl => match translate s sp (vl * 128) false false with
    | .ok x => (match x.loc with | .dev a => (lineErr s x.rep (a / 128)).map fun e => (a / 128 * 128, e) | .host _ => none)
    | _ => none

/-- A host access that cannot have its data: an Unsupported Request, and the report of the address or of the package lost (R386, R392).
Log 131 (DEDUCED). -/
def hostLost (s : State) (vi asid dpa cause : Nat) : State :=
  unsupported (if cause = 2 then report s vi 10 0 asid 0 (dpa / 2 ^ 46) else report s vi 6 0 asid dpa 0) vi

/-- A host read through BAR2 (R392).
Log 131 (DEDUCED). -/
def execHostWindowRead (vi off n : Nat) (s : State) : Host.Outcome State Fault Refusal :=
  if !hostRequest off n then .next s
  else if !s.boot.ready then .next (unsupported s vi)
  else match hostCheck s vi off false with
    | .error c => .next (unsupported (hostFault s vi off c) vi)
    | .ok (sp, va) =>
      match hostBad s sp va n with
      | some e => .next (hostLost s vi sp.asid e.1 e.2)
      | none =>
        let r := streamVa s sp 0 va n
        .next { r.1 with out := r.1.out ++ [.readData vi r.2] }

/-- A host write through BAR2, performed at the home slice or dropped whole (R282, R392). -/
def execHostWindowWrite (vi off : Nat) (data : List Byte) (s : State) : Host.Outcome State Fault Refusal :=
  if !hostRequest off data.length || !s.boot.ready then .next s
  else match hostCheck s vi off true with
    | .error c => .next (hostFault s vi off c)
    | .ok (sp, va) => .next ((writeVa (touchVa s vi sp.asid va data.length) sp va data).getD s)

/-- The value that an AtomicOp leaves (R390). -/
def hostAtomicStep (op : HostAtomic) (n old x y : Nat) : Nat :=
  match op with
  | .fetchAdd => (old + x) % 256 ^ n
  | .swap => x % 256 ^ n
  | .cas => if old = x % 256 ^ n then y % 256 ^ n else old

/-- A host AtomicOp through BAR2, performed at the home slice; y is what a CAS stores (R390, R392).
Log 131 (DEDUCED). -/
def execHostWindowAtomicop (vi off : Nat) (op : HostAtomic) (w64 : Bool) (x y : DWord) (s : State) :
    Host.Outcome State Fault Refusal :=
  let n := if w64 then 8 else 4
  if !hostRequest off n then .next s
  else if !s.boot.ready then .next (unsupported s vi)
  else if off % n ≠ 0 then .next (unsupported (hostFault s vi off 2) vi)
  else match hostCheck s vi off true with
    | .error c => .next (unsupported (hostFault s vi off c) vi)
    | .ok (sp, va) =>
      match hostBad s sp va n with
      | some e => .next (hostLost s vi sp.asid e.1 e.2)
      | none =>
        let r := streamVa s sp 0 va n
        let new := hostAtomicStep op n (natOfBytes r.2) x.toNat y.toNat
        let t := match translate r.1 sp va true false with
          | .ok x => atomWrite r.1 x sp.asid va 0 (bytesOfNat n new)
          | _ => r.1
        .next { t with out := t.out ++ [.readData vi r.2] }

/-- The SPDM measurements: the digests of the images that the four sectors run, and the fuse map with the fused security version
(R399).
Log 132 (PRESUMED), 133 (DEDUCED). -/
def measurements (s : State) : List (List Byte) :=
  s.fwCores.map (fun c => bytesOfNat 48 c.digest)
    ++ [(s.boot.fuse.flatMap fun f => bytesOfNat 8 (f.1.toNat + 256 * f.2.toNat)) ++ bytesOfNat 2 s.boot.svn.toNat]

/-- An SPDM message on the DOE mailbox answered (R399).
Log 132 (PRESUMED). -/
def execSpdmRequest (msg : List Byte) (s : State) : Host.Outcome State Fault Refusal :=
  .next { s with out := s.out ++ [.spdm msg (measurements s) s.free], free := s.free + 1 }

end Sys2Proof.Machine
end

