-- ==== Sys2Proof/Machine/Firmware.lean ====
section
/-! DEFINITION. Forauth firmware: its services (R393, R383), the switching of interfaces (R382), leader election (R396), images (R397)
and bring-up (R398). -/

namespace Sys2Proof.Machine

/-! Requests. -/

/-- How a service stands: finished with a status, or still to finish. -/
inductive Svc where
  | fin (status : Nat) (s : State)
  | wait (s : State)

/-- BADREQ, for a malformed request (R393). -/
def badReq : Nat := 1
/-- DENIED, for a caller that may not make the request (R393). -/
def denied : Nat := 2
/-- BUSY, for a resource in use (R393). -/
def busy : Nat := 3

/-- A request finished: MBDONE written once, and the request not carried out again (R393, R396). -/
def finishReq (s : State) (vi : Nat) (seq : BitVec 40) (status : Nat) : State :=
  let s := { s with fwReqs := s.fwReqs.filter fun r => !(r.vi = vi && r.seq = seq) }
  setVi s vi fun v => { v with mbdone := BitVec.ofNat 64 (seq.toNat + status % 256 * 2 ^ 56), served := seq :: v.served }

/-- A request of MBOX taken, if it is the one that its pieces hold and has not been taken before (R391, R393).
Log 134 (DESIGN CHOICE), 135 (DEDUCED). -/
def takeReq (s : State) (vi : Nat) (seq : BitVec 40) (code : Nat) (op : Instr) : Option State :=
  if s.fwReqs.any fun r => r.vi = vi && r.seq = seq && r.op = op then some s
  else
    let v := viOf s vi
    if v.mbox.toNat % 2 ^ 48 ≠ seq.toNat + code * 2 ^ 40 ∨ seq ∈ v.served then none
    else some { (setVi s vi fun v => { v with mbox := 0 }) with fwReqs := s.fwReqs ++ [⟨vi, seq, op, false⟩] }

/-- Whether a request's turn has come: it is the first of its interface, and every one received before it has been begun (R393).
Log 134 (DESIGN CHOICE), 135 (DEDUCED). -/
def isNext (s : State) (vi : Nat) (seq : BitVec 40) : Bool :=
  (match s.fwReqs.find? fun r => r.vi = vi with
   | some r => decide (r.seq = seq)
   | none => false)
    && (s.fwReqs.takeWhile fun r => !(r.vi = vi && r.seq = seq)).all fun r => r.started

/-- A request marked as begun (R393).
Log 135 (DEDUCED). -/
def beginReq (s : State) (vi : Nat) (seq : BitVec 40) : State :=
  { s with fwReqs := s.fwReqs.map fun r => if r.vi = vi ∧ r.seq = seq then { r with started := true } else r }

/-- A firmware request: taken from MBOX, and carried out in its turn while a leader holds the lease (R393, R396).
Log 134 (DESIGN CHOICE). -/
def service (vi : Nat) (seq : BitVec 40) (code : Nat) (op : Instr) (run : State → Svc) (s : State) :
    Host.Outcome State Fault Refusal :=
  if !s.boot.ready then .next s
  else match takeReq s vi seq code op with
    | none => .next s
    | some t =>
      if (leaderOf t).isNone || !isNext t vi seq then .next t
      else match run (beginReq t vi seq) with
        | .fin c u => .next (finishReq u vi seq c)
        | .wait u => .next u

/-- A service of the physical function for an interface. -/
def pfService (vi target : Nat) (run : Svc) (s : State) : Svc :=
  if vi ≠ 0 then .fin denied s else if 64 ≤ target then .fin badReq s else run

/-! Granting and table writes. -/

/-- An interface's grants after some go to another: they are its own, or not.
Log 136 (DEDUCED). -/
def grantTo (s : State) (target : Nat) (asids keys : List Nat) : State :=
  (List.range 64).foldl (fun t v => setVi t v fun x =>
    if v = target then
      { x with asids := x.asids ++ asids.filter (fun a => decide (a ∉ x.asids)), keys := x.keys ++ keys.filter fun k => decide (k ∉ x.keys) }
    else { x with asids := x.asids.filter fun a => decide (a ∉ asids), keys := x.keys.filter fun k => decide (k ∉ keys) }) s

/-- Whether a grant would take a valid ASID or a filled key slot from another interface.
Log 136 (DEDUCED). -/
def grantBusy (s : State) (target : Nat) (asids keys : List Nat) : Bool :=
  asids.any (fun a => (asidEnt s a).valid && decide ((asidEnt s a).owner ≠ target))
    || keys.any fun k => let x := mget { key := none, owner := none } s.keys k; x.owner.isSome && decide (x.owner ≠ some target)

/-- Service 0x01: ASIDs or key slots assigned to an interface (R393).
Log 136 (DEDUCED). -/
def execGrantAsidsOrKeySlots (vi : Nat) (seq : BitVec 40) (target : Nat) (asids keys : List Nat) (s : State) :
    Host.Outcome State Fault Refusal :=
  service vi seq 1 (.grantAsidsOrKeySlots vi seq target asids keys) (fun s =>
    pfService vi target
      (if asids.any (fun a => decide (1024 ≤ a)) || keys.any (fun k => decide (4096 ≤ k)) then .fin badReq s
       else if grantBusy s target asids keys then .fin busy s
       else .fin 0 (grantTo s target asids keys)) s) s

/-- Whether an ASID entry's 32 bytes are malformed for an interface (R115). -/
def entryBad (s : State) (vi : Nat) (x : Nat) : Bool :=
  let ctl := bitsOf x 63 0
  let root := bitsOf x 127 64
  let ring := bitsOf x 191 128
  decide (bitsOf x 255 192 ≠ 0 ∨ 2 ^ 23 ≤ ctl ∨ 2 ^ 46 ≤ root ∨ root % 4096 ≠ 0 ∨ 2 ^ 46 ≤ ring ∨ ring % 64 ≠ 0 ∨ bitsOf ctl 6 1 ≠ vi
    ∨ (ring ≠ 0 ∧ (bitsOf ctl 11 7 < 4 ∨ 20 < bitsOf ctl 11 7)) ∨ (ctl.testBit 22 = true ∧ s.domain ≤ bitsOf ctl 21 12))

/-- Service 0x02: an ASID context entry written for its owner (R115). -/
def execWriteAsidEntry (vi : Nat) (seq : BitVec 40) (asid : Nat) (entry : BitVec 256) (s : State) :
    Host.Outcome State Fault Refusal :=
  service vi seq 2 (.writeAsidEntry vi seq asid entry) (fun s =>
    let x := entry.toNat
    if 1024 ≤ asid then .fin badReq s
    else if !ownsAsid s vi asid then .fin denied s
    else if entryBad s vi x then .fin badReq s
    else
      let e : AsidEnt :=
        { ctl := BitVec.ofNat 64 x, root := BitVec.ofNat 64 (x / 2 ^ 64), shring := BitVec.ofNat 64 (x / 2 ^ 128) }
      .fin 0 { s with asids := mset { ctl := 0, root := 0, shring := 0 } s.asids asid e }) s

/-- Service 0x03: a key slot written or emptied for its owner (R71). -/
def execWriteOrEmptyKeySlot (vi : Nat) (seq : BitVec 40) (slot : Nat) (key : Option (BitVec 512)) (s : State) :
    Host.Outcome State Fault Refusal :=
  service vi seq 3 (.writeOrEmptyKeySlot vi seq slot key) (fun s =>
    if 4096 ≤ slot then .fin badReq s
    else if slot ∉ (viOf s vi).keys then .fin denied s
    else
      let k : KeySlot := match key with | some _ => { key := key, owner := some vi } | none => { key := none, owner := none }
      .fin 0 { s with keys := mset { key := none, owner := none } s.keys slot k }) s

/-- A stream to be unbound: at once if it is bound, after a drain if it is loaded; a change that is already draining comes first (R87,
R91). -/
def unbindStream (s : State) (k : BitVec 6) : State :=
  let q := streamOf s k
  match q.st with
  | .free => s
  | .bound _ => { (clearDigests s k) with streams := mset freeStream s.streams k.toNat freeStream }
  | .loaded _ => if q.changing then s else setStream s k fun q => { q with pending := some none, unbind := true }

/-- Service 0x04: a glaze stream bound to an interface, or unbound (R87). -/
def execBindOrUnbindStream (vi : Nat) (seq : BitVec 40) (stream : Nat) (target : Option Nat) (s : State) :
    Host.Outcome State Fault Refusal :=
  service vi seq 4 (.bindOrUnbindStream vi seq stream target) (fun s =>
    let k := BitVec.ofNat 6 stream
    pfService vi (target.getD 0)
      (if stream = 0 ∨ 64 ≤ stream then .fin badReq s
       else match target with
         | some v =>
           if (streamOf s k).st ≠ .free then .fin busy s else .fin 0 (setStream (clearSides s k) k fun q => { q with st := .bound v })
         | none =>
           let t := unbindStream s k
           if (streamOf t k).st = .free then .fin 0 t else .wait t) s) s

/-! Handlers, groups, pools and periods. -/

/-- A launch that has lost its registration is closed, and ends when nothing of it is left. -/
def retireLaunch (s : State) (id : Option Nat) : State :=
  match id with
  | none => s
  | some h => launchEndIf (setLaunch s h fun l => { l with closed := true }) h

/-- Service 0x05: the handler image of an interface registered, with its handler launch (R374).
Log 140 (DEDUCED). -/
def execRegisterHandler (vi : Nat) (seq : BitVec 40) (asid image : Nat) (s : State) : Host.Outcome State Fault Refusal :=
  service vi seq 5 (.registerHandler vi seq asid image) (fun s =>
    if 1024 ≤ asid ∨ 2 ^ 52 ≤ image ∨ image % 64 ≠ 0 then .fin badReq s
    else if !ownsAsid s vi asid then .fin denied s
    else match readImage s { vi := vi, asid := asid, user := false } image with
      | .nores va psz => .wait (askPage s vi asid va psz false)
      | .status _ => .fin badReq s
      | .ok i =>
        if i.tiles ≠ 0 ∨ i.gang ≠ 0 ∨ i.frame ≠ 0 ∨ i.nreg < 4 then .fin badReq s
        else
          let s1 := retireLaunch s (viOf s vi).handler
          if !canReserve s1 vi (reservation i 0) then .fin busy s
          else
            let l := newLaunch s1 vi asid i image .handler false
            .fin 0 (settle (setVi (admitLaunch s1 l) vi fun v => { v with handler := some l.id }))) s

/-- Service 0x06: a multicast group registered on a link plane, with the header that firmware builds (R290, R292). -/
def execRegisterMulticastGroup (vi : Nat) (seq : BitVec 40) (grp plane : Nat) (pkgs : List Nat) (s : State) :
    Host.Outcome State Fault Refusal :=
  service vi seq 6 (.registerMulticastGroup vi seq grp plane pkgs) (fun s =>
    if 256 ≤ grp ∨ 5 ≤ plane ∨ pkgs = [] ∨ 1024 < pkgs.length ∨ pkgs.dedup.length ≠ pkgs.length then .fin badReq s
    else if pkgs.any fun p => decide (s.domain ≤ p) then .fin badReq s
    else .fin 0 { s with groups := (s.groups.filter fun g => !(g.vi = vi && g.grp = grp)) ++
      [⟨vi, grp, plane, pkgs, buildHeader plane s.pkg pkgs⟩] }) s

/-- Service 0x07: the size of an interface's record pool, and where it lies (R343).
Log 137 (DESIGN CHOICE). -/
def execPoolSize (vi : Nat) (seq : BitVec 40) (target size base : Nat) (s : State) : Host.Outcome State Fault Refusal :=
  service vi seq 7 (.poolSize vi seq target size base) (fun s =>
    pfService vi target
      (let held := s.launches.foldl (fun n l => if l.vi = target then n + max l.reserved l.charged else n) 0
       let v := viOf s target
       if base % 64 ≠ 0 ∨ 2 ^ 52 < base + size then .fin badReq s
       else if size < held ∨ (base ≠ v.poolBase ∧ (s.recs.any fun r => r.vi = target) = true) then .fin busy s
       else .fin 0 (setVi s target fun v => { v with poolSize := size, poolBase := base })) s) s

/-- Service 0x08: the weights and periods of an interface (R359, R361, R388).
Log 141 (DEDUCED). -/
def execSetWeightsAndWatchdogs (vi : Nat) (seq : BitVec 40) (target cw wt hwdog seglim : Nat) (s : State) :
    Host.Outcome State Fault Refusal :=
  service vi seq 8 (.setWeightsAndWatchdogs vi seq target cw wt hwdog seglim) (fun s =>
    pfService vi target
      (if cw = 0 ∨ 255 < cw ∨ wt = 0 ∨ 255 < wt ∨ hwdog < 1000 ∨ 60000000 < hwdog ∨ seglim < 100 ∨ 1000000 < seglim then .fin badReq s
       else .fin 0 (setVi s target fun v =>
         { v with cw := cw, wt := wt, hwdog := BitVec.ofNat 32 hwdog, seglim := BitVec.ofNat 32 seglim })) s) s

/-- Service 0x09: the rack budget (R358). -/
def execRackBudget (vi : Nat) (seq : BitVec 40) (watts : Nat) (s : State) : Host.Outcome State Fault Refusal :=
  service vi seq 9 (.rackBudget vi seq watts) (fun s => pfService vi 0 (.fin 0 { s with rack := watts }) s) s

/-! Reset of an interface. -/

/-- A launch ended with everything that it holds: warps, records, saggars, crews with their tiles and gangs, and matrix work; its
packets have their end.
Log 138 (DEDUCED). -/
def dropLaunch (s : State) (l : Launch) : State :=
  let mine := fun (g : Gang) => decide (g.launch = l.id)
  let s := (s.gangs.filter mine).foldl (fun t g => g.accs.foldl (fun u a => clearAcc u g.core a) t) s
  let s := (s.crews.filter fun c => c.launch = l.id).foldl freeCrewTiles s
  let gone := ((residents s).filter fun w => w.launch = l.id).map (·.uid) ++ (s.recs.filter fun r => r.launch = l.id).map (·.src)
  let sids := (s.saggars.filter fun g => g.launch = l.id).map (·.sid)
  let stage := fun (o : StageOp) => match o.what with
    | .saggar sid => sids.contains sid
    | .batch k _ _ _ => decide (k = l.id)
    | .packet _ => false
  { s with
    warp := if s.warp.launch = l.id ∧ s.warp.entries ≠ [] then { Warp.none with core := s.warp.core } else s.warp
    bench := s.bench.filter fun w => w.launch ≠ l.id
    recs := s.recs.filter fun r => r.launch ≠ l.id
    saggars := s.saggars.filter fun g => g.launch ≠ l.id
    crews := s.crews.filter fun c => c.launch ≠ l.id
    clusters := s.clusters.filter fun c => c.launch ≠ l.id
    conesUsed := s.conesUsed - 9 * (s.gangs.filter fun g => mine g && g.cones).length
    gangs := s.gangs.filter fun g => !mine g
    latches := s.latches.filter fun k => k.launch ≠ l.id
    mxQueue := s.mxQueue.filter fun m => m.launch ≠ l.id
    mxOps := s.mxOps.filter fun m => m.launch ≠ l.id
    acpys := s.acpys.filter fun a => a.launch ≠ l.id
    stageOps := s.stageOps.filter fun o => !stage o
    joinWaits := s.joinWaits.filter fun j => j.launch ≠ l.id
    resps := s.resps.filter fun r => !gone.contains r.uid
    walks := s.walks.filter fun r => !gone.contains r.uid
    mirrors := s.mirrors.filter fun m => m.pkg ≠ s.pkg ∨ m.record.launch ≠ l.id
    packets := s.packets.map fun p => if l.packets.contains p.pid then { p with st := .moved } else p
    launches := s.launches.filter fun k => k.id ≠ l.id }

/-- The streams that an interface owns. -/
def ownStreams (s : State) (vi : Nat) : List (BitVec 6) :=
  ((List.range 64).map (BitVec.ofNat 6)).filter fun k => match (streamOf s k).st with
    | .free => false
    | .bound v | .loaded v => decide (v = vi)

/-- Service 0x0A: an interface's launches ended, its streams unbound and its key slots emptied; it finishes once the streams have
drained (R87, R393).
Log 138 (DEDUCED). -/
def execResetInterface (vi : Nat) (seq : BitVec 40) (target : Nat) (s : State) : Host.Outcome State Fault Refusal :=
  service vi seq 10 (.resetInterface vi seq target) (fun s =>
    pfService vi target
      (let s := (s.launches.filter fun l => l.vi = target).foldl dropLaunch s
       let s := setVi s target fun v => { v with handler := none }
       let s := (viOf s target).keys.foldl (fun t k => { t with keys := mset { key := none, owner := none } t.keys k { key := none, owner := none } }) s
       let s := (ownStreams s target).foldl unbindStream s
       if (ownStreams s target).isEmpty then .fin 0 (settle s) else .wait (settle s)) s) s

/-- Service 0x0B: a staged image verified and put into the four regions; it runs from the next package reset (R397).
Log 139 (DEDUCED). -/
def execUpdateFirmware (vi : Nat) (seq : BitVec 40) (image svn : Nat) (ok : Bool) (s : State) : Host.Outcome State Fault Refusal :=
  service vi seq 11 (.updateFirmware vi seq image svn ok) (fun s =>
    pfService vi 0
      (if !ok || decide (svn < s.boot.svn.toNat) then .fin badReq s
       else .fin 0 { s with fwCores := s.fwCores.map fun c => { c with flash := image } }) s) s

/-! Suspension and switching. -/

/-- Parked records of a set tested, whatever they wait for (R381 to R383). -/
def retest (s : State) (which : Rec → Bool) : State := wakeAll s which

/-- Whether some warp of a set is still resident.
Log 142 (DEDUCED). -/
def anyResident (s : State) (which : Warp → Bool) : Bool := (residents s).any fun w => which w && !w.entries.isEmpty

/-- A launch of an interface, for services 0x0C. -/
def ownLaunch (s : State) (vi launch : Nat) (run : Launch → Svc) : Svc :=
  match launchOf s launch with
  | none => .fin denied s
  | some l => if l.vi = vi then run l else .fin denied s

/-- Service 0x0C, SUSPEND: the launch pre-empted and its records kept parked; finished once its last warp has ended (R381, R383). -/
def execSuspendLaunch (vi : Nat) (seq : BitVec 40) (launch : Nat) (s : State) : Host.Outcome State Fault Refusal :=
  service vi seq 12 (.suspendLaunch vi seq launch) (fun s =>
    ownLaunch s vi launch fun l =>
      let t := saveCrews (suspend s l.id)
      if anyResident t fun w => decide (w.launch = l.id) then .wait t else .fin 0 t) s

/-- Service 0x0C, RESUME: the launch's parked records made firable again (R383, R386). -/
def execResumeLaunch (vi : Nat) (seq : BitVec 40) (launch : Nat) (s : State) : Host.Outcome State Fault Refusal :=
  service vi seq 12 (.resumeLaunch vi seq launch) (fun s =>
    ownLaunch s vi launch fun l =>
      .fin 0 (retest (setLaunch s l.id fun l => { l with suspended := false }) fun r => decide (r.launch = l.id))) s

/-- Service 0x0D, out: the interface's queues unmapped, its firing stopped and its warps marked (R382).
Log 142 (DEDUCED). -/
def execSwitchInterfaceOut (vi : Nat) (seq : BitVec 40) (target : Nat) (s : State) : Host.Outcome State Fault Refusal :=
  service vi seq 13 (.switchInterfaceOut vi seq target) (fun s =>
    if vi ≠ 0 then .fin denied s
    else if 64 ≤ target then .fin badReq s
    else
      let v := viOf s target
      if v.switchedOut && v.outPending.isNone then .fin 0 s
      else
        let t := setVi s target fun v => { v with switchedOut := true, outPending := some seq }
        let mark := fun (w : Warp) => if w.vi = target ∧ w.entries ≠ [] then w.mark t.now else w
        .wait (saveCrews { t with
          queues := t.queues.map fun q => if q.vi = target then { q with slot := none } else q
          warp := mark t.warp
          bench := t.bench.map mark })) s

/-- The interface counts as switched out once its last warp's record is written; the request that asked for it finishes (R382, R383).
Log 142 (DEDUCED). -/
def execViSwitchedOut (vi : Nat) (s : State) : Host.Outcome State Fault Refusal :=
  match (viOf s vi).outPending with
  | none => .next s
  | some seq =>
    if (anyResident s fun w => decide (w.vi = vi)) || (leaderOf s).isNone then .next s
    else .next (finishReq (saveCrews (setVi s vi fun v => { v with outPending := none })) 0 seq 0)

/-- Service 0x0D, in: the interface's queues mapped again and its parked records made firable; finished once its crews are restored
(R382, R383). -/
def execSwitchInterfaceIn (vi : Nat) (seq : BitVec 40) (target : Nat) (s : State) : Host.Outcome State Fault Refusal :=
  service vi seq 13 (.switchInterfaceIn vi seq target) (fun s =>
    if vi ≠ 0 then .fin denied s
    else if 64 ≤ target then .fin badReq s
    else if (viOf s target).outPending.isSome then .fin busy s
    else
      let t := setVi s target fun v => { v with switchedOut := false }
      let t := retest ((t.queues.filter fun q => q.vi = target).foldl mapQueue t) fun r => decide (r.vi = target)
      let saved := t.crews.any fun c => c.saved && c.moving.isNone && (match launchOf t c.launch with
        | some l => decide (l.vi = target) && !l.suspended
        | none => false)
      if saved then .wait t else .fin 0 t) s

/-- A mirrored record made firable here, with its launch if that is not known yet (R387).
Log 143 (DEDUCED). -/
def adoptRec (s : State) (m : Mirror) : State :=
  let n := laneCount m.record.mask
  let s := match launchOf s m.record.launch with
    | some _ => setLaunch s m.record.launch fun l => { l with threads := l.threads + n }
    | none => { s with launches := s.launches ++
        [{ m.launch with threads := n, exited := 0, reserved := 0, charged := 0, seeds := [], packets := [], suspended := false, hold := none, closed := true }] }
  addReleased s m.record.core { m.record with src := 0 }

/-- Service 0x0E: the mirrored records of a lost package's durable launches made firable on this package (R383, R387).
Log 143 (DEDUCED). -/
def execAdoptDurableLaunches (vi : Nat) (seq : BitVec 40) (pkg : Nat) (s : State) : Host.Outcome State Fault Refusal :=
  service vi seq 14 (.adoptDurableLaunches vi seq pkg) (fun s =>
    if vi ≠ 0 then .fin denied s
    else if pkg = s.pkg ∨ s.domain ≤ pkg then .fin badReq s
    else
      let ms := s.mirrors.filter fun m => m.pkg = pkg
      .fin 0 (ms.foldl adoptRec { s with mirrors := s.mirrors.filter fun m => m.pkg ≠ pkg })) s

/-! Device information. -/

/-- The device information block (R395). -/
def infoBlock (s : State) : List Byte :=
  let link := fun (l : Link) =>
    bytesOfNat 8 ((if l.up then 1 else 0) + l.plane % 8 * 2 + l.switch % 1024 * 16 + l.port % 64 * 2 ^ 14)
  bytesOfNat 8 (s.pkg % 1024 + s.domain % 2048 * 1024) ++ bytesOfNat 8 s.boot.svn.toNat
    ++ bytesOfNat 8 ((if s.gtc.arriving then 1 else 0) + (if s.gtc.aligned then 2 else 0)) ++ List.replicate 40 0
    ++ s.boot.fuse.flatMap (fun f => bytesOfNat 8 (f.1.toNat + 256 * f.2.toNat)) ++ s.links.flatMap link ++ List.replicate 3840 0

/-- Service 0x0F: the device information block written at a VA of an ASID that the caller owns (R395).
Log 140 (DEDUCED). -/
def execDeviceInformation (vi : Nat) (seq : BitVec 40) (asid va : Nat) (s : State) : Host.Outcome State Fault Refusal :=
  service vi seq 15 (.deviceInformation vi seq asid va) (fun s =>
    let sp : Space := { vi := vi, asid := asid, user := false }
    if 1024 ≤ asid ∨ va % 64 ≠ 0 ∨ 2 ^ 52 < va + 4096 then .fin badReq s
    else if !ownsAsid s vi asid then .fin denied s
    else match checkRange s sp va 4096 true with
      | .nores a psz => .wait (askPage s vi asid a psz false)
      | .status _ => .fin badReq s
      | .ok => .fin 0 ((writeVa s sp va (infoBlock s)).getD s)) s

/-! Election and bring-up. -/

/-- A firmware core updated. -/
def setFw (s : State) (k : Nat) (f : FwCore → FwCore) : State := { s with fwCores := s.fwCores.modify k f }

/-- Whether step 1 of bring-up is done (R398). -/
def stepOneDone (s : State) : Bool := s.boot.linksTrained && s.boot.imagesDone && (s.gtc.aligned || s.gtc.trained)

/-- 1 ms and 10 ms of GTC (R396).
Log 144 (DEDUCED). -/
def msGtc : Nat := 1000000

/-- A follower tries to take the lease once its own delay past EXPIRY has lapsed (R396).
Log 144 (DEDUCED). -/
def execLeaseTry (sector : Nat) (s : State) : Host.Outcome State Fault Refusal :=
  match s.fwCores[sector]? with
  | none => .next s
  | some c =>
    if !stepOneDone s || c.leader || decide (c.image ≠ some true)
        || decide (s.gtc.value.toNat < s.lease.expiry.toNat + msGtc * (1 + sector)) then .next s
    else
      let e := s.lease.epoch + 1
      let s := setFw s sector fun c => { c with leader := true, epoch := e }
      .next { s with lease := { holder := sector, epoch := e, expiry := s.gtc.value + BitVec.ofNat 64 (10 * msGtc) } }

/-- A leader renews its lease 2 ms after the last time, or becomes a follower if the lease is no longer its own (R396).
Log 144 (DEDUCED). -/
def execLeaseRenew (sector : Nat) (s : State) : Host.Outcome State Fault Refusal :=
  match s.fwCores[sector]? with
  | none => .next s
  | some c =>
    if !c.leader then .next s
    else if s.lease.holder ≠ sector ∨ s.lease.epoch ≠ c.epoch ∨ s.lease.expiry ≤ s.gtc.value then
      .next (setFw s sector fun c => { c with leader := false })
    else if s.gtc.value.toNat + 8 * msGtc < s.lease.expiry.toNat then .next s
    else .next { s with lease := { s.lease with expiry := s.gtc.value + BitVec.ofNat 64 (10 * msGtc) } }

/-- A leader whose EXPIRY has come ceases to lead (R396).
Log 144 (DEDUCED). -/
def execLeaseExpire (sector : Nat) (s : State) : Host.Outcome State Fault Refusal :=
  match s.fwCores[sector]? with
  | none => .next s
  | some c =>
    if c.leader && decide (s.lease.expiry ≤ s.gtc.value ∨ s.lease.holder ≠ sector ∨ s.lease.epoch ≠ c.epoch) then
      .next (setFw s sector fun c => { c with leader := false })
    else .next s

/-- What a package reset leaves: the state after reset, with what lies outside the package's volatile parts kept (R297, R391, R396 to
R398).
Log 145 (DESIGN CHOICE). -/
def execPackageReset (s : State) : Host.Outcome State Fault Refusal :=
  let far := fun (line : Nat) => decide (line / 2 ^ 39 ≠ s.pkg)
  .next { State.reset with
    agenda := s.agenda, pick := s.pick, free := s.free, fresh := s.fresh, pkg := s.pkg, domain := s.domain, now := s.now
    mem := s.mem.filter fun e => decide (e.1 / 2 ^ 46 ≠ s.pkg)
    gtc := { State.reset.gtc with beaconAt := s.now }
    host := (landHost s).host
    live := s.live.filter fun r => decide (r / 2 ^ 25 ≠ s.pkg)
    placed := s.placed.filter fun e => decide (e.1 / 2 ^ 25 ≠ s.pkg)
    peerDown := s.peerDown
    weak := s.weak.filter far
    bad := s.bad.filter far
    peerAsids := s.peerAsids
    links := s.links.map fun l => { Link.reset 0 with plane := l.plane, switch := l.switch, port := l.port }
    fwCores := s.fwCores.map fun c => { FwCore.reset with flash := c.flash }
    boot := { linksTrained := false, imagesDone := false, hbmTrained := false, ready := false, svn := s.boot.svn, fuse := s.boot.fuse }
    sent := s.sent, sentCrews := s.sentCrews, out := s.out }

/-- Link training ends: the links are up, and every package whose links are not all down can be reached (R289, R398).
Log 145 (DESIGN CHOICE). -/
def execLinkTrainingDone (s : State) : Host.Outcome State Fault Refusal :=
  if s.boot.linksTrained then .next s
  else .next { s with
    links := s.links.map fun l => { l with up := true }
    boot := { s.boot with linksTrained := true }
    unreach := (List.range s.domain).filter fun p => decide (mget 0 s.peerDown p = 2 ^ 20 - 1) }

/-- A sector's verification of its image ends (R397, R398).
Log 139 (DEDUCED). -/
def execImageVerificationDone (sector : Nat) (ok : Bool) (s : State) : Host.Outcome State Fault Refusal :=
  match s.fwCores[sector]? with
  | none => .next s
  | some c =>
    if c.image.isSome then .next s
    else
      let s := setFw s sector fun c => { c with image := some ok, digest := if ok then c.flash else 0 }
      .next { s with boot := { s.boot with imagesDone := s.fwCores.all fun c => c.image.isSome } }

/-- A sector whose image fails to verify takes the leader's, verifies it and rewrites its region (R397). -/
def execPeerFetch (sector : Nat) (s : State) : Host.Outcome State Fault Refusal :=
  match s.fwCores[sector]?, leaderOf s with
  | some c, some k =>
    if c.image ≠ some false then .next s
    else
      let d := match s.fwCores[k]? with | some l => l.digest | none => 0
      .next (setFw s sector fun c => { c with image := some true, digest := d, flash := d })
  | _, _ => .next s

/-- The routers of a sector's two fused-off cores, which are two different ones of its 32 (R106, R395).
Log 14 (DESIGN CHOICE). -/
def fuseOf (sector : Nat) : BitVec 5 × BitVec 5 :=
  let f := Config.fused sector
  (f.1, f.1 + 1 + BitVec.ofNat 5 (f.2.toNat % 31))

/-- HBM training ends, once a leader holds the lease and every sector runs a verified image: the fuse map is recorded, every region is
non-live, key slots are empty, streams are FREE, the ASID context table is placed, and READY is set (R398).
Log 145 (DESIGN CHOICE). -/
def execHbmTrainingDone (s : State) : Host.Outcome State Fault Refusal :=
  if s.boot.hbmTrained || (leaderOf s).isNone || !(s.fwCores.all fun c => decide (c.image = some true)) then .next s
  else
    .next { s with
      mem := s.mem.filter fun e => decide (e.1 / 2 ^ 46 ≠ s.pkg)
      live := s.live.filter fun r => decide (r / 2 ^ 25 ≠ s.pkg)
      keys := [], streams := [], digests := [], hist := [], histOwner := none, asids := []
      placed := s.placed.filter fun e => decide (e.1 / 2 ^ 25 ≠ s.pkg)
      boot := { s.boot with hbmTrained := true, ready := true, fuse := (List.range 4).map fuseOf } }

end Sys2Proof.Machine
end

