-- ==== Sys2Proof/Machine/Dispatch.lean ====
section
/-! DEFINITION. The meaning of every instruction and event: one arm per constructor of Instr, one call of its meaning. -/

namespace Sys2Proof.Machine

/-- The meaning of an instruction or event.
Log 8 (DESIGN CHOICE). -/
def exec (i : Instr) (s : State) : Host.Outcome State Fault Refusal :=
  match i with
  | .ill => Sys2Proof.Machine.execIll s
  | .nop a0 => Sys2Proof.Machine.execNop a0 s
  | .braRel a0 a1 a2 => Sys2Proof.Machine.execBraRel a0 a1 a2 s
  | .braAny a0 a1 a2 => Sys2Proof.Machine.execBraAny a0 a1 a2 s
  | .braAll a0 a1 a2 => Sys2Proof.Machine.execBraAll a0 a1 a2 s
  | .jumpLane a0 a1 a2 => Sys2Proof.Machine.execJumpLane a0 a1 a2 s
  | .jumpWarp a0 a1 a2 => Sys2Proof.Machine.execJumpWarp a0 a1 a2 s
  | .callRel a0 a1 a2 a3 => Sys2Proof.Machine.execCallRel a0 a1 a2 a3 s
  | .callS a0 a1 a2 a3 => Sys2Proof.Machine.execCallS a0 a1 a2 a3 s
  | .ret a0 a1 a2 => Sys2Proof.Machine.execRet a0 a1 a2 s
  | .split a0 => Sys2Proof.Machine.execSplit a0 s
  | .exit a0 => Sys2Proof.Machine.execExit a0 s
  | .yield a0 => Sys2Proof.Machine.execYield a0 s
  | .waiteTile a0 a1 => Sys2Proof.Machine.execWaiteTile a0 a1 s
  | .waiteBatch a0 a1 => Sys2Proof.Machine.execWaiteBatch a0 a1 s
  | .waiteWord a0 a1 a2 a3 a4 a5 => Sys2Proof.Machine.execWaiteWord a0 a1 a2 a3 a4 a5 s
  | .waiteJoin a0 a1 => Sys2Proof.Machine.execWaiteJoin a0 a1 s
  | .waiteBar a0 a1 a2 a3 => Sys2Proof.Machine.execWaiteBar a0 a1 a2 a3 s
  | .waiteGtc a0 a1 => Sys2Proof.Machine.execWaiteGtc a0 a1 s
  | .waitePage a0 a1 a2 => Sys2Proof.Machine.execWaitePage a0 a1 a2 s
  | .waiteColl a0 a1 => Sys2Proof.Machine.execWaiteColl a0 a1 s
  | .spawnNode a0 a1 a2 a3 a4 => Sys2Proof.Machine.execSpawnNode a0 a1 a2 a3 a4 s
  | .spawnStage a0 a1 a2 a3 a4 a5 a6 => Sys2Proof.Machine.execSpawnStage a0 a1 a2 a3 a4 a5 a6 s
  | .joinc a0 => Sys2Proof.Machine.execJoinc a0 s
  | .joinUpdatePageReady a0 a1 => Sys2Proof.Machine.execJoinUpdatePageReady a0 a1 s
  | .fwd a0 a1 => Sys2Proof.Machine.execFwd a0 a1 s
  | .barWait a0 a1 a2 => Sys2Proof.Machine.execBarWait a0 a1 a2 s
  | .barPost a0 a1 a2 a3 => Sys2Proof.Machine.execBarPost a0 a1 a2 a3 s
  | .refill a0 a1 a2 a3 a4 a5 => Sys2Proof.Machine.execRefill a0 a1 a2 a3 a4 a5 s
  | .trap a0 a1 => Sys2Proof.Machine.execTrap a0 a1 s
  | .tret a0 a1 => Sys2Proof.Machine.execTret a0 a1 s
  | .tretKill a0 a1 => Sys2Proof.Machine.execTretKill a0 a1 s
  | .srd a0 a1 a2 a3 => Sys2Proof.Machine.execSrd a0 a1 a2 a3 s
  | .swr a0 a1 a2 a3 => Sys2Proof.Machine.execSwr a0 a1 a2 a3 s
  | .iadd a0 a1 a2 a3 a4 a5 => Sys2Proof.Machine.execIadd a0 a1 a2 a3 a4 a5 s
  | .isub a0 a1 a2 a3 a4 a5 => Sys2Proof.Machine.execIsub a0 a1 a2 a3 a4 a5 s
  | .addc a0 a1 a2 a3 a4 a5 a6 a7 => Sys2Proof.Machine.execAddc a0 a1 a2 a3 a4 a5 a6 a7 s
  | .imul a0 a1 a2 a3 a4 => Sys2Proof.Machine.execImul a0 a1 a2 a3 a4 s
  | .imulh a0 a1 a2 a3 a4 => Sys2Proof.Machine.execImulh a0 a1 a2 a3 a4 s
  | .imad a0 a1 a2 a3 a4 a5 a6 => Sys2Proof.Machine.execImad a0 a1 a2 a3 a4 a5 a6 s
  | .imin a0 a1 a2 a3 a4 => Sys2Proof.Machine.execImin a0 a1 a2 a3 a4 s
  | .imax a0 a1 a2 a3 a4 => Sys2Proof.Machine.execImax a0 a1 a2 a3 a4 s
  | .iabs a0 a1 a2 a3 a4 => Sys2Proof.Machine.execIabs a0 a1 a2 a3 a4 s
  | .and a0 a1 a2 a3 a4 a5 => Sys2Proof.Machine.execAnd a0 a1 a2 a3 a4 a5 s
  | .or a0 a1 a2 a3 a4 a5 => Sys2Proof.Machine.execOr a0 a1 a2 a3 a4 a5 s
  | .xor a0 a1 a2 a3 a4 a5 => Sys2Proof.Machine.execXor a0 a1 a2 a3 a4 a5 s
  | .shl a0 a1 a2 a3 a4 => Sys2Proof.Machine.execShl a0 a1 a2 a3 a4 s
  | .shr a0 a1 a2 a3 a4 => Sys2Proof.Machine.execShr a0 a1 a2 a3 a4 s
  | .rot a0 a1 a2 a3 a4 a5 => Sys2Proof.Machine.execRot a0 a1 a2 a3 a4 a5 s
  | .popc a0 a1 a2 a3 => Sys2Proof.Machine.execPopc a0 a1 a2 a3 s
  | .clz a0 a1 a2 a3 => Sys2Proof.Machine.execClz a0 a1 a2 a3 s
  | .brev a0 a1 a2 a3 => Sys2Proof.Machine.execBrev a0 a1 a2 a3 s
  | .bfx a0 a1 a2 a3 a4 a5 => Sys2Proof.Machine.execBfx a0 a1 a2 a3 a4 a5 s
  | .bfi a0 a1 a2 a3 a4 a5 => Sys2Proof.Machine.execBfi a0 a1 a2 a3 a4 a5 s
  | .icmp a0 a1 a2 a3 a4 a5 => Sys2Proof.Machine.execIcmp a0 a1 a2 a3 a4 a5 s
  | .sel a0 a1 a2 a3 a4 a5 => Sys2Proof.Machine.execSel a0 a1 a2 a3 a4 a5 s
  | .lea a0 a1 a2 a3 a4 => Sys2Proof.Machine.execLea a0 a1 a2 a3 a4 s
  | .plop a0 a1 a2 a3 a4 a5 => Sys2Proof.Machine.execPlop a0 a1 a2 a3 a4 a5 s
  | .fadd a0 a1 a2 a3 a4 a5 => Sys2Proof.Machine.execFadd a0 a1 a2 a3 a4 a5 s
  | .fsub a0 a1 a2 a3 a4 a5 => Sys2Proof.Machine.execFsub a0 a1 a2 a3 a4 a5 s
  | .fmul a0 a1 a2 a3 a4 a5 => Sys2Proof.Machine.execFmul a0 a1 a2 a3 a4 a5 s
  | .ffma a0 a1 a2 a3 a4 a5 a6 => Sys2Proof.Machine.execFfma a0 a1 a2 a3 a4 a5 a6 s
  | .fmin a0 a1 a2 a3 a4 a5 => Sys2Proof.Machine.execFmin a0 a1 a2 a3 a4 a5 s
  | .fmax a0 a1 a2 a3 a4 a5 => Sys2Proof.Machine.execFmax a0 a1 a2 a3 a4 a5 s
  | .fcmp a0 a1 a2 a3 a4 a5 => Sys2Proof.Machine.execFcmp a0 a1 a2 a3 a4 a5 s
  | .frcp a0 a1 a2 a3 a4 => Sys2Proof.Machine.execFrcp a0 a1 a2 a3 a4 s
  | .frsq a0 a1 a2 a3 a4 => Sys2Proof.Machine.execFrsq a0 a1 a2 a3 a4 s
  | .fsqrt a0 a1 a2 a3 a4 => Sys2Proof.Machine.execFsqrt a0 a1 a2 a3 a4 s
  | .fex2 a0 a1 a2 a3 => Sys2Proof.Machine.execFex2 a0 a1 a2 a3 s
  | .flg2 a0 a1 a2 a3 => Sys2Proof.Machine.execFlg2 a0 a1 a2 a3 s
  | .fsin a0 a1 a2 a3 => Sys2Proof.Machine.execFsin a0 a1 a2 a3 s
  | .fcos a0 a1 a2 a3 => Sys2Proof.Machine.execFcos a0 a1 a2 a3 s
  | .fcls a0 a1 a2 a3 a4 => Sys2Proof.Machine.execFcls a0 a1 a2 a3 a4 s
  | .frnd a0 a1 a2 a3 a4 => Sys2Proof.Machine.execFrnd a0 a1 a2 a3 a4 s
  | .fscl a0 a1 a2 a3 a4 a5 => Sys2Proof.Machine.execFscl a0 a1 a2 a3 a4 a5 s
  | .fdiv a0 a1 a2 a3 a4 a5 => Sys2Proof.Machine.execFdiv a0 a1 a2 a3 a4 a5 s
  | .cmul a0 a1 a2 a3 a4 a5 a6 => Sys2Proof.Machine.execCmul a0 a1 a2 a3 a4 a5 a6 s
  | .cfma a0 a1 a2 a3 a4 a5 a6 a7 => Sys2Proof.Machine.execCfma a0 a1 a2 a3 a4 a5 a6 a7 s
  | .bfly a0 a1 a2 a3 a4 a5 a6 => Sys2Proof.Machine.execBfly a0 a1 a2 a3 a4 a5 a6 s
  | .bfl4 a0 a1 a2 a3 a4 a5 a6 => Sys2Proof.Machine.execBfl4 a0 a1 a2 a3 a4 a5 a6 s
  | .twid a0 a1 a2 a3 a4 a5 => Sys2Proof.Machine.execTwid a0 a1 a2 a3 a4 a5 s
  | .fdt2 a0 a1 a2 a3 a4 a5 a6 => Sys2Proof.Machine.execFdt2 a0 a1 a2 a3 a4 a5 a6 s
  | .mov a0 a1 a2 a3 => Sys2Proof.Machine.execMov a0 a1 a2 a3 s
  | .moviLo a0 a1 a2 a3 => Sys2Proof.Machine.execMoviLo a0 a1 a2 a3 s
  | .moviHi a0 a1 a2 a3 a4 => Sys2Proof.Machine.execMoviHi a0 a1 a2 a3 a4 s
  | .cvt a0 a1 a2 a3 a4 a5 a6 a7 => Sys2Proof.Machine.execCvt a0 a1 a2 a3 a4 a5 a6 a7 s
  | .cvtBlk a0 a1 a2 a3 a4 a5 a6 => Sys2Proof.Machine.execCvtBlk a0 a1 a2 a3 a4 a5 a6 s
  | .pack a0 a1 a2 a3 a4 a5 => Sys2Proof.Machine.execPack a0 a1 a2 a3 a4 a5 s
  | .unpk a0 a1 a2 a3 a4 => Sys2Proof.Machine.execUnpk a0 a1 a2 a3 a4 s
  | .shfl a0 a1 a2 a3 a4 a5 a6 a7 => Sys2Proof.Machine.execShfl a0 a1 a2 a3 a4 a5 a6 a7 s
  | .qswp a0 a1 a2 a3 a4 => Sys2Proof.Machine.execQswp a0 a1 a2 a3 a4 s
  | .qred a0 a1 a2 a3 a4 a5 => Sys2Proof.Machine.execQred a0 a1 a2 a3 a4 a5 s
  | .vote a0 a1 a2 a3 => Sys2Proof.Machine.execVote a0 a1 a2 a3 s
  | .pmovTomask a0 a1 a2 => Sys2Proof.Machine.execPmovTomask a0 a1 a2 s
  | .pmovTopred a0 a1 a2 => Sys2Proof.Machine.execPmovTopred a0 a1 a2 s
  | .lred a0 a1 a2 a3 a4 a5 => Sys2Proof.Machine.execLred a0 a1 a2 a3 a4 a5 s
  | .prfx a0 a1 a2 a3 a4 a5 => Sys2Proof.Machine.execPrfx a0 a1 a2 a3 a4 a5 s
  | .bcst a0 a1 a2 a3 a4 => Sys2Proof.Machine.execBcst a0 a1 a2 a3 a4 s
  | .mtch a0 a1 a2 a3 a4 => Sys2Proof.Machine.execMtch a0 a1 a2 a3 a4 s
  | .ld a0 a1 a2 a3 a4 a5 a6 a7 => Sys2Proof.Machine.execLd a0 a1 a2 a3 a4 a5 a6 a7 s
  | .st a0 a1 a2 a3 a4 a5 a6 a7 => Sys2Proof.Machine.execSt a0 a1 a2 a3 a4 a5 a6 a7 s
  | .lds a0 a1 a2 a3 a4 a5 a6 => Sys2Proof.Machine.execLds a0 a1 a2 a3 a4 a5 a6 s
  | .sts a0 a1 a2 a3 a4 a5 a6 => Sys2Proof.Machine.execSts a0 a1 a2 a3 a4 a5 a6 s
  | .atom a0 a1 a2 a3 a4 a5 a6 a7 a8 a9 => Sys2Proof.Machine.execAtom a0 a1 a2 a3 a4 a5 a6 a7 a8 a9 s
  | .atms a0 a1 a2 a3 a4 a5 a6 a7 a8 a9 => Sys2Proof.Machine.execAtms a0 a1 a2 a3 a4 a5 a6 a7 a8 a9 s
  | .pref a0 a1 a2 a3 => Sys2Proof.Machine.execPref a0 a1 a2 a3 s
  | .stgr a0 a1 => Sys2Proof.Machine.execStgr a0 a1 s
  | .pgrq a0 a1 a2 a3 => Sys2Proof.Machine.execPgrq a0 a1 a2 a3 s
  | .dscd a0 a1 a2 a3 a4 => Sys2Proof.Machine.execDscd a0 a1 a2 a3 a4 s
  | .fnce a0 a1 a2 => Sys2Proof.Machine.execFnce a0 a1 a2 s
  | .tgiv a0 a1 => Sys2Proof.Machine.execTgiv a0 a1 s
  | .ttak a0 a1 => Sys2Proof.Machine.execTtak a0 a1 s
  | .tsta a0 a1 a2 => Sys2Proof.Machine.execTsta a0 a1 a2 s
  | .brecLd a0 a1 a2 => Sys2Proof.Machine.execBrecLd a0 a1 a2 s
  | .brecSet a0 a1 a2 => Sys2Proof.Machine.execBrecSet a0 a1 a2 s
  | .lrecLd a0 a1 a2 => Sys2Proof.Machine.execLrecLd a0 a1 a2 s
  | .mcst a0 a1 a2 a3 a4 a5 a6 => Sys2Proof.Machine.execMcst a0 a1 a2 a3 a4 a5 a6 s
  | .wake a0 a1 a2 a3 a4 a5 a6 => Sys2Proof.Machine.execWake a0 a1 a2 a3 a4 a5 a6 s
  | .mma a0 a1 a2 a3 a4 a5 a6 a7 a8 => Sys2Proof.Machine.execMma a0 a1 a2 a3 a4 a5 a6 a7 a8 s
  | .mmsp a0 a1 a2 a3 a4 a5 a6 a7 a8 a9 => Sys2Proof.Machine.execMmsp a0 a1 a2 a3 a4 a5 a6 a7 a8 a9 s
  | .mzro a0 a1 => Sys2Proof.Machine.execMzro a0 a1 s
  | .mrda a0 a1 a2 a3 a4 a5 a6 => Sys2Proof.Machine.execMrda a0 a1 a2 a3 a4 a5 a6 s
  | .mwra a0 a1 a2 a3 a4 a5 a6 => Sys2Proof.Machine.execMwra a0 a1 a2 a3 a4 a5 a6 s
  | .mfnc a0 => Sys2Proof.Machine.execMfnc a0 s
  | .gangForm a0 a1 => Sys2Proof.Machine.execGangForm a0 a1 s
  | .gangDissolve a0 => Sys2Proof.Machine.execGangDissolve a0 s
  | .qput a0 a1 a2 a3 a4 => Sys2Proof.Machine.execQput a0 a1 a2 a3 a4 s
  | .acpy a0 a1 a2 a3 a4 a5 => Sys2Proof.Machine.execAcpy a0 a1 a2 a3 a4 a5 s
  | .bcls a0 => Sys2Proof.Machine.execBcls a0 s
  | .waitb a0 a1 => Sys2Proof.Machine.execWaitb a0 a1 s
  | .qsta a0 a1 a2 => Sys2Proof.Machine.execQsta a0 a1 a2 s
  | .collRs a0 a1 => Sys2Proof.Machine.execCollRs a0 a1 s
  | .collAg a0 a1 => Sys2Proof.Machine.execCollAg a0 a1 s
  | .collA2a a0 a1 => Sys2Proof.Machine.execCollA2a a0 a1 s
  | .collRpart a0 a1 => Sys2Proof.Machine.execCollRpart a0 a1 s
  | .waitWindowExpiry a0 => Sys2Proof.Machine.execWaitWindowExpiry a0 s
  | .responseLand a0 => Sys2Proof.Machine.execResponseLand a0 s
  | .pageWalkComplete a0 a1 a2 => Sys2Proof.Machine.execPageWalkComplete a0 a1 a2 s
  | .recordEventFire a0 => Sys2Proof.Machine.execRecordEventFire a0 s
  | .saggarTimerLapse a0 => Sys2Proof.Machine.execSaggarTimerLapse a0 s
  | .kilnFire a0 => Sys2Proof.Machine.execKilnFire a0 s
  | .saggarSlotFree a0 => Sys2Proof.Machine.execSaggarSlotFree a0 s
  | .poolSpaceFreed a0 => Sys2Proof.Machine.execPoolSpaceFreed a0 s
  | .stageRegionResident a0 => Sys2Proof.Machine.execStageRegionResident a0 s
  | .stageRegionFail a0 a1 => Sys2Proof.Machine.execStageRegionFail a0 a1 s
  | .acpyComplete a0 => Sys2Proof.Machine.execAcpyComplete a0 s
  | .tileLineWritten a0 a1 => Sys2Proof.Machine.execTileLineWritten a0 a1 s
  | .tileHolderComplete a0 => Sys2Proof.Machine.execTileHolderComplete a0 s
  | .matrixStepStart a0 => Sys2Proof.Machine.execMatrixStepStart a0 s
  | .matrixStepReadDone a0 => Sys2Proof.Machine.execMatrixStepReadDone a0 s
  | .matrixStepComplete a0 => Sys2Proof.Machine.execMatrixStepComplete a0 s
  | .matrixAccOpComplete a0 => Sys2Proof.Machine.execMatrixAccOpComplete a0 s
  | .preemptBoundExpiry a0 => Sys2Proof.Machine.execPreemptBoundExpiry a0 s
  | .seglimExpiry a0 => Sys2Proof.Machine.execSeglimExpiry a0 s
  | .hwdogExpiry a0 => Sys2Proof.Machine.execHwdogExpiry a0 s
  | .poolHoldExpiry a0 => Sys2Proof.Machine.execPoolHoldExpiry a0 s
  | .softError a0 a1 => Sys2Proof.Machine.execSoftError a0 a1 s
  | .crewRestore a0 a1 a2 => Sys2Proof.Machine.execCrewRestore a0 a1 a2 s
  | .llcLookup a0 a1 a2 a3 => Sys2Proof.Machine.execLlcLookup a0 a1 a2 a3 s
  | .llcMissFill a0 a1 => Sys2Proof.Machine.execLlcMissFill a0 a1 s
  | .llcPartialWrite a0 a1 a2 => Sys2Proof.Machine.execLlcPartialWrite a0 a1 a2 s
  | .llcWriteback a0 a1 => Sys2Proof.Machine.execLlcWriteback a0 a1 s
  | .l1Recall a0 => Sys2Proof.Machine.execL1Recall a0 s
  | .controllerRead a0 => Sys2Proof.Machine.execControllerRead a0 s
  | .controllerWrite a0 => Sys2Proof.Machine.execControllerWrite a0 s
  | .patrolScrub a0 => Sys2Proof.Machine.execPatrolScrub a0 s
  | .refresh a0 => Sys2Proof.Machine.execRefresh a0 s
  | .congestionLevel a0 a1 => Sys2Proof.Machine.execCongestionLevel a0 a1 s
  | .coneEpoch a0 => Sys2Proof.Machine.execConeEpoch a0 s
  | .beaconArrive a0 => Sys2Proof.Machine.execBeaconArrive a0 s
  | .beaconTimeout => Sys2Proof.Machine.execBeaconTimeout s
  | .flitGroupReceive a0 a1 a2 a3 => Sys2Proof.Machine.execFlitGroupReceive a0 a1 a2 a3 s
  | .groupReplay a0 a1 => Sys2Proof.Machine.execGroupReplay a0 a1 s
  | .linkDown a0 => Sys2Proof.Machine.execLinkDown a0 s
  | .packetAccept a0 a1 => Sys2Proof.Machine.execPacketAccept a0 a1 s
  | .packetComplete a0 => Sys2Proof.Machine.execPacketComplete a0 s
  | .copy a0 => Sys2Proof.Machine.execCopy a0 s
  | .tcopy a0 => Sys2Proof.Machine.execTcopy a0 s
  | .stage a0 => Sys2Proof.Machine.execStage a0 s
  | .fence a0 => Sys2Proof.Machine.execFence a0 s
  | .glzloadLoad a0 => Sys2Proof.Machine.execGlzloadLoad a0 s
  | .glzloadUnload a0 => Sys2Proof.Machine.execGlzloadUnload a0 s
  | .glzloadRead a0 => Sys2Proof.Machine.execGlzloadRead a0 s
  | .glzloadReadclr a0 => Sys2Proof.Machine.execGlzloadReadclr a0 s
  | .glazeDrainDone a0 => Sys2Proof.Machine.execGlazeDrainDone a0 s
  | .rshd a0 => Sys2Proof.Machine.execRshd a0 s
  | .rshdTransferDone a0 a1 => Sys2Proof.Machine.execRshdTransferDone a0 a1 s
  | .rshdTransferFail a0 a1 a2 => Sys2Proof.Machine.execRshdTransferFail a0 a1 a2 s
  | .rshdProgressWrite a0 => Sys2Proof.Machine.execRshdProgressWrite a0 s
  | .coll a0 => Sys2Proof.Machine.execColl a0 s
  | .collSignature a0 a1 a2 a3 => Sys2Proof.Machine.execCollSignature a0 a1 a2 a3 s
  | .collComplete a0 a1 => Sys2Proof.Machine.execCollComplete a0 a1 s
  | .collRpartPacket a0 => Sys2Proof.Machine.execCollRpartPacket a0 s
  | .rpartKeypass a0 => Sys2Proof.Machine.execRpartKeypass a0 s
  | .rpartReduce a0 a1 => Sys2Proof.Machine.execRpartReduce a0 a1 s
  | .rpartRefine a0 a1 => Sys2Proof.Machine.execRpartRefine a0 a1 s
  | .rpartAssign a0 a1 a2 => Sys2Proof.Machine.execRpartAssign a0 a1 a2 s
  | .rpartMoveDone a0 a1 => Sys2Proof.Machine.execRpartMoveDone a0 a1 s
  | .rpartWeightFail a0 => Sys2Proof.Machine.execRpartWeightFail a0 s
  | .launchGrid a0 => Sys2Proof.Machine.execLaunchGrid a0 s
  | .launchNode a0 => Sys2Proof.Machine.execLaunchNode a0 s
  | .launchAdmit a0 => Sys2Proof.Machine.execLaunchAdmit a0 s
  | .indirect a0 => Sys2Proof.Machine.execIndirect a0 s
  | .doorbell a0 a1 => Sys2Proof.Machine.execDoorbell a0 a1 s
  | .queueScan => Sys2Proof.Machine.execQueueScan s
  | .qreg a0 a1 => Sys2Proof.Machine.execQreg a0 a1 s
  | .qregFinish a0 a1 => Sys2Proof.Machine.execQregFinish a0 a1 s
  | .qreset a0 a1 => Sys2Proof.Machine.execQreset a0 a1 s
  | .qunreg a0 a1 => Sys2Proof.Machine.execQunreg a0 a1 s
  | .qunregFinish a0 a1 => Sys2Proof.Machine.execQunregFinish a0 a1 s
  | .invreqRange a0 a1 => Sys2Proof.Machine.execInvreqRange a0 a1 s
  | .invreqWholeAsid a0 a1 => Sys2Proof.Machine.execInvreqWholeAsid a0 a1 s
  | .invalidationComplete a0 => Sys2Proof.Machine.execInvalidationComplete a0 s
  | .pgring a0 a1 => Sys2Proof.Machine.execPgring a0 a1 s
  | .pgringRetry a0 => Sys2Proof.Machine.execPgringRetry a0 s
  | .pgdone a0 a1 => Sys2Proof.Machine.execPgdone a0 a1 s
  | .ctrl a0 a1 => Sys2Proof.Machine.execCtrl a0 a1 s
  | .repring a0 a1 => Sys2Proof.Machine.execRepring a0 a1 s
  | .reportRingRetry a0 => Sys2Proof.Machine.execReportRingRetry a0 s
  | .ctlasid a0 a1 => Sys2Proof.Machine.execCtlasid a0 a1 s
  | .aper a0 a1 a2 => Sys2Proof.Machine.execAper a0 a1 a2 s
  | .registerWriteOther a0 a1 a2 a3 => Sys2Proof.Machine.execRegisterWriteOther a0 a1 a2 a3 s
  | .hostWindowRead a0 a1 a2 => Sys2Proof.Machine.execHostWindowRead a0 a1 a2 s
  | .hostWindowWrite a0 a1 a2 => Sys2Proof.Machine.execHostWindowWrite a0 a1 a2 s
  | .hostWindowAtomicop a0 a1 a2 a3 a4 a5 => Sys2Proof.Machine.execHostWindowAtomicop a0 a1 a2 a3 a4 a5 s
  | .spdmRequest a0 => Sys2Proof.Machine.execSpdmRequest a0 s
  | .grantAsidsOrKeySlots a0 a1 a2 a3 a4 => Sys2Proof.Machine.execGrantAsidsOrKeySlots a0 a1 a2 a3 a4 s
  | .writeAsidEntry a0 a1 a2 a3 => Sys2Proof.Machine.execWriteAsidEntry a0 a1 a2 a3 s
  | .writeOrEmptyKeySlot a0 a1 a2 a3 => Sys2Proof.Machine.execWriteOrEmptyKeySlot a0 a1 a2 a3 s
  | .bindOrUnbindStream a0 a1 a2 a3 => Sys2Proof.Machine.execBindOrUnbindStream a0 a1 a2 a3 s
  | .registerHandler a0 a1 a2 a3 => Sys2Proof.Machine.execRegisterHandler a0 a1 a2 a3 s
  | .registerMulticastGroup a0 a1 a2 a3 a4 => Sys2Proof.Machine.execRegisterMulticastGroup a0 a1 a2 a3 a4 s
  | .poolSize a0 a1 a2 a3 a4 => Sys2Proof.Machine.execPoolSize a0 a1 a2 a3 a4 s
  | .setWeightsAndWatchdogs a0 a1 a2 a3 a4 a5 a6 => Sys2Proof.Machine.execSetWeightsAndWatchdogs a0 a1 a2 a3 a4 a5 a6 s
  | .rackBudget a0 a1 a2 => Sys2Proof.Machine.execRackBudget a0 a1 a2 s
  | .resetInterface a0 a1 a2 => Sys2Proof.Machine.execResetInterface a0 a1 a2 s
  | .updateFirmware a0 a1 a2 a3 a4 => Sys2Proof.Machine.execUpdateFirmware a0 a1 a2 a3 a4 s
  | .suspendLaunch a0 a1 a2 => Sys2Proof.Machine.execSuspendLaunch a0 a1 a2 s
  | .resumeLaunch a0 a1 a2 => Sys2Proof.Machine.execResumeLaunch a0 a1 a2 s
  | .switchInterfaceOut a0 a1 a2 => Sys2Proof.Machine.execSwitchInterfaceOut a0 a1 a2 s
  | .viSwitchedOut a0 => Sys2Proof.Machine.execViSwitchedOut a0 s
  | .switchInterfaceIn a0 a1 a2 => Sys2Proof.Machine.execSwitchInterfaceIn a0 a1 a2 s
  | .adoptDurableLaunches a0 a1 a2 => Sys2Proof.Machine.execAdoptDurableLaunches a0 a1 a2 s
  | .deviceInformation a0 a1 a2 a3 => Sys2Proof.Machine.execDeviceInformation a0 a1 a2 a3 s
  | .leaseTry a0 => Sys2Proof.Machine.execLeaseTry a0 s
  | .leaseRenew a0 => Sys2Proof.Machine.execLeaseRenew a0 s
  | .leaseExpire a0 => Sys2Proof.Machine.execLeaseExpire a0 s
  | .packageReset => Sys2Proof.Machine.execPackageReset s
  | .peerFetch a0 => Sys2Proof.Machine.execPeerFetch a0 s
  | .hbmTrainingDone => Sys2Proof.Machine.execHbmTrainingDone s
  | .linkTrainingDone => Sys2Proof.Machine.execLinkTrainingDone s
  | .imageVerificationDone a0 a1 => Sys2Proof.Machine.execImageVerificationDone a0 a1 s
  | .directoryRecall a0 a1 => Sys2Proof.Machine.execDirectoryRecall a0 a1 s
  | .registerPieceWrite a0 a1 a2 a3 => Sys2Proof.Machine.execRegisterPieceWrite a0 a1 a2 a3 s

end Sys2Proof.Machine
end

