-- ==== Sys2Proof/Machine/Fetch.lean ====
section
/-! DEFINITION. Fetching an instruction word (R25 to R27, R342), the checks of rows 1 to 7 of R48, and what one step of the machine
does: an input or event that is due, the issue of a warp's next instruction, or nothing but the passing of time. -/

namespace Sys2Proof.Machine

/-- What reading the word at an IP comes to (R26). -/
inductive CodeRead where
  | ok (w : CodeWord)
  | nores (va psz : Nat)
  | trap (code detail : Nat)
  | err (detail line : Nat)
deriving DecidableEq, Repr

/-- The first line of some bytes whose data cannot be had, with the cause. -/
def codeErr (s : State) (x : Xlat) (n : Nat) : Option (Nat × Nat) :=
  match x.loc with
  | .host _ => none
  | .dev a => ((vaLines a n).findSome? fun l => (lineErr s x.rep l).map fun e => (e, l))

/-- A page of code translated for fetch: its place, or what stops the fetch. -/
def codePage (s : State) (sp : Space) (va : Nat) : Except CodeRead Xlat :=
  match translate s sp va false true with
  | .malf => .error (.trap 9 0)
  | .prot d => .error (.trap 8 d)
  | .nores psz => .error (.nores va psz)
  | .ok x => .ok x

/-- The word at an IP, which may lie on two pages; the page at the lower address decides first (R26). -/
def readCode (s : State) (sp : Space) (ip : BitVec 48) : CodeRead :=
  let va := 12 * ip.toNat
  let next := (va + 11) / 65536 * 65536
  match codePage s sp va with
  | .error e => e
  | .ok x =>
    let n := if va / 65536 = next / 65536 then 12 else next - va
    match (if n = 12 then .ok x else codePage s sp next) with
    | .error e => e
    | .ok y =>
      match codeErr s x n, codeErr s y (12 - n) with
      | some e, _ | none, some e => .err e.1 e.2
      | none, none => .ok (wordOfBytes (readLocs s x.swz x.loc n ++ readLocs s y.swz y.loc (12 - n)))

/-- The word that a core's instruction buffer holds for an IP of an ASID (R342). -/
def buffered (s : State) (core asid : Nat) (ip : BitVec 48) : Option CodeWord :=
  (s.ibuf.find? fun b => b.core = core && b.asid = asid && b.ip = ip).map (·.word)

/-- Whether a resident warp's frontier refers to the line of a buffered word, which is then not evicted (R342).
Log 24 (DESIGN CHOICE). -/
def lineHeld (s : State) (b : IbufWord) : Bool :=
  (residents s).any fun w => w.core = b.core && w.asid = b.asid && w.entries.any fun e => decide (e.ip.toNat / 16 = b.ip.toNat / 16)

/-- The core, address space and number of a buffered word's code line (R342). -/
def IbufWord.line (b : IbufWord) : Nat × Nat × Nat := (b.core, b.asid, b.ip.toNat / 16)

/-- A code line that no frontier entry refers to, of those that which names, evicted: the manual does not say which of several (R27, R342).
Log 24 (DESIGN CHOICE). -/
def evictCode (s : State) (which : IbufWord → Bool) : State :=
  match ((s.ibuf.filter fun b => which b && !lineHeld s b).map IbufWord.line).dedup with
  | [] => s
  | l :: ls =>
    let x := (l :: ls).getD (Config.victim s.free (ls.length + 1) % (ls.length + 1)) l
    { s with ibuf := s.ibuf.filter fun b => decide (b.line ≠ x), free := s.free + 1 }

/-- Room for a further code line in a core's buffer of 1,365 (R27, R342).
Log 24 (DESIGN CHOICE). -/
def codeRoom (s : State) (core : Nat) : State :=
  let mine := s.ibuf.filter fun b => decide (b.core = core)
  if mine.length < 1365 ∨ ((mine.map IbufWord.line).dedup).length < 1365 then s else evictCode s fun b => decide (b.core = core)

/-- The code line of an IP buffered: its words whose bytes can be read (R26, R342).
Log 24 (DESIGN CHOICE). -/
def bufferLine (s : State) (core : Nat) (sp : Space) (ip : BitVec 48) : State :=
  (List.range 16).foldl (fun t j =>
    let at_ := BitVec.ofNat 48 (ip.toNat / 16 * 16 + j)
    match buffered t core sp.asid at_, readCode t sp at_ with
    | none, .ok w => { t with ibuf := t.ibuf ++ [⟨core, sp.asid, at_, w⟩] }
    | _, _ => t) (codeRoom s core)

/-- Whether a word's opcode is that of a joint instruction: MMA, MMSP or GANG (R246). -/
def jointWord (w : CodeWord) : Bool := decide (w.toNat % 128 ∈ [0x63, 0x64, 0x69])

/-- A word that is no instruction traps (rows 1 to 7 of R48); the members that wait at the latch for a joint instruction trap with it
(R246). -/
def decodeTrap (s : State) (w : CodeWord) (e : DecodeFault) : State :=
  let s := if jointWord w then (match latchWith s s.warp with | some l => breakLatch s l 1 | none => s) else s
  match e with
  | .illop d => takeTrap s 1 d none (curIp s.warp)
  | .rsvd => takeTrap s 2 0 none (curIp s.warp)
  | .badopnd => takeTrap s 3 0 none (curIp s.warp)

/-- A word about to issue: decoded, checked against the launch's register count, and run (R48, R49).
Log 23 (DEDUCED). -/
def runWord (s : State) (w : CodeWord) : Host.Outcome State Fault Refusal :=
  match decode w with
  | .error e => .next (decodeTrap s w e)
  | .ok i => if i.operandsOk s.warp.nreg then exec i s else .next (takeTrap (breakFor s i) 3 0 none (curIp s.warp))

/-- A code line that cannot be read for an error: as a load's (R386). -/
def codeFail (s : State) (detail line : Nat) : State :=
  let w := s.warp
  takeTrap (memReport s w.vi w.launch w.asid line detail) 0x12 detail none (curIp w)

/-- The fetch of a word that is not buffered: the walks of its line's pages are waited for, then the line is read (R26, R116). -/
def fetchWord (s : State) : Host.Outcome State Fault Refusal :=
  let w := s.warp
  let ip := curIp w
  let pages := [lineVa ip, lineVa ip + 191]
  match walksWanted s pages with
  | v :: vs => .next (startWait (startWalks s (v :: vs)) 3 evLine none)
  | [] => match readCode s w.space ip with
    | .ok c => runWord (touchVa (bufferLine s w.core w.space ip) w.vi w.asid (lineVa ip) 192) c
    | .trap code detail => .next (takeTrap s code detail none ip)
    | .err detail line => .next (codeFail s detail line)
    | .nores va psz =>
      let vpn := va / 65536 / pszUnits psz * pszUnits psz
      let ev := SegEnd.at (evPage w.asid vpn) ip
      .next (endSegment (askPage s w.vi w.asid va psz false) { ev with pages := [⟨w.asid, vpn⟩] })

/-- The fetch and issue of the next instruction of the warp at issue, once the stalls of its last one are over (R26, R41, R49). A warp
that a deferred access is to retire ends its segment without fetching (R21). -/
def fetchIssue (s : State) : Host.Outcome State Fault Refusal :=
  let w := s.warp
  let ip := curIp w
  if s.now < w.nextAt then .next s
  else if w.retire then .next (endSegment s (.at evLine ip))
  else match buffered s w.core w.asid ip with
    | some c => runWord s c
    | none => fetchWord s

/-- The environment's choice taken: a warp brought to the issue place, or an eviction; with no choice and an empty issue place, the
first of the others is brought there.
Log 4 (DESIGN CHOICE). -/
def takePick (s : State) : State :=
  match s.pick with
  | 0 :: t => evictCode { s with pick := t } fun _ => true
  | u :: t => focus { s with pick := t } u
  | [] => if s.warp.entries = [] then (match s.bench with | w :: _ => focus s w.uid | [] => s) else s

/-- GTC a nanosecond later: it counts at its nominal rate, and at every 10,000th nanosecond makes up one of those that it is behind
its beacons, or waits for one that it is ahead (R297).
Log 116 (DESIGN CHOICE). -/
def gtcTick (g : Gtc) (ns : Nat) : Gtc :=
  if ns % 10000 ≠ 0 ∨ g.slew = 0 then { g with value := g.value + 1 }
  else if 0 < g.slew then { g with value := g.value + 2, slew := g.slew - 1 }
  else { g with slew := g.slew + 1 }

/-- One cycle of time: the arithmetic clock runs at 4 GHz, and GTC ticks at every fourth cycle (R4, R297).
Log 7 (DESIGN CHOICE), 116 (DESIGN CHOICE). -/
def passCycle (s : State) : State :=
  let n := s.now + 1
  { s with now := n, gtc := if n % 4 = 0 then gtcTick s.gtc (n / 4) else s.gtc }

/-- A step before time passes: the host link first takes the writes of atomics that have waited for it (R282).
Log 4 (DESIGN CHOICE). -/
def act (s : State) : Host.Outcome State Fault Refusal :=
  let s := if s.hostWrites = [] then s else landHost s
  match s.agenda with
  | i :: t => if (encode i).isNone then exec i { s with agenda := t } else .next { s with agenda := t }
  | [] =>
    let s := takePick s
    if s.warp.entries = [] then .next (settle s) else fetchIssue s

/-- A resident warp at IP 0 whose next word is w, in the instruction buffer of core 0: a launch of one warp of every lane and register,
as its kiln would have fired it.
Log 15 (DESIGN CHOICE). -/
def placeWord (s : State) (w : CodeWord) : State :=
  let i : Image :=
    { entry := 0, nreg := 1536, tiles := 0, mx := false, cls := 0, gang := 0, frame := 0, waitwin := 512, timer := 1, recs := 1,
      livetab := 0, brecs := [], lrecs := [], regions := [] }
  let l := { newLaunch s 0 0 i 0 .grid false with threads := 32, closed := true }
  let x : Warp := { Warp.none with
    uid := s.fresh, launch := l.id, entries := [{ ip := 0, mask := BitVec.allOnes 32, prio := 0 }], nreg := 1536 }
  let c : Crew :=
    { launch := l.id, crew := 2 ^ 32 + s.fresh, core := 0, cluster := 0, tiles := [], brec := [], lrec := [], tags := [], vi := 0,
      next := [], ages := 0, gang := [], bars := [], mfence := [], staged := true, saved := false, image := 0, moving := none, savedTiles := [],
      savedAccs := [] }
  setVi { s with
    agenda := [], pick := [], fresh := s.fresh + 1, warp := x, launches := s.launches ++ [l], crews := s.crews ++ [c]
    ibuf := ⟨0, 0, 0, w⟩ :: s.ibuf } 0 fun v => { v with poolSize := v.poolSize + 2 ^ 20 }

end Sys2Proof.Machine
end

