-- ==== Sys2Proof/Machine/Step.lean ====
section
/-! DEFINITION. One step of the machine, and the placing of one instruction word where the next step fetches. -/

namespace Sys2Proof.Machine

/-- One step: an input or event that is due, else the issue of a warp's next instruction; then a cycle of time passes.
Log 7 (DESIGN CHOICE). -/
def step (s : State) : Host.Outcome State Fault Refusal :=
  match act s with
  | .next t => .next (passCycle t)
  | .fault e => .fault e
  | .refused r => .refused r

/-- The instruction whose bits are w placed where the next step fetches.
Log 15 (DESIGN CHOICE). -/
def State.withFetchWord (s : State) (nbits w : Nat) : State := placeWord s (wordOfBytes (bytesOfNat 12 (w % 2 ^ nbits)))

end Sys2Proof.Machine
end

