-- ==== Sys2Proof/Safety.lean ====
section
/-! DEFINITION. The terms in which claims are made: when an instruction issues and runs to its end, what a next state holds, what an
instruction leaves alone, and the form that memory keeps. A safe run is one whose every step keeps memory in its form and whose warps
name no register that still awaits a result (R41, R44). -/

namespace Sys2Proof.Machine

/-- An outcome is a next state, and that state has a property. -/
def Answers (o : Host.Outcome State Fault Refusal) (P : State → Prop) : Prop := ∃ t, o = .next t ∧ P t

/-- Device memory, host memory and scratchpad are in their form. -/
def MemForm (s : State) : Prop := Memory.wf s.mem = true ∧ Memory.wf s.host = true ∧ Memory.wf s.pad = true

/-- The state as an instruction reads it: the slots that it waits for have covered their results, the slot that it names has room, and
results of variable latency may have been found written (R44). -/
def issued (s : State) (c : Ctl) : State := landDues (setWarp s fun w => makeSlot s.now (coverSlots w c) c)

/-- The lanes on which an instruction acts (R10, R39). -/
def acting (s : State) (c : Ctl) : Mask := active (issued s c) c

/-- Nothing holds the issue of the warp's next instruction: it has an entry, it is not to stop, every slot waited for is at zero and
the slot it names has room (R40, R44, R45, R381). -/
structure CanIssue (s : State) (c : Ctl) : Prop where
  entry : s.warp.entries ≠ []
  unmarked : s.warp.marked = false
  keepsCones : s.warp.victim = false
  stays : s.warp.retire = false
  waited : slotsBusy s.now s.warp c = false
  roomy : slotFull s.now s.warp c = false

/-- No result is due to a register that the instruction names, and no register that it writes is still to be read (R41, R44, R47). -/
structure Clear (s : State) (i : Instr) : Prop where
  due : ∀ d ∈ s.warp.due, regCode d.cls d.reg ∉ i.reads ∧ regCode d.cls d.reg ∉ i.writes
  matrix : ∀ m ∈ s.mxOps, m.uid = s.warp.uid → ∀ code ∈ m.instr.writes, code ∉ i.reads ∧ code ∉ i.writes
  late : ∀ l ∈ s.warp.late, ∀ code ∈ i.writes, ¬(l.reg ≤ code ∧ code < l.reg + l.n)

/-- An instruction issues, with some lane active, and meets no hazard. -/
structure Runs (s : State) (i : Instr) (c : Ctl) : Prop where
  can : CanIssue s c
  clear : Clear s i
  lanes : acting s c ≠ 0

/-- A mask has a lane. -/
abbrev HasLane (m : Mask) (k : Nat) : Prop := m.getLsbD k = true

/-- The number of w bits whose bit i is g i. -/
def bitsNat (w : Nat) (g : Nat → Bool) : Nat := (List.range w).foldl (fun a i => if g i then a + 2 ^ i else a) 0

/-- The destination holds the n registers of f: in each lane of the mask for a vector register or a predicate, once for a scalar; p15
and what is no register take nothing (R32, R36). -/
def Wrote (t : State) (m : Mask) (d : Opnd) (n : Nat) (f : Nat → Nat) : Prop :=
  match d with
  | .v r => ∀ k j, HasLane m k → j < n → mget 0 t.warp.v ((r.val + j) * 32 + k) = BitVec.ofNat 32 (f k / 2 ^ (32 * j))
  | .s r => ∀ j, j < n → mget 0 t.warp.sr (r.val + j) = BitVec.ofNat 32 (f (lowLane m) / 2 ^ (32 * j))
  | .p r => r.val ≠ 15 → ∀ k, HasLane m k → (mget 0 t.warp.p r.val).getLsbD k = decide (f k % 2 = 1)
  | _ => True

/-- Registers are unchanged but for those whose codes are listed, in the lanes of the mask. -/
structure RegsKept (s t : State) (m : Mask) (codes : List Nat) : Prop where
  vec : ∀ r k, k < 32 → (r ∉ codes ∨ m.getLsbD k = false) → mget 0 t.warp.v (r * 32 + k) = mget 0 s.warp.v (r * 32 + k)
  scal : ∀ r, 0x600 + r ∉ codes → mget 0 t.warp.sr r = mget 0 s.warp.sr r
  pred : ∀ r k, (0x700 + r ∉ codes ∨ m.getLsbD k = false) → (mget 0 t.warp.p r).getLsbD k = (mget 0 s.warp.p r).getLsbD k

/-- What of a warp no instruction of the register-only families changes: its identity, mode, gang standing, thread registers and what
it holds until its segment ends (R331, R339). -/
structure WarpKept (w x : Warp) : Prop where
  uid : x.uid = w.uid
  core : x.core = w.core
  launch : x.launch = w.launch
  crew : x.crew = w.crew
  wid : x.wid = w.wid
  vi : x.vi = w.vi
  asid : x.asid = w.asid
  helpers : x.helpers = w.helpers
  exited : x.exited = w.exited
  tid : x.tid = w.tid
  join : x.join = w.join
  frame : x.frame = w.frame
  nreg : x.nreg = w.nreg
  cls : x.cls = w.cls
  priv : x.priv = w.priv
  chk : x.chk = w.chk
  gang : x.gang = w.gang
  waitwin : x.waitwin = w.waitwin
  slots : x.slots = w.slots
  sb : x.sb = w.sb
  held : x.held = w.held
  firedAt : x.firedAt = w.firedAt
  hold : x.hold = w.hold
  marked : x.marked = w.marked
  markedAt : x.markedAt = w.markedAt
  victim : x.victim = w.victim
  retire : x.retire = w.retire
  nonReplay : x.nonReplay = w.nonReplay
  kept : x.kept = w.kept

/-- Everything but the warp at issue and the count of free values is unchanged: every memory, every other warp, every table and
register of the device. -/
def OutsideKept (s t : State) : Prop := { t with warp := s.warp, free := s.free } = s

/-- Every byte of every memory reads as before, under every placement. -/
def BytesKept (s t : State) : Prop :=
  (∀ swz a, readDpa t swz a = readDpa s swz a) ∧ (∀ a, mget 0 t.host a = mget 0 s.host a) ∧ ∀ a, mget 0 t.pad a = mget 0 s.pad a

/-- The issuing entry has moved to its next word, the warp issues again after the stall count, and what it waited for is behind it (R41). -/
def MovedOn (s t : State) (c : Ctl) : Prop :=
  t.warp.entries = (advance s c).warp.entries ∧ t.warp.nextAt = s.now + max c.stall.toNat 1 ∧ t.warp.wait = none

/-- The frame of an instruction that writes registers alone. -/
structure RegFrame (s t : State) (i : Instr) (c : Ctl) : Prop where
  outside : OutsideKept s t
  bytes : BytesKept s t
  warp : WarpKept s.warp t.warp
  regs : RegsKept s t (acting s c) i.writes

/-- Wherever an instruction runs, it answers a next state that holds its result of n registers in d, has moved on, and is otherwise
the state before. -/
def Computes (i : Instr) (c : Ctl) (d : Opnd) (n : Nat) (f : State → Mask → Nat → Nat) : Prop :=
  ∀ s, Runs s i c → Answers (exec i s) fun t =>
    Wrote t (acting s c) d n (f (issued s c) (acting s c)) ∧ MovedOn s t c ∧ RegFrame s t i c

/-- Lane k stands at an IP among frontier entries (R340). -/
def StandsAt (l : List Entry) (k : Nat) (ip : BitVec 48) : Prop := ∃ e ∈ l, e.ip = ip ∧ HasLane e.mask k

/-- The word after the issuing entry's (R25). -/
def nextIp (s : State) : BitVec 48 := curIp s.warp + 1

/-- The lanes of the issuing entry that are not in a mask, at the next word (R346). -/
def stayPath (s : State) (m : Mask) : Entry := ⟨nextIp s, entryMask s.warp &&& ~~~m, curPrio s.warp⟩

/-- The entries after a control transfer to some paths that the frontier has room for (R340, R341). -/
def after (s : State) (paths : List Entry) : List Entry :=
  frontier s.warp.helpers (s.warp.entries.drop 1 ++ paths.filter fun e => e.mask ≠ 0)

/-- Wherever a control transfer runs and the frontier has room, the issuing entry gives way to its paths and nothing changes but the
registers that it names. -/
def GoesTo (i : Instr) (c : Ctl) (paths : State → Mask → List Entry) : Prop :=
  ∀ s, Runs s i c → (after s (paths (issued s c) (acting s c))).length ≤ 4 → Answers (exec i s) fun t =>
    t.warp.entries = after s (paths (issued s c) (acting s c)) ∧ t.warp.nextAt = s.now + max c.stall.toNat 1 ∧ t.warp.wait = none ∧
      RegFrame s t i c

/-- Wherever an instruction runs, its segment ends with an event, the issuing entry at an IP, once the pool and the queues have room
(R330). -/
def EndsWith (i : Instr) (c : Ctl) (e : State → Mask → SegEnd) : Prop :=
  ∀ s, Runs s i c → segReady (issued s c) (e (issued s c) (acting s c)) = true →
    exec i s = .next (endSegment (issued s c) (e (issued s c) (acting s c)))

/-- The join decrements that threads of a mask leave, for the segment's end to make (R350). -/
def joinDecs (s : State) (m : Mask) : List Held := (lanesOf m).filterMap fun k =>
  if mget 0 s.warp.join k = 0 then none else some (.joinDec (mget 0 s.warp.join k).toNat s.warp.asid)

/-- The warp's crew is on its core: no save of it has been made (R174). -/
def CrewHere (s : State) : Prop := ∀ q ∈ s.crews, q.launch = s.warp.launch → q.crew = crewKey s.warp → q.saved = false

/-- A load of n bytes at va, as BREC.ld reads (R133), is answered at once, with some bytes, and leaves the state t. -/
def LoadsAs (s : State) (va n al : Nat) (bs : List Byte) (t : State) : Prop := ∀ f, recLoad s va n al false f = f t bs

/-- What SPAWN reads of a table of an image is answered at once, with some bytes, and leaves the state t (R349). -/
def TableAs (s : State) (tab : Nat × Nat) (bs : List Byte) (t : State) : Prop := ∀ f, tableLoad s tab f = f t bs

/-- A header or record at va, read from byte off on as QPUT reads a header (R176), is answered at once, with some bytes, and leaves the
state t. -/
def HeadAs (s : State) (va off n : Nat) (bs : List Byte) (t : State) : Prop := ∀ f, headLoad s va off n f = f t bs

/-- What a warp holds when its segment may or may not be run again is otherwise the same (R280). -/
def WarpKeptButReplay (w x : Warp) : Prop := WarpKept { w with nonReplay := x.nonReplay, kept := x.kept } x

/-- A core's L1 has room for n more lines in each of its sets (R13). -/
def L1Room (s : State) (core n : Nat) : Prop :=
  ∀ i, (s.l1.filter fun l => decide (l.core = core) && decide (Config.l1Set l.line = i)).length + n ≤ 16

/-- The set of a slice that a line belongs to has n ways free (R99). -/
def SetRoom (s : State) (line n : Nat) : Prop := ((s.llc.map (·.1)).filter fun l => sameSet s l line).length + n ≤ 24

/-- No request waits for room at its controller (R75, R102). -/
def NoneWaits (s : State) : Prop := s.wbufs = [] ∧ s.waitReqs = []

/-- Nothing is left for a settling to do but to wake records: no put waits for room, no crew is to be saved or to leave (R174, R176,
R351). -/
def Calm (s : State) : Prop := s.puts = [] ∧ ∀ k ∈ s.crews, saveWanted s k = false ∧ ∀ p, k.moving ≠ some (2, p)

/-- The warp waits for an event at its instruction, and is to go on at an IP once it has come (R335). -/
def WaitsFor (t : State) (ev : DWord) (resume : Option (BitVec 48)) : Prop := t.warp.wait = some ev ∧ t.warp.resume = resume

/-- A record holds a lane's thread as the warp had it: its place, its registers and what it belongs to (R331). -/
structure Holds (r : Rec) (w : Warp) (k : Nat) : Prop where
  lane : HasLane r.mask k
  launch : r.launch = w.launch
  crew : r.crew = w.crew
  wid : r.wid = w.wid
  cls : r.cls = w.cls
  nreg : r.nreg = w.nreg
  frame : r.frame = w.frame
  join : r.join = mget 0 w.join k
  tid : mget 0 r.tid k = mget 0 w.tid k
  scal : r.sr = w.sr
  vec : ∀ n ∈ r.regs, mget 0 r.v (n * 32 + k) = mget 0 w.v (n * 32 + k)

/-- Every byte of a line reads as before through the placement under which the line is on its way, and every byte of any other line
through any placement. -/
def LinesKept (s t : State) : Prop :=
  (∀ a swz, (missOf t (a / 128) = missOf s (a / 128) ∨ ∃ m, missOf t (a / 128) = some m ∧ m.swz = swz) →
    readDpa t swz a = readDpa s swz a) ∧ (∀ a, mget 0 t.host a = mget 0 s.host a) ∧ ∀ a, mget 0 t.pad a = mget 0 s.pad a

/-- The state after an instruction whose own part leaves u: its results are recorded as due and its entry has moved on (R41). -/
def done (s : State) (i : Instr) (c : Ctl) (u : State) : State := advance (recordDue (issued s c) i c (acting s c) u) c

/-- The number of the first byte of a physical tile of a core in the scratchpads (R181). -/
def tileBase (core phys : Nat) : Nat := core * 2 ^ 21 + phys * 16384

/-- A report that firmware made in a step (R394). -/
def Reported (s t : State) (vi kind launch asid : Nat) (addr data : DWord) : Prop :=
  ({ vi := vi, kind := kind, launch := launch, asid := asid, gtc := s.gtc.value, addr := addr, data := data } : Report) ∈ t.reports

/-- A record still stands under its number, and has a property. -/
def RecNow (t : State) (rid : Nat) (P : Rec → Prop) : Prop := ∃ q ∈ t.recs, q.rid = rid ∧ P q

/-- The bytes of a line read as before under every placement. -/
def LineKept (s t : State) (line : Nat) : Prop :=
  ∀ swz i, i < 128 → readDpa t swz (line * 128 + i) = readDpa s swz (line * 128 + i)

/-- A packet stands in a state, with a status. -/
def PktIs (t : State) (pid : Nat) (st : PktState) (status : Byte) : Prop :=
  ∃ p, findPkt t pid = some p ∧ p.st = st ∧ p.status = status

/-- A packet of a kind is taken up: it is the first that may start, or has started, and its header is good (R154, R157). -/
structure TakesUp (s : State) (p : Packet) (kind : Nat) : Prop where
  found : findPkt s p.pid = some p
  kind : pktKind p = kind
  runnable : badKind p = false
  turn : (p.st = .accepted ∧ canStart s p = true ∧ headBad p = false) ∨ p.st = .started

/-- QDONE reports the end of a request of an interface with a result, for a header VA (R156). -/
def Qdone (t : State) (vi req result hva : Nat) : Prop :=
  let d := (viOf t vi).qdone
  d.getLsbD 63 = true ∧ dbits d 59 56 = result ∧ dbits d 55 52 = req ∧ dbits d 51 0 = hva

/-- A firmware request is taken and is the next of its interface, while a leader holds the lease; t is the state in which it is carried
out (R391, R393, R396). -/
structure Serves (s : State) (i : Instr) (vi : Nat) (seq : BitVec 40) (code : Nat) (t : State) : Prop where
  ready : s.boot.ready = true
  taken : takeReq s vi seq code i = some t
  led : leaderOf t ≠ none
  next : isNext t vi seq = true

/-- A firmware request finishes: MBDONE holds its SEQ and status, it is not carried out again, and the state has a property (R393). -/
def Finishes (i : Instr) (s : State) (vi : Nat) (seq : BitVec 40) (status : Nat) (P : State → Prop) : Prop :=
  Answers (exec i s) fun u => (viOf u vi).mbdone = BitVec.ofNat 64 (seq.toNat + status * 2 ^ 56) ∧ seq ∈ (viOf u vi).served ∧
    (∀ r ∈ u.fwReqs, ¬(r.vi = vi ∧ r.seq = seq)) ∧ P u

/-- A firmware request that must wait stays the next of its interface (R393). -/
def Waits (i : Instr) (s : State) (vi : Nat) (seq : BitVec 40) (P : State → Prop) : Prop :=
  Answers (exec i s) fun u => (∃ r ∈ u.fwReqs, r.vi = vi ∧ r.seq = seq ∧ r.op = i) ∧ P u

end Sys2Proof.Machine
end

