-- ==== Sys2Proof/Certificates/Slice0/Obligations.lean ====
section
/-! DEFINITION. The statements to be proved about the machine. Each docstring names what of the spec it formalises. -/

open Sys2Proof Sys2Proof.Machine

/-! Registers: integer, logic and move instructions. -/

/-- R211: IADD and ISUB, wrapping or saturated to the type, and ADDC with its carry-out. -/
def Obligations.IntegerSums : Prop :=
  (∀ c t d a b, t ∈ i4 →
    Computes (.iadd c t false d a b) c d t.regs (fun s m k => ((srcInt s m t a k + srcInt s m t b k) % 2 ^ t.width).toNat) ∧
    Computes (.isub c t false d a b) c d t.regs (fun s m k => ((srcInt s m t a k - srcInt s m t b k) % 2 ^ t.width).toNat) ∧
    Computes (.iadd c t true d a b) c d t.regs
      (fun s m k => (max (loOf t) (min (hiOf t) (srcInt s m t a k + srcInt s m t b k)) % 2 ^ t.width).toNat) ∧
    Computes (.isub c t true d a b) c d t.regs
      (fun s m k => (max (loOf t) (min (hiOf t) (srcInt s m t a k - srcInt s m t b k)) % 2 ^ t.width).toNat)) ∧
  ∀ c t sub (cp : Fin 16) (r : Fin 1536) a b ci s, t ∈ n2 → Runs s (.addc c t sub cp (.v r) a b ci) c →
    Answers (exec (.addc c t sub cp (.v r) a b ci) s) fun u =>
      (let m := acting s c
       let x := fun k => (srcBits (issued s c) m a t.regs k : Int)
       let y := fun k => (srcBits (issued s c) m b t.regs k : Int)
       let cin := fun k => ((srcBits (issued s c) m ci 1 k % 2 : Nat) : Int)
       let v := fun k => if sub then x k - y k - cin k else x k + y k + cin k
       Wrote u m (.v r) t.regs (fun k => (v k % 2 ^ t.width).toNat) ∧
       Wrote u m (.p cp) 1 (fun k => if v k < 0 ∨ 2 ^ t.width ≤ v k then 1 else 0)) ∧
      MovedOn s u c ∧ RegFrame s u (.addc c t sub cp (.v r) a b ci) c

/-- R212: products, exact before they are reduced. -/
def Obligations.IntegerProducts : Prop :=
  ∀ c t d a b e, t ∈ i4 →
    Computes (.imul c t d a b) c d t.regs (fun s m k => (srcInt s m t a k * srcInt s m t b k % 2 ^ t.width).toNat) ∧
    Computes (.imulh c t d a b) c d t.regs
      (fun s m k => (srcInt s m t a k * srcInt s m t b k / 2 ^ t.width % 2 ^ t.width).toNat) ∧
    Computes (.imad c t false d a b e) c d t.regs
      (fun s m k => ((srcInt s m t a k * srcInt s m t b k + srcInt s m t e k) % 2 ^ t.width).toNat) ∧
    (t.width = 32 → Computes (.imad c t true d a b e) c d 2
      (fun s m k => ((srcInt s m t a k * srcInt s m t b k + (srcBits s m e 2 k : Int)) % 2 ^ 64).toNat))

/-- R213: the lesser and the greater, the magnitude, and the logic operations bit by bit. -/
def Obligations.MinMaxLogic : Prop :=
  (∀ c t d a b, t ∈ i4 →
    Computes (.imin c t d a b) c d t.regs
      (fun s m k => if srcInt s m t a k ≤ srcInt s m t b k then srcBits s m a t.regs k else srcBits s m b t.regs k) ∧
    Computes (.imax c t d a b) c d t.regs
      (fun s m k => if srcInt s m t b k ≤ srcInt s m t a k then srcBits s m a t.regs k else srcBits s m b t.regs k)) ∧
  (∀ c t d a, t ∈ [Fmt.i32, .i64] →
    Computes (.iabs c t false d a) c d t.regs (fun s m k => ((max (srcInt s m t a k) (-srcInt s m t a k)) % 2 ^ t.width).toNat) ∧
    Computes (.iabs c t true d a) c d t.regs
      (fun s m k => min (srcInt s m t a k).natAbs (2 ^ (t.width - 1) - 1))) ∧
  ∀ c t nb d a b, t ∈ n2 →
    let notb := fun (y : Nat) => if nb then 2 ^ t.width - 1 - y else y
    Computes (.and c t nb d a b) c d t.regs (fun s m k => srcBits s m a t.regs k &&& notb (srcBits s m b t.regs k)) ∧
    Computes (.or c t nb d a b) c d t.regs (fun s m k => srcBits s m a t.regs k ||| notb (srcBits s m b t.regs k)) ∧
    Computes (.xor c t nb d a b) c d t.regs (fun s m k => srcBits s m a t.regs k ^^^ notb (srcBits s m b t.regs k))

/-- R214: shifts by any count of 32 bits, and rotations by the count modulo the width. -/
def Obligations.ShiftsAndRotations : Prop :=
  (∀ c t d a b, t ∈ n2 →
    Computes (.shl c t d a b) c d t.regs (fun s m k =>
      if srcBits s m b 1 k < t.width then srcBits s m a t.regs k * 2 ^ srcBits s m b 1 k % 2 ^ t.width else 0) ∧
    Computes (.shr c t d a b) c d t.regs (fun s m k =>
      if srcBits s m b 1 k < t.width then srcBits s m a t.regs k / 2 ^ srcBits s m b 1 k else 0) ∧
    Computes (.rot c t false d a b) c d t.regs (fun s m k =>
      let x := srcBits s m a t.regs k
      let n := srcBits s m b 1 k % t.width
      x * 2 ^ n % 2 ^ t.width + x / 2 ^ (t.width - n)) ∧
    Computes (.rot c t true d a b) c d t.regs (fun s m k =>
      let x := srcBits s m a t.regs k
      let n := srcBits s m b 1 k % t.width
      x / 2 ^ n + x * 2 ^ (t.width - n) % 2 ^ t.width)) ∧
  ∀ c t d a b, t ∈ [Fmt.i32, .i64] →
    Computes (.shr c t d a b) c d t.regs (fun s m k =>
      let x := srcInt s m t a k
      ((if srcBits s m b 1 k < t.width then x / 2 ^ srcBits s m b 1 k else if x < 0 then -1 else 0) % 2 ^ t.width).toNat)

/-- R215: bit counts, reversal, and the bit fields of BFX and BFI, each bit of the result named. -/
def Obligations.BitFields : Prop :=
  (∀ c t d a, t ∈ n2 →
    Computes (.popc c t d a) c d 1 (fun s m k => ((List.range t.width).filter fun i => (srcBits s m a t.regs k).testBit i).length) ∧
    Computes (.clz c t d a) c d 1 (fun s m k =>
      if srcBits s m a t.regs k = 0 then t.width else t.width - 1 - (srcBits s m a t.regs k).log2) ∧
    Computes (.brev c t d a) c d t.regs (fun s m k => bitsNat t.width fun i => (srcBits s m a t.regs k).testBit (t.width - 1 - i))) ∧
  (∀ c t x d a b, t ∈ i4 → Computes (.bfx c t x d a b) c d t.regs (fun s m k =>
    let v := srcBits s m a t.regs k
    let ctl := bfxCtl s m x b k
    let len := min (ctl / 256 % 256) t.width
    let f := fun j => if ctl % 256 + j < t.width then v.testBit (ctl % 256 + j) else t.signed && v.testBit (t.width - 1)
    bitsNat t.width fun j => decide (len ≠ 0) && (if j < len then f j else t.signed && f (len - 1)))) ∧
  ∀ c t d a b e, t ∈ n2 → Computes (.bfi c t d a b e) c d t.regs (fun s m k =>
    let ctl := srcBits s m e 1 k
    let p := min (ctl % 256) t.width
    let len := min (ctl / 256 % 256) (t.width - p)
    bitsNat t.width fun j =>
      if p ≤ j ∧ j < p + len then (srcBits s m b t.regs k).testBit (j - p) else (srcBits s m a t.regs k).testBit j)

/-- R216 and R217: ICMP, SEL, LEA and the truth table of PLOP. -/
def Obligations.CompareSelectAddress : Prop :=
  (∀ c t d a b, t ∈ i4 →
    let cmp := fun (q : ICmpKind) (r : Int → Int → Bool) =>
      Computes (.icmp c t q d a b) c d 1 (fun s m k => if r (srcInt s m t a k) (srcInt s m t b k) then 1 else 0)
    cmp .eq (fun x y => decide (x = y)) ∧ cmp .ne (fun x y => decide (x ≠ y)) ∧ cmp .lt (fun x y => decide (x < y)) ∧
    cmp .le (fun x y => decide (x ≤ y)) ∧ cmp .gt (fun x y => decide (x > y)) ∧ cmp .ge (fun x y => decide (x ≥ y))) ∧
  (∀ c t d a b e, t ∈ n2 → Computes (.sel c t d a b e) c d t.regs (fun s m k =>
    if srcBits s m e 1 k ≠ 0 then srcBits s m a t.regs k else srcBits s m b t.regs k)) ∧
  (∀ c d a b,
    let lea := fun (q : LeaScale) (x : Int) => Computes (.lea c q d a b) c d 2 (fun s m k =>
      (((srcBits s m a 2 k : Int) + (BitVec.ofNat 32 (srcBits s m b 1 k)).toInt * x) % 2 ^ 64).toNat)
    lea .x1 1 ∧ lea .x2 2 ∧ lea .x4 4 ∧ lea .x8 8 ∧ lea .x16 16) ∧
  ∀ c tt d (pa pb pc : Fin 16), Computes (.plop c tt d (.p pa) (.p pb) (.p pc)) c d 1 (fun s _ k =>
    let bit := fun (q : Fin 16) => if (rdP s q.val).getLsbD k then 1 else 0
    if tt.getLsbD (4 * bit pa + 2 * bit pb + bit pc) then 1 else 0)

/-- R218, R219 and R223: moves, long immediates, packing, and moves between predicates and registers. -/
def Obligations.MovesAndPacking : Prop :=
  (∀ c t d a, t ∈ n2 → Computes (.mov c t d a) c d t.regs (fun s m k => srcBits s m a t.regs k)) ∧
  (∀ c t d imm, t ∈ n2 → Computes (.moviLo c t d imm) c d t.regs (fun _ _ _ => (imm.toInt % 2 ^ t.width).toNat)) ∧
  (∀ c t h d imm, t ∈ n2 → (t = .n64 ∨ h.toNat < 2) → Computes (.moviHi c t h d imm) c d t.regs (fun s m k =>
    bitsNat t.width fun j =>
      if 16 * h.toNat ≤ j ∧ j < 16 * h.toNat + 16 then imm.getLsbD (j - 16 * h.toNat) else (srcBits s m d t.regs k).testBit j)) ∧
  (∀ c t d a b, t.width = 16 → t ∈ packTypes → Computes (.pack c t d a b none) c d 1 (fun s m k =>
    srcBits s m a 1 k % 2 ^ 16 + srcBits s m b 1 k % 2 ^ 16 * 2 ^ 16)) ∧
  (∀ c t d a b e, t.width = 8 → t ∈ packTypes → Computes (.pack c t d a b (some e)) c d 1 (fun s m k =>
    srcBits s m a 1 k % 2 ^ 8 + srcBits s m b 1 k % 2 ^ 8 * 2 ^ 8 + srcBits s m e 1 k % 2 ^ 16 * 2 ^ 16)) ∧
  (∀ c t d a b, t ∈ packTypes → Computes (.unpk c t d a b) c d 1 (fun s m k =>
    bitsNat t.width fun j => (srcBits s m a 1 k).testBit (t.width * (srcBits s m b 1 k % (32 / t.width)) + j))) ∧
  (∀ c d (q : Fin 16), Computes (.pmovTomask c d (.p q)) c d 1 (fun s _ _ => (rdP s q.val).toNat)) ∧
  ∀ c d a, Computes (.pmovTopred c d a) c d 1 (fun s m k => if (srcBits s m a 1 k).testBit k then 1 else 0)

/-! Registers: lane exchange. -/

/-- R221, R222, R223 and R225: what each lane takes from the other lanes of its warp.
R222 and R224: the reductions over a quad and over the warp by their fixed trees, and the running sums. -/
def Obligations.LaneExchangeAndReductions : Prop :=
  ((∀ c t q g (r : Fin 1536) (ra : Fin 1536) b (pr : Fin 16) s, t ∈ n2 → Runs s (.shfl c t q g (.v r) (.v ra) b (.p pr)) c →
    Answers (exec (.shfl c t q g (.v r) (.v ra) b (.p pr)) s) fun u =>
      (let m := acting s c
       let i := issued s c
       let n := segLanes g
       let base := fun (k : Nat) => k - k % n
       let o := fun k => srcBits i m b 1 k
       let j := fun (k : Nat) => match q with
         | .idx => base k + o k % n
         | .up => k - o k
         | .down => k + o k
         | .xor => base k + ((k - base k) ^^^ (o k % n))
       let valid : Nat → Bool := fun k => match q with
         | .idx | .xor => true
         | .up => decide (o k ≤ k - base k)
         | .down => decide (k + o k < base k + n)
       Wrote u m (.v r) t.regs (fun k =>
         if valid k = true ∧ HasLane m (j k) then srcBits i m (.v ra) t.regs (j k) else srcBits i m (.v ra) t.regs k) ∧
       Wrote u m (.p pr) 1 (fun k => if valid k = true ∧ HasLane m (j k) then 1 else 0)) ∧
      MovedOn s u c ∧ RegFrame s u (.shfl c t q g (.v r) (.v ra) b (.p pr)) c) ∧
  (∀ c t q d a, t ∈ n2 → Computes (.qswp c t q d a) c d t.regs (fun s m k =>
    let j := k ^^^ (match q with | .h => 1 | .v => 2 | .d => 3)
    srcBits s m a t.regs (if HasLane m j then j else k))) ∧
  (∀ c d (q : Fin 16),
    let part := fun (s : State) (m : Mask) => m &&& ~~~s.warp.helpers
    Computes (.vote c .some d (.p q)) c d 1 (fun s m _ =>
      if ∃ k : Fin 32, HasLane (part s m) k ∧ HasLane (rdP s q.val) k then 1 else 0) ∧
    Computes (.vote c .every d (.p q)) c d 1 (fun s m _ =>
      if ∀ k : Fin 32, HasLane (part s m) k → HasLane (rdP s q.val) k then 1 else 0) ∧
    Computes (.vote c .same d (.p q)) c d 1 (fun s m _ =>
      if ∀ k j : Fin 32, HasLane (part s m) k → HasLane (part s m) j →
        (HasLane (rdP s q.val) k ↔ HasLane (rdP s q.val) j) then 1 else 0) ∧
    Computes (.vote c .mask d (.p q)) c d 1 (fun s m _ => (rdP s q.val &&& part s m).toNat)) ∧
  (∀ c t d a b, t ∈ n2 → Computes (.bcst c t d a b) c d t.regs (fun s m k =>
    let j := srcBits s m b 1 k
    if j < 32 ∧ HasLane (m &&& ~~~s.warp.helpers) j then srcBits s m a t.regs j else 0)) ∧
  ∀ c t d a, t ∈ n2 →
    Computes (.mtch c t false d a) c d 1 (fun s m k => bitsNat 32 fun j =>
      (m &&& ~~~s.warp.helpers).getLsbD j && decide (srcBits s m a t.regs j = srcBits s m a t.regs k)) ∧
    Computes (.mtch c t true d a) c d 1 (fun s m _ =>
      let part := m &&& ~~~s.warp.helpers
      if ∀ j k : Fin 32, HasLane part j → HasLane part k → srcBits s m a t.regs j = srcBits s m a t.regs k
      then part.toNat else 0)) ∧
  (let part := fun (s : State) (m : Mask) => m &&& ~~~s.warp.helpers
  let node := fun (f : Nat → Nat → Nat) (x y : Option Nat) => match x, y with
    | some x, some y => some (f x y)
    | some x, none => some x
    | none, y => y
  (∀ c t op rm d a, t ∈ [Fmt.i32, .n32, .f32] → Computes (.qred c t op rm d a) c d 1 (fun s m k =>
    let q := fun (j : Nat) => if HasLane m (k / 4 * 4 + j) then some (srcBits s m a 1 (k / 4 * 4 + j)) else none
    let f := redOp t (match op with | .add => .add | .min => .min | .max => .max) rm
    (node f (node f (q 0) (q 1)) (node f (q 2) (q 3))).getD 0)) ∧
  (∀ c t op rm d a, t ∈ [Fmt.i32, .n32, .f32, .f64] → Computes (.lred c t op rm d a) c d t.regs (fun s m _ =>
    let l0 := fun (j : Nat) => if HasLane (part s m) j then some (srcBits s m a t.regs j) else none
    let up := fun (l : Nat → Option Nat) (j : Nat) => node (redOp t op rm) (l (2 * j)) (l (2 * j + 1))
    (up (up (up (up (up l0)))) 0).getD (lredIdentity t op))) ∧
  ∀ c t x rm d a, t ∈ [Fmt.i32, .n32, .f32] → Computes (.prfx c t x rm d a) c d 1 (fun s m k =>
    let takes := fun (j : Nat) => decide (HasLane (part s m) j) && (decide (j < k) || (decide (j = k) && !x))
    ((List.range 32).foldl (fun (r : Option Nat) j =>
      if takes j then some (match r with
        | none => srcBits s m a 1 j
        | some y => redOp t .add rm y (srcBits s m a 1 j)) else r) none).getD 0))

/-! Registers: floating point. -/

/-- R228, R231, R235 and R238 to R240: sums of exact terms rounded once, component by component for the complex forms. -/
def Obligations.FloatSums : Prop :=
  (∀ c t rm d a b e, t ∈ f4 →
    let sums := fun (i : Instr) (ts : State → Mask → Nat → List Machine.Num) =>
      Computes i c d t.regs (fun s m k => fsum (ffOf t) rm (ts s m k))
    sums (.fadd c t rm d a b) (fun s m k => [srcNum s m t a k, srcNum s m t b k]) ∧
    sums (.fsub c t rm d a b) (fun s m k => [srcNum s m t a k, (srcNum s m t b k).neg]) ∧
    sums (.fmul c t rm d a b) (fun s m k => [(srcNum s m t a k).mul (srcNum s m t b k)]) ∧
    sums (.ffma c t rm d a b e) (fun s m k => [(srcNum s m t a k).mul (srcNum s m t b k), srcNum s m t e k]) ∧
    sums (.fscl c t rm d a b) (fun s m k => [sclNum (srcNum s m t a k) (BitVec.ofNat 32 (srcBits s m b 1 k)).toInt])) ∧
  ∀ c t rm q d a b e s, t ∈ [Fmt.f32, .f64] →
    let re := fun (o : Opnd) (j : Nat) (k : Nat) => srcZ (issued s c) (acting s c) t o (2 * j) k
    let im := fun (o : Opnd) (j : Nat) (k : Nat) => srcZ (issued s c) (acting s c) t o (2 * j + 1) k
    let gives := fun (i : Instr) (parts : List (Nat → List Machine.Num)) => i.wf 1536 = true → Runs s i c → Answers (exec i s) fun u =>
      (∀ j, j < parts.length →
        Wrote u (acting s c) (Opnd.plus d (j * t.regs)) t.regs (fun k => fsum (ffOf t) rm (parts.getD j (fun _ => []) k))) ∧
      MovedOn s u c ∧ RegFrame s u i c
    let cim := fun k => if q then (im b 0 k).neg else im b 0 k
    Computes (.fdt2 c t rm q d a b) c d t.regs (fun s m k =>
      let y := (srcZ s m t a 1 k).mul (srcZ s m t b 1 k)
      fsum (ffOf t) rm [(srcZ s m t a 0 k).mul (srcZ s m t b 0 k), if q then y.neg else y]) ∧
    gives (.cmul c t rm q d a b)
      [fun k => [(re a 0 k).mul (re b 0 k), ((im a 0 k).mul (cim k)).neg],
       fun k => [(re a 0 k).mul (cim k), (im a 0 k).mul (re b 0 k)]] ∧
    gives (.cfma c t rm q d a b e)
      [fun k => [(re a 0 k).mul (re b 0 k), ((im a 0 k).mul (cim k)).neg, re e 0 k],
       fun k => [(re a 0 k).mul (cim k), (im a 0 k).mul (re b 0 k), im e 0 k]] ∧
    gives (.bfly c t rm d a b e)
      [fun k => [re a 0 k, (re e 0 k).mul (re b 0 k), ((im e 0 k).mul (im b 0 k)).neg],
       fun k => [im a 0 k, (re e 0 k).mul (im b 0 k), (im e 0 k).mul (re b 0 k)],
       fun k => [re a 0 k, ((re e 0 k).mul (re b 0 k)).neg, (im e 0 k).mul (im b 0 k)],
       fun k => [im a 0 k, ((re e 0 k).mul (im b 0 k)).neg, ((im e 0 k).mul (re b 0 k)).neg]] ∧
    gives (.bfl4 c t rm q d a b)
      ((List.range 8).map fun z => fun k =>
        let turn := fun (y : List Machine.Num × List Machine.Num) =>
          if q then (y.2.map Machine.Num.neg, y.1) else (y.2, y.1.map Machine.Num.neg)
        let term := fun (j : Nat) => if j = 0 then ([re a 0 k], [im a 0 k]) else
          ([(re b (j - 1) k).mul (re a j k), ((im b (j - 1) k).mul (im a j k)).neg],
           [(re b (j - 1) k).mul (im a j k), (im b (j - 1) k).mul (re a j k)])
        let ts := (List.range 4).flatMap fun j =>
          let w := Nat.iterate turn (j * (z / 2)) (term j)
          if z % 2 = 0 then w.1 else w.2
        ts)

/-- R232 to R234: the lesser and the greater operand bit for bit, comparison with its unordered case, and classification. -/
def Obligations.FloatChoices : Prop :=
  ∀ c t d a b, t ∈ f4 →
    let f := ffOf t
    let x := fun s m k => srcF s m t a k
    let y := fun s m k => srcF s m t b k
    let pick := fun (nan : Bool) (first : Machine.Num → Machine.Num → Bool) (p q : Nat) =>
      if (numOf f p).isNan ∧ (numOf f q).isNan then canonNan f
      else if (numOf f p).isNan then (if nan then canonNan f else q)
      else if (numOf f q).isNan then (if nan then canonNan f else p)
      else if first (numOf f p) (numOf f q) then p else q
    (∀ nan, Computes (.fmin c t nan d a b) c d t.regs (fun s m k => pick nan (fun p q => !q.below p) (x s m k) (y s m k))) ∧
    (∀ nan, Computes (.fmax c t nan d a b) c d t.regs (fun s m k => pick nan (fun p q => !p.below q) (x s m k) (y s m k))) ∧
    (let cmp := fun (q : FCmpKind) (unordered : Bool) (r : Int → Bool) =>
      Computes (.fcmp c t q d a b) c d 1 (fun s m k =>
        let p := numOf f (x s m k)
        let z := numOf f (y s m k)
        if (if p.isNan || z.isNan then unordered else r (p.cmp z)) then 1 else 0)
     cmp .eq false (fun o => decide (o = 0)) ∧ cmp .ne true (fun o => decide (o ≠ 0)) ∧ cmp .lt false (fun o => decide (o < 0)) ∧
     cmp .le false (fun o => decide (o ≤ 0)) ∧ cmp .gt false (fun o => decide (o > 0)) ∧ cmp .ge false (fun o => decide (o ≥ 0)) ∧
     cmp .un true (fun _ => false) ∧ cmp .ord false (fun _ => true)) ∧
    Computes (.fcls c t d a b) c d 1 (fun s m k =>
      let cls := match numOf f (x s m k) with
        | .inf n => if n then 0 else 7
        | .nan => if x s m k / 2 ^ (f.fb - 1) % 2 = 0 then 8 else 9
        | .fin n p _ =>
          if p = 0 then (if n then 3 else 4)
          else if x s m k / 2 ^ f.fb % 2 ^ f.eb = 0 then (if n then 2 else 5)
          else (if n then 1 else 6)
      if (srcBits s m b 1 k).testBit cls then 1 else 0)

/-- R235 to R237 and R241: results rounded once from the exact value, special operands included; those that R237 leaves to one of two
values are one of the two.
Where the manual leaves a point open, the model's choice is stated: log 25, 26, 27. -/
def Obligations.FloatFunctions : Prop :=
  (∀ c t rm d a b, t ∈ f4 →
    let rounds := fun (i : Instr) (v : State → Mask → Nat → Machine.Num) =>
      Computes i c d t.regs (fun s m k => roundNum (ffOf t) rm (v s m k))
    rounds (.fdiv c t rm d a b) (fun s m k => divNum (srcNum s m t a k) (srcNum s m t b k)) ∧
    rounds (.frcp c t rm d a) (fun s m k => divNum (.fin false 1 1) (srcNum s m t a k)) ∧
    rounds (.frsq c t rm d a) (fun s m k => rsqrtOf (srcNum s m t a k)) ∧
    rounds (.fsqrt c t rm d a) (fun s m k => sqrtOf (srcNum s m t a k)) ∧
    Computes (.frnd c t rm d a) c d t.regs (fun s m k =>
      match srcNum s m t a k with
      | .nan => canonNan (ffOf t)
      | .inf _ => srcF s m t a k
      | .fin n p q => if p = 0 then srcF s m t a k else
        let z := roundInt rm (.fin n p q)
        roundNum (ffOf t) .rne (.fin n z.natAbs 1))) ∧
  (∀ c t d a, t ∈ [Fmt.f32, .f16] →
    let gives := fun (i : Instr) (v : Machine.Num → Machine.Num) => ∃ up : Nat → Bool, Computes i c d t.regs (fun s m k =>
      match v (srcNum s m t a k) with
      | .fin n p q =>
        if t = .f16 then roundNum fp16 .rne (.fin n p q) else bracket fp32 (up (srcF s m t a k)) (.fin n p q)
      | x => roundNum (ffOf t) .rne x)
    gives (.fex2 c t d a) exp2Of ∧ gives (.flg2 c t d a) log2Of ∧ gives (.fsin c t d a) sinOf ∧ gives (.fcos c t d a) cosOf) ∧
  ∀ c t rm d a b s, t ∈ [Fmt.f32, .f64] → Instr.wf 1536 (.twid c t rm d a b) = true → Runs s (.twid c t rm d a b) c →
    Answers (exec (.twid c t rm d a b) s) fun u =>
      (let l := fun k => srcBits (issued s c) (acting s c) b 1 k
       let j := fun k => srcBits (issued s c) (acting s c) a 1 k % 2 ^ l k
       let part := fun (v : Nat → Machine.Num) (k : Nat) =>
         if 24 < l k then canonNan (ffOf t) else roundNum (ffOf t) rm (if (v k).isZero then .fin false 0 1 else v k)
       Wrote u (acting s c) d t.regs (part fun k => cosPi (2 * j k) (2 ^ l k)) ∧
       Wrote u (acting s c) (Opnd.plus d t.regs) t.regs (part fun k => (sinPi (2 * j k) (2 ^ l k)).neg)) ∧
      MovedOn s u c ∧ RegFrame s u (.twid c t rm d a b) c

/-- R242 to R244: conversions between the types, saturating where the rule says so, and the block conversion across the warp.
Where the manual leaves a point open, the model's choice is stated: log 28. -/
def Obligations.Conversions : Prop :=
  (∀ c t src rm sat d a, t ≠ .untyped → src ≠ .untyped →
    let ints := fun (v : State → Mask → Nat → Int) => Computes (.cvt c t src rm sat d a none) c d t.regs (fun s m k =>
      let lo := if t = .w8 then -128 else loOf t
      let hi := if t = .w8 then 127 else hiOf t
      let x := v s m k
      ((if src.isFloat ∨ sat ∨ t = .w8 then max lo (min hi x) else x) % 2 ^ t.width).toNat)
    (t.isFloat = false → src.isFloat = false → ints (fun s m k => (elemNum src (cvtSrc s m src a k)).frac.1)) ∧
    (t.isFloat = false → src.isFloat = true → ints (fun s m k =>
      match elemNum src (cvtSrc s m src a k) with
      | .nan => 0
      | .inf n => if n then -(2 ^ 70) else 2 ^ 70
      | x => roundInt rm x))) ∧
  (∀ c t src rm d a rb, t.isFloat = true → src ≠ .untyped → (rb.isSome = true → src.isFloat = true ∧ t ≠ .f64 ∧ rm = .rne) →
    let f := ffOf t
    let rnd : State → Mask → Nat → Machine.Num → Nat := fun s m k => match rb with
      | none => roundNum f rm
      | some o => srndNum f (srcBits s m o 1 k)
    Computes (.cvt c t src rm false d a rb) c d t.regs (fun s m k => rnd s m k (elemNum src (cvtSrc s m src a k))) ∧
    Computes (.cvt c t src rm true d a rb) c d t.regs (fun s m k =>
      let v := elemNum src (cvtSrc s m src a k)
      let r := rnd s m k v
      if f.finite ∨ v.isNan then r
      else if ¬v.isFin ∨ r % 2 ^ (f.w - 1) = infCode f then withSign f v.sign (maxCode f) else r)) ∧
  (∀ c src sat d a o, src.isFloat = true → Computes (.cvt c .w8 src .rne sat d a (some o)) c d 1 (fun s m k =>
    ((match elemNum src (cvtSrc s m src a k) with
      | .nan => 0
      | .inf n => if n then -128 else 127
      | x => max (-128) (min 127 (srndInt (srcBits s m o 1 k) x))) % 2 ^ 8).toNat)) ∧
  ∀ c t src rm (r : Fin 1536) a rb s, r.val + 1 < 1536 → Runs s (.cvtBlk c t src rm (.v r) a rb) c →
    Answers (exec (.cvtBlk c t src rm (.v r) a rb) s) fun u =>
      (let m := acting s c
       let part := m &&& ~~~s.warp.helpers
       let xs := (List.range 32).map fun k => if HasLane part k then srcNum (issued s c) m src a k else .fin false 0 1
       let rbs := rb.map fun o => (List.range 32).map fun k => srcBits (issued s c) m o 1 k
       let q := if t = .w8 then blkW8 rm rbs xs else blkK8 (ffOf t) rm rbs xs
       Wrote u m (.v r) 1 (fun k => if HasLane part k then q.2.getD k 0 else 0) ∧
       Wrote u m (.v (Fin.ofNat 1536 (r.val + 1))) 1 (fun _ => q.1)) ∧
      MovedOn s u c ∧ RegFrame s u (.cvtBlk c t src rm (.v r) a rb) c

/-! Instruction words. -/

/-- R23 to R40: words written out from their fields are the instructions that they stand for; a sanity statement. -/
def Obligations.WordsDecode : Prop :=
  let always : Ctl := { gneg := false, gpred := 15, wmask := 0, wslot := 0, stall := 1, yld := false }
  decode 0x06880005900200180500042E =
      .ok (.ffma { gneg := true, gpred := 2, wmask := 3, wslot := 2, stall := 4, yld := false } .f32 .rne (.v 10) (.v 3) (.v 4) (.v 5)) ∧
  decode 0x000000007800000000000781 = .ok (.nop { always with stall := 0 }) ∧
  decode 0x000200007800003000010783 = .ok (.jumpLane always 2 (.v 6)) ∧
  decode 0x00020000780000000015078F = .ok (.trap always 0x2A) ∧
  decode 0x004200007800000305000191 = .ok (.srd { always with wslot := 1 } true 0 (.s 10)) ∧
  decode 0x000C000C780500401400043F = .ok (.bfly { always with stall := 6 } .f32 .rne (.v 40) (.v 8) (.v 10) (.v 12)) ∧
  decode 0x00020000185030F0004087EA = .ok (.qput { always with gpred := 3 } .pk true (.s 30) (.v 160)) ∧
  decode 0 = .ok .ill

/-- R23, R28, R31, R34 to R40: the word of a well-formed instruction decodes to that instruction, with every operand, variant, guard
and hint at every value that the encoding admits.
Where the manual leaves a point open, the model's choice is stated: log 21, 22. -/
def Obligations.DecodeEncode : Prop :=
  ∀ i : Instr, i.wf 1536 = true → (i.ctl ≠ none → ∃ w, encode i = some w) ∧ ∀ w, encode i = some w → decode w = .ok i

/-- R24: a word that decodes has no bit that its instruction does not show: it is the instruction's one word.
R48: words that are no instruction, in the order of its rows: an opcode that is not defined, the reserved guard, and the fields
that a form does not use.
Where the manual leaves a point open, the model's choice is stated: log 21, 22. -/
def Obligations.EncodeDecodeAndReservedWords : Prop :=
  (∀ w i, decode w = .ok i → encode i = some w) ∧
  ((∀ w : CodeWord, 0x70 ≤ w.toNat % 128 → decode w = .error (.illop 2)) ∧
  (∀ (w : CodeWord) i, decode w = .ok i → w ≠ 0 → w.toNat / 2 ^ 59 % 32 ≠ 31) ∧
  (∀ w : CodeWord, w ≠ 0 → w.toNat % 128 = 0 → decode w = .error (.illop 3)) ∧
  ∀ (w : CodeWord) i, decode w = .ok i → i.guardOk = true ∧ i.formOk = true)

/-! Steps. -/

/-- R25, R26, R27, R342, R48, R49: with no event due and no stall left, a step runs the instruction whose word the core's instruction
buffer holds at the warp's IP, or, where it holds none and no walk is to be waited for, the word read from code memory, whose line it then
holds; a cycle of time passes. A warp whose stall is not over issues nothing (R41). Writes of atomics that the host link holds land first
(R282).
R4, R297: an event that is due is what the step does; and a cycle of time passes at each step, GTC counting every
fourth, and by two or by none at every 40,000th while it is behind or ahead of its beacons.
Where the manual leaves a point open, the model's choice is stated: log 4, 7, 24, 116. -/
def Obligations.StepRunsDecoded : Prop :=
  (∀ s w i t, s.agenda = [] → s.pick = [] → s.hostWrites = [] → s.warp.entries ≠ [] → s.warp.nextAt ≤ s.now → s.warp.retire = false →
    decode w = .ok i → i.operandsOk s.warp.nreg = true →
    (buffered s s.warp.core s.warp.asid (curIp s.warp) = some w → exec i s = .next t → step s = .next (passCycle t)) ∧
    (buffered s s.warp.core s.warp.asid (curIp s.warp) = none →
      walksWanted s [lineVa (curIp s.warp), lineVa (curIp s.warp) + 191] = [] → readCode s s.warp.space (curIp s.warp) = .ok w →
      exec i (touchVa (bufferLine s s.warp.core s.warp.space (curIp s.warp)) s.warp.vi s.warp.asid (lineVa (curIp s.warp)) 192)
        = .next t → step s = .next (passCycle t)) ∧
    ∀ x, translate s s.warp.space (12 * (curIp s.warp).toNat) false true = .ok x →
      12 * (curIp s.warp).toNat / 65536 = (12 * (curIp s.warp).toNat + 11) / 65536 → codeErr s x 12 = none →
      readCode s s.warp.space (curIp s.warp) = .ok (wordOfBytes (readLocs s x.swz x.loc 12))) ∧
  (∀ s, s.agenda = [] → s.pick = [] → s.hostWrites = [] → s.warp.entries ≠ [] → s.now < s.warp.nextAt → step s = .next (passCycle s)) ∧
  (∀ s, step s = step (landHost s) ∧ (landHost s).hostWrites = []) ∧
  ((∀ s i l t, s.agenda = i :: l → s.hostWrites = [] → encode i = none → exec i { s with agenda := l } = .next t →
    step s = .next (passCycle t)) ∧
  ∀ t, (passCycle t).now = t.now + 1 ∧ (passCycle t).mem = t.mem ∧ (passCycle t).warp = t.warp ∧
    ((t.now + 1) % 4 ≠ 0 → (passCycle t).gtc = t.gtc) ∧
    ((t.now + 1) % 4 = 0 → t.gtc.slew = 0 ∨ (t.now + 1) % 40000 ≠ 0 → (passCycle t).gtc = { t.gtc with value := t.gtc.value + 1 }) ∧
    ((t.now + 1) % 40000 = 0 → 0 < t.gtc.slew →
      (passCycle t).gtc = { t.gtc with value := t.gtc.value + 2, slew := t.gtc.slew - 1 }) ∧
    ((t.now + 1) % 40000 = 0 → t.gtc.slew < 0 → (passCycle t).gtc = { t.gtc with slew := t.gtc.slew + 1 }))

/-- Every instruction and event has a next state: no step stops the machine.
Where the manual leaves a point open, the model's choice is stated: log 8, 9. -/
def Obligations.StepAnswers : Prop :=
  (∀ i s, ∃ t, exec i s = .next t) ∧ ∀ s, ∃ t, step s = .next t

/-- R48, R49, R372: a word that is no instruction, and an instruction that names a register past the launch's, traps where it stands
with the code of its row and without any effect of its own; the members that wait at a rendezvous latch for a joint one trap with it (R246).
R39, R345: where the guard leaves no lane of the entry active, an instruction only moves on, and a retired warp fetches no more
(R21).
Where the manual leaves a point open, the model's choice is stated: log 23. -/
def Obligations.BadWordsAndEmptySets : Prop :=
  (∀ s w, s.agenda = [] → s.pick = [] → s.hostWrites = [] → s.warp.entries ≠ [] → s.warp.nextAt ≤ s.now → s.warp.retire = false →
    buffered s s.warp.core s.warp.asid (curIp s.warp) = some w →
    let u := if jointWord w = true then (latchWith s s.warp).elim s fun l => breakLatch s l 1 else s
    (∀ d, decode w = .error (.illop d) → step s = .next (passCycle (takeTrap u 1 d none (curIp u.warp)))) ∧
    (decode w = .error .rsvd → step s = .next (passCycle (takeTrap u 2 0 none (curIp u.warp)))) ∧
    (decode w = .error .badopnd → step s = .next (passCycle (takeTrap u 3 0 none (curIp u.warp)))) ∧
    (∀ i, decode w = .ok i → i.operandsOk s.warp.nreg = false →
      step s = .next (passCycle (takeTrap (breakFor s i) 3 0 none (curIp s.warp)))) ∧
    (decode w = .ok .ill → step s = .next (passCycle (takeTrap s 1 1 none (curIp s.warp))))) ∧
  ((∀ i c s, i.ctl = some c → CanIssue s c → acting s c = 0 → s.gangs = [] →
    (∀ x p o, i ≠ .braAll x p o) → exec i s = .next (advance (issued s c) c)) ∧
  ∀ s, s.agenda = [] → s.pick = [] → s.hostWrites = [] → s.warp.entries ≠ [] → s.warp.nextAt ≤ s.now → s.warp.retire = true →
    step s = .next (passCycle (endSegment s (.at evLine (curIp s.warp)))))

/-! Control. -/

/-- R340: the frontier holds each IP once, in issue order: the highest priority first and the lowest IP among equals; no lane moves to
another IP, entries of helper lanes alone go, and of merged entries the higher priority is kept.
R341, R347: when the paths of a transfer are too many, those kept are at most four entries and every lane either stands in one of
them or in a path that is dropped; the dropped lanes, and at SPLIT those of every other entry, become LANE records at their path's IP
and priority, READY. -/
def Obligations.FrontierAndSpills : Prop :=
  (∀ h l, ((frontier h l).map (·.ip)).Nodup ∧ (frontier h l).Pairwise (fun a b => entryBefore a b = true) ∧
    (∀ k ip, StandsAt (frontier h l) k ip ↔ StandsAt l k ip ∧ ∃ j, ¬HasLane h j ∧ StandsAt l j ip) ∧
    ∀ e ∈ frontier h l, (∃ x ∈ l, x.ip = e.ip ∧ x.prio = e.prio) ∧ ∀ x ∈ l, x.ip = e.ip → x.prio ≤ e.prio) ∧
  ((∀ w paths, (w.entries.drop 1).length ≤ 3 → paths ≠ [] →
    (splitPaths w paths).1.length ≤ 4 ∧
    ∀ k ip, ¬HasLane w.helpers k → StandsAt (w.entries.drop 1 ++ paths) k ip →
      StandsAt (splitPaths w paths).1 k ip ∨ StandsAt (splitPaths w paths).2 k ip) ∧
  ∀ c s, Runs s (.split c) c →
    let rs := spillRecs (issued s c) (s.warp.entries.drop 1)
    let room := roomFor s s.warp.launch (rs.foldl (fun n r => n + recSize (laneCount r.mask) r.regs.length) 0)
    (inGang s s.warp = true → exec (.split c) s = .next (takeTrap (issued s c) 4 2 none (curIp s.warp))) ∧
    (inGang s s.warp = false → rs ≠ [] → room = false → exec (.split c) s = .next (holdWarp (issued s c) true)) ∧
    (inGang s s.warp = false → (rs = [] ∨ room = true) → ∃ t, exec (.split c) s = .next t ∧
      t.warp.entries = frontier s.warp.helpers [{ ip := nextIp s, mask := entryMask s.warp, prio := curPrio s.warp }] ∧
      t.warp.nextAt = s.now + max c.stall.toNat 1 ∧ t.warp.v = s.warp.v ∧ t.warp.sr = s.warp.sr ∧ t.warp.p = s.warp.p ∧
      ∀ k e, ¬HasLane s.warp.helpers k → k < 32 → (s.warp.entries.drop 1).find? (fun e => e.mask.getLsbD k) = some e →
        ∃ r ∈ t.recs, Holds r s.warp k ∧ (∀ n, (mget 0 r.p n).getLsbD k = (mget 0 s.warp.p n).getLsbD k) ∧ r.kind = .lane ∧
          r.mask = laneBit k ∧ r.code = e.ip ∧ r.prio = e.prio ∧ r.event = evReady))

/-- R346: where the lanes of an entry go at each branch, jump, call and return, and the return IP that a call writes. -/
def Obligations.Branches : Prop :=
  ∀ c prio off d a,
    let two := fun (s : State) (m : Mask) (t : BitVec 48) => [(⟨t, m, prio⟩ : Entry), stayPath s m]
    let rel := fun (s : State) => curIp s.warp + BitVec.ofInt 48 off.toInt
    let perLane := fun (s : State) (m : Mask) =>
      (lanesOf m).map (fun k => (⟨BitVec.ofNat 48 (srcBits s m a 2 k), laneBit k, prio⟩ : Entry)) ++ [stayPath s m]
    GoesTo (.braRel c prio off) c (fun s m => two s m (rel s)) ∧
    GoesTo (.braAny c prio off) c (fun s _ => [⟨rel s, entryMask s.warp, prio⟩]) ∧
    GoesTo (.jumpLane c prio a) c perLane ∧
    GoesTo (.jumpWarp c prio a) c (fun s m => two s m (BitVec.ofNat 48 (pairS s a))) ∧
    GoesTo (.callRel c prio d off) c (fun s m => two s m (rel s)) ∧
    GoesTo (.callS c prio d a) c (fun s m => two s m (BitVec.ofNat 48 (pairS s a))) ∧
    GoesTo (.ret c prio a) c perLane ∧
    (∀ s, CanIssue s c → Clear s (.braAll c prio off) →
      (acting s c ≠ entryMask s.warp → Answers (exec (.braAll c prio off) s) fun t =>
        MovedOn s t c ∧ RegFrame s t (.braAll c prio off) c) ∧
      (acting s c = entryMask s.warp → (after s [⟨rel s, entryMask s.warp, prio⟩]).length ≤ 4 →
        Answers (exec (.braAll c prio off) s) fun t =>
          t.warp.entries = after s [⟨rel s, entryMask s.warp, prio⟩] ∧ RegFrame s t (.braAll c prio off) c)) ∧
    ∀ i s, i ∈ [Instr.callRel c prio d off, .callS c prio d a] → Runs s i c → (∃ r, d = .v r) →
      ((after s (two (issued s c) (acting s c) (match i with | .callRel .. => rel s | _ => BitVec.ofNat 48 (pairS (issued s c) a)))).length
        ≤ 4) → Answers (exec i s) fun t => Wrote t (acting s c) d 2 fun _ => (nextIp s).toNat

/-- R348, R347: YIELD and the waits end the segment, the issuing entry resuming at the next word with the event of the variant and its
key.
R330, R331: a segment end leaves a record for every non-helper lane of every entry: the issuing entry's at the IP and with the
event of its cause, every other entry's at its own IP, READY; and the warp is gone.
Where the manual leaves a point open, the model's choice is stated: log 59, 64, 70. -/
def Obligations.SegmentWaitsAndRecords : Prop :=
  (∀ c, EndsWith (.yield c) c (fun s _ => .at 0 (nextIp s)) ∧
    (∀ b, EndsWith (.waiteBatch c b) c (fun s m => .at (eventOf 2 (s.warp.wid * 16 + min 8 (srcBits s m b 1 0))) (nextIp s))) ∧
    (∀ bar cl a, EndsWith (.waiteBar c bar cl a) c (fun s m =>
      .at (eventOf 5 ((BitVec.ofNat 32 (srcBits s m a 1 0)).toNat * 32 + (if cl then 16 else 0) + bar.toNat)) (nextIp s))) ∧
    (∀ a, EndsWith (.waiteColl c a) c (fun s m => .at (eventOf 8 (srcBits s m a 1 0)) (nextIp s))) ∧
    (∀ a s, Runs s (.waiteGtc c a) c →
      let t := pairS (issued s c) a
      (t < 2 ^ 60 → segReady (issued s c) (.at (eventOf 6 t) (nextIp s)) = true →
        exec (.waiteGtc c a) s = .next (endSegment (issued s c) (.at (eventOf 6 t) (nextIp s)))) ∧
      (2 ^ 60 ≤ t → exec (.waiteGtc c a) s = .next (takeTrap (issued s c) 3 7 none (curIp s.warp)))) ∧
    (∀ x s, Runs s (.waiteTile c x) c →
      (∀ p, tileOfOp (issued s c) x = .ok p →
        segReady (issued s c) (.at (eventOf 1 (3 * 2 ^ 21 + p.1 * 2 ^ 14 + p.2)) (nextIp s)) = true →
        exec (.waiteTile c x) s
          = .next (endSegment (issued s c) (.at (eventOf 1 (3 * 2 ^ 21 + p.1 * 2 ^ 14 + p.2)) (nextIp s)))) ∧
      ∀ e, tileOfOp (issued s c) x = .error e → exec (.waiteTile c x) s = .next (takeTrap (issued s c) e.1 e.2 none (curIp s.warp))) ∧
    (∀ a s, Runs s (.waiteJoin c a) c →
      let u := issued s c
      let va := pairS u a
      (va % 8 ≠ 0 → exec (.waiteJoin c a) s = .next (takeTrap u 7 0 none (curIp s.warp))) ∧
      (va % 8 = 0 → walksWanted u [va] = [] → ∀ x, translate u s.warp.space va false false = .ok x →
        let v := tlbTouch u s.warp.vi s.warp.asid va
        (∀ dpa, x.loc = .dev dpa →
          let e : SegEnd := { SegEnd.at (eventOf 4 (dpa / 8)) (nextIp s) with swz := x.swz }
          segReady v e = true → exec (.waiteJoin c a) s = .next (endSegment v e)) ∧
        ∀ hpa, x.loc = .host hpa →
          let e := if natOfBytes (readLocs v x.swz (.host hpa) 8) = 0 then SegEnd.at 0 (nextIp s) else .at 0 (curIp s.warp)
          segReady v e = true → exec (.waiteJoin c a) s = .next (endSegment v e))) ∧
    (∀ cond w64 br b r s, Runs s (.waiteWord c cond w64 br b r) c →
      let i := Instr.waiteWord c cond w64 br b r
      let u := issued s c
      let n := if w64 then 8 else 4
      let q := { slotRec u br with clamp := false }
      let el := srcBits u (acting s c) b 1 0
      let code := match cond with | .eq => 0 | .ne => 1 | .geu => 2 | .ltu => 3 | .ges => 4 | .lts => 5
      (∀ x, streamCheck u s.warp.vi q.glz false = some x → exec i s = .next (takeTrap u 0xB x none (curIp s.warp))) ∧
      (streamCheck u s.warp.vi q.glz false = none → walksWanted u (laneVas q el 0 n) = [] →
        (∀ x y, checkLane u q el 0 n false = .fail x y → exec i s = .next (takeTrap u x y none (curIp s.warp))) ∧
        ∀ va m x l dpa, checkLane u q el 0 n false = .ok ((va, m, x) :: l) → x.loc = .dev dpa →
          let v := touchLanes u [(0, .ok ((va, m, x) :: l))]
          let e : SegEnd := { SegEnd.at (eventOf 3 ((if w64 then 2 ^ 57 else 0) + code * 2 ^ 54 + dpa / 4)) (nextIp s) with
            cmp := BitVec.ofNat 64 (srcBits u (acting s c) r (n / 4) 0), swz := x.swz }
          segReady v e = true → exec i s = .next (endSegment v e))) ∧
    ∀ br b s, Runs s (.waitePage c br b) c →
      let i := Instr.waitePage c br b
      let u := issued s c
      let q := { slotRec u br with clamp := false }
      let el := srcBits u (acting s c) b 1 0
      (∀ x, streamCheck u s.warp.vi q.glz false = some x → exec i s = .next (takeTrap u 0xB x none (curIp s.warp))) ∧
      (streamCheck u s.warp.vi q.glz false = none → walksWanted u (laneVas q el 0 4) = [] →
        (∀ x y, checkLane u q el 0 4 false = .fail x y → exec i s = .next (takeTrap u x y none (curIp s.warp))) ∧
        (∀ ws, checkLane u q el 0 4 false = .ok ws → segReady (touchLanes u [(0, .ok ws)]) (.at 0 (nextIp s)) = true →
          exec i s = .next (endSegment (touchLanes u [(0, .ok ws)]) (.at 0 (nextIp s)))) ∧
        ∀ va p, checkLane u q el 0 4 false = .nores va p →
          let pg : Page := ⟨s.warp.asid, va / 65536 / pszUnits p * pszUnits p⟩
          let e : SegEnd := { SegEnd.at (eventOf 7 (pg.asid * 2 ^ 36 + pg.vpn)) (nextIp s) with pages := [pg] }
          let v := askPage u s.warp.vi s.warp.asid va p false
          segReady v e = true → exec i s = .next (endSegment v e))) ∧
  (∀ s e, segReady s e = true → (∀ k p, e.dest = some (k, p) → k < 2) →
    (∀ k ∈ s.crews, k.moving = none) → (∀ q ∈ s.recs, ∀ p, q.place ≠ .leaving p) →
    (endSegment s e).warp.entries = [] ∧
    ∀ j x k, s.warp.entries[j]? = some x → HasLane x.mask k → ¬HasLane s.warp.helpers k →
      ∃ r ∈ (endSegment s e).recs, Holds r s.warp k ∧ r.prio = x.prio ∧
        (e.pgrq = [] → (∀ q ∈ s.recs, q.pgrq = []) → ∀ n, (mget 0 r.p n).getLsbD k = (mget 0 s.warp.p n).getLsbD k) ∧
        (j = 0 → r.code = e.ip ∧ r.event = e.event ∧ r.tinfo = e.tinfo ∧ (e.all = true → r.regs = List.range s.warp.nreg) ∧
          (e.kind = .trap → r.kind = .trap)) ∧
        (j ≠ 0 → r.code = x.ip ∧ r.event = evReady))

/-- R347, R350: EXIT takes its lanes out of the entry for good, their join decrements held, and a warp left with no entry ends its
segment; JOINC holds the decrements and the lanes run on with JOIN 0.
R352: the lanes of a barrier instruction arrive at the open instance, or at the next where their threads have arrived; an instance
completes once its arrivals equal the live threads, which opens the next; BAR.post writes the generation at which the lanes arrived and
goes on, and BAR.wait goes on or waits for that instance.
Where the manual leaves a point open, the model's choice is stated: log 60. -/
def Obligations.ExitsAndBarriers : Prop :=
  (∀ c s, Runs s (.exit c) c →
    let part := acting s c &&& ~~~s.warp.helpers
    let left := frontier s.warp.helpers (stayPath s (acting s c) :: s.warp.entries.drop 1)
    let gone := fun (u : State) => u.warp.exited = s.warp.exited ||| part ∧ u.warp.held = s.warp.held ++ joinDecs s part ∧
      u.warp.entries = left ∧ u.warp.v = s.warp.v ∧ u.warp.sr = s.warp.sr ∧ u.warp.p = s.warp.p ∧
      (s.puts = [] → u.mem = s.mem ∧ u.host = s.host)
    (left ≠ [] → ∃ u, exec (.exit c) s = .next (dissolveDead u) ∧ gone u ∧ u.warp.nextAt = s.now + max c.stall.toNat 1) ∧
    (left = [] → ∃ u, gone u ∧
      (segReady u (.at evReady 0) = true → exec (.exit c) s = .next (dissolveDead (endSegment u (.at evReady 0)))))) ∧
  (∀ c s, Runs s (.joinc c) c →
    let part := acting s c &&& ~~~s.warp.helpers
    ∃ t, exec (.joinc c) s = .next t ∧ t.warp.held = s.warp.held ++ joinDecs s part ∧
      (∀ k, mget 0 t.warp.join k = if HasLane part k then 0 else mget 0 s.warp.join k) ∧ MovedOn s t c ∧
      RegFrame s { t with warp := { t.warp with held := s.warp.held, join := s.warp.join } } (.joinc c) c) ∧
  ∀ c (bar : BitVec 4) cl s k, crewAt s s.warp.launch (crewKey s.warp) = some k → CrewHere s →
    let x := barOf (barSet s s.warp cl) bar.toNat
    let ids := tidsOf s.warp (acting s c &&& ~~~s.warp.helpers)
    let n := barThreads s s.warp cl
    let late := ids.filter fun t => decide (t ∈ x.now)
    let g := if late = [] then x.gen else x.gen + 1
    let pass := fun (y : Barrier) => if n ≠ 0 ∧ n ≤ y.now.length then { gen := y.gen + 1, now := y.next, next := [] } else y
    let z := pass (pass { x with now := x.now ++ ids.filter (fun t => decide (t ∉ x.now)), next := x.next ++ late })
    let twice := ∃ t ∈ ids, t ∈ x.now ∧ t ∈ x.next
    (∀ d, Runs s (.barPost c bar cl d) c →
      (¬twice → ∃ t, exec (.barPost c bar cl d) s = .next t ∧ barOf (barSet t t.warp cl) bar.toNat = z ∧
        Wrote t (acting s c) d 1 (fun _ => g.toNat) ∧ MovedOn s t c ∧ RegsKept s t (acting s c) (Instr.barPost c bar cl d).writes) ∧
      (twice → s.warp.waitwin ≠ 0 → Answers (exec (.barPost c bar cl d) s) fun t =>
        t.warp.entries = s.warp.entries ∧ t.warp.wait = some (barEvent x.gen cl bar) ∧ t.warp.resume = none)) ∧
    (Runs s (.barWait c bar cl) c →
      (s.warp.resume = none → ¬twice →
        (barDone z.gen g = true → ∃ t, exec (.barWait c bar cl) s = .next t ∧ barOf (barSet t t.warp cl) bar.toNat = z ∧
          MovedOn s t c ∧ RegsKept s t (acting s c) []) ∧
        (barDone z.gen g = false → s.warp.waitwin ≠ 0 → Answers (exec (.barWait c bar cl) s) fun t =>
          barOf (barSet t t.warp cl) bar.toNat = z ∧ t.warp.entries = s.warp.entries ∧ t.warp.wait = some (barEvent g cl bar) ∧
          t.warp.resume = some (nextIp s) ∧ RegsKept s t (acting s c) [])) ∧
      ∀ h ip, s.warp.wait = some (barEvent h cl bar) → s.warp.resume = some ip → barDone x.gen h = true →
        ∃ t, exec (.barWait c bar cl) s = .next t ∧ MovedOn s t c ∧ RegFrame s t (.barWait c bar cl) c)

/-- R349: SPAWN admits a child launch of one thread for each lane that is no helper, whose LANE records hold the arguments and wait for
the segment's end; a VA that is not aligned, or has an upper bit set (R110), and an image or region that is refused trap.
Where the manual leaves a point open, the model's choice is stated: log 62. -/
def Obligations.Spawns : Prop :=
  ∀ c na d a b s,
    let body := fun (i : Instr) (regs : List Nat) =>
      let u := issued s c
      let part := acting s c &&& ~~~s.warp.helpers
      let iv := pairS u a
      let jv := match d with | .s _ => pairS u d | _ => 0
      let traps := fun (code detail : Nat) => exec i s = .next (takeTrap u code detail none (curIp s.warp))
      Runs s i c →
      (iv % 64 ≠ 0 ∨ jv % 8 ≠ 0 → traps 7 0) ∧
      (iv % 64 = 0 → jv % 8 = 0 → 2 ^ 52 ≤ iv ∨ 2 ^ 52 ≤ jv → traps 8 5) ∧
      ∀ bs u1, iv % 64 = 0 → jv % 8 = 0 → iv < 2 ^ 52 → jv < 2 ^ 52 → LoadsAs u iv 64 64 bs u1 →
        let x := natOfBytes bs
        let img0 := imageOf x
        let bad := imageBad x = true ∨ img0.tiles ≠ 0 ∨ img0.gang ≠ 0 ∨ img0.frame ≠ 0 ∨ img0.nreg < na.toNat ∨ 1536 < vecNum b + na.toNat
        (bad → traps 3 7) ∧
        ∀ rs u2 own ts u3 img, ¬bad → TableAs u1 (imageTables x).1 rs u2 → imageRegions x rs = some own →
          TableAs u2 (imageTables x).2 ts u3 → imageRecs x own ts = some img →
          let refused := regs.any fun r => regionBad r || (regionOf16 r).tile.isSome
          (refused = true → traps 0xA 0) ∧
          (refused = false → part ≠ 0 → canReserve u3 s.warp.vi (reservation img 0) = true →
            Answers (exec i s) fun t => ∃ l ∈ t.launches, ∃ rids, l.mode = .spawn ∧
              l.vi = s.warp.vi ∧ l.asid = s.warp.asid ∧ l.chk = s.warp.chk ∧ l.threads = laneCount part ∧ l.closed = true ∧
              l.image = { img with regions := img.regions ++ regs.map fun x => { regionOf16 x with user := s.warp.space.user } } ∧
              t.warp.held = s.warp.held ++ [.spawn l.id jv rids] ∧ MovedOn s t c ∧
              ∀ j, j < laneCount part → ∃ r ∈ t.recs, r.rid ∈ rids ∧ r.kind = .lane ∧ r.launch = l.id ∧ r.crew = none ∧
                r.code = img.entry ∧ mget 0 r.tid 0 = BitVec.ofNat 32 j ∧ r.join = BitVec.ofNat 64 jv ∧ r.cls = img.cls ∧ r.prio = 0 ∧
                r.nreg = img.nreg ∧ r.livemap = BitVec.ofNat 16 (0xFF00 + na.toNat) ∧
                ∀ q, q < na.toNat → mget 0 r.v (q * 32) = rdV u3 (vecNum b + q) ((lanesOf part).getD j 0))
    body (.spawnNode c na d a b) [] ∧
    ∀ k r, body (.spawnStage c na k d a b r) ((List.range (k.toNat + 1)).map fun i => (List.range 4).foldl (fun n j =>
      n + srcBits (issued s c) (acting s c) (Opnd.plus r (4 * i + j)) 1 0 * 2 ^ (32 * j)) 0)

/-- R354: REFILL claims one index for each finished lane from the counter, in lane order; the lanes below the limit get theirs and their
predicate is cleared, the others exit; with a counter line that cannot answer at once the warp waits for the value (R15, R335).
R351: FWD of a crew-free launch ends the segment and sends its records to a core, a sector or another package; a crew is marked to move
there with every other warp of it; a target that does not exist, or that breaks the cluster's class, traps BADOPND.
Where the manual leaves a point open, the model's choice is stated: log 66, 67, 68, 74. -/
def Obligations.RefillIndicesAndForwards : Prop :=
  (∀ c sc (r : Fin 1536) a b (q : Fin 16) s x, Runs s (.refill c sc (.v r) a b (.p q)) c → s.warp.resume = none →
    let u := issued s c
    let fin := acting s c &&& ~~~s.warp.helpers &&& rdP u q.val
    let cv := pairS u a
    let got := atomWord (tlbTouch u s.warp.vi s.warp.asid cv) x cv 8 fun m => m + (lanesOf fin).length
    let lim := srcBits u (acting s c) b 1 0
    let now := ∀ d, x.loc = .dev d → atomAnswered u (d / 128) = true
    let gives := fun (P : State → Prop) => ∃ t, exec (.refill c sc (.v r) a b (.p q)) s = .next (dissolveDead t) ∧ P t
    let items := fun (t : State) => ∀ j, j < laneCount fin →
      mget 0 t.warp.v (r.val * 32 + (lanesOf fin).getD j 0) = BitVec.ofNat 32 (got.2 + j) ∧
      (mget 0 t.warp.p q.val).getLsbD ((lanesOf fin).getD j 0) = false
    (fin = 0 → gives fun t => MovedOn s t c ∧ RegFrame s t (.refill c sc (.v r) a b (.p q)) c) ∧
    (fin ≠ 0 → cv % 8 ≠ 0 → gives fun t => t = takeTrap u 7 0 none (curIp s.warp)) ∧
    (fin ≠ 0 → cv % 8 = 0 → walksWanted u [cv] = [] → translate u s.warp.space cv true false = .ok x → q.val ≠ 15 →
      got.2 + laneCount fin ≤ 2 ^ 64 →
      ((∀ j, j < laneCount fin → got.2 + j < lim) →
        (now → gives fun t => items t ∧ BytesKept got.1 t ∧ t.warp.nonReplay = true ∧ MovedOn s t c ∧
          RegsKept s t (acting s c) (Instr.refill c sc (.v r) a b (.p q)).writes) ∧
        (¬now → s.warp.waitwin ≠ 0 → gives fun t => items t ∧ WaitsFor t evLine (some (nextIp s)) ∧ t.warp.nonReplay = true)) ∧
      ((∀ j, j < laneCount fin → lim ≤ got.2 + j) → now → frontier s.warp.helpers (stayPath s fin :: s.warp.entries.drop 1) ≠ [] →
        gives fun t => t.warp.exited = s.warp.exited ||| fin ∧
          t.warp.entries = frontier s.warp.helpers (stayPath s fin :: s.warp.entries.drop 1)))) ∧
  (∀ c (x : FwdTarget) s, Runs s (.fwd c x) c →
    let u := issued s c
    let val := fun (a : Opnd) => srcBits u (acting s c) a 1 0
    let here := SegEnd.at evReady (nextIp s)
    let outside := match x with
      | .core a => decide (96 ≤ val a)
      | .sect a => decide (4 ≤ val a)
      | .pkg a => decide (s.domain ≤ val a)
      | .any => false
    let dest : Nat × Nat := match x with
      | .core a => (0, val a)
      | .sect a => (1, val a)
      | .pkg a => if val a = s.pkg then (1, s.warp.core / 24) else (2, val a)
      | .any => (1, leastSector u)
    (outside = true → exec (.fwd c x) s = .next (takeTrap u 3 7 none (curIp s.warp))) ∧
    (outside = false → s.warp.crew = none → segReady u { here with dest := some dest } = true →
      exec (.fwd c x) s = .next (endSegment u { here with dest := some dest })) ∧
    ∀ k q, outside = false → s.warp.crew = some k → crewAt u s.warp.launch k = some q →
      (q.moving ≠ none → segReady u here = true → exec (.fwd c x) s = .next (endSegment u here)) ∧
      (q.moving = none → moveOk u q dest.1 dest.2 = false → exec (.fwd c x) s = .next (takeTrap u 3 8 none (curIp s.warp))) ∧
      (q.moving = none → moveOk u q dest.1 dest.2 = true → ∃ t,
        (∀ y ∈ t.crews, y.launch = s.warp.launch → y.crew = k → y.moving = some dest) ∧
        (∀ w ∈ t.bench, w.launch = s.warp.launch → w.crew = some k → w.entries ≠ [] → w.marked = true) ∧ t.warp = u.warp ∧
        (segReady t here = true → exec (.fwd c x) s = .next (endSegment t here)))) ∧
  ∀ s e kind dst, segReady s e = true → e.dest = some (kind, dst) → s.warp.crew = none → (∀ q ∈ s.recs, ∀ p, q.place ≠ .leaving p) →
    ∀ (j : Nat) (x : Entry) k, s.warp.entries[j]? = some x → HasLane x.mask k → ¬HasLane s.warp.helpers k →
      let t := endSegment s e
      ∃ r, Holds r s.warp k ∧ (kind = 0 → r ∈ t.recs ∧ r.pin = some dst) ∧
        (kind = 1 → r ∈ t.recs ∧ r.core = dst * 24 + s.warp.core % 24) ∧
        (2 ≤ kind → r ∈ t.recs ∧ r.place = .leaving dst ∨ (dst, r) ∈ t.sent)

/-! Traps. -/

/-- R371, R372, R373, R375, R377: TRAP and ILL take their trap; taking one ends the segment with a TRAP record at the IP given, the
code, the detail and the lane in their bits of TINFO and every register below NREG saved, and suspends the launch where no handler takes
it.
Where the manual leaves a point open, the model's choice is stated: log 49, 57. -/
def Obligations.TakesTraps : Prop :=
  (∀ c (d : Byte) s, Runs s (.trap c d) c →
    exec (.trap c d) s = .next (takeTrap (issued s c) 0xF d.toNat none (nextIp s))) ∧
  (∀ s, s.warp.entries ≠ [] → s.warp.retire = false → exec .ill s = .next (takeTrap s 1 1 none (curIp s.warp))) ∧
  (∀ code detail lane g, code < 256 → detail < 256 → (∀ k, lane = some k → k < 32) →
    let t := tinfoOf code detail lane g
    t.extractLsb' 0 8 = BitVec.ofNat 8 code ∧ t.extractLsb' 8 8 = BitVec.ofNat 8 detail ∧
    t.extractLsb' 16 5 = BitVec.ofNat 5 (lane.getD 0) ∧ t.getLsbD 21 = lane.isSome ∧ t.getLsbD 22 = g ∧
    t.extractLsb' 23 9 = 0) ∧
  ∀ s code detail lane ip,
    let info := tinfoOf code detail lane (inGang s s.warp)
    let e : SegEnd := { SegEnd.at evReady ip with kind := .trap, all := true, tinfo := info }
    segReady s e = true → ∃ t, takeTrap s code detail lane ip = endSegment t e ∧
      ∀ l, launchOf s s.warp.launch = some l →
        (l.mode ≠ .handler → (viOf s s.warp.vi).handler ≠ none → t = s) ∧
        (l.mode = .handler ∨ (viOf s s.warp.vi).handler = none → ∃ m, launchOf t s.warp.launch = some m ∧ m.suspended = true)

/-- R376, R378: TRET and TRET.kill at user level trap PRIV and on a misaligned address ALIGN; at supervisor level they hold each lane's
record, and at the segment's end that record becomes NORMAL, or GANG, and READY as the handler left it in memory, or its threads end; any
other address is dropped and reported.
Where the manual leaves a point open, the model's choice is stated: log 57, 58. -/
def Obligations.TrapReturns : Prop :=
  (∀ c a s,
    let returns := fun (i : Instr) (kill : Bool) =>
      let part := acting s c &&& ~~~s.warp.helpers
      let va := fun k => srcBits (issued s c) (acting s c) a 2 k
      Runs s i c →
      (s.warp.priv = 0 → exec i s = .next (takeTrap (issued s c) 0x10 1 none (curIp s.warp))) ∧
      (s.warp.priv ≠ 0 → (∀ k, HasLane part k → va k % 64 = 0) → ∃ t, exec i s = .next t ∧
        t.warp.held = s.warp.held ++ (lanesOf part).map (fun k => Held.tret (va k) kill) ∧ MovedOn s t c ∧
        RegFrame s { t with warp := { t.warp with held := s.warp.held } } i c) ∧
      (s.warp.priv ≠ 0 → ∀ k, HasLane part k → va k % 64 ≠ 0 → (∀ j, j < k → HasLane part j → va j % 64 = 0) →
        exec i s = .next (takeTrap (issued s c) 7 0 (some k) (curIp s.warp)))
    returns (.tret c a) false ∧ returns (.tretKill c a) true) ∧
  (∀ s vi va r, trapRecAt s vi va = some r →
    let x := reloadRec s r
    (∃ q ∈ (trapReturn s vi va false).recs, q.rid = r.rid ∧ q.kind = (if r.tinfo.getLsbD 22 then .gang else .normal) ∧ q.tinfo = 0 ∧
      q.event = evReady ∧ q.code = x.code ∧ q.mask = x.mask ∧ q.v = x.v ∧ q.sr = x.sr) ∧
    (r.join = 0 → (∀ q ∈ (trapReturn s vi va true).recs, q.rid ≠ r.rid) ∧
      ∀ l, launchOf s r.launch = some l → ∃ m, launchOf (trapReturn s vi va true) r.launch = some m ∧
        m.exited = l.exited + laneCount x.mask)) ∧
  (∀ s r sp bs, poolSpace s r.vi = some sp → readVa s sp r.addr (recSize (laneCount r.mask) r.regs.length) = some bs →
    (reloadRec s r).code = BitVec.ofNat 48 (natOfBytes ((bs.drop 32).take 8)) ∧
    (reloadRec s r).mask = BitVec.ofNat 32 (natOfBytes ((bs.drop 28).take 4)) &&& r.mask) ∧
  ∀ s vi va kill, trapRecAt s vi va = none → trapReturn s vi va kill = report s vi 9 s.warp.launch s.warp.asid va 0

/-! Special registers. -/

/-- R379, R380: SRD writes the register of its number; SWR writes class alone, a higher one only at supervisor level, and leaves it
unchanged for a value out of range; every other register is refused. -/
def Obligations.SpecialRegisters : Prop :=
  (∀ c w64 d,
    let reads := fun (num : Byte) (f : State → Nat → Nat) =>
      Computes (.srd c w64 num d) c d (if w64 then 2 else 1) (fun s _ k => f s k % 2 ^ (if w64 then 64 else 32))
    reads 0x00 (fun s _ => s.gtc.value.toNat) ∧ reads 0x01 (fun _ k => k) ∧ reads 0x02 (fun _ k => k / 4) ∧
    reads 0x03 (fun s _ => s.warp.wid) ∧ reads 0x04 (fun s _ => s.warp.crew.getD 0 % 2 ^ 32) ∧ reads 0x05 (fun s _ => s.warp.core) ∧ reads 0x06 (fun s _ => s.warp.core / 24) ∧
    reads 0x07 (fun s _ => s.pkg) ∧ reads 0x08 (fun s _ => s.warp.cls) ∧ reads 0x09 (fun s _ => s.warp.vi) ∧
    reads 0x0A (fun s _ => if s.warp.chk then 1 else 0) ∧ reads 0x0B (fun s k => (mget 0 s.warp.tid k).toNat) ∧
    reads 0x0C (fun s _ => s.warp.frame.toNat) ∧ reads 0x0D (fun s _ => s.warp.launch) ∧ reads 0x0E (fun s _ => s.warp.nreg) ∧
    reads 0x0F (fun s _ => s.warp.priv) ∧
    reads 0x10 (fun s _ => ((launchOf s s.warp.launch).elim (viOf s s.warp.vi).hwdog (·.hwdog)).toNat) ∧
    reads 0x11 (fun s _ => ((launchOf s s.warp.launch).elim (viOf s s.warp.vi).seglim (·.seglim)).toNat)) ∧
  (∀ c w64 a s, Runs s (.swr c w64 8 a) c →
    let x := srcBits (issued s c) (acting s c) a (if w64 then 2 else 1) 0
    (x ≤ 3 → (s.warp.priv ≠ 0 ∨ x ≤ s.warp.cls) → Answers (exec (.swr c w64 8 a) s) fun t =>
      t.warp.cls = x ∧ MovedOn s t c ∧ RegFrame s { t with warp := { t.warp with cls := s.warp.cls } } (.swr c w64 8 a) c) ∧
    (3 < x → Answers (exec (.swr c w64 8 a) s) fun t => MovedOn s t c ∧ RegFrame s t (.swr c w64 8 a) c) ∧
    (x ≤ 3 → s.warp.priv = 0 → s.warp.cls < x → exec (.swr c w64 8 a) s = .next (takeTrap (issued s c) 0x10 2 none (curIp s.warp)))) ∧
  (∀ c w64 num a s, num ≠ 8 → Runs s (.swr c w64 num a) c →
    exec (.swr c w64 num a) s = .next (takeTrap (issued s c) 0x10 2 none (curIp s.warp))) ∧
  ∀ c s, Runs s (.nop c) c → Answers (exec (.nop c) s) fun t => MovedOn s t c ∧ RegFrame s t (.nop c) c

/-! Paged memory. -/

/-- R121, R122, R125: what stops one lane's access, in the order of the checks: the bounds of its record, with or without CLAMP, its
alignment, and the page's entry and permissions, the gravest first among its words; and an instruction reports the lowest lane that fails and is no helper.
R121, R196, R199, R294, R296: an access with a lane that fails has no effect but its trap, which names that lane.
Where the manual leaves a point open, the model's choice is stated: log 49. -/
def Obligations.AccessChecksAndTraps : Prop :=
  ((∀ s b i d n w, ¬(i < b.extent ∧ d + n ≤ b.es) → checkLane s b i d n w = if b.clamp then .clamped else .fail 6 0) ∧
  (∀ s b i d n w, i < b.extent → d + n ≤ b.es →
    ((b.base + i * b.stride + d) % n ≠ 0 → checkLane s b i d n w = .fail 7 0) ∧
    ((b.base + i * b.stride + d) % n = 0 → ∀ va m, (va, m) ∈ accessWords b i d n →
      (translate s s.warp.space va w false = .malf → checkLane s b i d n w = .fail 9 0) ∧
      ((∀ a ∈ accessWords b i d n, translate s s.warp.space a.1 w false ≠ .malf) →
        (∀ x, translate s s.warp.space va w false = .prot x → ∃ y, checkLane s b i d n w = .fail 8 y ∧ protRank y ≤ protRank x) ∧
        ((∀ a ∈ accessWords b i d n, ∀ x, translate s s.warp.space a.1 w false ≠ .prot x) →
          (∀ p, translate s s.warp.space va w false = .nores p → ∃ a q, checkLane s b i d n w = .nores a q) ∧
          ((∀ a ∈ accessWords b i d n, ∃ x, translate s s.warp.space a.1 w false = .ok x) →
            ∃ ws, checkLane s b i d n w = .ok ws ∧ ws.map (fun x => (x.1, x.2.1)) = accessWords b i d n ∧
              ∀ x ∈ ws, translate s s.warp.space x.1 w false = .ok x.2.2))))) ∧
  (∀ s sp va w x, (2 ^ 52 ≤ va → translate s sp va w x = .prot 5) ∧ (va < 2 ^ 52 →
    (lookup s sp.vi sp.asid va = .inval → translate s sp va w x = .prot 1) ∧
    (lookup s sp.vi sp.asid va = .malf → translate s sp va w x = .malf) ∧
    ∀ e psz, lookup s sp.vi sp.asid va = .leaf e psz → translate s sp va w x =
      if sp.user = true ∧ e.getLsbD 61 = false then .prot 4
      else if w = true ∧ e.getLsbD 62 = false then .prot 2
      else if x = true ∧ e.getLsbD 63 = false then .prot 3
      else if e.getLsbD 1 = true then .ok (leafXlat s sp.asid va e psz) else .nores psz)) ∧
  ∀ h l c d k, faultOf h l = some (c, d, k) ↔
    ∃ l1 l2, l = l1 ++ (k, .fail c d) :: l2 ∧ h.getLsbD k = false ∧ ∀ e ∈ l1, ∀ x y, e.2 = .fail x y → h.getLsbD e.1 = true) ∧
  (∀ i c br s b d n w code detail k,
    let u := issued s c
    let r := slotRec u br
    let l := checkLanes u (acting s c) r (elemIndex u (acting s c) b) d n w
    Runs s i c → walksWanted u (maskVas (acting s c) r (elemIndex u (acting s c) b) d n) = [] →
    faultOf s.warp.helpers l = some (code, detail, k) →
    ((∃ t x disp o p, i = .ld c t x disp o br b p ∧ d = disp.toNat ∧ n = x.n * t.bytes ∧ w = false ∧
        streamCheck u s.warp.vi r.glz false = none) ∨
      (∃ t x disp o p, i = .st c t x disp o br b p ∧ d = disp.toNat ∧ n = x.n * t.bytes ∧ w = true ∧
        streamCheck u s.warp.vi r.glz true = none) ∨
      (∃ t op rm o sc x p, i = .atom c t op rm o sc x br b p ∧ d = 0 ∧ n = t.bytes ∧ w = true ∧ r.glz = 0) ∨
      (∃ w64 sc x p, i = .wake c w64 sc x br b p ∧ d = 0 ∧ n = (if w64 then 8 else 4) ∧ w = true ∧ r.glz = 0) ∨
      ∃ w64 grp g x p, i = .mcst c w64 grp x br b p ∧ d = 0 ∧ n = (if w64 then 8 else 4) ∧ w = true ∧ r.glz = 0 ∧
        u.groups.find? (fun q => q.vi = s.warp.vi && q.grp = grp.toNat) = some g) →
    exec i s = .next (takeTrap u code detail (some k) (curIp s.warp)))

/-- R193 to R196, R271: a load whose lines are all answered gives each served lane its elements, extended to their registers, and every
other lane zero, and says so in the status predicate; the buffered stores come first where a page is of kind SO, and no byte changes
else, where the core's L1 need give up no line.
R101, R194: a line that is not answered leaves a response outstanding, and the warp retires at its next instruction.
Where the manual leaves a point open, the model's choice is stated: log 36, 51. -/
def Obligations.Loads : Prop :=
  ∀ c t n disp (r : Fin 1536) br b (q : Fin 16) s,
    let i := Instr.ld c t n disp (.v r) br b (.p q)
    let u0 := issued s c
    let rec_ := slotRec u0 br
    let l := checkLanes u0 (acting s c) rec_ (elemIndex u0 (acting s c) b) disp.toNat (n.n * t.bytes) false
    let u1 := touchLanes u0 l
    let u := if touchesSo l = true ∧ u1.warp.sb ≠ [] then drain u1 else u1
    i.wf 1536 = true → Runs s i c → streamCheck u0 s.warp.vi rec_.glz false = none →
    walksWanted u0 (maskVas (acting s c) rec_ (elemIndex u0 (acting s c) b) disp.toNat (n.n * t.bytes)) = [] →
    faultOf s.warp.helpers l = none →
    (rec_.glz = 0 → (∀ x ∈ linesOf l, answered u s.warp.core x.2.ord x.1 = true) → ∃ v, exec i s = .next v ∧
      (∀ k a, (k, a) ∈ l → ∀ j, j < n.n → ∀ z, z < t.regs →
        mget 0 v.warp.v ((r.val + j * t.regs + z) * 32 + k) = BitVec.ofNat 32
          (elemValue t (match a with | .ok ws => ws.flatMap fun w => wordBytes u w.2.2 w.2.1 | _ => []) j / 2 ^ (32 * z))) ∧
      (q.val ≠ 15 → ∀ k a, (k, a) ∈ l → ((mget 0 v.warp.p q.val).getLsbD k = true ↔ ∃ ws, a = .ok ws)) ∧
      (L1Room u s.warp.core (linesOf l).length → BytesKept u v) ∧
      WarpKept u.warp v.warp ∧ RegsKept s v (acting s c) i.writes ∧ MovedOn s v c) ∧
    ∀ x ∈ linesOf l, (rec_.glz ≠ 0 ∨ answered u s.warp.core x.2.ord x.1 = false) → ∃ v, exec i s = .next v ∧
      v.warp.retire = true ∧ (∃ y ∈ v.resps, y.uid = s.warp.uid ∧ y.line = x.1 ∧ y.stream = rec_.glz) ∧
      (NoneWaits u → L1Room u s.warp.core (linesOf l).length → LinesKept u v) ∧ WarpKept { u.warp with retire := true } v.warp ∧
      RegsKept s v (acting s c) i.writes ∧ MovedOn s v c

/-- R191, R196, R270, R272, R294: a store of each served lane that is no helper goes to the warp's store buffer, at the addresses that the
checks translated, with the lane's elements; no byte of memory changes before the buffer drains, which it does where it is full; a store
on a page of kind SO is performed at once, behind the buffered ones; the status predicate says which lanes were served. MCST does the same for every package that
its group reaches.
R191, R192: a drain makes one request per line, which holds for every byte what the latest store to it gave.
R191, R100 to R103, R190: a request performed changes the bytes that it names, as every access then reads them, and no other byte;
a warp's load sees the bytes that its own buffered stores supply, the latest first.
Where the manual leaves a point open, the model's choice is stated: log 37, 44, 51. -/
def Obligations.StoresAndTheirDrain : Prop :=
  ((∀ s es, (∀ e ∈ es, e.ord ≠ .so) →
    (bufferedBytes (setWarp s fun w => { w with sb := w.sb ++ es }) s.warp.core ≤ 262144 →
      (doStores s es).warp.sb = s.warp.sb ++ es ∧ BytesKept s (doStores s es)) ∧
    (262144 < bufferedBytes (setWarp s fun w => { w with sb := w.sb ++ es }) s.warp.core → (doStores s es).warp.sb = [])) ∧
  (∀ s es, (∃ e ∈ es, e.ord = .so) → (doStores s es).warp.nonReplay = true ∧
    let rest := es.filter fun e => decide (e.ord ≠ .so)
    (bufferedBytes (setWarp s fun w => { w with sb := rest }) s.warp.core ≤ 262144 → (doStores s es).warp.sb = rest)) ∧
  ∀ c (q : Fin 16) br b o s i t cnt disp grp,
    ((∃ x y, i = Instr.st c t x y o br b (.p q) ∧ cnt = x.n ∧ disp = y.toNat ∧ grp = none) ∨
      ∃ w64 g m, i = .mcst c w64 g o br b (.p q) ∧ t = (if w64 then .n64 else .n32) ∧ cnt = 1 ∧ disp = 0 ∧
        s.groups.find? (fun x => x.vi = s.warp.vi && x.grp = g.toNat) = some m ∧ grp = some (m.plane, groupTargets (issued s c) m) ∧
        (slotRec (issued s c) br).glz = 0) →
    let u := issued s c
    let rec_ := slotRec u br
    let l := checkLanes u (acting s c) rec_ (elemIndex u (acting s c) b) disp (cnt * t.bytes) true
    let mine := l.filter fun e => !s.warp.helpers.getLsbD e.1
    let es := mine.flatMap fun e => match e.2 with
      | .ok ws => laneStores u rec_.glz grp ws
          ((List.range cnt).flatMap fun j => bytesOfNat t.bytes (srcBits u (acting s c) (Opnd.plus o (j * t.regs)) t.regs e.1))
      | _ => []
    let v := doStores (touchLanes u l) es
    Runs s i c → streamCheck u s.warp.vi rec_.glz true = none →
    walksWanted u (maskVas (acting s c) rec_ (elemIndex u (acting s c) b) disp (cnt * t.bytes)) = [] → faultOf s.warp.helpers l = none →
    ∃ x, exec i s = .next x ∧ x.warp.sb = v.warp.sb ∧ BytesKept v x ∧
      (q.val ≠ 15 → ∀ k a, (k, a) ∈ l → ((mget 0 x.warp.p q.val).getLsbD k = true ↔ ∃ ws, a = .ok ws)) ∧
      RegsKept s x (acting s c) i.writes ∧ MovedOn s x c) ∧
  (∀ es a, (∀ e ∈ es, ∃ b, e.loc = .dev b ∧ b % 128 + e.bytes.length ≤ 128) →
    (coalesce es).foldl (fun r x => if x.line = a / 128 ∧ x.mask.getLsbD (a % 128) = true then some (lineByte x.data (a % 128)) else r) none
      = es.foldl (fun r e => match e.loc with
          | .dev b => if b ≤ a ∧ a < b + e.bytes.length then some (e.bytes.getD (a - b) 0) else r
          | .host _ => r) none) ∧
  (∀ s core ord swz line mask data, (isRemote s line = false ∨ ord = .rc) →
    let t := storeLine s core ord swz line mask data
    (mask ≠ fullMask → ∀ y, readDpa t swz y =
      if y / 128 = line ∧ mask.getLsbD (y % 128) = true then lineByte data (y % 128) else readDpa s swz y) ∧
    (mask = fullMask → missOf s line = none → ∀ i, i < 128 → readDpa t swz (line * 128 + i) = lineByte data i)) ∧
  (∀ s core r, r.ent.group = none → r.ent.stream = 0 → r.ent.rep = none →
    performReq s core r = storeLine s (some core) r.ent.ord r.ent.swz r.line r.mask r.data) ∧
  (∀ s, (drain s).warp.sb = [] ∧ (drain s).warp.nonReplay = true) ∧
  ∀ s x n e es, s.warp.sb = es ++ [e] → e.group = none → ∀ a d, e.loc = .dev a → x.loc = .dev d → a ≤ d → d + n ≤ a + e.bytes.length →
    wordBytes s x n = (e.bytes.drop (d - a)).take n

/-- R198, R199, R279: the atomics of an instruction's lanes act one after the other, in ascending order, each on the value that the one
before left; each lane that is no helper gets the value fetched, and every other byte is unchanged. A relaxed form leaves the store
buffer but for stores to the word itself; a release at a scope past the core drains it first.
R15, R200: the value of a line that cannot answer at once comes deferred, and the warp retires at its next instruction; an atomic on
another package's word leaves its result there.
R296, R336: WAKE exchanges each lane's word with release, and then every record parked on the word whose condition holds leaves its
parking place.
Where the manual leaves a point open, the model's choice is stated: log 38, 39. -/
def Obligations.AtomicsAndWakes : Prop :=
  ((∀ s (x : Xlat) va n f a, x.loc = .dev a → x.rep = none → s.warp.sb = [] → 0 < n → n < 128 → a % 128 + n ≤ 128 →
    let r := atomWord s x va n f
    r.2 = natOfBytes (readLocs s x.swz x.loc n) ∧
    (a / 2 ^ 46 = s.pkg → ∀ y, readDpa r.1 x.swz y =
      if a ≤ y ∧ y < a + n then (bytesOfNat n (f r.2)).getD (y - a) 0 else readDpa s x.swz y) ∧
    (a / 2 ^ 46 ≠ s.pkg → missOf s (a / 128) = none → ∀ j, j < n → readDpa r.1 x.swz (a + j) = (bytesOfNat n (f r.2)).getD j 0)) ∧
  (∀ t op rm m v new, t ∈ i4 → m < 2 ^ t.width → v < 2 ^ t.width →
    atomStep t op rm m v new = match op with
      | .add => (m + v) % 2 ^ t.width
      | .min => if readInt t.signed t.width m ≤ readInt t.signed t.width v then m else v
      | .max => if readInt t.signed t.width v ≤ readInt t.signed t.width m then m else v
      | .and => m &&& v
      | .or => m ||| v
      | .xor => m ^^^ v
      | .exch => v
      | .cas => if m = v then new else m) ∧
  ∀ c t op rm o sc (r : Fin 1536) br b (q : Fin 16) s,
    let i := Instr.atom c t op rm o sc (.v r) br b (.p q)
    let u := issued s c
    let rec_ := slotRec u br
    let l := checkLanes u (acting s c) rec_ (elemIndex u (acting s c) b) 0 t.bytes true
    let mine := l.filter fun e => !s.warp.helpers.getLsbD e.1
    let u1 := touchLanes u l
    let u2 := if touchesSo mine = true then drain u1
      else if (o = .rel ∨ o = .ar) ∧ sc ∈ [Scope.cl, .pk, .dm, .sy] then drainRel u1 else u1
    let f := fun k m => atomStep t op rm m (srcBits u (acting s c) (.v r) t.regs k)
      (srcBits u (acting s c) (Opnd.plus (.v r) t.regs) t.regs k)
    Runs s i c → rec_.glz = 0 → walksWanted u (maskVas (acting s c) rec_ (elemIndex u (acting s c) b) 0 t.bytes) = [] →
    faultOf s.warp.helpers l = none →
    (lateLines u2 mine = [] → ∃ v, exec i s = .next v ∧
      (∀ e ∈ (atomLanes u2 mine t.bytes f).2, HasLane (acting s c) e.1 →
        ((atomLanes u2 mine t.bytes f).2.find? fun x => x.1 = e.1) = some e →
        ∀ z, z < t.regs → mget 0 v.warp.v ((r.val + z) * 32 + e.1) = BitVec.ofNat 32 (e.2 / 2 ^ (32 * z))) ∧
      (q.val ≠ 15 → ∀ k a, (k, a) ∈ l → ((mget 0 v.warp.p q.val).getLsbD k = true ↔ ∃ ws, a = .ok ws)) ∧
      BytesKept (atomLanes u2 mine t.bytes f).1 v ∧
      (servedMask mine ≠ 0 → v.warp.nonReplay = true) ∧ RegsKept s v (acting s c) i.writes ∧ MovedOn s v c) ∧
    ∀ x ∈ lateLines u2 mine, ∃ v, exec i s = .next v ∧ v.warp.retire = true ∧ (∃ y ∈ v.resps, y.uid = s.warp.uid ∧ y.line = x.1) ∧
      RegsKept s v (acting s c) i.writes ∧ MovedOn s v c) ∧
  ((∀ s dpa r, r ∈ s.recs → r.place = .parked → wordKind r = true → wordKey r / 8 = dpa / 8 → eventHolds s r = true →
    firable s r.launch r.vi = true → ∀ q ∈ (wordEvent s dpa).recs, q.rid = r.rid → q.place ≠ .parked) ∧
  (∀ s dpa, BytesKept s (wordEvent s dpa) ∧ (wordEvent s dpa).warp = s.warp) ∧
  ∀ c w64 sc o br b (q : Fin 16) s,
    let i := Instr.wake c w64 sc o br b (.p q)
    let n := if w64 then 8 else 4
    let u := issued s c
    let rec_ := slotRec u br
    let l := checkLanes u (acting s c) rec_ (elemIndex u (acting s c) b) 0 n true
    let mine := l.filter fun e => !s.warp.helpers.getLsbD e.1
    let u1 := touchLanes u l
    let u2 := if touchesSo mine = true then drain u1 else if sc ∈ [Scope.cl, .pk, .dm, .sy] then drainRel u1 else u1
    let f := fun k (_ : Nat) => srcBits u (acting s c) o (if w64 then 2 else 1) k
    Runs s i c → rec_.glz = 0 → walksWanted u (maskVas (acting s c) rec_ (elemIndex u (acting s c) b) 0 n) = [] →
    faultOf s.warp.helpers l = none → ∃ v, exec i s = .next v ∧
      BytesKept (atomLanes u2 mine n f).1 v ∧
      (∀ k a, (k, a) ∈ l → q.val ≠ 15 → ((mget 0 v.warp.p q.val).getLsbD k = true ↔ ∃ ws, a = .ok ws)) ∧
      (∀ e ∈ mine, ∀ va x ws a, e.2 = .ok ((va, x) :: ws) → x.2.loc = .dev a → ∀ y ∈ v.recs, y.place = .parked → wordKind y = true →
        wordKey y / 8 = a / 8 → firable v y.launch y.vi = true → eventHolds v y = false) ∧
      RegsKept s v (acting s c) i.writes ∧ MovedOn s v c)

/-- R202, R285: PREF requests the lines that it names, into the L1 or the slice, and changes no register and no byte; FNCE with release
drains the store buffer at a scope past the core, the stores to UN pages surely with .un alone (R273), and with .sy lands the writes on their way to the host; an
acquire finds the values of loads written.
R73, R77, R104: DSCD refuses a count past 65,536 and a start that is not aligned, and waits for an open miss of a region that it discards; it
writes how many chunks it skipped, and a region that it discards then reads as zero and is not live.
Where the manual leaves a point open, the model's choice is stated: log 37, 53, 54, 55. -/
def Obligations.PrefetchFenceDiscard : Prop :=
  ((∀ c llc br b s,
    let i := Instr.pref c llc br b
    let u := issued s c
    let r := slotRec u br
    let ls := linesOf (checkLanes u (acting s c &&& ~~~s.warp.helpers) r (elemIndex u (acting s c) b) 0 r.es false)
    Runs s i c → ∃ v, exec i s = .next v ∧ WarpKept s.warp v.warp ∧ RegsKept s v (acting s c) [] ∧ MovedOn s v c ∧
      ((llc = true ∨ L1Room u s.warp.core ls.length) → LinesKept s v) ∧
      (r.glz = 0 → ∀ x ∈ ls, (llc = true ∨ x.2.ord ≠ .so) → answered u s.warp.core x.2.ord x.1 = false →
        (isRemote u x.1 = false ∨ x.2.ord = .rc) → ∃ m, missOf v x.1 = some m ∧ (llc = false → s.warp.core ∈ m.l1)) ∧
      (r.glz = 0 → llc = false → L1Room u s.warp.core ls.length → ∀ x ∈ ls, x.2.ord ≠ .so →
        answered u s.warp.core x.2.ord x.1 = true → ∃ y ∈ v.l1, y.core = s.warp.core ∧ y.line = x.1)) ∧
  ∀ c k sc s,
    let i := Instr.fnce c k sc
    let far : Prop := k ≠ .acq ∧ sc ∈ [Scope.cl, .pk, .dm, .sy]
    Runs s i c → ∃ v, exec i s = .next v ∧
      (far → k = .un → v.warp.sb = [] ∧ ∀ swz a, readDpa v swz a = readDpa (drain (issued s c)) swz a) ∧
      (far → k ≠ .un → (∀ e ∈ v.warp.sb, e ∈ s.warp.sb ∧ e.ord = .un) ∧
        ∀ swz a, readDpa v swz a = readDpa (drainRel (issued s c)) swz a) ∧
      (k ≠ .acq → sc = .sy → v.hostWrites = []) ∧
      (k ≠ .rel → ∀ d ∈ v.warp.due, ¬(d.load = true ∧ d.ready = none)) ∧
      (¬far → RegFrame s v i c) ∧ RegsKept s v (acting s c) [] ∧ MovedOn s v c) ∧
  ((∀ c d br b e s,
    let i := Instr.dscd c d br b e
    let u := issued s c
    let r := slotRec u br
    let va := r.base + pairS u b
    let n := srcBits u (acting s c) e 1 0
    let u1 := (List.range n).foldl (fun t i => tlbTouch t t.warp.vi t.warp.asid (va + i * 2 ^ 21)) (drainCore u)
    Runs s i c →
    (65536 < n → exec i s = .next (takeTrap u 3 2 none (curIp s.warp))) ∧
    (n ≤ 65536 → va % 2 ^ 21 ≠ 0 → exec i s = .next (takeTrap u 3 3 none (curIp s.warp))) ∧
    (n ≤ 65536 → va % 2 ^ 21 = 0 → walksWanted u ((List.range n).map fun i => va + i * 2 ^ 21) = [] →
      ∀ t k gone stop, dscdFrom r va n 0 u1 0 [] = (t, k, gone, stop) →
      ((∀ g ∈ gone, ∀ m ∈ u1.misses, m.line / 16384 ≠ g) →
        (stop = none → ∃ v, exec i s = .next v ∧ Wrote v (acting s c) d 1 (fun _ => k) ∧ BytesKept t v ∧ v.live = t.live ∧
          MovedOn s v c ∧ RegsKept s v (acting s c) i.writes) ∧
        (∀ y, stop = some y → exec i s = .next (takeTrap t y.1 y.2 none (curIp t.warp)))) ∧
      (∀ g ∈ gone, ∀ m ∈ u1.misses, m.line / 16384 = g → s.warp.waitwin ≠ 0 → ∃ v, exec i s = .next v ∧ WaitsFor v evLine none ∧
        BytesKept u1 v))) ∧
  ∀ s r swz a, (a / 2 ^ 21 = r → missOf s (a / 128) = none → readDpa (discardRegion s r) swz a = 0) ∧
    (a / 2 ^ 21 ≠ r → readDpa (discardRegion s r) swz a = readDpa s swz a) ∧ r ∉ (discardRegion s r).live)

/-- R121, R135: a lane that fails stops PGRQ with its trap; PGRQ writes which lanes' pages are resident and goes on when none is to be requested; otherwise it ends the segment at the
next word on the pages' being ready.
R126, R127, R132, R133: BREC.ld, BREC.set and LREC.ld write one slot of the crew whole, and a record that the checks refuse traps
BADREC and changes nothing; the load waits for a line that is not at hand (R21), and a misaligned one traps ALIGN.
Where the manual leaves a point open, the model's choice is stated: log 50, 63. -/
def Obligations.PageRequestsAndRecordLoads : Prop :=
  (∀ c (q : Fin 16) br b s,
    let i := Instr.pgrq c (.p q) br b
    let u := issued s c
    let l := (lanesOf (acting s c)).map fun k => (k, pgrqLane u (slotRec u br) (elemIndex u (acting s c) b k))
    let vas := (lanesOf (acting s c)).filterMap fun k =>
      let i := elemIndex u (acting s c) b k
      let r := slotRec u br
      if inBounds r i 0 r.es then some (r.base + i * r.stride) else none
    Runs s i c → walksWanted u vas = [] →
    (∀ x y k, faultOf s.warp.helpers l = some (x, y, k) → exec i s = .next (takeTrap u x y (some k) (curIp s.warp))) ∧
    (faultOf s.warp.helpers l = none → ((∀ k va p, (k, LaneAcc.nores va p) ∈ l → HasLane s.warp.helpers k) → ∃ v, exec i s = .next v ∧
      (q.val ≠ 15 → ∀ k a, (k, a) ∈ l → ((mget 0 v.warp.p q.val).getLsbD k = true ↔ ∃ ws, a = .ok ws)) ∧
      BytesKept s v ∧ WarpKept s.warp v.warp ∧ RegsKept s v (acting s c) i.writes ∧ MovedOn s v c) ∧
    ∀ k va p, (k, LaneAcc.nores va p) ∈ l → ¬HasLane s.warp.helpers k → ∃ v e,
      exec i s = .next (if segReady v e then endSegment v e else stayHeld v u e) ∧ e.ip = nextIp s ∧ e.kind = .normal ∧
      dbits e.event 63 60 = 7 ∧ (⟨s.warp.asid, va / 65536 / pszUnits p * pszUnits p⟩ : Page) ∈ e.pages ∧
      (⟨q.val, k, ⟨s.warp.asid, va / 65536⟩⟩ : PgrqWait) ∈ e.pgrq ∧
      v.pageReqs.any (fun x => x.page = ⟨s.warp.asid, va / 65536 / pszUnits p * pszUnits p⟩) = true)) ∧
  (∀ s va n al ws,
    let vas := (List.range (n / 4)).map fun j => va + 4 * j
    let v := touchVa s s.warp.vi s.warp.asid va n
    va % al = 0 → walksWanted s vas = [] → joinWords (vas.map fun a => (a, 4, translate s s.warp.space a false false)) = .ok ws →
    (∀ x ∈ ws, x.2.2.ord ≠ .so) →
    (missingLines v ws = [] → LoadsAs s va n al (ws.flatMap fun x => recBytesAt v x.2.2 x.2.1) v) ∧
    ∀ x ∈ missingLines v ws, ∀ f, ∃ t, recLoad s va n al false f = .wait evLine none t ∧ ∃ y ∈ t.resps, y.uid = s.warp.uid ∧ y.line = x.1) ∧
  (∀ c s k, crewAt s s.warp.launch (crewKey s.warp) = some k →
    let u := issued s c
    let put := fun (i : Instr) (v : State) (bad : Bool) (get : Crew → Nat → Nat) (slot x : Nat) =>
      (bad = true → exec i s = .next (takeTrap u 0xA 0 none (curIp s.warp))) ∧
      (bad = false → ∃ t, exec i s = .next t ∧ ∃ m, crewAt t s.warp.launch (crewKey s.warp) = some m ∧ get m slot = x ∧
        (∀ j, j ≠ slot → get m j = get k j) ∧ m.tiles = k.tiles ∧ m.tags = k.tags ∧ m.gang = k.gang ∧ m.bars = k.bars ∧
        BytesKept v t ∧ WarpKept v.warp t.warp ∧ RegsKept s t (acting s c) [] ∧ MovedOn s t c)
    let misplaced := fun (i : Instr) (va al : Nat) => va % al ≠ 0 → exec i s = .next (takeTrap u 7 0 none (curIp s.warp))
    let brec := fun (m : Crew) (j : Nat) => (mget 0 m.brec j).toNat
    let lrec := fun (m : Crew) (j : Nat) => (mget 0 m.lrec j).toNat
    (∀ (br : Fin 64) a, Runs s (.brecLd c br a) c → misplaced (.brecLd c br a) (pairS u a) 32 ∧
      ∀ bs v, LoadsAs u (pairS u a) 32 32 bs v → bs.length = 32 →
      put (.brecLd c br a) v (bufBad (BitVec.ofNat 256 (natOfBytes bs))) brec br.val (natOfBytes bs)) ∧
    (∀ (br : Fin 64) a, Runs s (.brecSet c br a) c →
      let x : BitVec 256 := BitVec.ofNat 256
        ((List.range 8).foldl (fun n i => n + srcBits u (acting s c) (Opnd.plus a i) 1 0 * 2 ^ (32 * i)) 0)
      put (.brecSet c br a) s (bufBad x) brec br.val x.toNat) ∧
    ∀ (lr : Fin 16) a, Runs s (.lrecLd c lr a) c → misplaced (.lrecLd c lr a) (pairS u a) 64 ∧
      ∀ bs v, LoadsAs u (pairS u a) 128 64 bs v → bs.length = 128 →
      put (.lrecLd c lr a) v (layBad (BitVec.ofNat 1024 (natOfBytes bs))) lrec lr.val (natOfBytes bs))

/-! Tiles. -/

/-- R187, R197, R199: LDS reads and STS and ATMS write the tile that the operand names, at each lane's offset, the lanes in ascending
order, an LDS also full lines of a tile that fills and is to flip; the bytes outside those that the lanes store stay, and the helper lanes store nothing. A target that is refused, an offset that
is not aligned or runs past the tile, and a tile that the threads do not own, trap.
R184, R204, R205, R206: TGIV gives a thread's tile to the engines, READY, once no copy into it is in flight; TTAK takes a tile that
nothing holds or reads, whole; TSTA reports its number, readers, flip, state, owner, holder and count of full lines; and a tile operand
that is refused traps with its code. -/
def Obligations.TileAccessesAndOwnership : Prop :=
  (∀ c t (n : Count) (r : Fin 1536) tile b rmt op rm o sc s core phys detail,
    let u := issued s c
    let off := fun k => srcBits u (acting s c) b 1 k
    let lanes := lanesOf (acting s c &&& ~~~s.warp.helpers)
    let ld := Instr.lds c t n (.v r) tile b rmt
    let st := Instr.sts c t n (.v r) tile b rmt
    let am := Instr.atms c t op rm o sc (.v r) tile b rmt
    let fits := fun (sz : Nat) => ∀ k, HasLane (acting s c) k → off k % sz = 0 ∧ off k + sz ≤ 16384
    let base := tileBase core phys
    let x := tileAt u core phys
    let filling := x.thread = false ∧ x.st = .filling ∧ x.flip = true
    let rel : Prop := (o = .rel ∨ o = .ar) ∧ sc ∈ [Scope.cl, .pk, .dm, .sy]
    let u1 := if rel then drainRel u else u
    tileTarget u (acting s c) tile rmt = .ok (core, phys, detail) →
    (ld.wf 1536 = true → Runs s ld c → fits (n.n * t.bytes) →
      (threadTile x = true ∨ filling ∧ emptyLine x (acting s c) off (n.n * t.bytes) = none → ∃ v, exec ld s = .next v ∧
        (∀ k, HasLane (acting s c) k → ∀ j, j < n.n → ∀ z, z < t.regs →
          mget 0 v.warp.v ((r.val + j * t.regs + z) * 32 + k)
            = BitVec.ofNat 32 (elemValue t (mgetRange 0 s.pad (base + off k) (n.n * t.bytes)) j / 2 ^ (32 * z))) ∧
        MovedOn s v c ∧ RegFrame s v ld c) ∧
      (threadTile x = false → filling → ∀ e, emptyLine x (acting s c) off (n.n * t.bytes) = some e → s.warp.waitwin ≠ 0 →
        ∃ v, exec ld s = .next v ∧ WaitsFor v (eventOf 1 (core * 2 ^ 14 + e * 2 ^ 7 + phys)) none)) ∧
    (threadTile x = true →
      (Runs s st c → fits (n.n * t.bytes) → ∃ v, exec st s = .next v ∧
        v.pad = lanes.foldl (fun m k => msetRange 0 m (base + off k) (storeBytes u (acting s c) t n.n (.v r) k)) s.pad ∧
        (lanes ≠ [] → v.warp.nonReplay = true) ∧ v.mem = s.mem ∧ v.host = s.host ∧ v.tiles = s.tiles ∧ WarpKeptButReplay s.warp v.warp ∧
        RegsKept s v (acting s c) [] ∧ MovedOn s v c) ∧
      (Runs s am c → fits t.bytes → ∃ v, exec am s = .next v ∧ (
        let q := lanes.foldl (fun (a : SMap Byte × List (Nat × Nat)) k =>
          let old := natOfBytes (mgetRange 0 a.1 (base + off k) t.bytes)
          let new := atomStep t op rm old (srcBits u (acting s c) (.v r) t.regs k)
            (srcBits u (acting s c) (Opnd.plus (.v r) t.regs) t.regs k)
          (msetRange 0 a.1 (base + off k) (bytesOfNat t.bytes new), a.2 ++ [(k, old)])) (s.pad, [])
        v.pad = q.1 ∧ (∀ e ∈ q.2, ∀ z, z < t.regs → mget 0 v.warp.v ((r.val + z) * 32 + e.1) = BitVec.ofNat 32 (e.2 / 2 ^ (32 * z))) ∧
        v.mem = u1.mem ∧ v.host = u1.host ∧ v.tiles = s.tiles ∧ WarpKeptButReplay u1.warp v.warp ∧ RegsKept s v (acting s c) am.writes ∧
        MovedOn s v c))) ∧
    (∀ i sz, (i = ld ∨ i = st) ∧ sz = n.n * t.bytes ∨ i = am ∧ sz = t.bytes → Runs s i c →
      (∀ k, HasLane (acting s c) k → (∀ j, j < k → HasLane (acting s c) j → off j % sz = 0 ∧ off j + sz ≤ 16384) →
        (off k % sz ≠ 0 → exec i s = .next (takeTrap u 7 0 (some k) (curIp s.warp))) ∧
        (off k % sz = 0 → 16384 < off k + sz → exec i s = .next (takeTrap u 6 0 (some k) (curIp s.warp)))) ∧
      (fits sz → threadTile x = false → (i = ld → ¬filling) →
        exec i s = .next (takeTrap u 0xC detail none (curIp s.warp))))) ∧
  (∀ c t d s,
    let u := issued s c
    (∀ e, tileOfOp u t = .error e → ∀ i ∈ [Instr.tgiv c t, .ttak c t, .tsta c d t], Runs s i c →
      exec i s = .next (takeTrap u e.1 e.2 none (curIp s.warp))) ∧
    ∀ core phys, tileOfOp u t = .ok (core, phys) →
      let x := tileAt s core phys
      (Runs s (.tgiv c t) c →
        (x.thread = false → ∃ v, exec (.tgiv c t) s = .next v ∧ MovedOn s v c ∧ RegFrame s v (.tgiv c t) c) ∧
        (x.thread = true → ∃ v, tileAt v core phys = (if s.acpys.any (fun a => a.core = core && a.phys = phys)
              then { x with giving := x.giving ++ [(s.warp.uid, wslot c)] }
              else { x with thread := false, st := .ready, giving := [] }) ∧
            v.warp.nonReplay = true ∧ v.pad = s.pad ∧ v.mem = s.mem ∧
            ((s.acpys.any fun a => a.core = core && a.phys = phys) = true → exec (.tgiv c t) s = .next (done s (.tgiv c t) c v)) ∧
            ((s.acpys.any fun a => a.core = core && a.phys = phys) = false →
              exec (.tgiv c t) s = .next (done s (.tgiv c t) c (settle v))))) ∧
      (Runs s (.ttak c t) c →
        (x.thread = true → ∃ v, exec (.ttak c t) s = .next v ∧ MovedOn s v c ∧ RegFrame s v (.ttak c t) c) ∧
        (x.thread = false → x.hold = false → x.mxr = 0 → exec (.ttak c t) s = .next (done s (.ttak c t) c
          (settle (setTile u core phys fun y => { y with thread := true, st := .ready, full := BitVec.allOnes 128 })))) ∧
        (x.thread = false → (x.hold = true ∨ x.mxr ≠ 0) → s.warp.waitwin ≠ 0 → ∃ v, exec (.ttak c t) s = .next v ∧
          v.warp.entries = s.warp.entries ∧ v.warp.wait = some (eventOf 1 (2 ^ 21 + core * 2 ^ 14 + phys)) ∧ v.tiles = s.tiles)) ∧
      (Runs s (.tsta c d t) c → ∃ v, exec (.tsta c d t) s = .next v ∧
        Wrote v (acting s c) d 1 (fun _ => phys % 128 + (if x.mxr ≠ 0 then 1024 else 0) + (if x.flip then 2048 else 0)
          + (match x.st with | .empty => 0 | .filling => 4096 | .ready => 8192 | .draining => 12288)
          + (if x.thread then 16384 else 0) + (if x.hold then 32768 else 0)
          + ((List.range 128).filter fun i => x.full.getLsbD i).length * 65536) ∧ MovedOn s v c ∧ RegFrame s v (.tsta c d t) c))

/-! Engines of a thread. -/

/-- R173, R178, R180: BCLS closes the warp's open batch; WAITB closes it and goes on once no more batches than its operand are
outstanding, else it waits for that; QSTA writes a tag's count, state and flags, and refuses a tag past 7.
R175, R177, R179, R173: an ACPY whose lanes pass their checks joins the open batch, or opens one, and stands in flight; the copy
is made when the copy unit completes it, each lane's bytes going to the tile at its offset, and its batch counts one less. STGR joins
its region to the batch in the same way, and takes its tile at once where it can; a tile that the threads own or a packet holds traps.
Where the manual leaves a point open, the model's choice is stated: log 83, 84, 85. -/
def Obligations.BatchesAndCopies : Prop :=
  (∀ c s k, crewAt s s.warp.launch (crewKey s.warp) = some k →
    let u := issued s c
    let shut := setCrew u fun k => closeBatch k s.warp.wid
    (Runs s (.bcls c) c → exec (.bcls c) s = .next (done s (.bcls c) c (settle shut))) ∧
    (∀ b, Runs s (.waitb c b) c →
      let n := srcBits u (acting s c) b 1 0
      let left := fun (t : State) => (crewAt t s.warp.launch (crewKey s.warp)).elim 0 fun k => outstanding k s.warp.wid
      (left (settle shut) ≤ n → exec (.waitb c b) s = .next (done s (.waitb c b) c (settle shut))) ∧
      (n < left (settle shut) → s.warp.waitwin ≠ 0 → ∃ t, exec (.waitb c b) s = .next t ∧
        t.warp.entries = s.warp.entries ∧ t.warp.wait = some (eventOf 2 (s.warp.wid * 16 + n)) ∧ t.warp.resume = some (nextIp s))) ∧
    (∀ d b, Runs s (.qsta c d b) c →
      let n := srcBits u (acting s c) b 1 0
      let t := tagOf k s.warp.wid n
      (7 < n → exec (.qsta c d b) s = .next (takeTrap u 3 2 none (curIp s.warp))) ∧
      (n ≤ 7 → ∃ v, exec (.qsta c d b) s = .next v ∧
        Wrote v (acting s c) d 1 (fun _ => t.count % 256
          + (match t.st with | .free => 0 | .opened => 256 | .closed => 512 | .done => 768)
          + (if t.zf then 1024 else 0) + (if t.err then 2048 else 0)
          + ((openTag k s.warp.wid).elim 0 fun j => 32768 + j * 4096)) ∧ MovedOn s v c ∧ RegFrame s v (.qsta c d b) c)) ∧
    (∀ w j, (∀ i, i < 8 → i ≠ j → (tagOf k w i).st ≠ .opened) → j < 8 → (tagOf k w j).st = .opened →
      (tagOf (closeBatch k w) w j).st ≠ .opened ∧ ((tagOf k w j).count ≠ 0 → (tagOf (closeBatch k w) w j).st = .closed))) ∧
  ((∀ c sz t br b e s l core phys k k1 tag,
    let i := Instr.acpy c sz t br b e
    let u := issued s c
    let r := slotRec u br
    let n := AcpySize.n sz
    let vas := (lanesOf (acting s c &&& ~~~s.warp.helpers)).flatMap fun j =>
      acpyVas r (srcBits u (acting s c) b 1 j) (min (srcBits u (acting s c) e 1 j) n) n
    let accs := l.map fun x => (0, LaneAcc.ok x.2)
    let u0 := touchLanes u accs
    let u1 := if touchesSo accs = true ∧ u0.warp.sb ≠ [] then drain u0 else u0
    let op : AcpyOp :=
      { launch := s.warp.launch, crew := crewKey s.warp, wid := s.warp.wid, tag := tag, core := core, phys := phys,
        lanes := (match acpyLanes u1 (acting s c) r b e n with | .ok y => y | .error _ => l).map fun y : AcpyLane × List (Nat × Nat × Xlat) => y.1 }
    Runs s i c → streamCheck u s.warp.vi r.glz false = none → walksWanted u vas = [] →
    acpyLanes u (acting s c) r b e n = .ok l → tileOfOp u t = .ok (core, phys) → crewOf u = some k →
    threadTile (tileAt u core phys) = true → joinBatch k s.warp.wid = .ok (k1, tag) →
    ∃ v, exec i s = .next v ∧ v.acpys = s.acpys ++ [op] ∧ crewOf v = some k1 ∧
      v.warp.nonReplay = true ∧ BytesKept u1 v ∧ v.tiles = s.tiles ∧ RegsKept s v (acting s c) [] ∧ MovedOn s v c) ∧
  (∀ c a s k k1 tag,
    let i := Instr.stgr c a
    let u := issued s c
    let x := pairS u a + 2 ^ 64 * pairS u (Opnd.plus a 2)
    let r := { regionOf16 x with user := s.warp.space.user }
    let what := StageFor.batch s.warp.launch (crewKey s.warp) s.warp.wid tag
    Runs s i c → crewOf u = some k → joinBatch k s.warp.wid = .ok (k1, tag) →
    (regionBad x = true → exec i s = .next (takeTrap u 0xA 0 none (curIp s.warp))) ∧
    (regionBad x = false → streamCheck u s.warp.vi r.glz false = none →
      (r.tile = none → ∃ v, exec i s = .next v ∧
        v.stageOps = s.stageOps ++ [{ stageOp what r s.warp.asid s.warp.vi s.warp.core none with id := s.fresh }] ∧
        crewOf v = some k1 ∧ v.warp.nonReplay = true ∧ BytesKept s v ∧ RegsKept s v (acting s c) [] ∧ MovedOn s v c) ∧
      ∀ y p, r.tile = some y → k.tiles[y.1]? = some p →
        let held := packetHolds u k.core p
        ((tileAt u k.core p).thread = true ∨ held = true → exec i s = .next (takeTrap u 0xC 2 none (curIp s.warp))) ∧
        ((tileAt u k.core p).thread = false → held = false → ∃ v, exec i s = .next v ∧
          (∃ o, v.stageOps = s.stageOps ++ [o] ∧ o.region = r ∧ o.what = what ∧ o.core = k.core ∧ o.phys = some p ∧
            (canHold (tileAt u k.core p) = true → o.started = true ∧ (tileAt v k.core p).hold = true ∧ (tileAt v k.core p).st = .filling)) ∧
          crewOf v = some k1 ∧ BytesKept s v ∧ RegsKept s v (acting s c) [] ∧ MovedOn s v c))) ∧
  (∀ s j a, s.acpys[j]? = some a → (∀ b ∈ s.acpys.take j, acpyClash b a = false) →
    let t := a.lanes.foldl (fun t l => acpyWrite t a.core a.phys l)
      { acpyErrs s a with acpys := s.acpys.eraseIdx j, free := s.free + 1 }
    exec (.acpyComplete j) s = .next (launchEndIf (crewEndIf (flipGiven
      (batchDone t a.launch a.crew a.wid a.tag (a.lanes.any (·.zf)) false) a.core a.phys) a.launch a.crew) a.launch)) ∧
  (∀ s core phys l, l.stream = 0 →
    (∀ a z r, AcpySrc.mem (.dev a) z r ∈ l.src → (mget none s.llc (a / 128)).isSome = true ∧ a / 128 / 2 ^ 39 ∉ s.unreach) →
    acpyWrite s core phys l = { s with pad := msetRange 0 s.pad (tileBase core phys + l.off) (l.src.map fun x => match x with
      | .val b => b
      | .mem (.host a) _ _ => readHost s a
      | .mem (.dev a) z _ => readDpa s z a) }) ∧
  ∀ k wid k1 tag, joinBatch k wid = .ok (k1, tag) →
    (tagOf k1 wid tag).st = .opened ∧ (tagOf k1 wid tag).count
      = (if (tagOf k wid tag).st = .opened then (tagOf k wid tag).count + 1 else 1) ∧
    ∀ j, j ≠ wid * 8 + tag → mget { st := .free, count := 0, zf := false, err := false, age := 0 } k1.tags j
      = mget { st := .free, count := 0, zf := false, err := false, age := 0 } k.tags j)

/-- R176, R153, R301: QPUT reads the header of the queue and holds a packet for each lane that is no helper until the segment ends, or
with .now claims its indices at once and goes on when all its packets are written; the packet of a lane is the sixteen registers from its
operand. COLL in its four forms reads its record and holds it with its variant. A misaligned address traps.
R153, R176: a put claims its indices by one addition to WRIDX, and writes a packet into each slot while the ring has room for its index.
Where the manual leaves a point open, the model's choice is stated: log 59, 86, 125. -/
def Obligations.PutsAndCollectives : Prop :=
  (∀ c sc now a b s,
    let i := Instr.qput c sc now a b
    let u := issued s c
    let hva := pairS u a
    let lanes := lanesOf (acting s c &&& ~~~s.warp.helpers)
    Runs s i c → s.warp.resume = none →
    (hva % 64 ≠ 0 → exec i s = .next (takeTrap u 7 0 none (curIp s.warp))) ∧
    ∀ bs v x y, hva % 64 = 0 → HeadAs u hva 16 16 bs v →
      let ring := numAt bs 0 8
      let ctl := numAt bs 8 8
      walksWanted v [hva, ring] = [] →
      translate v s.warp.space hva true false = .ok x → translate v s.warp.space ring true false = .ok y → lanes ≠ [] →
      let p : PutOp :=
        { uid := s.warp.uid, hdr := x, hva := hva, hasid := s.warp.asid, ring := y, rva := ring, asid := s.warp.asid, log2n := ctl % 16,
          next := 0, packets := lanes.map (lanePacket v (vecNum b)), now := now }
      let q := claimPut (drain (tlbTouch v s.warp.vi s.warp.asid ring)) p
      (now = false → ∃ t, exec i s = .next t ∧ t.warp.held = s.warp.held ++ [.put p] ∧ MovedOn s t c ∧ BytesKept v t ∧
        WarpKept { v.warp with held := t.warp.held } t.warp ∧ RegsKept s t (acting s c) []) ∧
      (now = true →
        (putting q s.warp.uid = false → exec i s = .next (done s i c q)) ∧
        (putting q s.warp.uid = true → s.warp.waitwin ≠ 0 → ∃ t, exec i s = .next t ∧ WaitsFor t evLine (some (nextIp s)) ∧
          t.puts = q.puts))) ∧
  (∀ s r k, (∀ j, j < 16 → (lanePacket s r k).extractLsb' (32 * j) 32 = rdV s (r + j) k)) ∧
  (∀ s p base, s.puts = [] → base = natOfBytes (readXs s p.hdr 0 8) →
    claimPut s p = runPuts { atomWrite s p.hdr p.hasid p.hva 0 (bytesOfNat 8 (base + p.packets.length)) with
      puts := [{ p with next := base }] }) ∧
  (∀ s p pk rest n,
    let rd := natOfBytes (readXs s p.hdr 8 8)
    let slot := BitVec.ofNat 8 (0x80 + n / 2 ^ p.log2n % 128) :: (bytesOfNat 64 pk.toNat).drop 1
    ((n + 2 ^ 64 - rd) % 2 ^ 64 < 2 ^ p.log2n → putPackets p (pk :: rest) n s
      = putPackets p rest ((n + 1) % 2 ^ 64) (writeX s p.ring p.asid p.rva (64 * (n % 2 ^ p.log2n)) slot)) ∧
    (2 ^ p.log2n ≤ (n + 2 ^ 64 - rd) % 2 ^ 64 → putPackets p (pk :: rest) n s = (s, { p with next := n, packets := pk :: rest }))) ∧
  ∀ c a s,
    let takes := fun (i : Instr) (var : BitVec 2) =>
      let u := issued s c
      let va := pairS u a
      Runs s i c →
      (va % 64 ≠ 0 → exec i s = .next (takeTrap u 7 0 none (curIp s.warp))) ∧
      ∀ bs v, va % 64 = 0 → HeadAs u va 0 64 bs v → ∃ t, exec i s = .next t ∧
        t.warp.held = s.warp.held ++ [.coll va s.warp.asid s.warp.space.user (BitVec.ofNat 512 (natOfBytes bs)) var] ∧ MovedOn s t c ∧
        BytesKept v t ∧ WarpKept { v.warp with held := t.warp.held } t.warp ∧ RegsKept s t (acting s c) []
    takes (.collRs c a) 0 ∧ takes (.collAg c a) 1 ∧ takes (.collA2a c a) 2 ∧ takes (.collRpart c a) 3

/-! The matrix engine. -/

/-- R245 to R249: a gang forms once every member that its operand lists has arrived with the same instruction and values, taking
accumulators of its core that no gang holds, all of them zero, and its register in every member; a member that arrives first waits; a
wrong operand traps; GANG 0 outside a gang has no effect, and dissolving frees the accumulators and the registers.
Where the manual leaves a point open, the model's choice is stated: log 61. -/
def Obligations.Gangs : Prop :=
  (∀ c a s, acting s c = BitVec.allOnes 32 → Runs s (.gangForm c a) c →
    let i := Instr.gangForm c a
    let u := issued s c
    let x := rdS u a.val
    let flag := (launchOf s s.warp.launch).elim 0 (·.image.gang)
    let bad := gangBad x s.warp.wid flag (decide (gangReg u s.warp ≠ 0))
    (x ≠ 0 → bad = true → exec i s = .next (takeTrap (breakFor u i) 3 4 none (curIp (breakFor u i).warp))) ∧
    (x ≠ 0 → bad = false →
      (∀ t l, arrive u i (gangMembers x) [x] = .full t l → gangNz x ≤ (freeAccs t s.warp.core).length → launchMx u s.warp = false →
        exec i s = .next (done s i c (noReplay (releaseMembers (formGang t x) l noReplay)))) ∧
      (∀ t l g f, arrive u i (gangMembers x) [x] = .full t l → gangNz x ≤ (freeAccs t s.warp.core).length → launchMx u s.warp = true →
        (formGang t x).gangs.find? (fun g => g.launch = s.warp.launch && g.crew = crewKey s.warp && g.members = gangMembers x) = some g →
        chargeCones (formGang t x) g = some f → exec i s = .next (done s i c (noReplay (releaseMembers f l noReplay)))) ∧
      (∀ t, arrive u i (gangMembers x) [x] = .waits t → s.warp.waitwin ≠ 0 → ∃ v, exec i s = .next v ∧
        v.warp.entries = s.warp.entries ∧ v.warp.wait = some 0 ∧ v.latches = t.latches)) ∧
    (x = 0 → gangOf u s.warp = none → ∃ t, exec i s = .next t ∧ MovedOn s t c ∧ RegFrame s t i c)) ∧
  (∀ c s, acting s c = BitVec.allOnes 32 → Runs s (.gangDissolve c) c →
    (gangOf (issued s c) s.warp = none → ∃ t, exec (.gangDissolve c) s = .next t ∧ MovedOn s t c ∧ RegFrame s t (.gangDissolve c) c) ∧
    ∀ g t l, gangOf (issued s c) s.warp = some g → arrive (issued s c) (.gangDissolve c) g.members [0] = .full t l →
      gangWork t g = false →
      exec (.gangDissolve c) s = .next (done s (.gangDissolve c) c (settle (dissolve (noReplay (releaseMembers t l noReplay)) g)))) ∧
  (∀ s i ms v t l, arrive s i ms v = .full t l →
    l.members = ms ∧ l.arrived.length = ms.length ∧ (∃ a ∈ l.arrived, a.uid = s.warp.uid) ∧
    ∀ a ∈ l.arrived, a.uid ≠ s.warp.uid → jointKey a.instr = jointKey i ∧ a.scalars = v) ∧
  (∀ s x k, crewAt s s.warp.launch (crewKey s.warp) = some k → gangNz x ≤ (freeAccs s s.warp.core).length →
    ∃ g ∈ (formGang s x).gangs, g.core = s.warp.core ∧ g.members = gangMembers x ∧ g.accs.length = gangNz x ∧ g.cones = false ∧
      (∀ a ∈ g.accs, a < 16 ∧ (∀ h ∈ s.gangs, h.core = s.warp.core → a ∉ h.accs) ∧
        ∀ m n, m < 128 → n < 128 → mget 0 (formGang s x).accs (accKey s.warp.core a m n) = 0) ∧
      ∃ q, crewAt (formGang s x) s.warp.launch (crewKey s.warp) = some q ∧ ∀ w ∈ gangMembers x, mget 0 q.gang w = x) ∧
  ∀ s g k, crewAt s g.launch g.crew = some k → g ∉ (dissolve s g).gangs ∧
    (dissolve s g).conesUsed = (if g.cones then s.conesUsed - 9 else s.conesUsed) ∧
    ∃ q, crewAt (dissolve s g) g.launch g.crew = some q ∧ ∀ w ∈ g.members, mget 0 q.gang w = 0

/-- R252, R257, R258: once every member has arrived at an MMA or MMSP whose operands pass their checks and whose tile the engines own,
READY, the step is queued with the members' fragments, the tile counts one more reader, and every member goes on.
R252, R256, R258, R264, R267: the engine starts a queued step when it reads none; having read, it holds the whole panel and gives the
tile back one reader; completing, it updates every element of its accumulator that has not taken it by the sum of its products and leaves
every other accumulator (R261).
Where the manual leaves a point open, the model's choice is stated: log 87, 88, 90. -/
def Obligations.MatrixStepsAndRendezvous : Prop :=
  (∀ c ta tb logc sw hdr z t b kb s g core phys v v1 l,
    let queues := fun (i : Instr) (sparse : Bool) =>
      let u := issued s c
      let nb := mmaNG sparse tb * (if g.members.length = 4 then 1 else 2)
      let k := srcBits u (acting s c) kb 1 0
      acting s c = BitVec.allOnes 32 → Runs s i c → gangOf u s.warp = some g → gangDead u g = false → z.val < g.accs.length →
      vecNum b + nb - 1 < min 1536 s.warp.nreg → k < 2 ^ logc.toNat → tileOfOp u t = .ok (core, phys) → fenced u g = false →
      arrive u i g.members (jointScalars u i) = .full v l → (tileAt v core phys).thread = false → (tileAt v core phys).st = .ready →
      (tileAt v core phys).hold = false → (if launchMx v s.warp then some v else chargeCones v g) = some v1 →
      ∃ x w, exec i s = .next (done s i c (noReplay (releaseMembers w l noReplay))) ∧ w.mxQueue = v.mxQueue ++ [x] ∧
        x.members = g.members ∧ x.core = core ∧ x.phys = phys ∧ x.acc = g.accs.getD z.val 0 ∧ x.ta = ta ∧ x.tb = tb ∧
        x.sparse = sparse ∧ (sparse = true → x.hdr = hdr) ∧ x.logc = logc.toNat ∧ x.tswz = sw ∧ x.kb = k ∧ x.started = false ∧
        x.uids = l.arrived.map (·.uid) ∧ (tileAt w core phys).mxr = (tileAt v core phys).mxr + 1
    queues (.mma c ta tb logc sw z t b kb) false ∧ queues (.mmsp c ta tb logc sw hdr z t b kb) true) ∧
  ((∀ s core x, (s.mxQueue.any fun y => y.core = core && y.started && !y.readDone) = false → nextStep s core = some x →
    ∃ t, exec (.matrixStepStart core) s = .next t ∧ (∃ y ∈ t.mxQueue, y.core = core ∧ y.started = true) ∧
      t.accs = s.accs ∧ t.pad = s.pad ∧ t.mem = s.mem) ∧
  (∀ s core x, s.mxQueue.find? (fun y => y.core = core && y.started && !y.readDone) = some x →
    ∃ t, exec (.matrixStepReadDone core) s = .next (settle t) ∧
      (∃ y ∈ t.mxQueue, y.seq = x.seq ∧ y.readDone = true ∧ y.aData = mgetRange 0 s.pad (tileBase core x.phys) 16384) ∧
      (tileAt t core x.phys).mxr = (tileAt s core x.phys).mxr - 1 ∧ t.accs = s.accs ∧ t.pad = s.pad) ∧
  (∀ s core x, s.mxQueue.find? (fun y => y.core = core && y.readDone) = some x →
    let t := unorderedFirst s core x.acc x.seq (some x.shape) true
    exec (.matrixStepComplete core) s
      = .next (matrixDone x.launch x.crew { applyStep t x with mxQueue := t.mxQueue.filter fun y => y.seq ≠ x.seq })) ∧
  (∀ s core acc seq shape w, (∀ o ∈ s.mxOps, o.core = core → o.acc = acc → o.seq ≠ seq → o.isFence = true) →
    (∀ y ∈ s.mxQueue, y.core = core → y.acc = acc → y.seq ≠ seq → y.readDone = false ∨ shape = some y.shape) →
    unorderedFirst s core acc seq shape w = s) ∧
  ∀ s x,
    (∀ m n, m < 128 → n < 128 →
      let row := aRow x m
      let col := bCol x n
      let old := mget 0 s.accs (accKey x.core x.acc m n)
      let nan := (aScale x m).isNan || (row.any fun r => r.2.isNan) || (col.1.any Machine.Num.isNan) || (col.2.any Machine.Num.isNan)
      let block := fun (j : Nat) => ((aScale x m).mul (col.2.getD j .nan)).mul
        (sumNum .rne ((row.filter fun r => decide (r.1 / 32 = j)).map fun r => r.2.mul (col.1.getD r.1 .nan)))
      mget 0 (applyStep s x).accs (accKey x.core x.acc m n) =
        if x.done.contains (m * 128 + n) = true then old else BitVec.ofNat 32
          (if nan then canonNan fp32 else msum ((List.range col.2.length).map block ++ [numOf fp32 old.toNat]))) ∧
    ∀ k, (k < accKey x.core x.acc 0 0 ∨ accKey x.core (x.acc + 1) 0 0 ≤ k) → mget 0 (applyStep s x).accs k = mget 0 s.accs k)

/-- R259, R260, R262, R267: MZRO, MRDA and MWRA issue once their gang, accumulator and rows pass the checks, and stand outstanding on
their slot until the engine performs them: zeroing an accumulator, writing rows to registers, or writing rows from the registers as
they were, where no instruction stands beside it that it is not ordered with (R261); MFNC stands while an earlier matrix instruction of the gang does.
Where the manual leaves a point open, the model's choice is stated: log 88, 89. -/
def Obligations.AccumulatorOps : Prop :=
  (∀ c t rm n d z a row s g,
    let u := issued s c
    let at_ := srcBits u (acting s c) row 1 0
    let okAt := fun (i : Instr) (rows : Nat) (lines : Nat) => acting s c = BitVec.allOnes 32 ∧ Runs s i c ∧ gangOf u s.warp = some g ∧
      gangDead u g = false ∧ z.val < g.accs.length ∧ rows + lines ≤ 128 ∧ fenced u g = false
    let stands := fun (i : Instr) (rows : Nat) (data : SMap Word) (v : State) =>
      ∃ o, v.mxOps = s.mxOps ++ [o] ∧ o.instr = i ∧ o.uid = s.warp.uid ∧ o.core = s.warp.core ∧ o.acc = g.accs.getD z.val 0 ∧
        o.row = rows ∧ o.data = data ∧ o.slot = wslot c ∧ v.accs = s.accs ∧ RegsKept s v (acting s c) [] ∧ MovedOn s v c
    (okAt (.mzro c z) 0 0 → ∃ v, exec (.mzro c z) s = .next v ∧ stands (.mzro c z) 0 [] v ∧ v.warp.nonReplay = true) ∧
    (okAt (.mrda c t rm n d z row) at_ n.n → ∃ v, exec (.mrda c t rm n d z row) s = .next v ∧ stands (.mrda c t rm n d z row) at_ [] v) ∧
    (okAt (.mwra c t rm n z a row) at_ n.n → ∃ v, exec (.mwra c t rm n z a row) s = .next v ∧
      stands (.mwra c t rm n z a row) at_ (fragOf u u.warp (vecNum a) (n.n * rpr t)) v ∧ v.warp.nonReplay = true) ∧
    (acting s c = BitVec.allOnes 32 → Runs s (.mfnc c) c →
      (gangOf u s.warp = none → ∃ v, exec (.mfnc c) s = .next v ∧ MovedOn s v c ∧ RegFrame s v (.mfnc c) c) ∧
      (gangOf u s.warp = some g → gangDead u g = false → covered u g s.warp.wid s.fresh = true → ∃ v, exec (.mfnc c) s = .next v ∧
        (∃ o, v.mxOps = s.mxOps ++ [o] ∧ o.instr = .mfnc c ∧ o.seq = s.fresh) ∧ v.accs = s.accs ∧ MovedOn s v c))) ∧
  (∀ s k o, s.mxOps[k]? = some o → o.done = [] →
    (∀ p ∈ s.mxOps, p.core = o.core → p.acc = o.acc → p.seq ≠ o.seq → p.isFence = true) →
    (∀ y ∈ s.mxQueue, y.core = o.core → y.acc = o.acc → y.seq ≠ o.seq → y.readDone = false) →
    let gone := slotDown { s with mxOps := s.mxOps.eraseIdx k } o.uid o.slot
    (∀ c z, o.instr = .mzro c z → exec (.matrixAccOpComplete k) s = .next (matrixDone o.launch o.crew (clearAcc gone o.core o.acc))) ∧
    (∀ c t rm n d z row, o.instr = .mrda c t rm n d z row →
      exec (.matrixAccOpComplete k) s = .next (matrixDone o.launch o.crew (writeOwner gone o.uid (mrdaWrites s o t rm n.n (vecNum d))))) ∧
    (∀ c t rm n z a row, o.instr = .mwra c t rm n z a row →
      exec (.matrixAccOpComplete k) s = .next (matrixDone o.launch o.crew { gone with
        accs := putAccs s.accs (accKey o.core o.acc o.row 0) ((List.range n.n).flatMap (mwraRow o t rm)) }))) ∧
  (∀ s k o c, s.mxOps[k]? = some o → o.instr = .mfnc c →
    exec (.matrixAccOpComplete k) s = .next (matrixDone o.launch o.crew s)) ∧
  (∀ s core acc m n, m < 128 → n < 128 → mget 0 (clearAcc s core acc).accs (accKey core acc m n) = 0) ∧
  ∀ s o rm n d i j l, i < n → j < 4 → l < 32 → o.done = [] → ∃ e ∈ mrdaWrites s o .f32 rm n d, e = (d + 4 * i + j, l,
    BitVec.ofNat 32 (mget 0 s.accs (accKey o.core o.acc (o.row + i) (32 * j + l))).toNat)

/-! Events of segments, records and kilns. -/

/-- R18, R21, R116, R117, R133, R335, R343, R350, R365: a wait past its window ends the segment with its event, and before that nothing
happens; a response reaches the registers of the warp, or of the records that it has become, or the instruction that waits for it; a
completed walk fills the translation cache and lets the warp that waits for it go on; freed pool space writes a held seed; and a join
update that waited for its page is made.
Where the manual leaves a point open, the model's choice is stated: log 33, 34, 70. -/
def Obligations.WaitsAndResponses : Prop :=
  (∀ s ev, s.warp.entries ≠ [] → s.warp.wait = some ev →
    let i := Instr.waitWindowExpiry s.warp.uid
    (s.warp.waitSince + s.warp.waitwin ≤ s.now →
      exec i s = .next (focus (endSegment s (.at ev (s.warp.resume.getD (curIp s.warp)))) s.warp.uid)) ∧
    (s.now < s.warp.waitSince + s.warp.waitwin → exec i s = .next s)) ∧
  (∀ s k x d, s.resps[k]? = some x → x.err = none → x.data = some d →
    (∀ p ∈ x.pieces, p.reg < 1536 ∧ p.lane < 32) → (x.pieces.map fun p => (p.reg, p.lane)).Nodup →
    ∃ t, exec (.responseLand k) s = .next t ∧ t.resps = s.resps.eraseIdx k ∧
      (x.uid = s.warp.uid → s.warp.entries ≠ [] →
        (x.pieces = [] → t.warp.got = s.warp.got ++ [(x.line, d)]) ∧
        (∀ p ∈ x.pieces, mget 0 t.warp.v (p.reg * 32 + p.lane) = pieceValue p d) ∧
        ∀ r j, j < 32 → (r, j) ∉ x.pieces.map (fun p => (p.reg, p.lane)) →
          mget 0 t.warp.v (r * 32 + j) = mget 0 s.warp.v (r * 32 + j)) ∧
      ((∀ w ∈ residents s, w.uid = x.uid → w.entries = []) → (∀ k ∈ s.crews, k.moving = none) → (∀ q ∈ s.recs, ∀ p, q.place ≠ .leaving p) →
        ∀ r ∈ s.recs, r.src = x.uid → r.isKept = false → RecNow t r.rid fun q =>
          ∀ p ∈ x.pieces, p.reg ∈ r.regs → HasLane r.mask p.lane → mget 0 q.v (p.reg * 32 + p.lane) = pieceValue p d)) ∧
  (∀ s asid vpn e psz,
    let vi := (asidEnt s asid).owner
    let u := ptrFill s vi asid (vpn * 65536)
    let tlb := s.tlb ++ [{ vi := vi, asid := asid, vpn := vpn / pszUnits psz * pszUnits psz, psz := psz, leaf := e, hits := 0 }]
    tlbFind s vi asid vpn = none → walk u vi asid (vpn * 65536) = .leaf e psz → e.getLsbD 1 = true →
    ((∀ q ∈ s.walks, ¬(q.asid = asid ∧ q.vpn = vpn)) → exec (.pageWalkComplete asid vpn none) s = .next { u with tlb := tlb }) ∧
    ∀ q, s.walks = [q] → q.asid = asid → q.vpn = vpn → q.uid = s.warp.uid → ∃ t, exec (.pageWalkComplete asid vpn none) s = .next t ∧
      t.tlb = tlb ∧ t.walks = [] ∧ t.warp = { s.warp with walked := s.warp.walked ++ [vpn] }) ∧
  (∀ s asid vpn k x, s.tlb[k]? = some x → x.hits = 0 → exec (.pageWalkComplete asid vpn (some k)) s =
    exec (.pageWalkComplete asid vpn none) { s with tlb := s.tlb.eraseIdx k }) ∧
  (∀ s (l : Launch) c w, s.launches = [l] → l.seeds = [(c, w)] → (∀ k ∈ s.crews, k.moving = none) →
    roomFor s l.id (recSize 32 l.image.nreg) = true → ∃ t, exec (.poolSpaceFreed l.vi) s = .next t ∧
      (∃ m, launchOf t l.id = some m ∧ m.seeds = []) ∧
      ∃ r ∈ t.recs, r.launch = l.id ∧ r.crew = some c ∧ r.wid = w ∧ r.code = l.image.entry ∧ r.mask = BitVec.allOnes 32 ∧
        r.nreg = l.image.nreg ∧ r.cls = l.image.cls ∧ r.join = 0 ∧ r.frame = l.frameVa ∧
        mget 0 r.sr 0 = l.arg.extractLsb' 0 32 ∧ mget 0 r.sr 1 = l.arg.extractLsb' 32 32 ∧
        ∀ k, k < 32 → mget 0 r.tid k = BitVec.ofNat 32 (32 * (l.wpc * c + w) + k)) ∧
  ∀ s j x a, s.joinWaits = [j] → j.rids = [] → j.va % 8 = 0 →
    translate s { vi := j.vi, asid := j.asid, user := true } j.va true false = .ok x → x.rep = none → x.loc = .dev a → a / 2 ^ 46 = s.pkg →
    ∃ t, exec (.joinUpdatePageReady j.asid (j.va / 65536)) s = .next t ∧
      t.joinWaits = [] ∧ readLocs t x.swz x.loc 8 = bytesOfNat 8 (natOfBytes (readLocs s x.swz x.loc 8) + j.amount.toNat)

/-- R20, R174, R266, R336 to R338, R351: an event source wakes the records parked on it whose condition holds, and no others; a saggar's
timer, once it has run its launch's time, makes a gathering saggar DUE; a freed slot goes to the oldest record of the overflow list; and a
saved crew is restored with its tiles.
Where the manual leaves a point open, the model's choice is stated: log 9, 66, 72, 91. -/
def Obligations.RecordsAndSaggars : Prop :=
  (∀ s ev, dbits ev 63 60 ∉ [3, 4] → (s.recs.map (·.rid)).Nodup → Answers (exec (.recordEventFire ev) s) fun t =>
    (∀ r ∈ s.recs, r.place = .parked → r.event = ev → eventHolds s r = true → firable s r.launch r.vi = true →
      RecNow t r.rid fun q => q.place ≠ .parked) ∧
    (∀ r ∈ s.recs, r.place = .parked → r.event ≠ ev → r ∈ t.recs) ∧ t.warp = s.warp ∧ t.bench = s.bench ∧ BytesKept s t) ∧
  (∀ s sid, Answers (exec (.saggarTimerLapse sid) s) fun t => t = { s with saggars := t.saggars } ∧
    ∀ g ∈ s.saggars,
      (g.sid ≠ sid ∨ g.st = .due → g ∈ t.saggars) ∧
      ∀ l, launchOf s g.launch = some l → g.sid = sid → g.st = .gather →
        (g.since + 400 * l.image.timer ≤ s.now → { g with st := .due, dueSince := s.now } ∈ t.saggars) ∧
        (s.now < g.since + 400 * l.image.timer → g ∈ t.saggars)) ∧
  (∀ s core, (∀ r ∈ s.recs, r.place ≠ .overflow core) → exec (.saggarSlotFree core) s = .next s) ∧
  (∀ s core r, oldestOverflow s core = some r → (∀ q ∈ s.recs, q.place = .overflow core → r.since ≤ q.since) ∧
    ((slotCore s core r).isSome = true → Answers (exec (.saggarSlotFree core) s) fun t =>
      ∃ g ∈ t.saggars, r.rid ∈ g.rids ∧ g.launch = r.launch ∧
        (r.kind ≠ .trap → g.trap = false ∧ g.code = r.code ∧ g.crew = r.crew) ∧ (r.kind = .trap → g.trap = true) ∧
        RecNow t r.rid fun q => q.place = .saggar g.sid)) ∧
  ∀ s (c : Crew) (l : Launch) core, crewAt s c.launch c.crew = some c → launchOf s c.launch = some l → c.saved = true →
    (c.moving = none ∧ core = c.core ∨ c.moving = some (0, core) ∨ c.moving = some (1, core / 24)) →
    firable s c.launch l.vi = true → core < 96 → 128 ≤ c.image → crewInFlight s c = false →
    c.tiles.length ≤ (freeTiles s core).length → barSets s core < 64 → savedNeed c ≤ (freeAccs s core).length →
    (∀ k ∈ s.crews, saveWanted s k = false ∧ ∀ p, k.moving ≠ some (2, p)) →
    Answers (exec (.crewRestore c.launch c.crew core) s) fun t =>
      (∃ k, crewAt t c.launch c.crew = some k ∧ k.saved = false ∧ k.core = core ∧ k.moving = none ∧ k.brec = c.brec ∧ k.lrec = c.lrec ∧
        k.tags = c.tags ∧ k.gang = c.gang ∧ k.tiles = (freeTiles s core).take c.tiles.length) ∧
      ∀ i, i < c.tiles.length → ∀ j, j < 16384 →
        mget 0 t.pad (tileBase core ((freeTiles s core).getD i 0) + j) = mget 0 s.pad (tileBase c.image i + j)

/-- R61, R337 to R339, R356: a kiln fires a saggar of the highest class that it may; the firing takes whole records in arrival order, a TRAP
record as one lane; and a record of a whole warp, restored by its live-map entry as that now stands, is resident with its registers where
its mask has them.
Where the manual leaves a point open, the model's choice is stated: log 10, 75, 76, 77, 78, 79, 147. -/
def Obligations.KilnFirings : Prop :=
  (∀ s core g d, choose s core = (some g, d) → g ∈ candidates s core ∧ g.st = .due ∧ held s core g = false ∧
    ∀ h ∈ coneOrder s (candidates s core), effClass s h ≤ effClass s g) ∧
  (∀ rs, let x := takeLanes 0 rs
    x.1 ++ x.2 = rs ∧ x.1.foldl (fun n r => n + recLanes r) 0 ≤ 32 ∧
    ∀ r l, x.2 = r :: l → 32 < x.1.foldl (fun n r => n + recLanes r) 0 + recLanes r) ∧
  (∀ s l r, namesEntry r = false → restored s l r = r) ∧
  (∀ s l r bs, namesEntry r = true → readVa s (liveSpace l) (entryVa l r + 8) 192 = some bs →
    (restored s l r).regs = (List.range r.nreg).filter fun k => (bs.getD (k / 8) 0).getLsbD (k % 8)) ∧
  (∀ s core d, choose s core = (none, d) → victimFor s core = none → exec (.kilnFire core) s = .next { s with deficits := d }) ∧
  ∀ s core g d (r : Rec) (l : Launch), victimFor s core = none → choose s core = (some g, d) →
    (∀ h ∈ s.saggars, h.sid = g.sid → h = g) → g.crew = none → g.trap = false → g.fail = none → launchOf s g.launch = some l →
    saggarRecs s g = [r] → g.rids = [r.rid] → r.kind = .normal → r.crew = none → laneCount r.mask = 32 → liveCheck s l r = .ok →
    let q := restored s l r
    mwf 0 q.v = true →
    Answers (exec (.kilnFire core) s) fun t =>
      (∃ w ∈ residents t, w.core = core ∧ w.launch = l.id ∧ w.vi = l.vi ∧ w.asid = l.asid ∧ w.crew = none ∧
        w.entries = [⟨r.code, r.mask, r.prio⟩] ∧ w.helpers = 0 ∧ w.exited = 0 ∧ w.sr = q.sr ∧ w.frame = r.frame ∧ w.nreg = r.nreg ∧
        w.cls = r.cls ∧ w.slots = [0, 0, 0, 0, 0, 0, 0] ∧ w.sb = [] ∧ w.held = [] ∧ w.priv = (if l.mode = .handler then 1 else 0) ∧
        w.nextAt = s.now ∧ w.firedAt = s.now ∧ w.kept = [r.rid] ∧
        (∀ n k, k < 32 → mget 0 w.v (n * 32 + k) = mget 0 q.v (n * 32 + k) ∧ mget 0 w.tid k = mget 0 r.tid k ∧
          mget 0 w.join k = r.join) ∧
        ∀ n k, n < 15 → k < 32 → (mget 0 w.p n).getLsbD k = (mget 0 q.p n).getLsbD k) ∧
      (∀ h ∈ t.saggars, h.sid ≠ g.sid) ∧ BytesKept s t

/-- R358, R381, R385, R386, R388, R389: watchdogs and soft errors. A warp marked to stop ends 16 microseconds later, as its wait ends or
with every register saved; a segment past its limit is marked; a record past hwdog on a counted wait is tested once more and else traps HANG
as it stood; a pool hold past hwdog suspends its launch; a soft error replays or traps; and a cone epoch, every 100 microseconds while
firmware leads, sets the limit.
Where the manual leaves a point open, the model's choice is stated: log 69, 70, 71, 146, 165. -/
def Obligations.WatchdogsAndErrors : Prop :=
  (∀ s, s.warp.entries ≠ [] → s.warp.marked = true ∨ s.warp.victim = true →
    (s.now < s.warp.markedAt + 64000 → exec (.preemptBoundExpiry s.warp.uid) s = .next s) ∧
    (s.warp.markedAt + 64000 ≤ s.now →
      (s.warp.wait = none → exec (.preemptBoundExpiry s.warp.uid) s = .next (focus (endSegment s
        { SegEnd.at evReady (curIp s.warp) with kind := .preempt, all := true }) s.warp.uid)) ∧
      ∀ ev, s.warp.wait = some ev → exec (.preemptBoundExpiry s.warp.uid) s
        = .next (focus (endSegment s (.at ev (s.warp.resume.getD (curIp s.warp)))) s.warp.uid))) ∧
  (∀ s (l : Launch), s.warp.entries ≠ [] → launchOf s s.warp.launch = some l → Answers (exec (.seglimExpiry s.warp.uid) s) fun t =>
    (s.warp.firedAt + 4000 * l.seglim.toNat < s.now →
      t.warp = { s.warp with marked := true, markedAt := if s.warp.marked then s.warp.markedAt else s.now }) ∧
    (s.now ≤ s.warp.firedAt + 4000 * l.seglim.toNat → t.warp = s.warp)) ∧
  (∀ s (r : Rec) (l : Launch) t0, s.recs.find? (fun x => decide (x.rid = r.rid)) = some r → countedSince s r = some t0 →
    launchOf s r.launch = some l →
    (s.now ≤ t0 + 4000 * l.hwdog.toNat → exec (.hwdogExpiry r.rid) s = .next s) ∧
    (t0 + 4000 * l.hwdog.toNat < s.now →
      (r.place = .parked → eventHolds s r = true → exec (.hwdogExpiry r.rid) s = .next (wakeRec s r)) ∧
      ((r.place = .parked → eventHolds s r = false) → Answers (exec (.hwdogExpiry r.rid) s) fun t =>
        RecNow t r.rid fun q => q.kind = .trap ∧ q.tinfo = tinfoOf 0xE (dbits r.event 63 60) none (decide (r.kind = .gang)) ∧
          q.code = r.code ∧ q.mask = r.mask ∧ q.regs = r.regs ∧ q.v = r.v ∧ q.sr = r.sr ∧ q.p = r.p))) ∧
  (∀ s (r : Rec), firable s r.launch r.vi = true → r.place = .parked →
    countedSince s r = if dbits r.event 63 60 = 5 ∨ dbits r.event 63 60 = 10 then some r.since else none) ∧
  (∀ s id (l : Launch) t0, launchOf s id = some l → l.suspended = false →
    (l.hold = some t0 ∨ ∃ w ∈ residents s, w.launch = id ∧ w.hold = some t0) → t0 + 4000 * l.hwdog.toNat < s.now →
    Answers (exec (.poolHoldExpiry id) s) fun t =>
      Reported s t l.vi 7 id l.asid 0 0 ∧ ∃ m, launchOf t id = some m ∧ m.suspended = true) ∧
  (∀ s e, s.warp.entries ≠ [] →
    (s.warp.nonReplay = true ∨ 2 ≤ s.warp.runs →
      exec (.softError s.warp.uid e) s = .next (focus (takeTrap (corrupt s) 0x11 (softDetail e) none (curIp s.warp)) s.warp.uid)) ∧
    (s.warp.nonReplay = false → s.warp.runs < 2 → (∀ w ∈ s.bench, w.uid ≠ s.warp.uid) → (∀ k ∈ s.crews, k.moving = none) →
      s.warp.priv = 0 → s.warp.held = [] → (s.recs.map (·.rid)).Nodup →
      Answers (exec (.softError s.warp.uid e) s) fun t => t.warp.entries = [] ∧
        ∀ r ∈ s.recs, r.place = .kept s.warp.uid → RecNow t r.rid fun q =>
          q.runs = s.warp.runs + 1 ∧ q.isKept = false ∧ q.code = r.code ∧ q.mask = r.mask ∧ q.v = r.v ∧ q.sr = r.sr)) ∧
  (∀ d, softDetail d = match d with | .residue => 1 | .regParity => 2 | .sram => 3) ∧
  ∀ s n, (leaderOf s = none ∨ 4095 < n ∨ s.now < s.epochAt + 400000 → exec (.coneEpoch n) s = .next s) ∧
    (leaderOf s ≠ none → n ≤ 4095 → s.epochAt + 400000 ≤ s.now →
      (s.coneOver = false → exec (.coneEpoch n) s
        = .next { s with epochAt := s.now, coneLimit := n, coneOver := decide (n < s.conesUsed) }) ∧
      Answers (exec (.coneEpoch n) s) fun t => t.coneLimit = n ∧ t.epochAt = s.now)

/-! Cache slices, controllers and links. -/

/-- R66, R68, R100 to R104, R190, R286, R287: what moves between the L1s, the slices and DRAM moves lines and changes no value that an agent
reads; a filled line answers every read that waits and is held by the L1s that asked for it; a partial write changes the bytes that it names
and no other; and a line that the switch's directory takes back leaves this package.
Where the manual leaves a point open, the model's choice is stated: log 40, 41, 52, 158. -/
def Obligations.CacheEvents : Prop :=
  (∀ s line swz keyed k, Answers (exec (.llcLookup line swz keyed k) s) fun t =>
    LinesKept s t ∧ (keyed = true ∨ k ≠ 0 ∨ mget none s.llc line ≠ none → t = s) ∧
    (keyed = false → k = 0 → mget none s.llc line = none → missOf t line ≠ none)) ∧
  (∀ s line m f, missOf s line = some m → m.fill = some f → mget none s.llc line = none → SetRoom s line 1 → NoneWaits s →
    (∀ c ∈ m.l1, L1Room s c 1) →
    Answers (exec (.llcMissFill line none) s) fun t => BytesKept s t ∧ missOf t line = none ∧ mget none t.llc line ≠ none ∧
      (∀ r ∈ t.resps, r.line = line → r.own = false → r.data ≠ none) ∧ ∀ c ∈ m.l1, ∃ y ∈ t.l1, y.core = c ∧ y.line = line) ∧
  (∀ s line v (x : LlcLine) m f, missOf s line = some m → m.fill = some f → mget none s.llc line = none → SetRoom s line 0 →
    NoneWaits s → (∀ c ∈ m.l1, L1Room s c 1) →
    victimOk s line v = true → mget none s.llc v = some x → x.st = .dirty → missOf s v = none →
    ctrlOf x.swz (v * 128) < s.ctrls.length → (∀ y ∈ s.l1, y.line ≠ v) → lineWrites s v = [] →
    Answers (exec (.llcMissFill line (some v)) s) fun t => LineKept s t line ∧ mget none t.llc v = none ∧
      ∀ i, i < 128 → readDpa t x.swz (v * 128 + i) = readDpa s x.swz (v * 128 + i)) ∧
  (∀ s line, missOf s line = none → ∀ v, exec (.llcMissFill line v) s = .next s) ∧
  (∀ s line swz mask data, (mask = fullMask → SetRoom s line 1 ∧ NoneWaits s ∧
      ∀ m, missOf s line = some m → ∀ c ∈ m.l1, L1Room s c 1) →
    Answers (exec (.llcPartialWrite line swz ⟨mask, data⟩) s) fun t =>
      (∀ z i, i < 128 → readDpa t z (line * 128 + i) =
        if mask.getLsbD i then lineByte data i else readDpa s swz (line * 128 + i)) ∧
      (∀ n, n ≠ line → LineKept s t n) ∧
      (mget none s.llc line = none → (∀ y ∈ s.l1, y.line ≠ line) → missOf s line = none → mask ≠ fullMask →
        ∃ m, missOf t line = some m ∧ m.swz = swz ∧ m.mask = mask)) ∧
  (∀ s core line (x : L1Line), s.l1.find? (fun y => decide (y.core = core ∧ y.line = line)) = some x →
    (x.writable = true → SetRoom s line 1 ∧ NoneWaits s ∧ (∀ y ∈ s.l1, y.line = line → y.writable = true → y.core = core) ∧
      ∀ m, missOf s line = some m → core ∉ m.l1 ∧ ∀ c ∈ m.l1, L1Room s c 1) →
    (x.writable = false → ∀ y ∈ s.l1, y.core = core → y.line = line → y.writable = false) →
    Answers (exec (.llcWriteback core line) s) fun t => BytesKept s t ∧ (∀ y ∈ t.l1, ¬(y.core = core ∧ y.line = line)) ∧
      (x.writable = true → missOf t line = none ∧ ∃ l, mget none t.llc line = some l ∧ l.data = x.data ∧
        l.st = if line / 2 ^ 39 = s.pkg then .dirty else .rown)) ∧
  (∀ s line, Answers (exec (.l1Recall line) s) fun t => BytesKept s t ∧ ∀ y ∈ t.l1, y.line ≠ line) ∧
  (∀ s line ex, line / 2 ^ 39 = s.pkg → exec (.directoryRecall line ex) s = .next s) ∧
  ∀ s line ex x, line / 2 ^ 39 ≠ s.pkg → mget none s.llc line = some x → missOf s line = none →
    (∀ y ∈ s.l1, y.line ≠ line) → lineWrites s line = [] →
    Answers (exec (.directoryRecall line ex) s) fun t =>
      (ex = false → LineKept s t line ∧ mget none t.llc line = some { x with st := .rsh } ∧
        s.pkg ∈ (dirOf t line).rsh ∧ (dirOf t line).rown = none) ∧
      (ex = true → mget none t.llc line = none ∧ s.pkg ∉ (dirOf t line).rsh ∧ (dirOf t line).rown ≠ some s.pkg ∧
        (x.st = .rown → ∀ i, i < 128 → readDpa t x.swz (line * 128 + i) = readDpa s x.swz (line * 128 + i)))

/-- R69, R73 to R75, R92, R102, R103, R386: controllers. A read gives its miss entry or its request the data, or the error that the code
detects; a write leaves the line's value; scrubbing and refresh change none; and the congestion level rises past 85% and 95% of 512 places
and falls at 90% and 75%.
Where the manual leaves a point open, the model's choice is stated: log 41, 42, 43. -/
def Obligations.ControllerEvents : Prop :=
  (∀ s c q m, firstRead (s.ctrls.getD c Ctrl.reset).queue [] = some q → q.what = .fill → lineErr s q.rep q.line = none →
    lineBad s q.line = false → missOf s q.line = some m → m.fill = none → m.swz = q.swz → NoneWaits s → (∀ x ∈ s.misses, x.sent = true) →
    Answers (exec (.controllerRead c) s) fun t => BytesKept s t ∧
      missOf t q.line = some { m with fill := some (dramLine s q.swz q.line) } ∧
      ((t.ctrls.getD c Ctrl.reset).queue = (s.ctrls.getD c Ctrl.reset).queue.erase q)) ∧
  (∀ s c q e, firstRead (s.ctrls.getD c Ctrl.reset).queue [] = some q → lineErr s q.rep q.line = some e →
    Answers (exec (.controllerRead c) s) fun t =>
      (q.what = .fill → missOf t q.line = none ∧ ∀ r ∈ t.resps, r.line = q.line → r.own = false → r.data = none → r.err = some e) ∧
      (q.what = .resp → ∀ r ∈ s.resps, r.uid = q.uid → r.line = q.line → r.own = true → r.stream = q.stream → r.data = none →
        r.err = none → { r with err := some e } ∈ t.resps)) ∧
  (∀ s c q, firstRead (s.ctrls.getD c Ctrl.reset).queue [] = some q → q.what = .resp → lineErr s q.rep q.line = none →
    Answers (exec (.controllerRead c) s) fun t => ∀ r ∈ s.resps, r.uid = q.uid → r.line = q.line → r.own = true →
      r.stream = q.stream → r.data = none → r.err = none →
      ∃ d, { r with data := some d } ∈ t.resps ∧ (q.stream = 0 → d = cohLine s q.swz (servingLine s q.rep q.line))) ∧
  (∀ s c q data, firstWrite (s.ctrls.getD c Ctrl.reset).queue = some q → q.what = .write fullMask data →
    lineWrites s q.line = [q] → (∀ m, missOf s q.line = some m → m.swz = q.swz) →
    Answers (exec (.controllerWrite c) s) fun t => dramLine t q.swz q.line = data ∧ dramCells t q.swz q.line = data ∧
      ∀ i, i < 128 → readDpa t q.swz (q.line * 128 + i) = readDpa s q.swz (q.line * 128 + i)) ∧
  (∀ s c, (firstRead (s.ctrls.getD c Ctrl.reset).queue [] = none → exec (.controllerRead c) s = .next s) ∧
    (firstWrite (s.ctrls.getD c Ctrl.reset).queue = none → exec (.controllerWrite c) s = .next s)) ∧
  (∀ s c, Answers (exec (.patrolScrub c) s) fun t => BytesKept s t ∧
    ∀ l, l ∈ t.weak ↔ l ∈ s.weak ∧ ¬(ctrlOf (lineSwz s l) (l * 128) = c ∧ regionOf (l * 128) ∈ s.live)) ∧
  (∀ s c, exec (.refresh c) s = .next s) ∧
  (∀ s c n, 512 < n ∨ n < (s.ctrls.getD c Ctrl.reset).queue.length → exec (.congestionLevel c n) s = .next s) ∧
  ∀ s c n k, n ≤ 512 → s.ctrls[c]? = some k → k.queue.length ≤ n → k.level ≤ 2 →
    Answers (exec (.congestionLevel c n) s) fun t => t.ctrls[c]? = some { k with level :=
      if 486 < n ∨ (k.level = 2 ∧ 460 < n) then 2 else if 435 < n ∨ (1 ≤ k.level ∧ 384 < n) then 1 else 0 } ∧
    ∀ j, j ≠ c → t.ctrls[j]? = s.ctrls[j]?

/-- R288, R289, R297: links and beacons. A group goes out under the next number with its CRC-64; one that is awaited and whose tag verifies
is released once, in sequence, and any other is discarded whole, the one awaited being asked for again when its tag fails; a replay sends the
buffer again from the group asked for; a link whose group has failed eight replays goes down, its groups without acknowledgement moving to
another; with no link left no other package is reachable, and with all links of one down that one is not; a beacon sets GTC once, and later
ones only set by how much it is to be slewed; and ten milliseconds without one are reported.
Where the manual leaves a point open, the model's choice is stated: log 114, 115, 116. -/
def Obligations.LinksAndBeacons : Prop :=
  (∀ l data, (sendGroup l data).txOut = l.txOut ++ [⟨l.txSeq, data, BitVec.ofNat 64 (crc64 (bytesOfNat 256 data.toNat))⟩] ∧
    (sendGroup l data).txSeq = l.txSeq + 1 ∧ (l.txBuf.length ≤ 8 → (sendGroup l data).txBuf.length ≤ 8)) ∧
  (∀ s k l seq data tag, s.links[k]? = some l → Answers (exec (.flitGroupReceive k seq data tag) s) fun t =>
    t.links[k]? = some (if l.up = false ∨ seq ≠ l.rxNext then l
      else if crc64 (bytesOfNat 256 data.toNat) ≠ tag.toNat then { l with fails := l.fails + 1, asks := l.asks ++ [seq] }
      else { l with fails := 0, rxNext := l.rxNext + 1, rxOut := l.rxOut ++ [data] }) ∧
    (∀ j, j ≠ k → t.links[j]? = s.links[j]?) ∧ { t with links := s.links } = s) ∧
  (∀ s k l seq, s.links[k]? = some l → l.up = true → Answers (exec (.groupReplay k seq) s) fun t =>
    ∃ x, t.links[k]? = some x ∧ x.txOut = l.txOut ++ l.txBuf.dropWhile (fun g => decide (g.seq ≠ seq)) ∧ x.txBuf = l.txBuf ∧
      (∀ j g, l.txBuf[j]? = some g → g.seq = seq → (∀ i h, i < j → l.txBuf[i]? = some h → h.seq ≠ seq) → x.acked = j) ∧
      x.askedRun = (if l.asked = seq then l.askedRun + 1 else 1) ∧ { t with links := s.links } = s) ∧
  (∀ s k l, k < 32 → s.links[k]? = some l → (l.up = false ∨ (l.fails ≤ 8 ∧ l.askedRun ≤ 8) → exec (.linkDown k) s = .next s) ∧
    (l.up = true → 8 < l.fails ∨ 8 < l.askedRun → Answers (exec (.linkDown k) s) fun t =>
      (∃ x, t.links[k]? = some x ∧ x.up = false) ∧ Reported s t 0 1 0 0 0 (BitVec.ofNat 64 k) ∧
      ((∀ j x, j ≠ k → s.links[j]? = some x → x.up = false) → ∀ p, p < s.domain → p ≠ s.pkg → p ∈ t.unreach) ∧
      ((∃ j x, j ≠ k ∧ s.links[j]? = some x ∧ x.up = true) → t.unreach = s.unreach ∧
        ∃ j x y, j ≠ k ∧ s.links[j]? = some x ∧ x.up = true ∧ t.links[j]? = some y ∧
          y.txOut.map (·.data) = x.txOut.map (·.data) ++ (l.txBuf.drop l.acked).map (·.data)))) ∧
  (∀ s p k, p < s.domain → p ≠ s.pkg → k < 20 → Answers (exec (.linkDown (32 * (p + 1) + k)) s) fun t =>
    mget 0 t.peerDown p = mget 0 s.peerDown p ||| 2 ^ k ∧ (mget 0 t.peerDown p = 2 ^ 20 - 1 → p ∈ t.unreach) ∧
    (mget 0 t.peerDown p ≠ 2 ^ 20 - 1 → t.unreach = s.unreach) ∧ t.links = s.links) ∧
  (∀ s v, Answers (exec (.beaconArrive v) s) fun t => t.gtc.arriving = true ∧ t.gtc.beaconAt = s.now ∧
    (s.gtc.aligned = false → s.gtc.trained = false → t.gtc.value = v) ∧
    (s.gtc.aligned = true ∨ s.gtc.trained = true → t.gtc.value = s.gtc.value ∧ t.gtc.slew = (v - s.gtc.value).toInt) ∧
    (s.gtc.aligned = true → s.gtc.arriving = false → Reported s t 0 3 0 0 0 0)) ∧
  ∀ s, (s.now < s.gtc.beaconAt + 40000000 → exec .beaconTimeout s = .next s) ∧
    (s.gtc.beaconAt + 40000000 ≤ s.now → Answers (exec .beaconTimeout s) fun t => t.gtc.value = s.gtc.value ∧ t.gtc.slew = 0 ∧
      t.gtc.arriving = false ∧ t.gtc.trained = true ∧ (s.gtc.arriving = true → Reported s t 0 2 0 0 0 0))

/-! Queues and packets. -/

/-- R153 to R155, R157, R166, R168, R363, R368 to R370: a doorbell or a scan maps a queue that has work, in place of one mapped for 2 ms
where no slot is free; a packet is accepted when its VALID byte is that of its index; FENCE is done once it may start; INDIRECT runs its
block as packets of its queue; and a packet's end raises its completion word, or writes ERR and halts its queue.
Where the manual leaves a point open, the model's choice is stated: log 93, 94, 100, 124. -/
def Obligations.PacketFlow : Prop :=
  (∀ s vi (x : DWord) q, s.boot.ready = true → queueAt s vi x.toNat = some q → q.slot = none → queueLive s q = true →
    queueWork s q = true →
    ((mappedQueues s).length < 256 → Answers (exec (.doorbell vi x) s) fun t =>
      queueAt t vi x.toNat = some { q with slot := some s.now }) ∧
    ∀ o at_, 256 ≤ (mappedQueues s).length → oldestMapped (mappedQueues s) = some o → o.slot = some at_ →
      (s.now < at_ + 8000000 → exec (.doorbell vi x) s = .next s) ∧
      (at_ + 8000000 ≤ s.now → queueAt s o.vi o.hva = some o → Answers (exec (.doorbell vi x) s) fun t =>
        queueAt t vi x.toNat = some { q with slot := some s.now } ∧ queueAt t o.vi o.hva = some { o with slot := none })) ∧
  (∀ s, s.queues.length ≤ 256 → (s.queues.map fun q => (q.vi, q.hva)).Nodup → Answers (exec .queueScan s) fun t =>
    ∀ q ∈ s.queues, queueLive s q = true → queueWork s q = true →
      ∃ r ∈ t.queues, r.vi = q.vi ∧ r.hva = q.hva ∧ r.slot ≠ none) ∧
  (∀ s vi hva q n bs, queueAt s vi hva = some q → q.slot ≠ none → queueLive s q = true → read64 s (ctlSpace q) (hva + 8) = some n →
    readVa s { vi := vi, asid := q.asid, user := true } (q.ring + 64 * (n % 2 ^ q.log2n)) 64 = some bs →
    (numAt bs 0 1 ≠ 0x80 + n / 2 ^ q.log2n % 128 → exec (.packetAccept vi hva) s = .next s) ∧
    (numAt bs 0 1 = 0x80 + n / 2 ^ q.log2n % 128 → Answers (exec (.packetAccept vi hva) s) fun t => ∃ p ∈ t.packets,
      p.pid = s.fresh ∧ p.raw = BitVec.ofNat 512 (natOfBytes bs) ∧ p.idx = n ∧ p.queue = some hva ∧ p.vi = vi ∧
      p.asid = q.asid ∧ p.user = true ∧ p.st = .accepted ∧ p.status = 0 ∧ p.parent = none ∧
      ∀ u, Calm s → writeVa { s with fresh := s.fresh + 1, packets := s.packets ++ [p] } (ctlSpace q) (hva + 8) (bytesOfNat 8 (n + 1))
        = some u → BytesKept u t)) ∧
  (∀ s p, TakesUp s p 9 → Answers (exec (.fence p.pid) s) fun t =>
    (pktNum p 16 48 = 0 → PktIs t p.pid .moved p.status) ∧ (pktNum p 16 48 ≠ 0 → p.status = 0 → PktIs t p.pid .failed 1)) ∧
  (∀ s p, TakesUp s p 8 → p.st = .accepted → p.status = 0 →
    (p.parent ≠ none → Answers (exec (.indirect p.pid) s) fun t => PktIs t p.pid .failed 0x18) ∧
    (let n := pktNum p 24 4
     p.parent = none → pktNum p 16 8 < 2 ^ 52 → pktNum p 16 8 % 64 = 0 → 0 < n → n ≤ 2 ^ 20 → pktNum p 28 36 = 0 →
      (asidOk s p.vi p.asid = false → Answers (exec (.indirect p.pid) s) fun t => PktIs t p.pid .failed 0x12) ∧
      ∀ bs, asidOk s p.vi p.asid = true → engineBytes s (pktSpace p) (pktNum p 16 8) (64 * n) = .ok bs →
        Answers (exec (.indirect p.pid) s) fun t =>
          (∃ q ∈ t.packets, q.pid = p.pid ∧ q.st = .started ∧ q.left = n) ∧
          ∀ j, j < n → ∃ x ∈ t.packets, x.pid = s.fresh + j ∧ x.raw = BitVec.ofNat 512 (numAt bs (64 * j) 64) ∧
            x.parent = some p.pid ∧ x.queue = p.queue ∧ x.vi = p.vi ∧ x.asid = p.asid ∧ x.user = p.user ∧ x.st = .accepted)) ∧
  (∀ s p x a, findPkt s p.pid = some p → p.st = .moved → cwRaised p = true →
    let u := tlbTouch s p.vi p.asid (pktCw p)
    translate u (pktSpace p) (pktCw p) true false = .ok x → x.loc = .dev a → a / 2 ^ 46 = s.pkg → a % 8 = 0 → x.rep = none → Calm s →
    Answers (exec (.packetComplete p.pid) s) fun t => (∀ q ∈ t.packets, q.pid ≠ p.pid) ∧
      readLocs t x.swz x.loc 8 = bytesOfNat 8 (max (natOfBytes (readLocs s x.swz x.loc 8)) (pktSeq p))) ∧
  ∀ s p h q, findPkt s p.pid = some p → p.st = .failed → p.queue = some h → queueAt s p.vi h = some q → cwRaised p = false →
    (∀ psz, translate s (ctlSpace q) (h + 32) true false = .nores psz → Answers (exec (.packetComplete p.pid) s) fun t =>
      PktIs t p.pid .failed p.status ∧ ∃ r, queueAt t p.vi h = some r ∧ r.halted = true) ∧
    ∀ x a, translate s (ctlSpace q) (h + 32) true false = .ok x → x.loc = .dev a → a / 2 ^ 46 = s.pkg → a % 8 = 0 → x.rep = none →
      Calm s → Answers (exec (.packetComplete p.pid) s) fun t => (∀ x ∈ t.packets, x.pid ≠ p.pid) ∧
        (∃ r, queueAt t p.vi h = some r ∧ r.halted = true ∧ r.slot = none) ∧
        let e := natOfBytes (readLocs s x.swz x.loc 8)
        readLocs t x.swz x.loc 8 = bytesOfNat 8 (if e.testBit 63 then e else p.idx % 2 ^ 40 + p.status.toNat * 2 ^ 40 + 2 ^ 63)

/-- R161 to R166, R169, R171, R172, R184, R186: COPY gives its destination its source's bytes, or the pattern's; TCOPY takes its tile, reads
the lines of its panel or writes it; a tile's lines are written as their source is read, and its holder lets it go READY, or to the threads;
STAGE hands its regions to the stage engine, which brings a region in or reports why not.
Where the manual leaves a point open, the model's choice is stated: log 80, 81, 82, 95, 96, 97, 98. -/
def Obligations.CopyEngines : Prop :=
  (∀ s p, TakesUp s p 1 → p.status = 0 →
    (p.st = .accepted → copyBad p = true → Answers (exec (.copy p.pid) s) fun t => PktIs t p.pid .failed 1) ∧
    (copyBad p = false → (copyOf p).dtile = false → streamCheck s p.vi (copyOf p).sglz false = none →
      streamCheck s p.vi (copyOf p).dglz true = none → ∀ x, copyCheck s p = .status x →
      Answers (exec (.copy p.pid) s) fun t => PktIs t p.pid .failed x)) ∧
  (∀ s p xs xd,
    let c := copyOf p
    let r := copyBytes s p
    let ls := c.src / 128 * 128
    let ld := c.dst / 128 * 128
    TakesUp s p 1 → copyBad p = false → c.dtile = false → c.sglz = 0 → c.dglz = 0 → copyCheck s p = .ok →
    c.src % 128 + c.len ≤ 128 → c.dst % 128 + c.len ≤ 128 →
    (c.fill = false → translate (tlbTouch s p.vi p.asid ls) (pktSpace p) ls false false = .ok xs) →
    translate (tlbTouch r.1 p.vi p.asid ld) (pktSpace p) ld true false = .ok xd → xd.rep = none →
    (∀ d, xd.loc = .dev d → d / 2 ^ 46 = s.pkg ∧ (c.len < 128 ∨ missOf r.1 (d / 128) = none)) →
    Answers (exec (.copy p.pid) s) fun t => PktIs t p.pid .moved p.status ∧
      ∀ i, i < c.len → readLoc t xd.swz (xd.loc.add (c.dst % 128 + i)) =
        if c.fill then BitVec.ofNat 8 (c.pat / 256 ^ (i % 4)) else readX s xs (c.src % 128 + i)) ∧
  (∀ s p, TakesUp s p 2 →
    (∀ st, p.tile = none → p.status = 0 → tcopyCheck s p = .status st → Answers (exec (.tcopy p.pid) s) fun t => PktIs t p.pid .failed st) ∧
    ∀ core phys off len, p.tile = some (core, phys, off, len) →
      let x := panelAt p
      let lost := x.lay.enc && (keyFor s p.vi x.lay.key).isNone
      (lost = true → p.status = 0 → Answers (exec (.tcopy p.pid) s) fun t => PktIs t p.pid .failed 6) ∧
      (∀ v vs, lost = false → (tcopyOf p).out = false → hasRead p x.lines = false →
        (x.lines.filter fun l => !(p.got.any fun e => e.1 = l)).filter
          (fun l => decide (lineCheck s (pktSpace p) x.lay.glz l false = .ok)) = v :: vs →
        let r := readLines s (pktSpace p) (layKey s p.vi x.lay) x.lay.glz (v :: vs)
        exec (.tcopy p.pid) s = .next (setPkt r.1 p.pid fun q => { q with got := q.got ++ r.2 })) ∧
      (lost = false → (tcopyOf p).out = true → p.done = [] →
        let cells := x.cells (padBytes s core phys 0 16384)
        linesCheck s (pktSpace p) x.lay.glz true ((cells.map fun c => c.1 / 128).dedup) = .ok →
        exec (.tcopy p.pid) s = .next (setPkt (writeCells s (pktSpace p) (layKey s p.vi x.lay) x.lay.glz cells) p.pid fun q =>
          { q with done := lineSpan off len }))) ∧
  (∀ s p core phys off len flip write, let t := tileAt s core phys
    (t.hold = true → takeTile s p core phys off len flip write = .ok none) ∧
    (t.hold = false → t.thread = false → t.mxr = 0 → ∀ id c l, t.crew = some (id, c) → launchOf s id = some l →
      (l.vi ≠ p.vi → takeTile s p core phys off len flip write = .error 0xD) ∧
      (l.vi = p.vi → ∃ u, takeTile s p core phys off len flip write = .ok (some u) ∧ (tileAt u core phys).hold = true ∧
        (tileAt u core phys).flip = flip ∧ (tileAt u core phys).st = (if write then .filling else .draining)))) ∧
  (∀ s p tile v vs, let c := copyOf p
    TakesUp s p 1 → p.st = .started → c.dtile = true → c.fill = false → p.tile = some tile →
    ((vaLines c.src c.len).filter fun l => !(p.got.any fun e => e.1 = l)).filter
      (fun l => decide (lineCheck s (pktSpace p) c.sglz l false = .ok)) = v :: vs →
    let r := readLines s (pktSpace p) none c.sglz (v :: vs)
    exec (.copy p.pid) s = .next (setPkt r.1 p.pid fun q => { q with got := q.got ++ r.2 })) ∧
  (∀ p core phys off len line b, let c := copyOf p
    let lo := max off (line * 128)
    let hi := min (off + len) ((line + 1) * 128)
    p.tile = some (core, phys, off, len) → pktKind p = 1 → off ≤ b → b < off + len → b / 128 = line →
    (c.fill = true ∨ hasRead p (vaLines (c.src + (lo - off)) (hi - lo)) = true) → ∃ cs, fillCells p line = some cs ∧
      (b, if c.fill then BitVec.ofNat 8 (c.pat / 256 ^ ((b - off) % 4)) else byteIn p.got (c.src + (b - off))) ∈ cs) ∧
  (∀ s p core phys off len line cs, findPkt s p.pid = some p → p.st = .started → p.tile = some (core, phys, off, len) →
    line ∈ lineSpan off len → line ∉ p.done → fillCells p line = some cs → Calm s →
    Answers (exec (.tileLineWritten p.pid line) s) fun t =>
      (∀ b x, cs.reverse.find? (fun c => decide (c.1 = b)) = some (b, x) → mget 0 t.pad (tileBase core phys + b) = x) ∧
      ∃ q, findPkt t p.pid = some q ∧ q.done = p.done ++ [line]) ∧
  (∀ s p core phys off len, findPkt s p.pid = some p → p.st = .started → p.tile = some (core, phys, off, len) →
    (∀ l ∈ lineSpan off len, l ∈ p.done) → Calm s → (∀ k ∈ s.crews, k.staged = true) →
    let x := tileAt s core phys
    (∀ id c, x.crew = some (id, c) → (crewAt s id c).isSome = true) → Answers (exec (.tileHolderComplete p.pid) s) fun t =>
      PktIs t p.pid .moved p.status ∧ (tileAt t core phys).hold = false ∧ (tileAt t core phys).st = .ready ∧
      (tileAt t core phys).thread = (x.thread || x.flip) ∧ (tileAt t core phys).full = if x.flip then fullMask else x.full) ∧
  (∀ s p core phys off len id c, findPkt s p.pid = some p → p.st = .started → p.tile = some (core, phys, off, len) →
    (∀ l ∈ lineSpan off len, l ∈ p.done) → Calm s → (∀ k ∈ s.crews, k.staged = true) →
    (tileAt s core phys).crew = some (id, c) → crewAt s id c = none → Answers (exec (.tileHolderComplete p.pid) s) fun t =>
      PktIs t p.pid .moved p.status ∧ tileAt t core phys = { Tile.reset with lastVi := (tileAt s core phys).lastVi }) ∧
  (∀ s p, TakesUp s p 3 → p.st = .accepted →
    let xs := ([16, 32, 48].map fun b => pktNum p b 16).filter fun x => decide (x ≠ 0)
    ((∃ x ∈ xs, regionBad x = true ∨ (regionOf16 x).tile ≠ none) → p.status = 0 →
      Answers (exec (.stage p.pid) s) fun t => PktIs t p.pid .failed 1) ∧
    ((∀ x ∈ xs, regionBad x = false ∧ (regionOf16 x).tile = none) →
      ((∃ x ∈ xs, streamCheck s p.vi (regionOf16 x).glz false ≠ none) → p.status = 0 →
        Answers (exec (.stage p.pid) s) fun t => PktIs t p.pid .failed 7) ∧
      (xs = [] → Answers (exec (.stage p.pid) s) fun t => PktIs t p.pid .moved p.status) ∧
      ((∀ x ∈ xs, streamCheck s p.vi (regionOf16 x).glz false = none) → xs ≠ [] → Answers (exec (.stage p.pid) s) fun t =>
        (∃ q, findPkt t p.pid = some q ∧ q.st = .started ∧ q.left = xs.length) ∧
        ∀ (j x : Nat), xs[j]? = some x → ∃ o, t.stageOps[s.stageOps.length + j]? = some o ∧ o.id = s.fresh + j ∧ o.what = .packet p.pid ∧
          o.region = { regionOf16 x with user := p.user } ∧ o.asid = p.asid ∧ o.vi = p.vi ∧ o.phys = none ∧ o.started = true))) ∧
  (∀ s k (o : StageOp) x d, s.stageOps[k]? = some o → o.phys = none → stageCheck s o = .ok → o.region.glz = 0 → 0 < o.region.len →
    o.region.base % 128 + o.region.len ≤ 128 →
    translate (tlbTouch s o.vi o.asid o.region.base) (stageSpace o) o.region.base false false = .ok x → x.loc = .dev d →
    d / 2 ^ 46 = s.pkg → lineBad s (d / 128) = false → SetRoom s (d / 128) 1 → NoneWaits s →
    (∀ m, missOf s (d / 128) = some m → ∀ c ∈ m.l1, L1Room s c 1) →
    Answers (exec (.stageRegionResident k) s) fun t => mget none t.llc (d / 128) ≠ none ∧
      (∀ i, i < 128 → readDpa t x.swz (d / 128 * 128 + i) = readDpa s x.swz (d / 128 * 128 + i)) ∧ (∀ n, n ≠ d / 128 → LineKept s t n) ∧
      ∀ sid, o.what = .saggar sid → t.saggars = s.saggars.map fun g => if g.sid = sid then { g with staging := g.staging - 1 } else g) ∧
  (∀ s k (o : StageOp) p tile off, s.stageOps[k]? = some o → o.phys = some p → o.region.tile = some (tile, off) → o.started = true →
    o.buf ≠ [] → o.buf.length = o.region.len → off % 128 = 0 → Calm s →
    Answers (exec (.stageRegionResident k) s) fun t =>
      ∀ l ∈ stageLeft o, ∀ i, i < 128 → l * 128 + i < off + o.region.len →
        mget 0 t.pad (tileBase o.core p + l * 128 + i) = o.buf.getD (l * 128 + i - off) 0) ∧
  ∀ s k (o : StageOp) st, s.stageOps[k]? = some o → o.phys = none → stageCheck s o = .status st →
    Answers (exec (.stageRegionFail k st) s) fun t =>
      ∀ sid, o.what = .saggar sid → t.stageOps = s.stageOps.eraseIdx k ∧ t.saggars = s.saggars.map fun g =>
        if g.sid = sid then { g with staging := g.staging - 1, fail := some (g.fail.getD st) } else g

/-- R87, R89 to R91, R94, R96, R167: GLZLOAD. LOAD installs a good configuration on a bound stream with its side outputs clear, and on a
loaded one waits for the drain, the histogram being claimed meanwhile; UNLOAD waits for the drain; READ writes the side record, and READCLR
clears what it reads; at the drain a marked change is made, and a stream that firmware unbinds is FREE.
Where the manual leaves a point open, the model's choice is stated: log 29, 151. -/
def Obligations.GlazeLoads : Prop :=
  (∀ s k sat, let b := sideRecord s k sat
    let ds := (List.range 12).map fun c => digestOf s c k
    b.length = 64 ∧ numAt b 0 8 = (ds.map fun d => d.sum64.toNat).sum % 2 ^ 64 ∧
    numAt b 8 4 = (ds.foldl (fun x d => x ^^^ d.crcx) (0 : Word)).toNat ∧
    numAt b 12 4 = (if sat then 1 else 0) + (if s.histOwner = some (.stream k.toNat) then 2 else 0) ∧
    numAt b 16 8 = (ds.map fun d => d.lines.toNat).sum % 2 ^ 64 ∧ numAt b 24 40 = 0) ∧
  (∀ s p v, let k := glzStream p
    TakesUp s p 4 → glzBad p = false → k ≠ 0 → (streamOf s k).st = .bound v ∨ (streamOf s k).st = .loaded v →
    (v ≠ p.vi → p.status = 0 →
      (pktNum p 16 8 % 4 = 0 → Answers (exec (.glzloadLoad p.pid) s) fun t => PktIs t p.pid .failed 0xB) ∧
      (pktNum p 16 8 % 4 = 1 → Answers (exec (.glzloadUnload p.pid) s) fun t => PktIs t p.pid .failed 0xB)) ∧
    (v = p.vi → (streamOf s k).changing = false → pktNum p 16 8 % 4 = 0 → ∀ bs,
      engineBytes s (pktSpace p) (pktNum p 24 8) 1024 = .ok bs →
      let c := BitVec.ofNat 8192 (natOfBytes bs)
      (cfgBad c = true → p.status = 0 → Answers (exec (.glzloadLoad p.pid) s) fun t => PktIs t p.pid .failed 8) ∧
      (cfgBad c = false → cfgMode c 5 = true → (∃ o, s.histOwner = some o ∧ o ≠ .stream k.toNat) → p.status = 0 →
        Answers (exec (.glzloadLoad p.pid) s) fun t => PktIs t p.pid .failed 9) ∧
      (cfgBad c = false → (cfgMode c 5 = true → s.histOwner = none ∨ s.histOwner = some (.stream k.toNat)) →
        Answers (exec (.glzloadLoad p.pid) s) fun t =>
          ((streamOf s k).st = .bound v → PktIs t p.pid .moved p.status ∧ (streamOf t k).st = .loaded v ∧ (streamOf t k).cfg = c ∧
            (streamOf t k).hsat = false ∧ (∀ j, j < 12 → digestOf t j k = ⟨0, 0, 0⟩) ∧
            (cfgMode c 5 = true → t.histOwner = some (.stream k.toNat) ∧ t.hist = [])) ∧
          ((streamOf s k).st = .loaded v → PktIs t p.pid .started p.status ∧ (streamOf t k).pending = some (some c) ∧
            (streamOf t k).cfg = (streamOf s k).cfg ∧ (cfgMode c 5 = true → t.histOwner = some (.stream k.toNat))))) ∧
    (v = p.vi → (streamOf s k).changing = false → pktNum p 16 8 % 4 = 1 → Answers (exec (.glzloadUnload p.pid) s) fun t =>
      ((streamOf s k).st = .loaded v → PktIs t p.pid .started p.status ∧ (streamOf t k).pending = some none) ∧
      ((streamOf s k).st = .bound v → p.status = 0 → PktIs t p.pid .failed 0xA)) ∧
    (v = p.vi → checkRange s (pktSpace p) (pktNum p 24 8) 64 true = .ok → pktNum p 32 8 = 0 → ∀ u,
      writeVa (setStream s k fun q => q) (pktSpace p) (pktNum p 24 8) (sideRecord s k (streamOf s k).hsat) = some u →
      (pktNum p 16 8 % 4 = 2 → exec (.glzloadRead p.pid) s = .next (donePkt u p.pid)) ∧
      (pktNum p 16 8 % 4 = 3 → Answers (exec (.glzloadReadclr p.pid) s) fun t => PktIs t p.pid .moved p.status ∧
        (∀ j, j < 12 → digestOf t j k = ⟨0, 0, 0⟩) ∧ (streamOf t k).hsat = false ∧ BytesKept u t))) ∧
  ∀ s k v, (streamBusy s k = true → exec (.glazeDrainDone k) s = .next s) ∧
    (streamBusy s k = false → (streamOf s k).st = .loaded v →
      (∀ c, (streamOf s k).unbind = false → (streamOf s k).pending = some (some c) → Answers (exec (.glazeDrainDone k) s) fun t =>
        (streamOf t k).st = .loaded v ∧ (streamOf t k).cfg = c ∧ (streamOf t k).pending = none ∧
        (∀ j, j < 12 → digestOf t j k = ⟨0, 0, 0⟩) ∧
        ∀ pid p, (streamOf s k).pid = some pid → findPkt s pid = some p → PktIs t pid .moved p.status) ∧
      ((streamOf s k).pending = some none → Answers (exec (.glazeDrainDone k) s) fun t =>
        t.histOwner ≠ some (.stream k.toNat) ∧
        ((streamOf s k).unbind = false → (streamOf t k).st = .bound v ∧ (streamOf t k).pending = none) ∧
        ((streamOf s k).unbind = true → streamOf t k = freeStream ∧ ∀ j, j < 12 → digestOf t j k = ⟨0, 0, 0⟩) ∧
        ∀ pid p, (streamOf s k).pid = some pid → findPkt s pid = some p → PktIs t pid .moved p.status))

/-! Collectives, re-sharding and launches. -/

/-- R299 to R301, R307: a collective starts once its own checks pass and sends its signature, or a failed one; a signature that agrees is
kept, the last one starting the movement or the key pass, and one that failed or differs ends the collective; the movement writes each
destination's bytes: every rank's source, its own block of it, or the reduction of its contributions and then of the ranks.
Where the manual leaves a point open, the model's choice is stated: log 102, 103. -/
def Obligations.Collectives : Prop :=
  (∀ s p, findPkt s p.pid = some p → (p.queue = none ∨ pktKind p = 6) → (∀ c ∈ s.colls, c.pid ≠ p.pid) →
    p.st = .accepted → canStart s p = true → p.status = 0 → collidBusy s p = false →
    (∀ c, collVar p ≠ 3 → collCheck s p = .status c → Answers (exec (.coll p.pid) s) fun t => PktIs t p.pid .failed c ∧
      ∃ l, t.collOut = s.collOut ++ [⟨p.vi, BitVec.ofNat 32 (collRec p).collid, l, .failed⟩]) ∧
    (∀ sig sp, collVar p ≠ 3 → collCheck s p = .ok sig sp → 1 < sig.npart → Answers (exec (.coll p.pid) s) fun t =>
      PktIs t p.pid .started 0 ∧ t.collOut = s.collOut ++ [⟨p.vi, BitVec.ofNat 32 (collRec p).collid, sig.plist, .signed sig⟩] ∧
      ∃ c ∈ t.colls, c.cid = p.pid ∧ c.st = .sign ∧ c.sig = sig ∧ c.sigs = [] ∧ c.rank = (collRec p).rank ∧ c.failed = none) ∧
    ∀ bs sig sp, collVar p = 3 → (collRec p).dst % 64 = 0 → (collRec p).dst < 2 ^ 52 →
      engineBytes s (pktSpace p) (collRec p).dst 128 = .ok bs →
      collidBusy s { p with buf := bs } = false →
      rpCheck (setPkt s p.pid fun q => { q with buf := bs }) { p with buf := bs } bs = .ok sig sp → 1 < sig.npart →
      Answers (exec (.collRpartPacket p.pid) s) fun t => PktIs t p.pid .started 0 ∧
        t.collOut = s.collOut ++ [⟨p.vi, BitVec.ofNat 32 (collRec p).collid, sig.plist, .signed sig⟩] ∧
        ∃ c ∈ t.colls, c.cid = p.pid ∧ c.st = .sign ∧ c.sig = sig ∧ c.splitters = sp ∧ c.unitw = false) ∧
  (∀ s (c : Coll) p rank ok sig, s.colls.find? (fun x => decide (x.cid = c.cid)) = some c → findPkt s c.pid = some p →
    c.st = .sign → collLost s c = false → rank < c.sig.npart → rank ≠ c.rank → (∀ x ∈ c.sigs, x.1 ≠ rank) →
    (ok = false → exec (.collSignature c.cid rank ok sig) s = .next (collFail s c 0x31)) ∧
    (ok = true → sig ≠ c.sig → exec (.collSignature c.cid rank ok sig) s = .next (collFail s c 0x30)) ∧
    (ok = true → sig = c.sig → Answers (exec (.collSignature c.cid rank ok sig) s) fun t => ∃ d ∈ t.colls, d.cid = c.cid ∧
      d.sigs = c.sigs ++ [(rank, ok, sig)] ∧
      d.st = if ∀ r, r < c.sig.npart → r = c.rank ∨ r = rank ∨ ∃ x ∈ c.sigs, x.1 = r then
          (if c.sig.var ≠ 3 then .move else if (collRec p).reissue then .assign else .keypass) else .sign)) ∧
  (∀ s (c : Coll) st, collLost s c = true → s.colls.find? (fun x => decide (x.cid = c.cid)) = some c → c.st ≠ .run →
    findPkt s c.pid ≠ none → exec (.collComplete c.cid st) s = .next (collFail s c 0x32)) ∧
  (∀ s (c : Coll) p peers, let x := collRec p
    let sp := pktSpace p
    let ls := ((srcSpans x).flatMap fun r => vaLines r.1 r.2).dedup
    let r := readLines s sp none 0 ls
    let out := collResult x c ((srcSpans x).map fun q => (List.range q.2).map fun i => byteIn r.2 (q.1 + i)) peers
    s.colls.find? (fun x => decide (x.cid = c.cid)) = some c → findPkt s c.pid = some p → c.st = .move → c.sig.var ≠ 3 →
    collLost s c = false → peersReady c (peerLen x) peers = true → linesCheck s sp 0 false ls = .ok →
    linesCheck r.1 sp 0 true (vaLines x.dst (collSizes x).2) = .ok →
    exec (.collComplete c.cid peers) s = .next (donePkt (dropColl (writeCells r.1 sp none 0
      ((List.range out.length).map fun i => (x.dst + i, out.getD i 0))) c.cid) p.pid)) ∧
  ∀ x (c : Coll) contrib peers, x.npart = c.sig.npart → c.rank < x.npart → peersReady c (peerLen x) peers = true →
    (∀ e ∈ peers, e.2.length = peerLen x) →
    let n := x.count * eopBytes x.eop
    let o := eopOut x.eop
    let out := collResult x c contrib peers
    let peer := fun (r : Nat) => (peers.find? fun e => e.1 = r).elim [] (·.2)
    (x.var = 0 → ∀ i, i < x.count → (out.drop (i * o)).take o = bytesOfNat o (ranksReduced x ((List.range x.npart).map fun r =>
      if r = c.rank then ownReduced x contrib c.rank i % 256 ^ o else numAt (peer r) (o * i) o))) ∧
    ∀ src r, contrib = [src] → src.length = (collSizes x).1 → r < x.npart →
      (x.var = 1 → (out.drop (r * n)).take n = if r = c.rank then src else peer r) ∧
      (x.var = 2 → (out.drop (r * n)).take n = if r = c.rank then (src.drop (r * n)).take n else peer r)

/-- R98, R306 to R314: repartition. Items are ordered by key, rank and index; the histogram is claimed for the key pass and let go at its end;
each stage does its part and a bad weight, which every participant is told of, or an infinite bin ends it; every item has one place, by the
triple under which it was counted, or is retained and counted at its receiver.
Where the manual leaves a point open, the model's choice is stated: log 92, 104. -/
def Obligations.Repartition : Prop :=
  (∀ a b, tripleLt a b = decide (a.key.toNat * 2 ^ 48 + a.rank.toNat * 2 ^ 32 + a.index.toNat <
    b.key.toNat * 2 ^ 48 + b.rank.toNat * 2 ^ 32 + b.index.toNat)) ∧
  (∀ b q, slotVa b q = if q < b.pcap then some (b.pbuf + q * b.isz)
    else if q < b.pcap + b.scap then some (b.sbuf + (q - b.pcap) * b.isz) else none) ∧
  (∀ (c : Coll) d, let e := crecEntry c d
    e.1 + e.2.1 + e.2.2.2 = baseOf c.counts c.sig.npart d ∧ e.1 ≤ (c.caps.getD d (0, 0)).1 ∧ e.2.1 ≤ (c.caps.getD d (0, 0)).2 ∧
    ((List.range c.sig.npart).map fun r => keptOf c r d).sum = e.2.2.2) ∧
  (∀ s (c : Coll) p,
    let b := rpBlk p.buf
    let ls := vaLines (collRec p).src (pktNum p 32 4 * b.isz)
    let r := readLines s (pktSpace p) none 0 ls
    let items := localItems r.1 c p r.2
    s.colls.find? (fun x => decide (x.cid = c.cid)) = some c → findPkt s c.pid = some p → c.sig.var = 3 → c.st ≠ .run →
    collLost s c = false →
    exec (.rpartWeightFail c.cid) s = .next (collFail s c 0x34) ∧
    (c.st = .keypass →
      (s.histOwner = none → exec (.rpartKeypass c.cid) s = .next { s with histOwner := some (.rpart c.cid), hist := [] }) ∧
      (∀ k, s.histOwner = some (.rpart k) → k ≠ c.cid → exec (.rpartKeypass c.cid) s = .next s) ∧
      ∀ k, s.histOwner = some (.stream k) → exec (.rpartKeypass c.cid) s = .next (collFail s c 0x35)) ∧
    (linesCheck s (pktSpace p) 0 false ls = .ok →
      (c.st = .keypass → s.histOwner = some (.rpart c.cid) →
        ((∃ i ∈ items, weightOk i.weight = false) → exec (.rpartKeypass c.cid) s
          = .next (collFail (tellColl r.1 p c.sig.plist .weight) c 0x34)) ∧
        ∀ u, (∀ i ∈ items, weightOk i.weight = true) → checkRange r.1 (pktSpace p) b.hwk 262144 true = .ok →
          writeVa r.1 (pktSpace p) b.hwk (histBytes (localHist items)) = some u →
          exec (.rpartKeypass c.cid) s = .next (setColl { u with histOwner := none, hist := [] } c.cid fun c =>
            { c with hist := localHist items, st := .reduce })) ∧
      (∀ peers u, c.st = .refine →
        let one := fun (i : RpItem) => if c.unitw then { i with weight := 0x3F800000 } else i
        let all := sortBy (fun (x y : RpItem) => tripleLt x.triple y.triple) (items.map (fun i => ⟨i.triple, i.weight⟩) ++
          (peers.filter fun i => decide (i.triple.rank.toNat ≠ c.rank)).map one)
        let ss := (List.range (c.sig.npart - 1)).map fun j => splitter c.hist all c.sig.npart (j + 1)
        checkRange r.1 (pktSpace p) b.splv (ss.flatMap splitBytes).length true = .ok →
        writeVa r.1 (pktSpace p) b.splv (ss.flatMap splitBytes) = some u →
        exec (.rpartRefine c.cid peers) s = .next (setColl u c.cid fun c => { c with splitters := ss, st := .assign })) ∧
      (∀ counts caps, c.st = .assign → counts.length = c.sig.npart → caps.length = c.sig.npart →
        (∀ w ∈ counts, w.length = c.sig.npart) →
        counts.getD c.rank [] = (List.range c.sig.npart).map (fun d => (items.filter fun i => destOf c.splitters i.triple = d).length) →
        caps.getD c.rank (0, 0) = (b.pcap, b.scap) →
        exec (.rpartAssign c.cid counts caps) s =
          .next (setColl r.1 c.cid fun c => { c with counts := counts, caps := caps, items := items.map (·.triple), st := .move })) ∧
      ∀ peers, c.st = .move → moveReady c b.isz peers = true →
        let mine := fun (q : Nat) => if q = c.rank then (itemsFor c.splitters (countedItems c items) q).map (·.bytes) else (peerItems peers q).map (·.2)
        let ret := (retained c (countedItems c items)).flatMap (bytesOfNat 4)
        let cells := (List.range c.sig.npart).flatMap (fun q => placeCells b (baseOf c.counts q c.rank) (mine q)) ++
          (List.range ret.length).map fun i => (b.retv + i, ret.getD i 0)
        let t := writeCells r.1 (pktSpace p) none 0 cells
        ∀ u, linesCheck r.1 (pktSpace p) 0 true ((cells.map fun e => e.1 / 128).dedup) = .ok →
          checkRange r.1 (pktSpace p) b.crec (64 + 16 * (collRec p).npart) true = .ok →
          writeVa t (pktSpace p) b.crec (crecDone c (collRec p)) = some u →
          exec (.rpartMoveDone c.cid peers) s = .next (donePkt (dropColl u c.cid) p.pid))) ∧
  ∀ s (c : Coll) p peers, s.colls.find? (fun x => decide (x.cid = c.cid)) = some c → findPkt s c.pid = some p → c.st = .reduce →
    collLost s c = false → (∀ q, q < c.sig.npart → q = c.rank ∨ ∃ e ∈ peers, e.1 = q) →
    let g := reduceHist ((List.range c.sig.npart).map fun q =>
      if q = c.rank then c.hist else (peers.find? fun e => e.1 = q).elim [] (·.2))
    let fin := ∀ e ∈ g, ∃ sg n d, numOf fp32 e.2.toNat = .fin sg n d
    (¬fin → exec (.rpartReduce c.cid peers) s = .next (collFail s c 0x36)) ∧
    ∀ u, fin → checkRange s (pktSpace p) (rpBlk p.buf).hwk 262144 true = .ok →
      writeVa s (pktSpace p) (rpBlk p.buf).hwk (histBytes g) = some u →
      exec (.rpartReduce c.cid peers) s = .next (setColl u c.cid fun c =>
        if histSum g = 0 ∧ c.unitw = false then { c with unitw := true, st := .keypass } else { c with hist := g, st := .refine })

/-- R315, R317, R320, R322 to R324: re-sharding. Each element of a target row is in one transfer; a packet that passes the checks starts
or resumes its plan, with every transfer of the window in flight that has not completed; a transfer that completes is marked, and CURSOR
passes the completed ones; the progress record holds what the plan has reached, and is written when 10 microseconds have passed since it was
last.
Where the manual leaves a point open, the model's choice is stated: log 106, 107, 108, 109, 111, 113. -/
def Obligations.Resharding : Prop :=
  (∀ (q : RsPlan), q.transfers.Nodup ∧ ∀ r i, heldBy q.tmap q.own ≠ [] → r < q.rows → i < locLen q.dst 0 →
    (r, q.pkgAt r i) ∈ q.transfers ∧ ∀ t ∈ q.transfers, t.1 = r → i ∈ q.elems t → t = (r, q.pkgAt r i)) ∧
  (∀ (h : Rshd) i, h.cursor ≤ i → i < h.cursor + 32 → h.dmask.getLsbD 0 = false →
    let d := fun (x : Rshd) (j : Nat) => j < x.cursor ∨ (x.cursor ≤ j ∧ x.dmask.getLsbD (j - x.cursor) = true)
    (countDone h i).dmask.getLsbD 0 = false ∧ (countDone h i).inflight = h.inflight.filter (· ≠ i) ∧
    ∀ j, d (countDone h i) j ↔ d h j ∨ j = i) ∧
  (∀ x : Progress, x.pseq < 2 ^ 64 → x.cursor < 2 ^ 64 → x.state < 256 → x.status < 256 → x.ntrans < 2 ^ 64 → x.sva < 2 ^ 64 →
    x.tva < 2 ^ 64 → x.rhash < 2 ^ 32 → progOf (progBytes x) = x ∧ (progBytes x).length = 64) ∧
  (∀ s p, TakesUp s p 5 → rshdAt s p.pid = none → s.rshds.length < 4 → (viOf s p.vi).switchedOut = false →
    (viOf s p.vi).outPending = none → p.status = 0 →
    (∀ c, rshdCheck s p = .status c → Answers (exec (.rshd p.pid) s) fun t => PktIs t p.pid .failed c) ∧
    ∀ buf x, rshdCheck s p = .ok buf x →
      (x.state = 2 → Answers (exec (.rshd p.pid) s) fun t => PktIs t p.pid .moved 0 ∧ t.rshds = s.rshds) ∧
      (x.state ≠ 2 → x.cursor < x.ntrans → x.dmask.getLsbD 0 = false → Answers (exec (.rshd p.pid) s) fun t =>
        PktIs t p.pid .started 0 ∧ ∃ h ∈ t.rshds, h.pid = p.pid ∧ h.cursor = x.cursor ∧ h.dmask = x.dmask ∧ h.ntrans = x.ntrans ∧
          ∀ j, j ∈ h.inflight ↔ x.cursor ≤ j ∧ j < x.cursor + 32 ∧ j < x.ntrans ∧ x.dmask.getLsbD (j - x.cursor) = false)) ∧
  (∀ s p h t u st status, putProgress s p h st status = .ok t →
    let x : Progress := ⟨pktSeq p, h.cursor, h.dmask, st, status.toNat, h.ntrans, (rshdOf p).srec, (rshdOf p).trec, rhashOf p.buf⟩
    writeVa s (pktSpace p) (rshdOf p).prog (progBytes x) = some u → t = u) ∧
  (∀ s p h, (s.now < h.wroteAt + 40000 → keepProgress s p h = rsFinish s p h) ∧
    ∀ u, h.wroteAt + 40000 ≤ s.now → putProgress s p h 1 0 = .ok u → keepProgress s p h = rsFinish u p { h with wroteAt := s.now }) ∧
  ∀ s pid p h i q t, findPkt s pid = some p → rshdAt s pid = some h → planOf s p = q → q.transfers[i]? = some t → i ∈ h.inflight →
    (transferCheck s p q t = .ok →
      let r := readSrc s p q t.2 (q.srcLines t.1 (q.elems t))
      let cells := mergeCells r.1 p q (q.cells t.1 (q.elems t) r.2)
      exec (.rshdTransferDone pid i) s =
        .next (keepProgress (writeCells r.1 (pktSpace p) (layKey s p.vi q.dst) q.dst.glz cells) p (countDone h i))) ∧
    (∀ va psz, transferCheck s p q t = .nores va psz → psz < 8 →
      exec (.rshdTransferDone pid i) s = .next (askPage s p.vi p.asid va psz true)) ∧
    (∀ c, transferCheck s p q t = .status c →
      let p1 := { p with status := if p.status = 0 then c else p.status }
      exec (.rshdTransferFail pid i (decide (c = 0xE))) s = .next (rsFinish (setPkt (transferPart s p q t) pid fun _ => p1) p1
        { h with inflight := h.inflight.filter (· ≠ i) })) ∧
    ∀ u, putProgress s p h 1 0 = .ok u → exec (.rshdProgressWrite pid) s = .next (rsFinish u p { h with wroteAt := s.now })

/-- R22, R364 to R366, R370: a GRID packet admits a launch of 32 threads for each warp of its crews; a NODE packet opens its node or
joins it; a launch that waits for its reservation is taken up as its packet; and refused packets fail with their status.
Where the manual leaves a point open, the model's choice is stated: log 99, 101. -/
def Obligations.Launches : Prop :=
  (∀ s p i, let x := launchFields p
    TakesUp s p 7 → p.st = .accepted → x.node = false → p.status = 0 →
    (launchBad p = true → Answers (exec (.launchGrid p.pid) s) fun t => PktIs t p.pid .failed 1) ∧
    (launchBad p = false → asidOk s p.vi p.asid = false → Answers (exec (.launchGrid p.pid) s) fun t => PktIs t p.pid .failed 0x12) ∧
    (launchBad p = false → asidOk s p.vi p.asid = true → readImage s (pktSpace p) x.image = .ok i →
      (¬((x.frameVa = 0 ↔ i.frame = 0) ∧ x.frameVa < 2 ^ 52 ∧ x.frameVa % 64 = 0) →
        Answers (exec (.launchGrid p.pid) s) fun t => PktIs t p.pid .failed 1) ∧
      ((x.frameVa = 0 ↔ i.frame = 0) → x.frameVa < 2 ^ 52 → x.frameVa % 64 = 0 →
      ((viOf s p.vi).poolSize < reservation i x.ncrew →
        Answers (exec (.launchGrid p.pid) s) fun t => PktIs t p.pid .failed 0x11) ∧
      (reservation i x.ncrew ≤ (viOf s p.vi).poolSize → canReserve s p.vi (reservation i x.ncrew) = true →
        (∀ l ∈ s.launches, l.id ≠ nextLaunchId s) → ∀ op ∈ [Instr.launchGrid p.pid, .launchAdmit p.pid],
          Answers (exec op s) fun t => PktIs t p.pid .started 0 ∧
          ∃ l, launchOf t (nextLaunchId s) = some l ∧ l.mode = .grid ∧ l.vi = p.vi ∧ l.asid = p.asid ∧ l.chk = x.chk ∧ l.far = x.far ∧
            l.cpc = x.cpc ∧ l.wpc = x.wpc ∧ l.ncrew = x.ncrew ∧ l.threads = 32 * x.wpc * x.ncrew ∧ l.exited = 0 ∧
            l.reserved = reservation i x.ncrew ∧ l.image.entry = i.entry ∧ l.image.nreg = i.nreg ∧ l.packets = [p.pid])))) ∧
  (∀ s p, let x := launchFields p
    TakesUp s p 7 → p.st = .accepted → x.node = true → p.status = 0 → launchBad p = false →
    (∀ l, nodeOf s p.vi x.nodeId = some l → l.closed = false → (l.imageVa ≠ x.image ∨ l.na ≠ x.na) →
      Answers (exec (.launchNode p.pid) s) fun t => PktIs t p.pid .failed 0x13) ∧
    (∀ l, nodeOf s p.vi x.nodeId = some l → l.closed = true → exec (.launchNode p.pid) s = .next s) ∧
    ∀ i, nodeOf s p.vi x.nodeId = none → asidOk s p.vi p.asid = true → readImage s (pktSpace p) x.image = .ok i →
      (x.frameVa = 0 ↔ i.frame = 0) → x.frameVa < 2 ^ 52 → x.frameVa % 64 = 0 → i.tiles = 0 → i.gang = 0 → x.na ≤ i.nreg → reservation i 0 ≤ (viOf s p.vi).poolSize →
      canReserve s p.vi (reservation i 0) = true → x.nitem = 0 → x.close = false → (∀ l ∈ s.launches, l.id ≠ nextLaunchId s) →
      ∀ op ∈ [Instr.launchNode p.pid, .launchAdmit p.pid], Answers (exec op s) fun t => PktIs t p.pid .moved 0 ∧ ∃ l, nodeOf t p.vi x.nodeId = some l ∧
        l.id = nextLaunchId s ∧ l.closed = false ∧ l.threads = 0 ∧ l.na = x.na ∧ l.imageVa = x.image) ∧
  (∀ s p, findPkt s p.pid = some p → p.st = .accepted →
    exec (.launchAdmit p.pid) s = exec (if (launchFields p).node then .launchNode p.pid else .launchGrid p.pid) s) ∧
  ∀ s, s.launches.length + s.recs.length + s.sent.length + s.sentCrews.length + s.mirrors.length < 2 ^ 22 →
    let id := nextLaunchId s
    id / 2 ^ 22 = s.pkg ∧ (∀ l ∈ s.launches, l.id ≠ id) ∧ (∀ r ∈ s.recs, r.launch ≠ id) ∧ (∀ r ∈ s.sent, r.2.launch ≠ id) ∧
      (∀ c ∈ s.sentCrews, c.2.launch ≠ id) ∧ ∀ m ∈ s.mirrors, m.record.launch ≠ id

/-! The host's side. -/

/-- R118 to R120, R151, R152, R155, R156, R391: queue registration, restart and removal are reported in QDONE; an invalidation request is
refused in INVERR or taken in its turn, and its completion leaves no entry that it covers; and before READY no register takes a write.
Where the manual leaves a point open, the model's choice is stated: log 121, 122, 124, 125, 126. -/
def Obligations.QueuesAndInvalidation : Prop :=
  (∀ s vi (x : DWord) n, s.boot.ready = false → (∀ i ∈ [Instr.doorbell vi x, .qreg vi x, .qreset vi x, .qunreg vi x, .pgring vi x,
    .repring vi x, .ctrl vi n, .ctlasid vi n], exec i s = .next s)) ∧
  (∀ s vi (x : DWord),
    let hva := dbits x 51 0
    let n := namedQueue vi hva (viOf s vi).ctlasid.toNat (x.getLsbD 63)
    s.boot.ready = true →
    (queueAt s vi hva ≠ none → Answers (exec (.qreg vi x) s) fun t => Qdone t vi 1 5 hva ∧ t.queues = s.queues) ∧
    (queueAt s vi hva = none → 1024 ≤ (s.queues.filter fun q => q.vi = vi).length →
      Answers (exec (.qreg vi x) s) fun t => Qdone t vi 1 3 hva ∧ t.queues = s.queues) ∧
    (queueAt s vi hva = none → (s.queues.filter fun q => q.vi = vi).length < 1024 →
      (∀ q, tryRegister s n = .ok q → Answers (exec (.qreg vi x) s) fun t => Qdone t vi 1 0 hva ∧ t.queues = s.queues ++ [q]) ∧
      (∀ c, c < 16 → tryRegister s n = .refuse c → Answers (exec (.qreg vi x) s) fun t => Qdone t vi 1 c hva ∧ t.queues = s.queues) ∧
      ∀ a va psz, tryRegister s n = .wait a va psz → Answers (exec (.qreg vi x) s) fun t => t.queues = s.queues ++ [n]) ∧
    (queueAt s vi hva = none → Answers (exec (.qunreg vi x) s) fun t => Qdone t vi 2 4 hva) ∧
    ∀ q, queueAt s vi hva = some q → q.waiting = false → q.unreg = false →
      (∀ p ∈ s.packets, p.vi = vi → p.queue = some hva → p.st = .accepted) →
      Answers (exec (.qunreg vi x) s) fun t => Qdone t vi 2 0 hva ∧ queueAt t vi hva = none) ∧
  (∀ s vi hva q, queueAt s vi hva = some q → hva < 2 ^ 52 →
    (∀ r, q.waiting = true → tryRegister s q = .ok r → Answers (exec (.qregFinish vi hva) s) fun t => Qdone t vi 1 0 hva ∧ r ∈ t.queues) ∧
    (q.unreg = true → queuePkts s q = [] → Answers (exec (.qunregFinish vi hva) s) fun t => Qdone t vi 2 0 hva ∧ queueAt t vi hva = none) ∧
    ∀ x : DWord, x.toNat = hva → s.boot.ready = true → q.waiting = false → q.unreg = false →
      (q.halted = false → Answers (exec (.qreset vi x) s) fun t => Qdone t vi 3 0 hva ∧ t.queues = s.queues) ∧
      ∀ n u w, q.halted = true → read64 s (ctlSpace q) hva = some n → writeVa s (ctlSpace q) (hva + 8) (bytesOfNat 8 n) = some u →
        writeVa u (ctlSpace q) (hva + 32) (bytesOfNat 8 0) = some w → s.colls = [] → Answers (exec (.qreset vi x) s) fun t =>
          Qdone t vi 3 0 hva ∧ (∃ r, queueAt t vi hva = some r ∧ r.halted = false) ∧ BytesKept w t ∧
          ∀ p ∈ t.packets, p.vi = vi → p.queue = some hva → p.st ≠ .accepted) ∧
  (∀ s vi (req : BitVec 256), s.boot.ready = true → invTaken s vi req = true →
    let i : Instr := if req.toNat % 4 = 1 then .invreqWholeAsid vi req else .invreqRange vi req
    (invBad s vi req = true → Answers (exec i s) fun t => (viOf t vi).inverr = req.extractLsb' 192 64 ∧ t.invals = s.invals) ∧
    (invBad s vi req = false → Answers (exec i s) fun t => t.invals = s.invals ++ [(⟨vi, req.extractLsb' 192 64, bitsOf req.toNat 25 16,
      bitsOf req.toNat 127 64, if req.toNat % 4 = 1 then none else some (bitsOf req.toNat 191 128)⟩ : Inval)])) ∧
  (∀ s q c p, s.colls = [c] → findPkt s c.pid = some p → p.vi = q.vi → p.queue = some q.hva →
    abortColls s q = if c.st = .run then s else collFail s c 0x33) ∧
  ∀ s vi r, s.invals.find? (fun r => decide (r.vi = vi)) = some r → let u := drainCovered s r
    (invalWaits u r = true → exec (.invalidationComplete vi) s = .next u) ∧
    (invalWaits u r = false → Answers (exec (.invalidationComplete vi) s) fun t => (viOf t vi).invdone = r.seq ∧
      (∀ e ∈ t.tlb, e ∈ u.tlb ∧ r.covers e.asid e.vpn (pszUnits e.psz) = false) ∧
      (∀ e ∈ u.tlb, r.covers e.asid e.vpn (pszUnits e.psz) = false → e ∈ t.tlb) ∧
      (∀ p ∈ t.ptrs, r.covers p.asid (p.idx * 2 ^ (9 * p.level)) (2 ^ (9 * p.level)) = false) ∧
      ∀ w ∈ t.ibuf, r.covers w.asid (lineVa w.ip / 65536) 1 = false ∧ r.covers w.asid ((lineVa w.ip + 191) / 65536) 1 = false)

/-- R136, R282, R390 to R392, R394, R399: the rings, the other registers, the device-memory window and the SPDM mailbox.
Where the manual leaves a point open, the model's choice is stated: log 127, 128, 129, 130, 131, 132, 133. -/
def Obligations.HostRegisters : Prop :=
  (∀ s vi (x : DWord), s.boot.ready = true →
    (Answers (exec (.pgring vi x) s) fun t => (viOf t vi).pgring = (x &&& 0x000FFFFFFFFFF01F) ∧
      (viOf t vi).pgringAsid = (viOf s vi).ctlasid.toNat) ∧
    (s.reports = [] → Answers (exec (.repring vi x) s) fun t => (viOf t vi).repring = (x &&& 0x000FFFFFFFFFF01F) ∧
      (viOf t vi).repringAsid = (viOf s vi).ctlasid.toNat) ∧
    (∀ n : Word, exec (.ctrl vi n) s = .next (if vi = 0 then setVi s 0 fun v => { v with ctrl := n &&& 1 } else s)) ∧
    (∀ n : Word, exec (.ctlasid vi n) s = .next (setVi s vi fun v => { v with ctlasid := n &&& 0x3FF })) ∧
    ∀ w : Fin 256, Answers (exec (.aper vi w x) s) fun t => ∀ j, mget 0 (viOf t vi).aper j =
      if j = w.val then x &&& 0x000FFFFFFC000FFF else mget 0 (viOf s vi).aper j) ∧
  (∀ s vi off n x, exec (.registerWriteOther vi off n x) s = .next s) ∧
  (∀ s vi reg off data, s.boot.ready = true → data.length = 4 ∨ data.length = 8 → off % data.length = 0 →
    off + data.length < pieceSize reg → exec (.registerPieceWrite vi reg off data) s = .next (setVi s vi fun v => match reg with
      | .invreq => { v with invreq := putPiece v.invreq off data }
      | .pgdone => { v with pgdone := putPiece v.pgdone off data }
      | .mbox => { v with mbox := putPiece v.mbox off data })) ∧
  (∀ (n : Nat) (x : BitVec n) off (data : List Byte) b, b < n → (putPiece x off data).getLsbD b =
    if 8 * off ≤ b ∧ b < 8 * (off + data.length) then (data.getD (b / 8 - off) 0).getLsbD (b % 8) else x.getLsbD b) ∧
  (∀ s vi r ring log head tail u w, s.pageReqs = [r] → r.vi = vi → r.posted = false → ring = dbits (viOf s vi).pgring 51 12 * 4096 →
    log = dbits (viOf s vi).pgring 4 0 → (viOf s vi).pgring ≠ 0 → 4 ≤ log → log ≤ 16 →
    let sp : Space := { vi := vi, asid := (viOf s vi).pgringAsid, user := false }
    checkRange s sp ring (64 + 16 * 2 ^ log) true = .ok →
    readVaNat s sp ring 8 = some head → readVaNat s sp (ring + 8) 8 = some tail → (head + 2 ^ 64 - tail) % 2 ^ 64 < 2 ^ log →
    writeVa s sp (ring + 64 + 16 * (head % 2 ^ log)) (bytesOfNat 8 (r.page.asid + r.psz * 1024 + (if r.eng then 4096 else 0)) ++
      bytesOfNat 8 (r.page.vpn * 65536)) = some u → writeVa u sp ring (bytesOfNat 8 (head + 1)) = some w →
    exec (.pgringRetry vi) s = .next { w with pageReqs := [{ r with posted := true }] }) ∧
  (∀ s vi (x : BitVec 128), s.boot.ready = true → x.toNat % 2 ^ 64 = (viOf s vi).pgdone.toNat % 2 ^ 64 →
    Answers (exec (.pgdone vi x) s) fun t => ∀ q ∈ t.pageReqs, q.vi = vi →
      ¬(q.page.asid = bitsOf x.toNat 9 0 ∧ q.page.vpn = bitsOf x.toNat 115 80)) ∧
  (∀ s vi r u, s.reports = [r] → r.vi = vi → postReport s r = some u → exec (.reportRingRetry vi) s = .next u) ∧
  (∀ s r lost, let b := reportBytes s r lost
    b.length = 64 ∧ numAt b 0 1 = r.kind % 256 ∧ bitsOf (numAt b 0 8) 19 10 = s.pkg % 1024 ∧
    (bitsOf (numAt b 0 8) 20 20 = if lost then 1 else 0) ∧
    bitsOf (numAt b 8 8) 31 0 = r.launch % 2 ^ 32 ∧ bitsOf (numAt b 8 8) 41 32 = r.asid % 1024 ∧ bitsOf (numAt b 8 8) 47 42 = r.vi % 64 ∧
    numAt b 16 8 = r.gtc.toNat ∧ numAt b 24 8 = r.addr.toNat ∧ numAt b 32 8 = r.data.toNat ∧ numAt b 40 24 = 0) ∧
  (∀ s vi off n, hostRequest off n = true →
    (s.boot.ready = false → exec (.hostWindowRead vi off n) s = .next (unsupported s vi)) ∧
    (∀ c, s.boot.ready = true → hostCheck s vi off false = .error c →
      exec (.hostWindowRead vi off n) s = .next (unsupported (hostFault s vi off c) vi)) ∧
    ∀ sp va, s.boot.ready = true → hostCheck s vi off false = .ok (sp, va) →
      (∀ e, hostBad s sp va n = some e → exec (.hostWindowRead vi off n) s = .next (hostLost s vi sp.asid e.1 e.2)) ∧
      (hostBad s sp va n = none → let r := streamVa s sp 0 va n
        exec (.hostWindowRead vi off n) s = .next { r.1 with out := r.1.out ++ [.readData vi r.2] })) ∧
  (∀ s vi off data, hostRequest off data.length = true → s.boot.ready = true →
    (∀ c, hostCheck s vi off true = .error c → exec (.hostWindowWrite vi off data) s = .next (hostFault s vi off c)) ∧
    ∀ sp va u, hostCheck s vi off true = .ok (sp, va) → writeVa (touchVa s vi sp.asid va data.length) sp va data = some u →
      exec (.hostWindowWrite vi off data) s = .next u) ∧
  (∀ s vi off op (w64 : Bool) (x y : DWord) sp va,
    let n := if w64 then 8 else 4
    hostRequest off n = true → s.boot.ready = true → off % n = 0 → hostCheck s vi off true = .ok (sp, va) →
    (∀ e, hostBad s sp va n = some e → exec (.hostWindowAtomicop vi off op w64 x y) s = .next (hostLost s vi sp.asid e.1 e.2)) ∧
    let r := streamVa s sp 0 va n
    let old := natOfBytes r.2
    let new := match op with
      | .fetchAdd => (old + x.toNat) % 256 ^ n
      | .swap => x.toNat % 256 ^ n
      | .cas => if old = x.toNat % 256 ^ n then y.toNat % 256 ^ n else old
    ∀ xl, hostBad s sp va n = none → translate r.1 sp va true false = .ok xl →
      let u := atomWrite r.1 xl sp.asid va 0 (bytesOfNat n new)
      exec (.hostWindowAtomicop vi off op w64 x y) s = .next { u with out := u.out ++ [.readData vi r.2] }) ∧
  (∀ s vi off op (w64 : Bool) (x y : DWord),
    let n := if w64 then 8 else 4
    hostRequest off n = true →
    (s.boot.ready = false → exec (.hostWindowAtomicop vi off op w64 x y) s = .next (unsupported s vi)) ∧
    (s.boot.ready = true → off % n ≠ 0 →
      exec (.hostWindowAtomicop vi off op w64 x y) s = .next (unsupported (hostFault s vi off 2) vi)) ∧
    ∀ c, s.boot.ready = true → off % n = 0 → hostCheck s vi off true = .error c →
      exec (.hostWindowAtomicop vi off op w64 x y) s = .next (unsupported (hostFault s vi off c) vi)) ∧
  ∀ s msg, Answers (exec (.spdmRequest msg) s) fun t => t.out = s.out ++ [.spdm msg (measurements s) s.free] ∧
    (s.fwCores.length = 4 → (measurements s).length = 5 ∧ ∀ (k : Nat) (c : FwCore), s.fwCores[k]? = some c →
      (measurements s)[k]? = some (bytesOfNat 48 c.digest))

/-! Firmware. -/

/-- R71, R87, R115, R292, R343, R358, R359, R361, R374, R388, R393: the services that set up an interface. The physical function's are
denied to the others, a malformed request changes nothing, and each ends with MBDONE.
Where the manual leaves a point open, the model's choice is stated: log 134, 135, 136, 137, 141. -/
def Obligations.SetupServices : Prop :=
  (∀ s vi seq code i, (∃ r ∈ s.fwReqs, r.vi = vi ∧ r.seq = seq ∧ r.op = i) → takeReq s vi seq code i = some s) ∧
  (∀ s vi seq code i, (∀ r ∈ s.fwReqs, ¬(r.vi = vi ∧ r.seq = seq ∧ r.op = i)) → seq ∉ (viOf s vi).served →
    (viOf s vi).mbox.toNat % 2 ^ 48 = seq.toNat + code * 2 ^ 40 → ∃ t, takeReq s vi seq code i = some t ∧
      t.fwReqs = s.fwReqs ++ [⟨vi, seq, i, false⟩] ∧ (viOf t vi).mbox = 0) ∧
  (∀ s vi seq target as ks t, let i := Instr.grantAsidsOrKeySlots vi seq target as ks
    Serves s i vi seq 1 t →
    (vi ≠ 0 → Finishes i s vi seq 2 fun u => u.vis = (finishReq t vi seq 2).vis) ∧
    (vi = 0 → target < 64 → (∀ a ∈ as, a < 1024) → (∀ k ∈ ks, k < 4096) →
      (grantBusy t target as ks = true → Finishes i s vi seq 3 fun u => u.vis = (finishReq t vi seq 3).vis) ∧
      (grantBusy t target as ks = false → Finishes i s vi seq 0 fun u =>
        (∀ a ∈ as, a ∈ (viOf u target).asids) ∧ (∀ k ∈ ks, k ∈ (viOf u target).keys) ∧
        ∀ v, v < 64 → v ≠ target → (∀ a ∈ as, a ∉ (viOf u v).asids) ∧ ∀ k ∈ ks, k ∉ (viOf u v).keys))) ∧
  (∀ s vi seq asid (e : BitVec 256) t, let i := Instr.writeAsidEntry vi seq asid e
    Serves s i vi seq 2 t → asid < 1024 →
    (asid ∉ (viOf t vi).asids → Finishes i s vi seq 2 fun u => u.asids = s.asids) ∧
    (asid ∈ (viOf t vi).asids → entryBad t vi e.toNat = false → Finishes i s vi seq 0 fun u =>
      asidEnt u asid = ⟨e.extractLsb' 0 64, e.extractLsb' 64 64, e.extractLsb' 128 64⟩ ∧
      ∀ a, a ≠ asid → asidEnt u a = asidEnt s a)) ∧
  (∀ s vi seq slot (key : Option (BitVec 512)) t, let i := Instr.writeOrEmptyKeySlot vi seq slot key
    Serves s i vi seq 3 t → slot < 4096 →
    (slot ∉ (viOf t vi).keys → Finishes i s vi seq 2 fun u => u.keys = s.keys) ∧
    (slot ∈ (viOf t vi).keys → Finishes i s vi seq 0 fun u => keyFor u vi slot = key ∧
      ∀ v, v ≠ vi → keyFor u v slot = none)) ∧
  (∀ s vi seq k target t, let i := Instr.bindOrUnbindStream vi seq k target
    Serves s i vi seq 4 t → 0 < k → k < 64 →
    (vi ≠ 0 → Finishes i s vi seq 2 fun u => u.streams = s.streams) ∧
    (∀ v, vi = 0 → target = some v → v < 64 →
      ((streamOf t (BitVec.ofNat 6 k)).st ≠ .free → Finishes i s vi seq 3 fun u => u.streams = s.streams) ∧
      ((streamOf t (BitVec.ofNat 6 k)).st = .free → Finishes i s vi seq 0 fun u =>
        (streamOf u (BitVec.ofNat 6 k)).st = .bound v ∧ ∀ j, j < 12 → digestOf u j (BitVec.ofNat 6 k) = ⟨0, 0, 0⟩)) ∧
    (vi = 0 → target = none →
      (∀ v, (streamOf t (BitVec.ofNat 6 k)).st = .bound v → Finishes i s vi seq 0 fun u =>
        (streamOf u (BitVec.ofNat 6 k)).st = .free) ∧
      ∀ v, (streamOf t (BitVec.ofNat 6 k)).st = .loaded v → (streamOf t (BitVec.ofNat 6 k)).changing = false →
        Waits i s vi seq fun u => (streamOf u (BitVec.ofNat 6 k)).unbind = true ∧
          (streamOf u (BitVec.ofNat 6 k)).pending = some none)) ∧
  (∀ s vi seq asid va t, let i := Instr.registerHandler vi seq asid va
    Serves s i vi seq 5 t → asid < 1024 → va < 2 ^ 52 → va % 64 = 0 →
    (asid ∉ (viOf t vi).asids → Finishes i s vi seq 2 fun u => u.launches = s.launches) ∧
    ∀ img, asid ∈ (viOf t vi).asids → readImage t { vi := vi, asid := asid, user := false } va = .ok img →
      img.tiles = 0 → img.gang = 0 → img.frame = 0 → 4 ≤ img.nreg → (viOf t vi).handler = none →
      canReserve t vi (reservation img 0) = true → (∀ l ∈ t.launches, l.id ≠ nextLaunchId t) →
      Finishes i s vi seq 0 fun u => (viOf u vi).handler = some (nextLaunchId t) ∧
        ∃ l, launchOf u (nextLaunchId t) = some l ∧ l.mode = .handler ∧ l.vi = vi ∧ l.asid = asid ∧ l.image.entry = img.entry) ∧
  (∀ s vi seq grp plane (ps : List Nat) t, let i := Instr.registerMulticastGroup vi seq grp plane ps
    Serves s i vi seq 6 t → grp < 256 → plane < 5 → ps ≠ [] → ps.length ≤ 1024 → ps.Nodup → (∀ p ∈ ps, p < t.domain) →
    let g : McGroup := ⟨vi, grp, plane, ps, buildHeader plane t.pkg ps⟩
    Finishes i s vi seq 0 fun u => g ∈ u.groups ∧ ∀ h ∈ u.groups, h.vi = vi → h.grp = grp → h = g) ∧
  (∀ s seq target size base t, let i := Instr.poolSize 0 seq target size base
    let heldBytes := (t.launches.filter fun l => l.vi = target).foldl (fun n l => n + max l.reserved l.charged) 0
    Serves s i 0 seq 7 t → target < 64 → base % 64 = 0 → base + size ≤ 2 ^ 52 →
    (size < heldBytes → Finishes i s 0 seq 3 fun u => (viOf u target).poolSize = (viOf t target).poolSize) ∧
    (heldBytes ≤ size → (base = (viOf t target).poolBase ∨ ∀ r ∈ t.recs, r.vi ≠ target) → Finishes i s 0 seq 0 fun u =>
      (viOf u target).poolSize = size ∧ (viOf u target).poolBase = base)) ∧
  (∀ s seq target cw wt hwdog seglim t, let i := Instr.setWeightsAndWatchdogs 0 seq target cw wt hwdog seglim
    Serves s i 0 seq 8 t → target < 64 →
    let good := 1 ≤ cw ∧ cw ≤ 255 ∧ 1 ≤ wt ∧ wt ≤ 255 ∧ 1000 ≤ hwdog ∧ hwdog ≤ 60000000 ∧ 100 ≤ seglim ∧ seglim ≤ 1000000
    (¬good → Finishes i s 0 seq 1 fun u => (viOf u target).cw = (viOf t target).cw ∧ (viOf u target).wt = (viOf t target).wt ∧
      (viOf u target).hwdog = (viOf t target).hwdog ∧ (viOf u target).seglim = (viOf t target).seglim) ∧
    (good → Finishes i s 0 seq 0 fun u => (viOf u target).cw = cw ∧ (viOf u target).wt = wt ∧
      (viOf u target).hwdog = BitVec.ofNat 32 hwdog ∧ (viOf u target).seglim = BitVec.ofNat 32 seglim)) ∧
  (∀ s vi seq watts t, let i := Instr.rackBudget vi seq watts
    s.boot.ready = true → takeReq s vi seq 9 i = some t → (leaderOf t = none ∨ isNext t vi seq = false) → exec i s = .next t) ∧
  ∀ s vi seq watts t, let i := Instr.rackBudget vi seq watts
    Serves s i vi seq 9 t →
    (vi ≠ 0 → Finishes i s vi seq 2 fun u => u.rack = s.rack) ∧ (vi = 0 → Finishes i s vi seq 0 fun u => u.rack = watts)

/-- R382, R383, R387, R393, R395, R397: the services that reset, update, suspend, switch and adopt, and the device information block.
Where the manual leaves a point open, the model's choice is stated: log 135, 138, 139, 140, 142, 143. -/
def Obligations.LifeServices : Prop :=
  (∀ s seq target t, let i := Instr.resetInterface 0 seq target
    Serves s i 0 seq 10 t → target < 64 → (∀ l ∈ t.launches, l.vi ≠ target) → ownStreams t target = [] →
    Finishes i s 0 seq 0 fun u => (viOf u target).handler = none ∧ ∀ k ∈ (viOf t target).keys, keyFor u target k = none) ∧
  (∀ s (l : Launch), let u := dropLaunch s l
    (∀ k ∈ u.launches, k.id ≠ l.id) ∧ (∀ w ∈ residents u, w.launch = l.id → w.entries = []) ∧ (∀ r ∈ u.recs, r.launch ≠ l.id) ∧
    (∀ g ∈ u.saggars, g.launch ≠ l.id) ∧ (∀ c ∈ u.crews, c.launch ≠ l.id) ∧ (∀ g ∈ u.gangs, g.launch ≠ l.id) ∧
    (s.warp.launch ≠ l.id → u.warp = s.warp) ∧
    ((∀ c ∈ s.crews, c.launch = l.id → c.saved = false) → BytesKept s u)) ∧
  (∀ s seq image svn ok t, let i := Instr.updateFirmware 0 seq image svn ok
    Serves s i 0 seq 11 t →
    (ok = false ∨ svn < t.boot.svn.toNat → Finishes i s 0 seq 1 fun u => u.fwCores = s.fwCores) ∧
    (ok = true → t.boot.svn.toNat ≤ svn → Finishes i s 0 seq 0 fun u =>
      u.fwCores = s.fwCores.map fun c => { c with flash := image })) ∧
  (∀ s vi seq id (l : Launch) t, launchOf t id = some l → l.vi = vi →
    (Serves s (.suspendLaunch vi seq id) vi seq 12 t →
      ((∀ w ∈ residents t, w.launch = id → w.entries = []) → Finishes (.suspendLaunch vi seq id) s vi seq 0 fun u =>
        ∃ m, launchOf u id = some m ∧ m.suspended = true) ∧
      ((∃ w ∈ residents t, w.launch = id ∧ w.entries ≠ []) → Waits (.suspendLaunch vi seq id) s vi seq fun u =>
        (∃ m, launchOf u id = some m ∧ m.suspended = true) ∧
        ∀ w ∈ residents u, w.launch = id → w.entries ≠ [] → w.marked = true)) ∧
    (Serves s (.resumeLaunch vi seq id) vi seq 12 t → Finishes (.resumeLaunch vi seq id) s vi seq 0 fun u =>
      ∃ m, launchOf u id = some m ∧ m.suspended = false)) ∧
  (∀ s seq target t, target < 64 →
    (Serves s (.switchInterfaceOut 0 seq target) 0 seq 13 t → (viOf t target).switchedOut = false →
      Waits (.switchInterfaceOut 0 seq target) s 0 seq fun u => (viOf u target).switchedOut = true ∧
        (viOf u target).outPending = some seq ∧ (∀ q ∈ u.queues, q.vi = target → q.slot = none) ∧
        ∀ w ∈ residents u, w.vi = target → w.entries ≠ [] → w.marked = true) ∧
    (Serves s (.switchInterfaceIn 0 seq target) 0 seq 13 t → (viOf t target).outPending = none → t.crews = [] →
      Finishes (.switchInterfaceIn 0 seq target) s 0 seq 0 fun u => (viOf u target).switchedOut = false)) ∧
  (∀ s vi seq, (viOf s vi).outPending = some seq →
    ((∃ w ∈ residents s, w.vi = vi ∧ w.entries ≠ []) → exec (.viSwitchedOut vi) s = .next s) ∧
    ((∀ w ∈ residents s, w.vi = vi → w.entries = []) → leaderOf s ≠ none → Answers (exec (.viSwitchedOut vi) s) fun u =>
      (viOf u vi).outPending = none ∧ (viOf u 0).mbdone = BitVec.ofNat 64 seq.toNat)) ∧
  (∀ s seq pkg t, let i := Instr.adoptDurableLaunches 0 seq pkg
    Serves s i 0 seq 14 t →
    (pkg = t.pkg ∨ t.domain ≤ pkg → Finishes i s 0 seq 1 fun u => u.mirrors = s.mirrors) ∧
    (pkg ≠ t.pkg → pkg < t.domain → Finishes i s 0 seq 0 fun u => u.mirrors = s.mirrors.filter (fun m => m.pkg ≠ pkg) ∧
      ∀ m ∈ s.mirrors, m.pkg = pkg → (∃ l, launchOf u m.record.launch = some l) ∧
        ∃ r ∈ u.recs, r.launch = m.record.launch ∧ r.code = m.record.code ∧ r.mask = m.record.mask ∧ r.v = m.record.v ∧
          r.sr = m.record.sr)) ∧
  (∀ s vi seq asid va t u, let i := Instr.deviceInformation vi seq asid va
    Serves s i vi seq 15 t → asid < 1024 → va % 64 = 0 → va + 4096 ≤ 2 ^ 52 →
    (asid ∉ (viOf t vi).asids → Finishes i s vi seq 2 fun u => BytesKept t u) ∧
    (asid ∈ (viOf t vi).asids → checkRange t { vi := vi, asid := asid, user := false } va 4096 true = .ok →
      writeVa t { vi := vi, asid := asid, user := false } va (infoBlock t) = some u →
      Finishes i s vi seq 0 fun x => BytesKept u x)) ∧
  ∀ s, s.links.length = 20 → s.boot.fuse.length = 4 → let b := infoBlock s
    b.length = 4096 ∧ bitsOf (numAt b 0 8) 9 0 = s.pkg % 1024 ∧ bitsOf (numAt b 0 8) 20 10 = s.domain % 2048 ∧
    numAt b 8 8 = s.boot.svn.toNat ∧ numAt b 16 8 = (if s.gtc.arriving then 1 else 0) + (if s.gtc.aligned then 2 else 0) ∧
    (∀ k f, s.boot.fuse[k]? = some f → numAt b (64 + 8 * k) 8 = f.1.toNat + 256 * f.2.toNat) ∧
    (∀ k l, s.links[k]? = some l → numAt b (96 + 8 * k) 8 =
      (if l.up then 1 else 0) + l.plane % 8 * 2 + l.switch % 1024 * 16 + l.port % 64 * 2 ^ 14) ∧ numAt b 24 40 = 0 ∧ numAt b 256 3840 = 0

/-- R396 to R398: the lease. A follower whose delay has lapsed takes it, its holder renews it, and a holder past EXPIRY or that has lost
it leads no more; and bring-up: images, links, peer fetch, memory, and the reset that begins it.
Where the manual leaves a point open, the model's choice is stated: log 11, 144, 145. -/
def Obligations.ElectionAndBringUp : Prop :=
  (∀ s k c, s.fwCores[k]? = some c → c.leader = false → c.image = some true → stepOneDone s = true →
    (s.gtc.value.toNat < s.lease.expiry.toNat + 1000000 * (1 + k) → exec (.leaseTry k) s = .next s) ∧
    (s.lease.expiry.toNat + 1000000 * (1 + k) ≤ s.gtc.value.toNat → Answers (exec (.leaseTry k) s) fun t =>
      t.lease = ⟨k, s.lease.epoch + 1, s.gtc.value + 10000000⟩ ∧
      t.fwCores[k]? = some { c with leader := true, epoch := s.lease.epoch + 1 })) ∧
  (∀ s k c, s.fwCores[k]? = some c → c.leader = true →
    (s.lease.holder = k → s.lease.epoch = c.epoch → s.gtc.value < s.lease.expiry →
      s.lease.expiry.toNat ≤ s.gtc.value.toNat + 8000000 → Answers (exec (.leaseRenew k) s) fun t =>
        t.lease = { s.lease with expiry := s.gtc.value + 10000000 } ∧ t.fwCores = s.fwCores) ∧
    (s.lease.holder ≠ k ∨ s.lease.epoch ≠ c.epoch ∨ s.lease.expiry ≤ s.gtc.value →
      (Answers (exec (.leaseRenew k) s) fun t => t.lease = s.lease ∧ t.fwCores[k]? = some { c with leader := false }) ∧
      Answers (exec (.leaseExpire k) s) fun t => t.lease = s.lease ∧ t.fwCores[k]? = some { c with leader := false })) ∧
  (∀ s, s.lease.expiry ≤ s.gtc.value → leaderOf s = none) ∧
  (∀ s k ok c, s.fwCores[k]? = some c → c.image = none → Answers (exec (.imageVerificationDone k ok) s) fun t =>
    (∃ d, t.fwCores[k]? = some d ∧ d.image = some ok ∧ d.flash = c.flash ∧ (ok = true → d.digest = c.flash)) ∧
    (t.boot.imagesDone = true ↔ ∀ d ∈ t.fwCores, d.image ≠ none)) ∧
  (∀ s, s.boot.linksTrained = false → Answers (exec .linkTrainingDone s) fun t =>
    t.boot.linksTrained = true ∧ t.links = s.links.map fun l => { l with up := true }) ∧
  (∀ s k c j d, s.fwCores[k]? = some c → c.image = some false → leaderOf s = some j → s.fwCores[j]? = some d →
    Answers (exec (.peerFetch k) s) fun t => t.fwCores[k]? = some { c with image := some true, digest := d.digest, flash := d.digest }) ∧
  (∀ s, s.boot.hbmTrained = false → leaderOf s ≠ none → (∀ c ∈ s.fwCores, c.image = some true) →
    Answers (exec .hbmTrainingDone s) fun t => t.boot.ready = true ∧ t.keys = [] ∧ t.streams = [] ∧ t.asids = [] ∧
      (∀ r ∈ t.live, r / 2 ^ 25 ≠ s.pkg) ∧ (∀ a, a / 2 ^ 46 = s.pkg → mget 0 t.mem a = 0) ∧
      (∀ a, a / 2 ^ 46 ≠ s.pkg → mget 0 t.mem a = mget 0 s.mem a) ∧ t.boot.fuse = [fuseOf 0, fuseOf 1, fuseOf 2, fuseOf 3]) ∧
  (∀ k, (fuseOf k).1 ≠ (fuseOf k).2) ∧
  ∀ s, Answers (exec .packageReset s) fun t => t.gtc.value = 0 ∧ t.boot.ready = false ∧ t.lease = ⟨0, 0, 0⟩ ∧ t.vis = [] ∧
    t.warp.entries = [] ∧ t.bench = [] ∧ t.recs = [] ∧ t.launches = [] ∧ t.host = (landHost s).host ∧ t.pkg = s.pkg ∧
    (∀ a, a / 2 ^ 46 = s.pkg → mget 0 t.mem a = 0) ∧ (∀ a, a / 2 ^ 46 ≠ s.pkg → mget 0 t.mem a = mget 0 s.mem a) ∧
    ∀ (k : Nat) (c : FwCore), s.fwCores[k]? = some c → t.fwCores[k]? = some (⟨false, 0, none, 0, c.flash⟩ : FwCore)

/-! The machine as a whole. -/

/-- R73, R297, R359, R361, R388, R391, R396: what the manual states of the state after reset. GTC, the lease's EPOCH and EXPIRY and every
readable register are 0, weights and periods have their defaults, and every region is non-live and reads as zero.
The memories are in their form after reset: addresses strictly rising and no byte listed that reads as an unlisted one. The form is
the model's own (log 1).
Where the manual leaves a point open, the model's choice is stated: log 1, 11, 14. -/
def Obligations.StateAtReset : Prop :=
  (State.reset.gtc.value = 0 ∧ State.reset.lease.epoch = 0 ∧ State.reset.lease.expiry = 0 ∧ State.reset.live = [] ∧
  (∀ vi off, regRead State.reset vi off = 0) ∧ bootstat State.reset = 0 ∧
  (∀ vi, let v := viOf State.reset vi
    v.cw = 16 ∧ v.wt = 16 ∧ v.hwdog = 1000000 ∧ v.seglim = 10000 ∧ v.invdone = 0 ∧ v.inverr = 0 ∧ v.pgring = 0 ∧ v.mbdone = 0 ∧
    v.ctrl = 0 ∧ v.repring = 0 ∧ v.qdone = 0 ∧ v.ctlasid = 0 ∧ ∀ w, mget 0 v.aper w = 0) ∧
  ∀ swz a, readDpa State.reset swz a = 0) ∧
  (MemForm State.reset)

/-- Every step keeps the memories in their form. The form is the model's own.
The form is the model's choice: log 1. -/
def Obligations.MemoryFormKept : Prop :=
  ∀ s t, MemForm s → step s = .next t → MemForm t
end

