-- ==== Sys2Proof/Laws/Sparse.lean ====
section
/-! SUPPORT. Sparse maps: a read after a write, and the canonical form that every operation on a map keeps. -/

namespace Sys2Proof.Machine

variable {α : Type}

/-- A read of the key of an entry just put. -/
theorem mget_mput_same (d : α) (m : SMap α) (a : Nat) (x : α) : mget d (mput m a x) a = x := by
  induction m with
  | nil => simp [mput, mget]
  | cons e t ih =>
    simp only [mput]
    split
    · simp [mget]
    · split
      · simp [mget]
      · next h => simp [mget, h, ih]

/-- An entry put leaves every other key alone. -/
theorem mget_mput_other (d : α) (m : SMap α) (a b : Nat) (x : α) (hb : b ≠ a) : mget d (mput m a x) b = mget d m b := by
  induction m with
  | nil => simp [mput, mget, hb]
  | cons e t ih =>
    simp only [mput]
    split
    · simp [mget, hb]
    · split
      · next h => subst h; simp [mget, hb]
      · simp [mget, ih]

/-- What a key reads as once its entries are left out. -/
theorem mget_drop_same (d : α) (m : SMap α) (a : Nat) : mget d (m.filter fun e => decide (e.1 ≠ a)) a = d := by
  induction m with
  | nil => rfl
  | cons e t ih =>
    by_cases h : e.1 = a
    · simpa [List.filter_cons, h] using ih
    · rw [List.filter_cons_of_pos (by simpa using h)]
      simpa [mget, Ne.symm h] using ih

/-- Leaving the entries of a key out leaves every other key alone. -/
theorem mget_drop_other (d : α) (m : SMap α) (a b : Nat) (hb : b ≠ a) :
    mget d (m.filter fun e => decide (e.1 ≠ a)) b = mget d m b := by
  induction m with
  | nil => rfl
  | cons e t ih =>
    by_cases h : e.1 = a
    · rw [List.filter_cons_of_neg (by simpa using h), ih]
      simp [mget, h, hb]
    · rw [List.filter_cons_of_pos (by simpa using h)]
      simp only [mget]
      rw [ih]

section
variable [DecidableEq α] (d : α)

/-- A read after a write to the same key gives the value written. -/
@[simp] theorem mget_mset_same (m : SMap α) (a : Nat) (x : α) : mget d (mset d m a x) a = x := by
  simp only [mset]
  split
  · next h => rw [mget_drop_same, h]
  · exact mget_mput_same d m a x

/-- A write leaves every other key alone. -/
theorem mget_mset_other (m : SMap α) (a b : Nat) (x : α) (hb : b ≠ a) : mget d (mset d m a x) b = mget d m b := by
  simp only [mset]
  split
  · exact mget_drop_other d m a b hb
  · exact mget_mput_other d m a b x hb

/-- A read after a write. -/
theorem mget_mset (m : SMap α) (a b : Nat) (x : α) : mget d (mset d m a x) b = if b = a then x else mget d m b := by
  split
  · next hb => subst hb; exact mget_mset_same d m b x
  · next hb => exact mget_mset_other d m a b x hb

/-- A run of writes leaves every key outside it alone. -/
theorem mget_msetRange_other (m : SMap α) (a b : Nat) (l : List α) (hb : b < a ∨ a + l.length ≤ b) :
    mget d (msetRange d m a l) b = mget d m b := by
  induction l generalizing m a with
  | nil => rfl
  | cons x t ih =>
    simp only [List.length_cons] at hb
    simp only [msetRange]
    rw [ih (mset d m a x) (a + 1) (by omega), mget_mset_other d m a b x (by omega)]

/-- A read inside a run of writes gives the value written there. -/
theorem mget_msetRange_same (m : SMap α) (a i : Nat) (l : List α) (hi : i < l.length) :
    mget d (msetRange d m a l) (a + i) = l[i] := by
  induction l generalizing m a i with
  | nil => simp at hi
  | cons x t ih =>
    simp only [msetRange]
    cases i with
    | zero => rw [mget_msetRange_other d _ _ _ t (by omega)]; simp
    | succ j =>
      have h := ih (mset d m a x) (a + 1) j (by simpa using hi)
      rw [show a + (j + 1) = a + 1 + j by omega, h]
      simp

/-! The canonical form. -/

/-- A form with a lower bound is one with any smaller bound. -/
theorem mwfFrom_mono (m : SMap α) (lo lo' : Nat) (h : mwfFrom d lo m = true) (hl : lo' ≤ lo) : mwfFrom d lo' m = true := by
  cases m with
  | nil => rfl
  | cons e t =>
    simp only [mwfFrom, Bool.and_eq_true, decide_eq_true_eq] at h ⊢
    exact ⟨⟨by omega, h.1.2⟩, h.2⟩

/-- Leaving entries out keeps the form above a bound. -/
theorem filter_keeps (m : SMap α) (p : Nat × α → Bool) (lo : Nat) (h : mwfFrom d lo m = true) :
    mwfFrom d lo (m.filter p) = true := by
  induction m generalizing lo with
  | nil => rfl
  | cons e t ih =>
    simp only [mwfFrom, Bool.and_eq_true, decide_eq_true_eq] at h
    simp only [List.filter_cons]
    split
    · simp only [mwfFrom, Bool.and_eq_true, decide_eq_true_eq]
      exact ⟨h.1, ih (e.1 + 1) h.2⟩
    · exact mwfFrom_mono d _ (e.1 + 1) lo (ih (e.1 + 1) h.2) (by omega)

/-- An entry other than the default put in its place keeps the form above a bound. -/
theorem mput_keeps (m : SMap α) (lo a : Nat) (x : α) (h : mwfFrom d lo m = true) (ha : lo ≤ a) (hx : x ≠ d) :
    mwfFrom d lo (mput m a x) = true := by
  induction m generalizing lo with
  | nil => simp [mput, mwfFrom, ha, hx]
  | cons e t ih =>
    simp only [mwfFrom, Bool.and_eq_true, decide_eq_true_eq] at h
    simp only [mput]
    split
    · next hk => simp [mwfFrom, hx, ha, h.1.2, h.2, hk]
    · split
      · next h1 h2 => subst h2; simp [mwfFrom, hx, ha, h.2]
      · next h1 h2 =>
        simp only [mwfFrom, Bool.and_eq_true, decide_eq_true_eq]
        exact ⟨h.1, ih (e.1 + 1) h.2 (by omega)⟩

/-- Leaving entries out keeps the form. -/
theorem filter_mwf (m : SMap α) (p : Nat × α → Bool) (h : mwf d m = true) : mwf d (m.filter p) = true :=
  filter_keeps d m p 0 h

/-- A write keeps the form. -/
theorem mset_mwf (m : SMap α) (a : Nat) (x : α) (h : mwf d m = true) : mwf d (mset d m a x) = true := by
  simp only [mset]
  split
  · exact filter_mwf d m _ h
  · next hx => exact mput_keeps d m 0 a x h (by omega) hx

/-- A run of writes keeps the form. -/
theorem msetRange_mwf (m : SMap α) (a : Nat) (l : List α) (h : mwf d m = true) : mwf d (msetRange d m a l) = true := by
  induction l generalizing m a with
  | nil => exact h
  | cons x t ih => exact ih (mset d m a x) (a + 1) (mset_mwf d m a x h)

/-- Writes chosen one by one keep the form. -/
theorem foldl_mset_mwf {β : Type} (l : List β) (p : β → Bool) (key : β → Nat) (val : β → α) (m : SMap α) (h : mwf d m = true) :
    mwf d (l.foldl (fun m i => if p i then mset d m (key i) (val i) else m) m) = true := by
  induction l generalizing m with
  | nil => exact h
  | cons x t ih =>
    simp only [List.foldl_cons]
    split
    · exact ih _ (mset_mwf d m _ _ h)
    · exact ih _ h

/-- Dropping a range keeps the form. -/
theorem mdrop_mwf (m : SMap α) (lo hi : Nat) (h : mwf d m = true) : mwf d (mdrop m lo hi) = true := filter_mwf d m _ h

end

end Sys2Proof.Machine
end

