-- ==== Sys2Proof/Laws/Issue.lean ====
section
/-! SUPPORT. The issue of an instruction: once it runs, what it answers is its own part and what follows it; and the writing of its
destination, the recording of its results, and the frame of both. -/

namespace Sys2Proof.Machine

/-- Landing the oldest result of a slot lists no new result. -/
theorem landOldest_due (k : Nat) (l : List Due) : ∀ d ∈ (landOldest k l).1, d ∈ l := by
  induction l with
  | nil => simp [landOldest]
  | cons a t ih =>
    intro d
    simp only [landOldest]
    split
    · rintro (_ | ⟨_, h⟩)
      · exact List.mem_cons_self
      · exact List.mem_cons_of_mem _ (ih d h)
    · split
      · exact fun h => List.mem_cons_of_mem _ (ih d h)
      · rintro (_ | ⟨_, h⟩)
        · exact List.mem_cons_self
        · exact List.mem_cons_of_mem _ (ih d h)

/-- What issue does before an instruction's own part changes nothing of the state but the warp's lists of results due and of sources
still to be read, and lists nothing new. -/
theorem issued_eq (s : State) (c : Ctl) : ∃ D L, issued s c = { s with warp := { s.warp with due := D, late := L } } ∧
    (∀ d ∈ D, d ∈ s.warp.due) ∧ ∀ l ∈ L, l ∈ s.warp.late := by
  have hm : ∃ D, makeSlot s.now (coverSlots s.warp c) c = { s.warp with due := D, late := (coverSlots s.warp c).late } ∧
      ∀ d ∈ D, d ∈ s.warp.due := by
    simp only [makeSlot]
    split
    · split
      · exact ⟨(coverSlots s.warp c).due, rfl, fun d h => List.mem_of_mem_filter h⟩
      · exact ⟨_, rfl, fun d h => List.mem_of_mem_filter (landOldest_due _ _ d h)⟩
    · exact ⟨(coverSlots s.warp c).due, rfl, fun d h => List.mem_of_mem_filter h⟩
  obtain ⟨D, hD, hs⟩ := hm
  have hl : ∀ l ∈ (coverSlots s.warp c).late, l ∈ s.warp.late := fun l h => List.mem_of_mem_filter h
  simp only [issued, setWarp, landDues, hD]
  split
  · exact ⟨D, _, rfl, hs, hl⟩
  · refine ⟨_, _, rfl, fun d h => ?_, hl⟩
    obtain ⟨⟨x, i⟩, hx, rfl⟩ := List.mem_map.1 h
    exact hs x (List.fst_mem_of_mem_zipIdx (List.mem_of_mem_filter hx))

/-- A result that may still be due once an instruction issues goes to none of its registers. -/
theorem Clear.noDue {s : State} {i : Instr} {c : Ctl} (h : Clear s i) (code : Nat) (hc : code ∈ i.reads ∨ code ∈ i.writes) :
    ∀ d ∈ (issued s c).warp.due, regCode d.cls d.reg ≠ code := by
  obtain ⟨D, L, he, hD, -⟩ := issued_eq s c
  rw [he]
  intro d hd e
  have := h.due d (hD d hd)
  rw [e] at this
  exact hc.elim this.1 this.2

/-- A register to which nothing of fixed latency is due at issue. -/
theorem Clear.fixed {s : State} {i : Instr} {c : Ctl} (h : Clear s i) (code at_ : Nat) (hc : code ∈ i.reads ∨ code ∈ i.writes) :
    fixedDue (issued s c).warp code at_ = false := by
  simp only [fixedDue, List.any_eq_false, Bool.and_eq_true, decide_eq_true_eq, not_and]
  exact fun d hd he => absurd he (h.noDue code hc d hd)

/-- No variable-latency result is due to a register at issue. -/
theorem Clear.variable {s : State} {i : Instr} {c : Ctl} (h : Clear s i) (code : Nat) (hc : code ∈ i.reads ∨ code ∈ i.writes) :
    variableDue (issued s c) code = false := by
  simp only [variableDue, Bool.or_eq_false_iff, List.any_eq_false, Bool.and_eq_true, decide_eq_true_eq, not_and,
    List.contains_iff_mem]
  refine ⟨fun d hd he => absurd he (h.noDue code hc d hd), ?_⟩
  obtain ⟨D, L, he, -, -⟩ := issued_eq s c
  rw [he]
  intro m hm hu hw
  have := h.matrix m hm hu code hw
  exact hc.elim (fun x => absurd x this.1) (fun x => absurd x this.2)

/-- An instruction that is clear meets no hazard (R47). -/
theorem Clear.noHazard {s : State} {i : Instr} (c : Ctl) (h : Clear s i) : hazard (issued s c) i = false := by
  have hr : (i.reads.any fun x => fixedDue (issued s c).warp x (issued s c).now || variableDue (issued s c) x) = false := by
    simp only [List.any_eq_false, Bool.or_eq_true, not_or, Bool.not_eq_true]
    exact fun x hx => ⟨h.fixed (c := c) x _ (.inl hx), h.variable x (.inl hx)⟩
  have hw : (i.writes.any fun x =>
      (i.latency.isSome && fixedDue (issued s c).warp x ((issued s c).now + i.latency.getD 0))
        || variableDue (issued s c) x
        || ((issued s c).warp.late.any fun l => decide (l.reg ≤ x ∧ x < l.reg + l.n))) = false := by
    simp only [List.any_eq_false, Bool.or_eq_true, Bool.and_eq_true, decide_eq_true_eq, not_or, not_and, Bool.not_eq_true,
      List.any_eq_true, not_exists]
    obtain ⟨D, L, he, -, hL⟩ := issued_eq s c
    refine fun x hx => ⟨⟨fun _ => h.fixed (c := c) x _ (.inr hx), h.variable x (.inr hx)⟩, fun l hl => ?_⟩
    rw [he] at hl
    exact fun h1 h2 => h.late l (hL l hl) x hx ⟨h1, h2⟩
  simp only [hazard, hr, hw, Bool.or_self, Bool.and_false]

/-- What an instruction that is not a matrix instruction answers once it runs: its own part, and what follows it (R39 to R49). -/
theorem issueWith_runs {s : State} {i : Instr} {c : Ctl} (b : Bool) (run : State → Mask → Step) (h : Runs s i c)
    (hm : isMatrix i = true → acting s c = BitVec.allOnes 32) :
    issueWith b i c run s = .next (finish (issued s c) i c (acting s c) (run (issued s c) (acting s c))) := by
  have ha : acting s c ≠ 0 := h.lanes
  have hz := h.clear.noHazard c
  have hi : landDues (setWarp s fun w => makeSlot s.now (coverSlots w c) c) = issued s c := rfl
  simp only [acting] at ha hm ⊢
  simp only [issueWith, h.can.entry, h.can.unmarked, h.can.keepsCones, h.can.stays, h.can.waited, h.can.roomy, Bool.false_and,
    Bool.or_self, hi, hz, ha, decide_false, Bool.and_false, Bool.false_eq_true, ↓reduceIte]
  cases hi : isMatrix i with
  | false => simp
  | true => simp [hm hi]

/-- As issueWith_runs, for an instruction of no matrix family. -/
theorem issue_runs {s : State} {i : Instr} {c : Ctl} (run : State → Mask → Step) (h : Runs s i c) (hm : isMatrix i = false) :
    issue i c run s = .next (finish (issued s c) i c (acting s c) (run (issued s c) (acting s c))) :=
  issueWith_runs false run h (by simp [hm])

/-- Where no lane is active, an instruction only moves on (R39). -/
theorem issue_empty {s : State} {i : Instr} {c : Ctl} (run : State → Mask → Step) (h : CanIssue s c) (ha : acting s c = 0) :
    issue i c run s = .next (advance (issued s c) c) := by
  have hi : landDues (setWarp s fun w => makeSlot s.now (coverSlots w c) c) = issued s c := rfl
  simp only [acting] at ha
  simp [issue, hi, issueWith, h.entry, h.unmarked, h.keepsCones, h.stays, h.waited, h.roomy, ha]

/-- Recording the results of an instruction that is clear changes no register: it only lists them as due and draws one free value. -/
theorem recordDue_clear {s : State} {i : Instr} {c : Ctl} (h : Clear s i) (m : Mask) (t : State) :
    ∃ due, recordDue (issued s c) i c m t = { t with warp := { t.warp with due := due }, free := s.free + 1 } := by
  have hl : ∀ code ∈ i.writes, lateLanes (issued s c).warp (issued s c).now i code = 0 := by
    intro code hc
    simp only [lateLanes]
    cases i.latency with
    | none => rfl
    | some l =>
      have : ∀ ds : List Due, (∀ d ∈ ds, regCode d.cls d.reg ≠ code) → ∀ m : Mask, ds.foldl (fun m d =>
          if decide (regCode d.cls d.reg = code) && (match d.ready with | some t => decide ((issued s c).now + l < t) | none => false)
          then m ||| d.mask else m) m = m := by
        intro ds
        induction ds with
        | nil => simp
        | cons a t ih =>
          intro hd m
          simp only [List.foldl_cons, hd a (by simp), decide_false, Bool.false_and, Bool.false_eq_true, ↓reduceIte]
          exact ih (fun d h => hd d (by simp [h])) m
      exact this _ (h.noDue code (.inr hc)) 0
  have fold : ∀ (f : Warp → Nat → Warp) (l : List Nat) (w : Warp), (∀ w, ∀ x ∈ l, f w x = w) → l.foldl f w = w := by
    intro f l
    induction l with
    | nil => intro w _; rfl
    | cons a t ih =>
      intro w hf
      simp only [List.foldl_cons]
      rw [hf w a (by simp)]
      exact ih w fun w x hx => hf w x (by simp [hx])
  simp only [recordDue]
  rw [fold _ _ _ (fun w code hc => by simp only [hl code hc, if_true])]
  obtain ⟨D, L, he, -, -⟩ := issued_eq s c
  exact ⟨_, by rw [show (issued s c).free = s.free by rw [he]]⟩

end Sys2Proof.Machine
end

