-- ==== Sys2Proof/Laws/State.lean ====
section
/-! SUPPORT. What each named update of the state does to each field of it, so that no later proof unfolds a record update. -/

namespace Sys2Proof.Machine

/-! setWarp. -/

@[simp] theorem setWarp_agenda (s : State) (f : Warp → Warp) : (setWarp s f).agenda = s.agenda := rfl
@[simp] theorem setWarp_pick (s : State) (f : Warp → Warp) : (setWarp s f).pick = s.pick := rfl
@[simp] theorem setWarp_free (s : State) (f : Warp → Warp) : (setWarp s f).free = s.free := rfl
@[simp] theorem setWarp_fresh (s : State) (f : Warp → Warp) : (setWarp s f).fresh = s.fresh := rfl
@[simp] theorem setWarp_warp (s : State) (f : Warp → Warp) : (setWarp s f).warp = f s.warp := rfl
@[simp] theorem setWarp_bench (s : State) (f : Warp → Warp) : (setWarp s f).bench = s.bench := rfl
@[simp] theorem setWarp_pkg (s : State) (f : Warp → Warp) : (setWarp s f).pkg = s.pkg := rfl
@[simp] theorem setWarp_domain (s : State) (f : Warp → Warp) : (setWarp s f).domain = s.domain := rfl
@[simp] theorem setWarp_gtc (s : State) (f : Warp → Warp) : (setWarp s f).gtc = s.gtc := rfl
@[simp] theorem setWarp_now (s : State) (f : Warp → Warp) : (setWarp s f).now = s.now := rfl
@[simp] theorem setWarp_mem (s : State) (f : Warp → Warp) : (setWarp s f).mem = s.mem := rfl
@[simp] theorem setWarp_host (s : State) (f : Warp → Warp) : (setWarp s f).host = s.host := rfl
@[simp] theorem setWarp_hostWrites (s : State) (f : Warp → Warp) : (setWarp s f).hostWrites = s.hostWrites := rfl
@[simp] theorem setWarp_hostPages (s : State) (f : Warp → Warp) : (setWarp s f).hostPages = s.hostPages := rfl
@[simp] theorem setWarp_live (s : State) (f : Warp → Warp) : (setWarp s f).live = s.live := rfl
@[simp] theorem setWarp_placed (s : State) (f : Warp → Warp) : (setWarp s f).placed = s.placed := rfl
@[simp] theorem setWarp_weak (s : State) (f : Warp → Warp) : (setWarp s f).weak = s.weak := rfl
@[simp] theorem setWarp_bad (s : State) (f : Warp → Warp) : (setWarp s f).bad = s.bad := rfl
@[simp] theorem setWarp_llc (s : State) (f : Warp → Warp) : (setWarp s f).llc = s.llc := rfl
@[simp] theorem setWarp_misses (s : State) (f : Warp → Warp) : (setWarp s f).misses = s.misses := rfl
@[simp] theorem setWarp_wbufs (s : State) (f : Warp → Warp) : (setWarp s f).wbufs = s.wbufs := rfl
@[simp] theorem setWarp_l1 (s : State) (f : Warp → Warp) : (setWarp s f).l1 = s.l1 := rfl
@[simp] theorem setWarp_dir (s : State) (f : Warp → Warp) : (setWarp s f).dir = s.dir := rfl
@[simp] theorem setWarp_ctrls (s : State) (f : Warp → Warp) : (setWarp s f).ctrls = s.ctrls := rfl
@[simp] theorem setWarp_waitReqs (s : State) (f : Warp → Warp) : (setWarp s f).waitReqs = s.waitReqs := rfl
@[simp] theorem setWarp_resps (s : State) (f : Warp → Warp) : (setWarp s f).resps = s.resps := rfl
@[simp] theorem setWarp_puts (s : State) (f : Warp → Warp) : (setWarp s f).puts = s.puts := rfl
@[simp] theorem setWarp_keys (s : State) (f : Warp → Warp) : (setWarp s f).keys = s.keys := rfl
@[simp] theorem setWarp_streams (s : State) (f : Warp → Warp) : (setWarp s f).streams = s.streams := rfl
@[simp] theorem setWarp_digests (s : State) (f : Warp → Warp) : (setWarp s f).digests = s.digests := rfl
@[simp] theorem setWarp_hist (s : State) (f : Warp → Warp) : (setWarp s f).hist = s.hist := rfl
@[simp] theorem setWarp_histOwner (s : State) (f : Warp → Warp) : (setWarp s f).histOwner = s.histOwner := rfl
@[simp] theorem setWarp_asids (s : State) (f : Warp → Warp) : (setWarp s f).asids = s.asids := rfl
@[simp] theorem setWarp_peerAsids (s : State) (f : Warp → Warp) : (setWarp s f).peerAsids = s.peerAsids := rfl
@[simp] theorem setWarp_tlb (s : State) (f : Warp → Warp) : (setWarp s f).tlb = s.tlb := rfl
@[simp] theorem setWarp_ptrs (s : State) (f : Warp → Warp) : (setWarp s f).ptrs = s.ptrs := rfl
@[simp] theorem setWarp_walks (s : State) (f : Warp → Warp) : (setWarp s f).walks = s.walks := rfl
@[simp] theorem setWarp_ibuf (s : State) (f : Warp → Warp) : (setWarp s f).ibuf = s.ibuf := rfl
@[simp] theorem setWarp_invals (s : State) (f : Warp → Warp) : (setWarp s f).invals = s.invals := rfl
@[simp] theorem setWarp_pageReqs (s : State) (f : Warp → Warp) : (setWarp s f).pageReqs = s.pageReqs := rfl
@[simp] theorem setWarp_joinWaits (s : State) (f : Warp → Warp) : (setWarp s f).joinWaits = s.joinWaits := rfl
@[simp] theorem setWarp_tiles (s : State) (f : Warp → Warp) : (setWarp s f).tiles = s.tiles := rfl
@[simp] theorem setWarp_pad (s : State) (f : Warp → Warp) : (setWarp s f).pad = s.pad := rfl
@[simp] theorem setWarp_crews (s : State) (f : Warp → Warp) : (setWarp s f).crews = s.crews := rfl
@[simp] theorem setWarp_clusters (s : State) (f : Warp → Warp) : (setWarp s f).clusters = s.clusters := rfl
@[simp] theorem setWarp_launches (s : State) (f : Warp → Warp) : (setWarp s f).launches = s.launches := rfl
@[simp] theorem setWarp_launchCount (s : State) (f : Warp → Warp) : (setWarp s f).launchCount = s.launchCount := rfl
@[simp] theorem setWarp_recs (s : State) (f : Warp → Warp) : (setWarp s f).recs = s.recs := rfl
@[simp] theorem setWarp_saggars (s : State) (f : Warp → Warp) : (setWarp s f).saggars = s.saggars := rfl
@[simp] theorem setWarp_stageOps (s : State) (f : Warp → Warp) : (setWarp s f).stageOps = s.stageOps := rfl
@[simp] theorem setWarp_acpys (s : State) (f : Warp → Warp) : (setWarp s f).acpys = s.acpys := rfl
@[simp] theorem setWarp_deficits (s : State) (f : Warp → Warp) : (setWarp s f).deficits = s.deficits := rfl
@[simp] theorem setWarp_gangs (s : State) (f : Warp → Warp) : (setWarp s f).gangs = s.gangs := rfl
@[simp] theorem setWarp_latches (s : State) (f : Warp → Warp) : (setWarp s f).latches = s.latches := rfl
@[simp] theorem setWarp_accs (s : State) (f : Warp → Warp) : (setWarp s f).accs = s.accs := rfl
@[simp] theorem setWarp_accOwned (s : State) (f : Warp → Warp) : (setWarp s f).accOwned = s.accOwned := rfl
@[simp] theorem setWarp_mxQueue (s : State) (f : Warp → Warp) : (setWarp s f).mxQueue = s.mxQueue := rfl
@[simp] theorem setWarp_mxOps (s : State) (f : Warp → Warp) : (setWarp s f).mxOps = s.mxOps := rfl
@[simp] theorem setWarp_coneLimit (s : State) (f : Warp → Warp) : (setWarp s f).coneLimit = s.coneLimit := rfl
@[simp] theorem setWarp_epochAt (s : State) (f : Warp → Warp) : (setWarp s f).epochAt = s.epochAt := rfl
@[simp] theorem setWarp_conesUsed (s : State) (f : Warp → Warp) : (setWarp s f).conesUsed = s.conesUsed := rfl
@[simp] theorem setWarp_coneOver (s : State) (f : Warp → Warp) : (setWarp s f).coneOver = s.coneOver := rfl
@[simp] theorem setWarp_rack (s : State) (f : Warp → Warp) : (setWarp s f).rack = s.rack := rfl
@[simp] theorem setWarp_queues (s : State) (f : Warp → Warp) : (setWarp s f).queues = s.queues := rfl
@[simp] theorem setWarp_packets (s : State) (f : Warp → Warp) : (setWarp s f).packets = s.packets := rfl
@[simp] theorem setWarp_colls (s : State) (f : Warp → Warp) : (setWarp s f).colls = s.colls := rfl
@[simp] theorem setWarp_collOut (s : State) (f : Warp → Warp) : (setWarp s f).collOut = s.collOut := rfl
@[simp] theorem setWarp_rshds (s : State) (f : Warp → Warp) : (setWarp s f).rshds = s.rshds := rfl
@[simp] theorem setWarp_groups (s : State) (f : Warp → Warp) : (setWarp s f).groups = s.groups := rfl
@[simp] theorem setWarp_links (s : State) (f : Warp → Warp) : (setWarp s f).links = s.links := rfl
@[simp] theorem setWarp_vis (s : State) (f : Warp → Warp) : (setWarp s f).vis = s.vis := rfl
@[simp] theorem setWarp_reports (s : State) (f : Warp → Warp) : (setWarp s f).reports = s.reports := rfl
@[simp] theorem setWarp_fwReqs (s : State) (f : Warp → Warp) : (setWarp s f).fwReqs = s.fwReqs := rfl
@[simp] theorem setWarp_lease (s : State) (f : Warp → Warp) : (setWarp s f).lease = s.lease := rfl
@[simp] theorem setWarp_fwCores (s : State) (f : Warp → Warp) : (setWarp s f).fwCores = s.fwCores := rfl
@[simp] theorem setWarp_boot (s : State) (f : Warp → Warp) : (setWarp s f).boot = s.boot := rfl
@[simp] theorem setWarp_mirrors (s : State) (f : Warp → Warp) : (setWarp s f).mirrors = s.mirrors := rfl
@[simp] theorem setWarp_sent (s : State) (f : Warp → Warp) : (setWarp s f).sent = s.sent := rfl
@[simp] theorem setWarp_sentCrews (s : State) (f : Warp → Warp) : (setWarp s f).sentCrews = s.sentCrews := rfl
@[simp] theorem setWarp_stale (s : State) (f : Warp → Warp) : (setWarp s f).stale = s.stale := rfl
@[simp] theorem setWarp_peerDown (s : State) (f : Warp → Warp) : (setWarp s f).peerDown = s.peerDown := rfl
@[simp] theorem setWarp_unreach (s : State) (f : Warp → Warp) : (setWarp s f).unreach = s.unreach := rfl
@[simp] theorem setWarp_out (s : State) (f : Warp → Warp) : (setWarp s f).out = s.out := rfl

/-! setVi. -/

@[simp] theorem setVi_agenda (s : State) (vi : Nat) (f : Vi → Vi) : (setVi s vi f).agenda = s.agenda := rfl
@[simp] theorem setVi_pick (s : State) (vi : Nat) (f : Vi → Vi) : (setVi s vi f).pick = s.pick := rfl
@[simp] theorem setVi_free (s : State) (vi : Nat) (f : Vi → Vi) : (setVi s vi f).free = s.free := rfl
@[simp] theorem setVi_fresh (s : State) (vi : Nat) (f : Vi → Vi) : (setVi s vi f).fresh = s.fresh := rfl
@[simp] theorem setVi_warp (s : State) (vi : Nat) (f : Vi → Vi) : (setVi s vi f).warp = s.warp := rfl
@[simp] theorem setVi_bench (s : State) (vi : Nat) (f : Vi → Vi) : (setVi s vi f).bench = s.bench := rfl
@[simp] theorem setVi_pkg (s : State) (vi : Nat) (f : Vi → Vi) : (setVi s vi f).pkg = s.pkg := rfl
@[simp] theorem setVi_domain (s : State) (vi : Nat) (f : Vi → Vi) : (setVi s vi f).domain = s.domain := rfl
@[simp] theorem setVi_gtc (s : State) (vi : Nat) (f : Vi → Vi) : (setVi s vi f).gtc = s.gtc := rfl
@[simp] theorem setVi_now (s : State) (vi : Nat) (f : Vi → Vi) : (setVi s vi f).now = s.now := rfl
@[simp] theorem setVi_mem (s : State) (vi : Nat) (f : Vi → Vi) : (setVi s vi f).mem = s.mem := rfl
@[simp] theorem setVi_host (s : State) (vi : Nat) (f : Vi → Vi) : (setVi s vi f).host = s.host := rfl
@[simp] theorem setVi_hostWrites (s : State) (vi : Nat) (f : Vi → Vi) : (setVi s vi f).hostWrites = s.hostWrites := rfl
@[simp] theorem setVi_hostPages (s : State) (vi : Nat) (f : Vi → Vi) : (setVi s vi f).hostPages = s.hostPages := rfl
@[simp] theorem setVi_live (s : State) (vi : Nat) (f : Vi → Vi) : (setVi s vi f).live = s.live := rfl
@[simp] theorem setVi_placed (s : State) (vi : Nat) (f : Vi → Vi) : (setVi s vi f).placed = s.placed := rfl
@[simp] theorem setVi_weak (s : State) (vi : Nat) (f : Vi → Vi) : (setVi s vi f).weak = s.weak := rfl
@[simp] theorem setVi_bad (s : State) (vi : Nat) (f : Vi → Vi) : (setVi s vi f).bad = s.bad := rfl
@[simp] theorem setVi_llc (s : State) (vi : Nat) (f : Vi → Vi) : (setVi s vi f).llc = s.llc := rfl
@[simp] theorem setVi_misses (s : State) (vi : Nat) (f : Vi → Vi) : (setVi s vi f).misses = s.misses := rfl
@[simp] theorem setVi_wbufs (s : State) (vi : Nat) (f : Vi → Vi) : (setVi s vi f).wbufs = s.wbufs := rfl
@[simp] theorem setVi_l1 (s : State) (vi : Nat) (f : Vi → Vi) : (setVi s vi f).l1 = s.l1 := rfl
@[simp] theorem setVi_dir (s : State) (vi : Nat) (f : Vi → Vi) : (setVi s vi f).dir = s.dir := rfl
@[simp] theorem setVi_ctrls (s : State) (vi : Nat) (f : Vi → Vi) : (setVi s vi f).ctrls = s.ctrls := rfl
@[simp] theorem setVi_waitReqs (s : State) (vi : Nat) (f : Vi → Vi) : (setVi s vi f).waitReqs = s.waitReqs := rfl
@[simp] theorem setVi_resps (s : State) (vi : Nat) (f : Vi → Vi) : (setVi s vi f).resps = s.resps := rfl
@[simp] theorem setVi_puts (s : State) (vi : Nat) (f : Vi → Vi) : (setVi s vi f).puts = s.puts := rfl
@[simp] theorem setVi_keys (s : State) (vi : Nat) (f : Vi → Vi) : (setVi s vi f).keys = s.keys := rfl
@[simp] theorem setVi_streams (s : State) (vi : Nat) (f : Vi → Vi) : (setVi s vi f).streams = s.streams := rfl
@[simp] theorem setVi_digests (s : State) (vi : Nat) (f : Vi → Vi) : (setVi s vi f).digests = s.digests := rfl
@[simp] theorem setVi_hist (s : State) (vi : Nat) (f : Vi → Vi) : (setVi s vi f).hist = s.hist := rfl
@[simp] theorem setVi_histOwner (s : State) (vi : Nat) (f : Vi → Vi) : (setVi s vi f).histOwner = s.histOwner := rfl
@[simp] theorem setVi_asids (s : State) (vi : Nat) (f : Vi → Vi) : (setVi s vi f).asids = s.asids := rfl
@[simp] theorem setVi_peerAsids (s : State) (vi : Nat) (f : Vi → Vi) : (setVi s vi f).peerAsids = s.peerAsids := rfl
@[simp] theorem setVi_tlb (s : State) (vi : Nat) (f : Vi → Vi) : (setVi s vi f).tlb = s.tlb := rfl
@[simp] theorem setVi_ptrs (s : State) (vi : Nat) (f : Vi → Vi) : (setVi s vi f).ptrs = s.ptrs := rfl
@[simp] theorem setVi_walks (s : State) (vi : Nat) (f : Vi → Vi) : (setVi s vi f).walks = s.walks := rfl
@[simp] theorem setVi_ibuf (s : State) (vi : Nat) (f : Vi → Vi) : (setVi s vi f).ibuf = s.ibuf := rfl
@[simp] theorem setVi_invals (s : State) (vi : Nat) (f : Vi → Vi) : (setVi s vi f).invals = s.invals := rfl
@[simp] theorem setVi_pageReqs (s : State) (vi : Nat) (f : Vi → Vi) : (setVi s vi f).pageReqs = s.pageReqs := rfl
@[simp] theorem setVi_joinWaits (s : State) (vi : Nat) (f : Vi → Vi) : (setVi s vi f).joinWaits = s.joinWaits := rfl
@[simp] theorem setVi_tiles (s : State) (vi : Nat) (f : Vi → Vi) : (setVi s vi f).tiles = s.tiles := rfl
@[simp] theorem setVi_pad (s : State) (vi : Nat) (f : Vi → Vi) : (setVi s vi f).pad = s.pad := rfl
@[simp] theorem setVi_crews (s : State) (vi : Nat) (f : Vi → Vi) : (setVi s vi f).crews = s.crews := rfl
@[simp] theorem setVi_clusters (s : State) (vi : Nat) (f : Vi → Vi) : (setVi s vi f).clusters = s.clusters := rfl
@[simp] theorem setVi_launches (s : State) (vi : Nat) (f : Vi → Vi) : (setVi s vi f).launches = s.launches := rfl
@[simp] theorem setVi_launchCount (s : State) (vi : Nat) (f : Vi → Vi) : (setVi s vi f).launchCount = s.launchCount := rfl
@[simp] theorem setVi_recs (s : State) (vi : Nat) (f : Vi → Vi) : (setVi s vi f).recs = s.recs := rfl
@[simp] theorem setVi_saggars (s : State) (vi : Nat) (f : Vi → Vi) : (setVi s vi f).saggars = s.saggars := rfl
@[simp] theorem setVi_stageOps (s : State) (vi : Nat) (f : Vi → Vi) : (setVi s vi f).stageOps = s.stageOps := rfl
@[simp] theorem setVi_acpys (s : State) (vi : Nat) (f : Vi → Vi) : (setVi s vi f).acpys = s.acpys := rfl
@[simp] theorem setVi_deficits (s : State) (vi : Nat) (f : Vi → Vi) : (setVi s vi f).deficits = s.deficits := rfl
@[simp] theorem setVi_gangs (s : State) (vi : Nat) (f : Vi → Vi) : (setVi s vi f).gangs = s.gangs := rfl
@[simp] theorem setVi_latches (s : State) (vi : Nat) (f : Vi → Vi) : (setVi s vi f).latches = s.latches := rfl
@[simp] theorem setVi_accs (s : State) (vi : Nat) (f : Vi → Vi) : (setVi s vi f).accs = s.accs := rfl
@[simp] theorem setVi_accOwned (s : State) (vi : Nat) (f : Vi → Vi) : (setVi s vi f).accOwned = s.accOwned := rfl
@[simp] theorem setVi_mxQueue (s : State) (vi : Nat) (f : Vi → Vi) : (setVi s vi f).mxQueue = s.mxQueue := rfl
@[simp] theorem setVi_mxOps (s : State) (vi : Nat) (f : Vi → Vi) : (setVi s vi f).mxOps = s.mxOps := rfl
@[simp] theorem setVi_coneLimit (s : State) (vi : Nat) (f : Vi → Vi) : (setVi s vi f).coneLimit = s.coneLimit := rfl
@[simp] theorem setVi_epochAt (s : State) (vi : Nat) (f : Vi → Vi) : (setVi s vi f).epochAt = s.epochAt := rfl
@[simp] theorem setVi_conesUsed (s : State) (vi : Nat) (f : Vi → Vi) : (setVi s vi f).conesUsed = s.conesUsed := rfl
@[simp] theorem setVi_coneOver (s : State) (vi : Nat) (f : Vi → Vi) : (setVi s vi f).coneOver = s.coneOver := rfl
@[simp] theorem setVi_rack (s : State) (vi : Nat) (f : Vi → Vi) : (setVi s vi f).rack = s.rack := rfl
@[simp] theorem setVi_queues (s : State) (vi : Nat) (f : Vi → Vi) : (setVi s vi f).queues = s.queues := rfl
@[simp] theorem setVi_packets (s : State) (vi : Nat) (f : Vi → Vi) : (setVi s vi f).packets = s.packets := rfl
@[simp] theorem setVi_colls (s : State) (vi : Nat) (f : Vi → Vi) : (setVi s vi f).colls = s.colls := rfl
@[simp] theorem setVi_collOut (s : State) (vi : Nat) (f : Vi → Vi) : (setVi s vi f).collOut = s.collOut := rfl
@[simp] theorem setVi_rshds (s : State) (vi : Nat) (f : Vi → Vi) : (setVi s vi f).rshds = s.rshds := rfl
@[simp] theorem setVi_groups (s : State) (vi : Nat) (f : Vi → Vi) : (setVi s vi f).groups = s.groups := rfl
@[simp] theorem setVi_links (s : State) (vi : Nat) (f : Vi → Vi) : (setVi s vi f).links = s.links := rfl
@[simp] theorem setVi_vis (s : State) (vi : Nat) (f : Vi → Vi) : (setVi s vi f).vis = mset Vi.reset s.vis vi (f (viOf s vi)) := rfl
@[simp] theorem setVi_reports (s : State) (vi : Nat) (f : Vi → Vi) : (setVi s vi f).reports = s.reports := rfl
@[simp] theorem setVi_fwReqs (s : State) (vi : Nat) (f : Vi → Vi) : (setVi s vi f).fwReqs = s.fwReqs := rfl
@[simp] theorem setVi_lease (s : State) (vi : Nat) (f : Vi → Vi) : (setVi s vi f).lease = s.lease := rfl
@[simp] theorem setVi_fwCores (s : State) (vi : Nat) (f : Vi → Vi) : (setVi s vi f).fwCores = s.fwCores := rfl
@[simp] theorem setVi_boot (s : State) (vi : Nat) (f : Vi → Vi) : (setVi s vi f).boot = s.boot := rfl
@[simp] theorem setVi_mirrors (s : State) (vi : Nat) (f : Vi → Vi) : (setVi s vi f).mirrors = s.mirrors := rfl
@[simp] theorem setVi_sent (s : State) (vi : Nat) (f : Vi → Vi) : (setVi s vi f).sent = s.sent := rfl
@[simp] theorem setVi_sentCrews (s : State) (vi : Nat) (f : Vi → Vi) : (setVi s vi f).sentCrews = s.sentCrews := rfl
@[simp] theorem setVi_stale (s : State) (vi : Nat) (f : Vi → Vi) : (setVi s vi f).stale = s.stale := rfl
@[simp] theorem setVi_peerDown (s : State) (vi : Nat) (f : Vi → Vi) : (setVi s vi f).peerDown = s.peerDown := rfl
@[simp] theorem setVi_unreach (s : State) (vi : Nat) (f : Vi → Vi) : (setVi s vi f).unreach = s.unreach := rfl
@[simp] theorem setVi_out (s : State) (vi : Nat) (f : Vi → Vi) : (setVi s vi f).out = s.out := rfl

/-! setTile. -/

@[simp] theorem setTile_agenda (s : State) (core phys : Nat) (f : Tile → Tile) : (setTile s core phys f).agenda = s.agenda := rfl
@[simp] theorem setTile_pick (s : State) (core phys : Nat) (f : Tile → Tile) : (setTile s core phys f).pick = s.pick := rfl
@[simp] theorem setTile_free (s : State) (core phys : Nat) (f : Tile → Tile) : (setTile s core phys f).free = s.free := rfl
@[simp] theorem setTile_fresh (s : State) (core phys : Nat) (f : Tile → Tile) : (setTile s core phys f).fresh = s.fresh := rfl
@[simp] theorem setTile_warp (s : State) (core phys : Nat) (f : Tile → Tile) : (setTile s core phys f).warp = s.warp := rfl
@[simp] theorem setTile_bench (s : State) (core phys : Nat) (f : Tile → Tile) : (setTile s core phys f).bench = s.bench := rfl
@[simp] theorem setTile_pkg (s : State) (core phys : Nat) (f : Tile → Tile) : (setTile s core phys f).pkg = s.pkg := rfl
@[simp] theorem setTile_domain (s : State) (core phys : Nat) (f : Tile → Tile) : (setTile s core phys f).domain = s.domain := rfl
@[simp] theorem setTile_gtc (s : State) (core phys : Nat) (f : Tile → Tile) : (setTile s core phys f).gtc = s.gtc := rfl
@[simp] theorem setTile_now (s : State) (core phys : Nat) (f : Tile → Tile) : (setTile s core phys f).now = s.now := rfl
@[simp] theorem setTile_mem (s : State) (core phys : Nat) (f : Tile → Tile) : (setTile s core phys f).mem = s.mem := rfl
@[simp] theorem setTile_host (s : State) (core phys : Nat) (f : Tile → Tile) : (setTile s core phys f).host = s.host := rfl
@[simp] theorem setTile_hostWrites (s : State) (core phys : Nat) (f : Tile → Tile) : (setTile s core phys f).hostWrites = s.hostWrites := rfl
@[simp] theorem setTile_hostPages (s : State) (core phys : Nat) (f : Tile → Tile) : (setTile s core phys f).hostPages = s.hostPages := rfl
@[simp] theorem setTile_live (s : State) (core phys : Nat) (f : Tile → Tile) : (setTile s core phys f).live = s.live := rfl
@[simp] theorem setTile_placed (s : State) (core phys : Nat) (f : Tile → Tile) : (setTile s core phys f).placed = s.placed := rfl
@[simp] theorem setTile_weak (s : State) (core phys : Nat) (f : Tile → Tile) : (setTile s core phys f).weak = s.weak := rfl
@[simp] theorem setTile_bad (s : State) (core phys : Nat) (f : Tile → Tile) : (setTile s core phys f).bad = s.bad := rfl
@[simp] theorem setTile_llc (s : State) (core phys : Nat) (f : Tile → Tile) : (setTile s core phys f).llc = s.llc := rfl
@[simp] theorem setTile_misses (s : State) (core phys : Nat) (f : Tile → Tile) : (setTile s core phys f).misses = s.misses := rfl
@[simp] theorem setTile_wbufs (s : State) (core phys : Nat) (f : Tile → Tile) : (setTile s core phys f).wbufs = s.wbufs := rfl
@[simp] theorem setTile_l1 (s : State) (core phys : Nat) (f : Tile → Tile) : (setTile s core phys f).l1 = s.l1 := rfl
@[simp] theorem setTile_dir (s : State) (core phys : Nat) (f : Tile → Tile) : (setTile s core phys f).dir = s.dir := rfl
@[simp] theorem setTile_ctrls (s : State) (core phys : Nat) (f : Tile → Tile) : (setTile s core phys f).ctrls = s.ctrls := rfl
@[simp] theorem setTile_waitReqs (s : State) (core phys : Nat) (f : Tile → Tile) : (setTile s core phys f).waitReqs = s.waitReqs := rfl
@[simp] theorem setTile_resps (s : State) (core phys : Nat) (f : Tile → Tile) : (setTile s core phys f).resps = s.resps := rfl
@[simp] theorem setTile_puts (s : State) (core phys : Nat) (f : Tile → Tile) : (setTile s core phys f).puts = s.puts := rfl
@[simp] theorem setTile_keys (s : State) (core phys : Nat) (f : Tile → Tile) : (setTile s core phys f).keys = s.keys := rfl
@[simp] theorem setTile_streams (s : State) (core phys : Nat) (f : Tile → Tile) : (setTile s core phys f).streams = s.streams := rfl
@[simp] theorem setTile_digests (s : State) (core phys : Nat) (f : Tile → Tile) : (setTile s core phys f).digests = s.digests := rfl
@[simp] theorem setTile_hist (s : State) (core phys : Nat) (f : Tile → Tile) : (setTile s core phys f).hist = s.hist := rfl
@[simp] theorem setTile_histOwner (s : State) (core phys : Nat) (f : Tile → Tile) : (setTile s core phys f).histOwner = s.histOwner := rfl
@[simp] theorem setTile_asids (s : State) (core phys : Nat) (f : Tile → Tile) : (setTile s core phys f).asids = s.asids := rfl
@[simp] theorem setTile_peerAsids (s : State) (core phys : Nat) (f : Tile → Tile) : (setTile s core phys f).peerAsids = s.peerAsids := rfl
@[simp] theorem setTile_tlb (s : State) (core phys : Nat) (f : Tile → Tile) : (setTile s core phys f).tlb = s.tlb := rfl
@[simp] theorem setTile_ptrs (s : State) (core phys : Nat) (f : Tile → Tile) : (setTile s core phys f).ptrs = s.ptrs := rfl
@[simp] theorem setTile_walks (s : State) (core phys : Nat) (f : Tile → Tile) : (setTile s core phys f).walks = s.walks := rfl
@[simp] theorem setTile_ibuf (s : State) (core phys : Nat) (f : Tile → Tile) : (setTile s core phys f).ibuf = s.ibuf := rfl
@[simp] theorem setTile_invals (s : State) (core phys : Nat) (f : Tile → Tile) : (setTile s core phys f).invals = s.invals := rfl
@[simp] theorem setTile_pageReqs (s : State) (core phys : Nat) (f : Tile → Tile) : (setTile s core phys f).pageReqs = s.pageReqs := rfl
@[simp] theorem setTile_joinWaits (s : State) (core phys : Nat) (f : Tile → Tile) : (setTile s core phys f).joinWaits = s.joinWaits := rfl
@[simp] theorem setTile_tiles (s : State) (core phys : Nat) (f : Tile → Tile) : (setTile s core phys f).tiles = mset Tile.reset s.tiles (core * 128 + phys) (f (tileAt s core phys)) := rfl
@[simp] theorem setTile_pad (s : State) (core phys : Nat) (f : Tile → Tile) : (setTile s core phys f).pad = s.pad := rfl
@[simp] theorem setTile_crews (s : State) (core phys : Nat) (f : Tile → Tile) : (setTile s core phys f).crews = s.crews := rfl
@[simp] theorem setTile_clusters (s : State) (core phys : Nat) (f : Tile → Tile) : (setTile s core phys f).clusters = s.clusters := rfl
@[simp] theorem setTile_launches (s : State) (core phys : Nat) (f : Tile → Tile) : (setTile s core phys f).launches = s.launches := rfl
@[simp] theorem setTile_launchCount (s : State) (core phys : Nat) (f : Tile → Tile) : (setTile s core phys f).launchCount = s.launchCount := rfl
@[simp] theorem setTile_recs (s : State) (core phys : Nat) (f : Tile → Tile) : (setTile s core phys f).recs = s.recs := rfl
@[simp] theorem setTile_saggars (s : State) (core phys : Nat) (f : Tile → Tile) : (setTile s core phys f).saggars = s.saggars := rfl
@[simp] theorem setTile_stageOps (s : State) (core phys : Nat) (f : Tile → Tile) : (setTile s core phys f).stageOps = s.stageOps := rfl
@[simp] theorem setTile_acpys (s : State) (core phys : Nat) (f : Tile → Tile) : (setTile s core phys f).acpys = s.acpys := rfl
@[simp] theorem setTile_deficits (s : State) (core phys : Nat) (f : Tile → Tile) : (setTile s core phys f).deficits = s.deficits := rfl
@[simp] theorem setTile_gangs (s : State) (core phys : Nat) (f : Tile → Tile) : (setTile s core phys f).gangs = s.gangs := rfl
@[simp] theorem setTile_latches (s : State) (core phys : Nat) (f : Tile → Tile) : (setTile s core phys f).latches = s.latches := rfl
@[simp] theorem setTile_accs (s : State) (core phys : Nat) (f : Tile → Tile) : (setTile s core phys f).accs = s.accs := rfl
@[simp] theorem setTile_accOwned (s : State) (core phys : Nat) (f : Tile → Tile) : (setTile s core phys f).accOwned = s.accOwned := rfl
@[simp] theorem setTile_mxQueue (s : State) (core phys : Nat) (f : Tile → Tile) : (setTile s core phys f).mxQueue = s.mxQueue := rfl
@[simp] theorem setTile_mxOps (s : State) (core phys : Nat) (f : Tile → Tile) : (setTile s core phys f).mxOps = s.mxOps := rfl
@[simp] theorem setTile_coneLimit (s : State) (core phys : Nat) (f : Tile → Tile) : (setTile s core phys f).coneLimit = s.coneLimit := rfl
@[simp] theorem setTile_epochAt (s : State) (core phys : Nat) (f : Tile → Tile) : (setTile s core phys f).epochAt = s.epochAt := rfl
@[simp] theorem setTile_conesUsed (s : State) (core phys : Nat) (f : Tile → Tile) : (setTile s core phys f).conesUsed = s.conesUsed := rfl
@[simp] theorem setTile_coneOver (s : State) (core phys : Nat) (f : Tile → Tile) : (setTile s core phys f).coneOver = s.coneOver := rfl
@[simp] theorem setTile_rack (s : State) (core phys : Nat) (f : Tile → Tile) : (setTile s core phys f).rack = s.rack := rfl
@[simp] theorem setTile_queues (s : State) (core phys : Nat) (f : Tile → Tile) : (setTile s core phys f).queues = s.queues := rfl
@[simp] theorem setTile_packets (s : State) (core phys : Nat) (f : Tile → Tile) : (setTile s core phys f).packets = s.packets := rfl
@[simp] theorem setTile_colls (s : State) (core phys : Nat) (f : Tile → Tile) : (setTile s core phys f).colls = s.colls := rfl
@[simp] theorem setTile_collOut (s : State) (core phys : Nat) (f : Tile → Tile) : (setTile s core phys f).collOut = s.collOut := rfl
@[simp] theorem setTile_rshds (s : State) (core phys : Nat) (f : Tile → Tile) : (setTile s core phys f).rshds = s.rshds := rfl
@[simp] theorem setTile_groups (s : State) (core phys : Nat) (f : Tile → Tile) : (setTile s core phys f).groups = s.groups := rfl
@[simp] theorem setTile_links (s : State) (core phys : Nat) (f : Tile → Tile) : (setTile s core phys f).links = s.links := rfl
@[simp] theorem setTile_vis (s : State) (core phys : Nat) (f : Tile → Tile) : (setTile s core phys f).vis = s.vis := rfl
@[simp] theorem setTile_reports (s : State) (core phys : Nat) (f : Tile → Tile) : (setTile s core phys f).reports = s.reports := rfl
@[simp] theorem setTile_fwReqs (s : State) (core phys : Nat) (f : Tile → Tile) : (setTile s core phys f).fwReqs = s.fwReqs := rfl
@[simp] theorem setTile_lease (s : State) (core phys : Nat) (f : Tile → Tile) : (setTile s core phys f).lease = s.lease := rfl
@[simp] theorem setTile_fwCores (s : State) (core phys : Nat) (f : Tile → Tile) : (setTile s core phys f).fwCores = s.fwCores := rfl
@[simp] theorem setTile_boot (s : State) (core phys : Nat) (f : Tile → Tile) : (setTile s core phys f).boot = s.boot := rfl
@[simp] theorem setTile_mirrors (s : State) (core phys : Nat) (f : Tile → Tile) : (setTile s core phys f).mirrors = s.mirrors := rfl
@[simp] theorem setTile_sent (s : State) (core phys : Nat) (f : Tile → Tile) : (setTile s core phys f).sent = s.sent := rfl
@[simp] theorem setTile_sentCrews (s : State) (core phys : Nat) (f : Tile → Tile) : (setTile s core phys f).sentCrews = s.sentCrews := rfl
@[simp] theorem setTile_stale (s : State) (core phys : Nat) (f : Tile → Tile) : (setTile s core phys f).stale = s.stale := rfl
@[simp] theorem setTile_peerDown (s : State) (core phys : Nat) (f : Tile → Tile) : (setTile s core phys f).peerDown = s.peerDown := rfl
@[simp] theorem setTile_unreach (s : State) (core phys : Nat) (f : Tile → Tile) : (setTile s core phys f).unreach = s.unreach := rfl
@[simp] theorem setTile_out (s : State) (core phys : Nat) (f : Tile → Tile) : (setTile s core phys f).out = s.out := rfl

/-! setLaunch. -/

@[simp] theorem setLaunch_agenda (s : State) (id : Nat) (f : Launch → Launch) : (setLaunch s id f).agenda = s.agenda := rfl
@[simp] theorem setLaunch_pick (s : State) (id : Nat) (f : Launch → Launch) : (setLaunch s id f).pick = s.pick := rfl
@[simp] theorem setLaunch_free (s : State) (id : Nat) (f : Launch → Launch) : (setLaunch s id f).free = s.free := rfl
@[simp] theorem setLaunch_fresh (s : State) (id : Nat) (f : Launch → Launch) : (setLaunch s id f).fresh = s.fresh := rfl
@[simp] theorem setLaunch_warp (s : State) (id : Nat) (f : Launch → Launch) : (setLaunch s id f).warp = s.warp := rfl
@[simp] theorem setLaunch_bench (s : State) (id : Nat) (f : Launch → Launch) : (setLaunch s id f).bench = s.bench := rfl
@[simp] theorem setLaunch_pkg (s : State) (id : Nat) (f : Launch → Launch) : (setLaunch s id f).pkg = s.pkg := rfl
@[simp] theorem setLaunch_domain (s : State) (id : Nat) (f : Launch → Launch) : (setLaunch s id f).domain = s.domain := rfl
@[simp] theorem setLaunch_gtc (s : State) (id : Nat) (f : Launch → Launch) : (setLaunch s id f).gtc = s.gtc := rfl
@[simp] theorem setLaunch_now (s : State) (id : Nat) (f : Launch → Launch) : (setLaunch s id f).now = s.now := rfl
@[simp] theorem setLaunch_mem (s : State) (id : Nat) (f : Launch → Launch) : (setLaunch s id f).mem = s.mem := rfl
@[simp] theorem setLaunch_host (s : State) (id : Nat) (f : Launch → Launch) : (setLaunch s id f).host = s.host := rfl
@[simp] theorem setLaunch_hostWrites (s : State) (id : Nat) (f : Launch → Launch) : (setLaunch s id f).hostWrites = s.hostWrites := rfl
@[simp] theorem setLaunch_hostPages (s : State) (id : Nat) (f : Launch → Launch) : (setLaunch s id f).hostPages = s.hostPages := rfl
@[simp] theorem setLaunch_live (s : State) (id : Nat) (f : Launch → Launch) : (setLaunch s id f).live = s.live := rfl
@[simp] theorem setLaunch_placed (s : State) (id : Nat) (f : Launch → Launch) : (setLaunch s id f).placed = s.placed := rfl
@[simp] theorem setLaunch_weak (s : State) (id : Nat) (f : Launch → Launch) : (setLaunch s id f).weak = s.weak := rfl
@[simp] theorem setLaunch_bad (s : State) (id : Nat) (f : Launch → Launch) : (setLaunch s id f).bad = s.bad := rfl
@[simp] theorem setLaunch_llc (s : State) (id : Nat) (f : Launch → Launch) : (setLaunch s id f).llc = s.llc := rfl
@[simp] theorem setLaunch_misses (s : State) (id : Nat) (f : Launch → Launch) : (setLaunch s id f).misses = s.misses := rfl
@[simp] theorem setLaunch_wbufs (s : State) (id : Nat) (f : Launch → Launch) : (setLaunch s id f).wbufs = s.wbufs := rfl
@[simp] theorem setLaunch_l1 (s : State) (id : Nat) (f : Launch → Launch) : (setLaunch s id f).l1 = s.l1 := rfl
@[simp] theorem setLaunch_dir (s : State) (id : Nat) (f : Launch → Launch) : (setLaunch s id f).dir = s.dir := rfl
@[simp] theorem setLaunch_ctrls (s : State) (id : Nat) (f : Launch → Launch) : (setLaunch s id f).ctrls = s.ctrls := rfl
@[simp] theorem setLaunch_waitReqs (s : State) (id : Nat) (f : Launch → Launch) : (setLaunch s id f).waitReqs = s.waitReqs := rfl
@[simp] theorem setLaunch_resps (s : State) (id : Nat) (f : Launch → Launch) : (setLaunch s id f).resps = s.resps := rfl
@[simp] theorem setLaunch_puts (s : State) (id : Nat) (f : Launch → Launch) : (setLaunch s id f).puts = s.puts := rfl
@[simp] theorem setLaunch_keys (s : State) (id : Nat) (f : Launch → Launch) : (setLaunch s id f).keys = s.keys := rfl
@[simp] theorem setLaunch_streams (s : State) (id : Nat) (f : Launch → Launch) : (setLaunch s id f).streams = s.streams := rfl
@[simp] theorem setLaunch_digests (s : State) (id : Nat) (f : Launch → Launch) : (setLaunch s id f).digests = s.digests := rfl
@[simp] theorem setLaunch_hist (s : State) (id : Nat) (f : Launch → Launch) : (setLaunch s id f).hist = s.hist := rfl
@[simp] theorem setLaunch_histOwner (s : State) (id : Nat) (f : Launch → Launch) : (setLaunch s id f).histOwner = s.histOwner := rfl
@[simp] theorem setLaunch_asids (s : State) (id : Nat) (f : Launch → Launch) : (setLaunch s id f).asids = s.asids := rfl
@[simp] theorem setLaunch_peerAsids (s : State) (id : Nat) (f : Launch → Launch) : (setLaunch s id f).peerAsids = s.peerAsids := rfl
@[simp] theorem setLaunch_tlb (s : State) (id : Nat) (f : Launch → Launch) : (setLaunch s id f).tlb = s.tlb := rfl
@[simp] theorem setLaunch_ptrs (s : State) (id : Nat) (f : Launch → Launch) : (setLaunch s id f).ptrs = s.ptrs := rfl
@[simp] theorem setLaunch_walks (s : State) (id : Nat) (f : Launch → Launch) : (setLaunch s id f).walks = s.walks := rfl
@[simp] theorem setLaunch_ibuf (s : State) (id : Nat) (f : Launch → Launch) : (setLaunch s id f).ibuf = s.ibuf := rfl
@[simp] theorem setLaunch_invals (s : State) (id : Nat) (f : Launch → Launch) : (setLaunch s id f).invals = s.invals := rfl
@[simp] theorem setLaunch_pageReqs (s : State) (id : Nat) (f : Launch → Launch) : (setLaunch s id f).pageReqs = s.pageReqs := rfl
@[simp] theorem setLaunch_joinWaits (s : State) (id : Nat) (f : Launch → Launch) : (setLaunch s id f).joinWaits = s.joinWaits := rfl
@[simp] theorem setLaunch_tiles (s : State) (id : Nat) (f : Launch → Launch) : (setLaunch s id f).tiles = s.tiles := rfl
@[simp] theorem setLaunch_pad (s : State) (id : Nat) (f : Launch → Launch) : (setLaunch s id f).pad = s.pad := rfl
@[simp] theorem setLaunch_crews (s : State) (id : Nat) (f : Launch → Launch) : (setLaunch s id f).crews = s.crews := rfl
@[simp] theorem setLaunch_clusters (s : State) (id : Nat) (f : Launch → Launch) : (setLaunch s id f).clusters = s.clusters := rfl
@[simp] theorem setLaunch_launches (s : State) (id : Nat) (f : Launch → Launch) : (setLaunch s id f).launches = s.launches.map fun l => if l.id = id then f l else l := rfl
@[simp] theorem setLaunch_launchCount (s : State) (id : Nat) (f : Launch → Launch) : (setLaunch s id f).launchCount = s.launchCount := rfl
@[simp] theorem setLaunch_recs (s : State) (id : Nat) (f : Launch → Launch) : (setLaunch s id f).recs = s.recs := rfl
@[simp] theorem setLaunch_saggars (s : State) (id : Nat) (f : Launch → Launch) : (setLaunch s id f).saggars = s.saggars := rfl
@[simp] theorem setLaunch_stageOps (s : State) (id : Nat) (f : Launch → Launch) : (setLaunch s id f).stageOps = s.stageOps := rfl
@[simp] theorem setLaunch_acpys (s : State) (id : Nat) (f : Launch → Launch) : (setLaunch s id f).acpys = s.acpys := rfl
@[simp] theorem setLaunch_deficits (s : State) (id : Nat) (f : Launch → Launch) : (setLaunch s id f).deficits = s.deficits := rfl
@[simp] theorem setLaunch_gangs (s : State) (id : Nat) (f : Launch → Launch) : (setLaunch s id f).gangs = s.gangs := rfl
@[simp] theorem setLaunch_latches (s : State) (id : Nat) (f : Launch → Launch) : (setLaunch s id f).latches = s.latches := rfl
@[simp] theorem setLaunch_accs (s : State) (id : Nat) (f : Launch → Launch) : (setLaunch s id f).accs = s.accs := rfl
@[simp] theorem setLaunch_accOwned (s : State) (id : Nat) (f : Launch → Launch) : (setLaunch s id f).accOwned = s.accOwned := rfl
@[simp] theorem setLaunch_mxQueue (s : State) (id : Nat) (f : Launch → Launch) : (setLaunch s id f).mxQueue = s.mxQueue := rfl
@[simp] theorem setLaunch_mxOps (s : State) (id : Nat) (f : Launch → Launch) : (setLaunch s id f).mxOps = s.mxOps := rfl
@[simp] theorem setLaunch_coneLimit (s : State) (id : Nat) (f : Launch → Launch) : (setLaunch s id f).coneLimit = s.coneLimit := rfl
@[simp] theorem setLaunch_epochAt (s : State) (id : Nat) (f : Launch → Launch) : (setLaunch s id f).epochAt = s.epochAt := rfl
@[simp] theorem setLaunch_conesUsed (s : State) (id : Nat) (f : Launch → Launch) : (setLaunch s id f).conesUsed = s.conesUsed := rfl
@[simp] theorem setLaunch_coneOver (s : State) (id : Nat) (f : Launch → Launch) : (setLaunch s id f).coneOver = s.coneOver := rfl
@[simp] theorem setLaunch_rack (s : State) (id : Nat) (f : Launch → Launch) : (setLaunch s id f).rack = s.rack := rfl
@[simp] theorem setLaunch_queues (s : State) (id : Nat) (f : Launch → Launch) : (setLaunch s id f).queues = s.queues := rfl
@[simp] theorem setLaunch_packets (s : State) (id : Nat) (f : Launch → Launch) : (setLaunch s id f).packets = s.packets := rfl
@[simp] theorem setLaunch_colls (s : State) (id : Nat) (f : Launch → Launch) : (setLaunch s id f).colls = s.colls := rfl
@[simp] theorem setLaunch_collOut (s : State) (id : Nat) (f : Launch → Launch) : (setLaunch s id f).collOut = s.collOut := rfl
@[simp] theorem setLaunch_rshds (s : State) (id : Nat) (f : Launch → Launch) : (setLaunch s id f).rshds = s.rshds := rfl
@[simp] theorem setLaunch_groups (s : State) (id : Nat) (f : Launch → Launch) : (setLaunch s id f).groups = s.groups := rfl
@[simp] theorem setLaunch_links (s : State) (id : Nat) (f : Launch → Launch) : (setLaunch s id f).links = s.links := rfl
@[simp] theorem setLaunch_vis (s : State) (id : Nat) (f : Launch → Launch) : (setLaunch s id f).vis = s.vis := rfl
@[simp] theorem setLaunch_reports (s : State) (id : Nat) (f : Launch → Launch) : (setLaunch s id f).reports = s.reports := rfl
@[simp] theorem setLaunch_fwReqs (s : State) (id : Nat) (f : Launch → Launch) : (setLaunch s id f).fwReqs = s.fwReqs := rfl
@[simp] theorem setLaunch_lease (s : State) (id : Nat) (f : Launch → Launch) : (setLaunch s id f).lease = s.lease := rfl
@[simp] theorem setLaunch_fwCores (s : State) (id : Nat) (f : Launch → Launch) : (setLaunch s id f).fwCores = s.fwCores := rfl
@[simp] theorem setLaunch_boot (s : State) (id : Nat) (f : Launch → Launch) : (setLaunch s id f).boot = s.boot := rfl
@[simp] theorem setLaunch_mirrors (s : State) (id : Nat) (f : Launch → Launch) : (setLaunch s id f).mirrors = s.mirrors := rfl
@[simp] theorem setLaunch_sent (s : State) (id : Nat) (f : Launch → Launch) : (setLaunch s id f).sent = s.sent := rfl
@[simp] theorem setLaunch_sentCrews (s : State) (id : Nat) (f : Launch → Launch) : (setLaunch s id f).sentCrews = s.sentCrews := rfl
@[simp] theorem setLaunch_stale (s : State) (id : Nat) (f : Launch → Launch) : (setLaunch s id f).stale = s.stale := rfl
@[simp] theorem setLaunch_peerDown (s : State) (id : Nat) (f : Launch → Launch) : (setLaunch s id f).peerDown = s.peerDown := rfl
@[simp] theorem setLaunch_unreach (s : State) (id : Nat) (f : Launch → Launch) : (setLaunch s id f).unreach = s.unreach := rfl
@[simp] theorem setLaunch_out (s : State) (id : Nat) (f : Launch → Launch) : (setLaunch s id f).out = s.out := rfl

/-! setCrewAt. -/

@[simp] theorem setCrewAt_agenda (s : State) (launch crew : Nat) (f : Crew → Crew) : (setCrewAt s launch crew f).agenda = s.agenda := rfl
@[simp] theorem setCrewAt_pick (s : State) (launch crew : Nat) (f : Crew → Crew) : (setCrewAt s launch crew f).pick = s.pick := rfl
@[simp] theorem setCrewAt_free (s : State) (launch crew : Nat) (f : Crew → Crew) : (setCrewAt s launch crew f).free = s.free := rfl
@[simp] theorem setCrewAt_fresh (s : State) (launch crew : Nat) (f : Crew → Crew) : (setCrewAt s launch crew f).fresh = s.fresh := rfl
@[simp] theorem setCrewAt_warp (s : State) (launch crew : Nat) (f : Crew → Crew) : (setCrewAt s launch crew f).warp = s.warp := rfl
@[simp] theorem setCrewAt_bench (s : State) (launch crew : Nat) (f : Crew → Crew) : (setCrewAt s launch crew f).bench = s.bench := rfl
@[simp] theorem setCrewAt_pkg (s : State) (launch crew : Nat) (f : Crew → Crew) : (setCrewAt s launch crew f).pkg = s.pkg := rfl
@[simp] theorem setCrewAt_domain (s : State) (launch crew : Nat) (f : Crew → Crew) : (setCrewAt s launch crew f).domain = s.domain := rfl
@[simp] theorem setCrewAt_gtc (s : State) (launch crew : Nat) (f : Crew → Crew) : (setCrewAt s launch crew f).gtc = s.gtc := rfl
@[simp] theorem setCrewAt_now (s : State) (launch crew : Nat) (f : Crew → Crew) : (setCrewAt s launch crew f).now = s.now := rfl
@[simp] theorem setCrewAt_mem (s : State) (launch crew : Nat) (f : Crew → Crew) : (setCrewAt s launch crew f).mem = s.mem := rfl
@[simp] theorem setCrewAt_host (s : State) (launch crew : Nat) (f : Crew → Crew) : (setCrewAt s launch crew f).host = s.host := rfl
@[simp] theorem setCrewAt_hostWrites (s : State) (launch crew : Nat) (f : Crew → Crew) : (setCrewAt s launch crew f).hostWrites = s.hostWrites := rfl
@[simp] theorem setCrewAt_hostPages (s : State) (launch crew : Nat) (f : Crew → Crew) : (setCrewAt s launch crew f).hostPages = s.hostPages := rfl
@[simp] theorem setCrewAt_live (s : State) (launch crew : Nat) (f : Crew → Crew) : (setCrewAt s launch crew f).live = s.live := rfl
@[simp] theorem setCrewAt_placed (s : State) (launch crew : Nat) (f : Crew → Crew) : (setCrewAt s launch crew f).placed = s.placed := rfl
@[simp] theorem setCrewAt_weak (s : State) (launch crew : Nat) (f : Crew → Crew) : (setCrewAt s launch crew f).weak = s.weak := rfl
@[simp] theorem setCrewAt_bad (s : State) (launch crew : Nat) (f : Crew → Crew) : (setCrewAt s launch crew f).bad = s.bad := rfl
@[simp] theorem setCrewAt_llc (s : State) (launch crew : Nat) (f : Crew → Crew) : (setCrewAt s launch crew f).llc = s.llc := rfl
@[simp] theorem setCrewAt_misses (s : State) (launch crew : Nat) (f : Crew → Crew) : (setCrewAt s launch crew f).misses = s.misses := rfl
@[simp] theorem setCrewAt_wbufs (s : State) (launch crew : Nat) (f : Crew → Crew) : (setCrewAt s launch crew f).wbufs = s.wbufs := rfl
@[simp] theorem setCrewAt_l1 (s : State) (launch crew : Nat) (f : Crew → Crew) : (setCrewAt s launch crew f).l1 = s.l1 := rfl
@[simp] theorem setCrewAt_dir (s : State) (launch crew : Nat) (f : Crew → Crew) : (setCrewAt s launch crew f).dir = s.dir := rfl
@[simp] theorem setCrewAt_ctrls (s : State) (launch crew : Nat) (f : Crew → Crew) : (setCrewAt s launch crew f).ctrls = s.ctrls := rfl
@[simp] theorem setCrewAt_waitReqs (s : State) (launch crew : Nat) (f : Crew → Crew) : (setCrewAt s launch crew f).waitReqs = s.waitReqs := rfl
@[simp] theorem setCrewAt_resps (s : State) (launch crew : Nat) (f : Crew → Crew) : (setCrewAt s launch crew f).resps = s.resps := rfl
@[simp] theorem setCrewAt_puts (s : State) (launch crew : Nat) (f : Crew → Crew) : (setCrewAt s launch crew f).puts = s.puts := rfl
@[simp] theorem setCrewAt_keys (s : State) (launch crew : Nat) (f : Crew → Crew) : (setCrewAt s launch crew f).keys = s.keys := rfl
@[simp] theorem setCrewAt_streams (s : State) (launch crew : Nat) (f : Crew → Crew) : (setCrewAt s launch crew f).streams = s.streams := rfl
@[simp] theorem setCrewAt_digests (s : State) (launch crew : Nat) (f : Crew → Crew) : (setCrewAt s launch crew f).digests = s.digests := rfl
@[simp] theorem setCrewAt_hist (s : State) (launch crew : Nat) (f : Crew → Crew) : (setCrewAt s launch crew f).hist = s.hist := rfl
@[simp] theorem setCrewAt_histOwner (s : State) (launch crew : Nat) (f : Crew → Crew) : (setCrewAt s launch crew f).histOwner = s.histOwner := rfl
@[simp] theorem setCrewAt_asids (s : State) (launch crew : Nat) (f : Crew → Crew) : (setCrewAt s launch crew f).asids = s.asids := rfl
@[simp] theorem setCrewAt_peerAsids (s : State) (launch crew : Nat) (f : Crew → Crew) : (setCrewAt s launch crew f).peerAsids = s.peerAsids := rfl
@[simp] theorem setCrewAt_tlb (s : State) (launch crew : Nat) (f : Crew → Crew) : (setCrewAt s launch crew f).tlb = s.tlb := rfl
@[simp] theorem setCrewAt_ptrs (s : State) (launch crew : Nat) (f : Crew → Crew) : (setCrewAt s launch crew f).ptrs = s.ptrs := rfl
@[simp] theorem setCrewAt_walks (s : State) (launch crew : Nat) (f : Crew → Crew) : (setCrewAt s launch crew f).walks = s.walks := rfl
@[simp] theorem setCrewAt_ibuf (s : State) (launch crew : Nat) (f : Crew → Crew) : (setCrewAt s launch crew f).ibuf = s.ibuf := rfl
@[simp] theorem setCrewAt_invals (s : State) (launch crew : Nat) (f : Crew → Crew) : (setCrewAt s launch crew f).invals = s.invals := rfl
@[simp] theorem setCrewAt_pageReqs (s : State) (launch crew : Nat) (f : Crew → Crew) : (setCrewAt s launch crew f).pageReqs = s.pageReqs := rfl
@[simp] theorem setCrewAt_joinWaits (s : State) (launch crew : Nat) (f : Crew → Crew) : (setCrewAt s launch crew f).joinWaits = s.joinWaits := rfl
@[simp] theorem setCrewAt_tiles (s : State) (launch crew : Nat) (f : Crew → Crew) : (setCrewAt s launch crew f).tiles = s.tiles := rfl
@[simp] theorem setCrewAt_pad (s : State) (launch crew : Nat) (f : Crew → Crew) : (setCrewAt s launch crew f).pad = s.pad := rfl
@[simp] theorem setCrewAt_crews (s : State) (launch crew : Nat) (f : Crew → Crew) : (setCrewAt s launch crew f).crews = s.crews.map fun c => if c.launch = launch && c.crew = crew then f c else c := rfl
@[simp] theorem setCrewAt_clusters (s : State) (launch crew : Nat) (f : Crew → Crew) : (setCrewAt s launch crew f).clusters = s.clusters := rfl
@[simp] theorem setCrewAt_launches (s : State) (launch crew : Nat) (f : Crew → Crew) : (setCrewAt s launch crew f).launches = s.launches := rfl
@[simp] theorem setCrewAt_launchCount (s : State) (launch crew : Nat) (f : Crew → Crew) : (setCrewAt s launch crew f).launchCount = s.launchCount := rfl
@[simp] theorem setCrewAt_recs (s : State) (launch crew : Nat) (f : Crew → Crew) : (setCrewAt s launch crew f).recs = s.recs := rfl
@[simp] theorem setCrewAt_saggars (s : State) (launch crew : Nat) (f : Crew → Crew) : (setCrewAt s launch crew f).saggars = s.saggars := rfl
@[simp] theorem setCrewAt_stageOps (s : State) (launch crew : Nat) (f : Crew → Crew) : (setCrewAt s launch crew f).stageOps = s.stageOps := rfl
@[simp] theorem setCrewAt_acpys (s : State) (launch crew : Nat) (f : Crew → Crew) : (setCrewAt s launch crew f).acpys = s.acpys := rfl
@[simp] theorem setCrewAt_deficits (s : State) (launch crew : Nat) (f : Crew → Crew) : (setCrewAt s launch crew f).deficits = s.deficits := rfl
@[simp] theorem setCrewAt_gangs (s : State) (launch crew : Nat) (f : Crew → Crew) : (setCrewAt s launch crew f).gangs = s.gangs := rfl
@[simp] theorem setCrewAt_latches (s : State) (launch crew : Nat) (f : Crew → Crew) : (setCrewAt s launch crew f).latches = s.latches := rfl
@[simp] theorem setCrewAt_accs (s : State) (launch crew : Nat) (f : Crew → Crew) : (setCrewAt s launch crew f).accs = s.accs := rfl
@[simp] theorem setCrewAt_accOwned (s : State) (launch crew : Nat) (f : Crew → Crew) : (setCrewAt s launch crew f).accOwned = s.accOwned := rfl
@[simp] theorem setCrewAt_mxQueue (s : State) (launch crew : Nat) (f : Crew → Crew) : (setCrewAt s launch crew f).mxQueue = s.mxQueue := rfl
@[simp] theorem setCrewAt_mxOps (s : State) (launch crew : Nat) (f : Crew → Crew) : (setCrewAt s launch crew f).mxOps = s.mxOps := rfl
@[simp] theorem setCrewAt_coneLimit (s : State) (launch crew : Nat) (f : Crew → Crew) : (setCrewAt s launch crew f).coneLimit = s.coneLimit := rfl
@[simp] theorem setCrewAt_epochAt (s : State) (launch crew : Nat) (f : Crew → Crew) : (setCrewAt s launch crew f).epochAt = s.epochAt := rfl
@[simp] theorem setCrewAt_conesUsed (s : State) (launch crew : Nat) (f : Crew → Crew) : (setCrewAt s launch crew f).conesUsed = s.conesUsed := rfl
@[simp] theorem setCrewAt_coneOver (s : State) (launch crew : Nat) (f : Crew → Crew) : (setCrewAt s launch crew f).coneOver = s.coneOver := rfl
@[simp] theorem setCrewAt_rack (s : State) (launch crew : Nat) (f : Crew → Crew) : (setCrewAt s launch crew f).rack = s.rack := rfl
@[simp] theorem setCrewAt_queues (s : State) (launch crew : Nat) (f : Crew → Crew) : (setCrewAt s launch crew f).queues = s.queues := rfl
@[simp] theorem setCrewAt_packets (s : State) (launch crew : Nat) (f : Crew → Crew) : (setCrewAt s launch crew f).packets = s.packets := rfl
@[simp] theorem setCrewAt_colls (s : State) (launch crew : Nat) (f : Crew → Crew) : (setCrewAt s launch crew f).colls = s.colls := rfl
@[simp] theorem setCrewAt_collOut (s : State) (launch crew : Nat) (f : Crew → Crew) : (setCrewAt s launch crew f).collOut = s.collOut := rfl
@[simp] theorem setCrewAt_rshds (s : State) (launch crew : Nat) (f : Crew → Crew) : (setCrewAt s launch crew f).rshds = s.rshds := rfl
@[simp] theorem setCrewAt_groups (s : State) (launch crew : Nat) (f : Crew → Crew) : (setCrewAt s launch crew f).groups = s.groups := rfl
@[simp] theorem setCrewAt_links (s : State) (launch crew : Nat) (f : Crew → Crew) : (setCrewAt s launch crew f).links = s.links := rfl
@[simp] theorem setCrewAt_vis (s : State) (launch crew : Nat) (f : Crew → Crew) : (setCrewAt s launch crew f).vis = s.vis := rfl
@[simp] theorem setCrewAt_reports (s : State) (launch crew : Nat) (f : Crew → Crew) : (setCrewAt s launch crew f).reports = s.reports := rfl
@[simp] theorem setCrewAt_fwReqs (s : State) (launch crew : Nat) (f : Crew → Crew) : (setCrewAt s launch crew f).fwReqs = s.fwReqs := rfl
@[simp] theorem setCrewAt_lease (s : State) (launch crew : Nat) (f : Crew → Crew) : (setCrewAt s launch crew f).lease = s.lease := rfl
@[simp] theorem setCrewAt_fwCores (s : State) (launch crew : Nat) (f : Crew → Crew) : (setCrewAt s launch crew f).fwCores = s.fwCores := rfl
@[simp] theorem setCrewAt_boot (s : State) (launch crew : Nat) (f : Crew → Crew) : (setCrewAt s launch crew f).boot = s.boot := rfl
@[simp] theorem setCrewAt_mirrors (s : State) (launch crew : Nat) (f : Crew → Crew) : (setCrewAt s launch crew f).mirrors = s.mirrors := rfl
@[simp] theorem setCrewAt_sent (s : State) (launch crew : Nat) (f : Crew → Crew) : (setCrewAt s launch crew f).sent = s.sent := rfl
@[simp] theorem setCrewAt_sentCrews (s : State) (launch crew : Nat) (f : Crew → Crew) : (setCrewAt s launch crew f).sentCrews = s.sentCrews := rfl
@[simp] theorem setCrewAt_stale (s : State) (launch crew : Nat) (f : Crew → Crew) : (setCrewAt s launch crew f).stale = s.stale := rfl
@[simp] theorem setCrewAt_peerDown (s : State) (launch crew : Nat) (f : Crew → Crew) : (setCrewAt s launch crew f).peerDown = s.peerDown := rfl
@[simp] theorem setCrewAt_unreach (s : State) (launch crew : Nat) (f : Crew → Crew) : (setCrewAt s launch crew f).unreach = s.unreach := rfl
@[simp] theorem setCrewAt_out (s : State) (launch crew : Nat) (f : Crew → Crew) : (setCrewAt s launch crew f).out = s.out := rfl

/-! setCrew. -/

@[simp] theorem setCrew_agenda (s : State) (f : Crew → Crew) : (setCrew s f).agenda = s.agenda := rfl
@[simp] theorem setCrew_pick (s : State) (f : Crew → Crew) : (setCrew s f).pick = s.pick := rfl
@[simp] theorem setCrew_free (s : State) (f : Crew → Crew) : (setCrew s f).free = s.free := rfl
@[simp] theorem setCrew_fresh (s : State) (f : Crew → Crew) : (setCrew s f).fresh = s.fresh := rfl
@[simp] theorem setCrew_warp (s : State) (f : Crew → Crew) : (setCrew s f).warp = s.warp := rfl
@[simp] theorem setCrew_bench (s : State) (f : Crew → Crew) : (setCrew s f).bench = s.bench := rfl
@[simp] theorem setCrew_pkg (s : State) (f : Crew → Crew) : (setCrew s f).pkg = s.pkg := rfl
@[simp] theorem setCrew_domain (s : State) (f : Crew → Crew) : (setCrew s f).domain = s.domain := rfl
@[simp] theorem setCrew_gtc (s : State) (f : Crew → Crew) : (setCrew s f).gtc = s.gtc := rfl
@[simp] theorem setCrew_now (s : State) (f : Crew → Crew) : (setCrew s f).now = s.now := rfl
@[simp] theorem setCrew_mem (s : State) (f : Crew → Crew) : (setCrew s f).mem = s.mem := rfl
@[simp] theorem setCrew_host (s : State) (f : Crew → Crew) : (setCrew s f).host = s.host := rfl
@[simp] theorem setCrew_hostWrites (s : State) (f : Crew → Crew) : (setCrew s f).hostWrites = s.hostWrites := rfl
@[simp] theorem setCrew_hostPages (s : State) (f : Crew → Crew) : (setCrew s f).hostPages = s.hostPages := rfl
@[simp] theorem setCrew_live (s : State) (f : Crew → Crew) : (setCrew s f).live = s.live := rfl
@[simp] theorem setCrew_placed (s : State) (f : Crew → Crew) : (setCrew s f).placed = s.placed := rfl
@[simp] theorem setCrew_weak (s : State) (f : Crew → Crew) : (setCrew s f).weak = s.weak := rfl
@[simp] theorem setCrew_bad (s : State) (f : Crew → Crew) : (setCrew s f).bad = s.bad := rfl
@[simp] theorem setCrew_llc (s : State) (f : Crew → Crew) : (setCrew s f).llc = s.llc := rfl
@[simp] theorem setCrew_misses (s : State) (f : Crew → Crew) : (setCrew s f).misses = s.misses := rfl
@[simp] theorem setCrew_wbufs (s : State) (f : Crew → Crew) : (setCrew s f).wbufs = s.wbufs := rfl
@[simp] theorem setCrew_l1 (s : State) (f : Crew → Crew) : (setCrew s f).l1 = s.l1 := rfl
@[simp] theorem setCrew_dir (s : State) (f : Crew → Crew) : (setCrew s f).dir = s.dir := rfl
@[simp] theorem setCrew_ctrls (s : State) (f : Crew → Crew) : (setCrew s f).ctrls = s.ctrls := rfl
@[simp] theorem setCrew_waitReqs (s : State) (f : Crew → Crew) : (setCrew s f).waitReqs = s.waitReqs := rfl
@[simp] theorem setCrew_resps (s : State) (f : Crew → Crew) : (setCrew s f).resps = s.resps := rfl
@[simp] theorem setCrew_puts (s : State) (f : Crew → Crew) : (setCrew s f).puts = s.puts := rfl
@[simp] theorem setCrew_keys (s : State) (f : Crew → Crew) : (setCrew s f).keys = s.keys := rfl
@[simp] theorem setCrew_streams (s : State) (f : Crew → Crew) : (setCrew s f).streams = s.streams := rfl
@[simp] theorem setCrew_digests (s : State) (f : Crew → Crew) : (setCrew s f).digests = s.digests := rfl
@[simp] theorem setCrew_hist (s : State) (f : Crew → Crew) : (setCrew s f).hist = s.hist := rfl
@[simp] theorem setCrew_histOwner (s : State) (f : Crew → Crew) : (setCrew s f).histOwner = s.histOwner := rfl
@[simp] theorem setCrew_asids (s : State) (f : Crew → Crew) : (setCrew s f).asids = s.asids := rfl
@[simp] theorem setCrew_peerAsids (s : State) (f : Crew → Crew) : (setCrew s f).peerAsids = s.peerAsids := rfl
@[simp] theorem setCrew_tlb (s : State) (f : Crew → Crew) : (setCrew s f).tlb = s.tlb := rfl
@[simp] theorem setCrew_ptrs (s : State) (f : Crew → Crew) : (setCrew s f).ptrs = s.ptrs := rfl
@[simp] theorem setCrew_walks (s : State) (f : Crew → Crew) : (setCrew s f).walks = s.walks := rfl
@[simp] theorem setCrew_ibuf (s : State) (f : Crew → Crew) : (setCrew s f).ibuf = s.ibuf := rfl
@[simp] theorem setCrew_invals (s : State) (f : Crew → Crew) : (setCrew s f).invals = s.invals := rfl
@[simp] theorem setCrew_pageReqs (s : State) (f : Crew → Crew) : (setCrew s f).pageReqs = s.pageReqs := rfl
@[simp] theorem setCrew_joinWaits (s : State) (f : Crew → Crew) : (setCrew s f).joinWaits = s.joinWaits := rfl
@[simp] theorem setCrew_tiles (s : State) (f : Crew → Crew) : (setCrew s f).tiles = s.tiles := rfl
@[simp] theorem setCrew_pad (s : State) (f : Crew → Crew) : (setCrew s f).pad = s.pad := rfl
@[simp] theorem setCrew_crews (s : State) (f : Crew → Crew) : (setCrew s f).crews = (setCrewAt s s.warp.launch (crewKey s.warp) f).crews := rfl
@[simp] theorem setCrew_clusters (s : State) (f : Crew → Crew) : (setCrew s f).clusters = s.clusters := rfl
@[simp] theorem setCrew_launches (s : State) (f : Crew → Crew) : (setCrew s f).launches = s.launches := rfl
@[simp] theorem setCrew_launchCount (s : State) (f : Crew → Crew) : (setCrew s f).launchCount = s.launchCount := rfl
@[simp] theorem setCrew_recs (s : State) (f : Crew → Crew) : (setCrew s f).recs = s.recs := rfl
@[simp] theorem setCrew_saggars (s : State) (f : Crew → Crew) : (setCrew s f).saggars = s.saggars := rfl
@[simp] theorem setCrew_stageOps (s : State) (f : Crew → Crew) : (setCrew s f).stageOps = s.stageOps := rfl
@[simp] theorem setCrew_acpys (s : State) (f : Crew → Crew) : (setCrew s f).acpys = s.acpys := rfl
@[simp] theorem setCrew_deficits (s : State) (f : Crew → Crew) : (setCrew s f).deficits = s.deficits := rfl
@[simp] theorem setCrew_gangs (s : State) (f : Crew → Crew) : (setCrew s f).gangs = s.gangs := rfl
@[simp] theorem setCrew_latches (s : State) (f : Crew → Crew) : (setCrew s f).latches = s.latches := rfl
@[simp] theorem setCrew_accs (s : State) (f : Crew → Crew) : (setCrew s f).accs = s.accs := rfl
@[simp] theorem setCrew_accOwned (s : State) (f : Crew → Crew) : (setCrew s f).accOwned = s.accOwned := rfl
@[simp] theorem setCrew_mxQueue (s : State) (f : Crew → Crew) : (setCrew s f).mxQueue = s.mxQueue := rfl
@[simp] theorem setCrew_mxOps (s : State) (f : Crew → Crew) : (setCrew s f).mxOps = s.mxOps := rfl
@[simp] theorem setCrew_coneLimit (s : State) (f : Crew → Crew) : (setCrew s f).coneLimit = s.coneLimit := rfl
@[simp] theorem setCrew_epochAt (s : State) (f : Crew → Crew) : (setCrew s f).epochAt = s.epochAt := rfl
@[simp] theorem setCrew_conesUsed (s : State) (f : Crew → Crew) : (setCrew s f).conesUsed = s.conesUsed := rfl
@[simp] theorem setCrew_coneOver (s : State) (f : Crew → Crew) : (setCrew s f).coneOver = s.coneOver := rfl
@[simp] theorem setCrew_rack (s : State) (f : Crew → Crew) : (setCrew s f).rack = s.rack := rfl
@[simp] theorem setCrew_queues (s : State) (f : Crew → Crew) : (setCrew s f).queues = s.queues := rfl
@[simp] theorem setCrew_packets (s : State) (f : Crew → Crew) : (setCrew s f).packets = s.packets := rfl
@[simp] theorem setCrew_colls (s : State) (f : Crew → Crew) : (setCrew s f).colls = s.colls := rfl
@[simp] theorem setCrew_collOut (s : State) (f : Crew → Crew) : (setCrew s f).collOut = s.collOut := rfl
@[simp] theorem setCrew_rshds (s : State) (f : Crew → Crew) : (setCrew s f).rshds = s.rshds := rfl
@[simp] theorem setCrew_groups (s : State) (f : Crew → Crew) : (setCrew s f).groups = s.groups := rfl
@[simp] theorem setCrew_links (s : State) (f : Crew → Crew) : (setCrew s f).links = s.links := rfl
@[simp] theorem setCrew_vis (s : State) (f : Crew → Crew) : (setCrew s f).vis = s.vis := rfl
@[simp] theorem setCrew_reports (s : State) (f : Crew → Crew) : (setCrew s f).reports = s.reports := rfl
@[simp] theorem setCrew_fwReqs (s : State) (f : Crew → Crew) : (setCrew s f).fwReqs = s.fwReqs := rfl
@[simp] theorem setCrew_lease (s : State) (f : Crew → Crew) : (setCrew s f).lease = s.lease := rfl
@[simp] theorem setCrew_fwCores (s : State) (f : Crew → Crew) : (setCrew s f).fwCores = s.fwCores := rfl
@[simp] theorem setCrew_boot (s : State) (f : Crew → Crew) : (setCrew s f).boot = s.boot := rfl
@[simp] theorem setCrew_mirrors (s : State) (f : Crew → Crew) : (setCrew s f).mirrors = s.mirrors := rfl
@[simp] theorem setCrew_sent (s : State) (f : Crew → Crew) : (setCrew s f).sent = s.sent := rfl
@[simp] theorem setCrew_sentCrews (s : State) (f : Crew → Crew) : (setCrew s f).sentCrews = s.sentCrews := rfl
@[simp] theorem setCrew_stale (s : State) (f : Crew → Crew) : (setCrew s f).stale = s.stale := rfl
@[simp] theorem setCrew_peerDown (s : State) (f : Crew → Crew) : (setCrew s f).peerDown = s.peerDown := rfl
@[simp] theorem setCrew_unreach (s : State) (f : Crew → Crew) : (setCrew s f).unreach = s.unreach := rfl
@[simp] theorem setCrew_out (s : State) (f : Crew → Crew) : (setCrew s f).out = s.out := rfl

/-! setPlace. -/

@[simp] theorem setPlace_agenda (s : State) (rid : Nat) (p : RecPlace) : (setPlace s rid p).agenda = s.agenda := rfl
@[simp] theorem setPlace_pick (s : State) (rid : Nat) (p : RecPlace) : (setPlace s rid p).pick = s.pick := rfl
@[simp] theorem setPlace_free (s : State) (rid : Nat) (p : RecPlace) : (setPlace s rid p).free = s.free := rfl
@[simp] theorem setPlace_fresh (s : State) (rid : Nat) (p : RecPlace) : (setPlace s rid p).fresh = s.fresh := rfl
@[simp] theorem setPlace_warp (s : State) (rid : Nat) (p : RecPlace) : (setPlace s rid p).warp = s.warp := rfl
@[simp] theorem setPlace_bench (s : State) (rid : Nat) (p : RecPlace) : (setPlace s rid p).bench = s.bench := rfl
@[simp] theorem setPlace_pkg (s : State) (rid : Nat) (p : RecPlace) : (setPlace s rid p).pkg = s.pkg := rfl
@[simp] theorem setPlace_domain (s : State) (rid : Nat) (p : RecPlace) : (setPlace s rid p).domain = s.domain := rfl
@[simp] theorem setPlace_gtc (s : State) (rid : Nat) (p : RecPlace) : (setPlace s rid p).gtc = s.gtc := rfl
@[simp] theorem setPlace_now (s : State) (rid : Nat) (p : RecPlace) : (setPlace s rid p).now = s.now := rfl
@[simp] theorem setPlace_mem (s : State) (rid : Nat) (p : RecPlace) : (setPlace s rid p).mem = s.mem := rfl
@[simp] theorem setPlace_host (s : State) (rid : Nat) (p : RecPlace) : (setPlace s rid p).host = s.host := rfl
@[simp] theorem setPlace_hostWrites (s : State) (rid : Nat) (p : RecPlace) : (setPlace s rid p).hostWrites = s.hostWrites := rfl
@[simp] theorem setPlace_hostPages (s : State) (rid : Nat) (p : RecPlace) : (setPlace s rid p).hostPages = s.hostPages := rfl
@[simp] theorem setPlace_live (s : State) (rid : Nat) (p : RecPlace) : (setPlace s rid p).live = s.live := rfl
@[simp] theorem setPlace_placed (s : State) (rid : Nat) (p : RecPlace) : (setPlace s rid p).placed = s.placed := rfl
@[simp] theorem setPlace_weak (s : State) (rid : Nat) (p : RecPlace) : (setPlace s rid p).weak = s.weak := rfl
@[simp] theorem setPlace_bad (s : State) (rid : Nat) (p : RecPlace) : (setPlace s rid p).bad = s.bad := rfl
@[simp] theorem setPlace_llc (s : State) (rid : Nat) (p : RecPlace) : (setPlace s rid p).llc = s.llc := rfl
@[simp] theorem setPlace_misses (s : State) (rid : Nat) (p : RecPlace) : (setPlace s rid p).misses = s.misses := rfl
@[simp] theorem setPlace_wbufs (s : State) (rid : Nat) (p : RecPlace) : (setPlace s rid p).wbufs = s.wbufs := rfl
@[simp] theorem setPlace_l1 (s : State) (rid : Nat) (p : RecPlace) : (setPlace s rid p).l1 = s.l1 := rfl
@[simp] theorem setPlace_dir (s : State) (rid : Nat) (p : RecPlace) : (setPlace s rid p).dir = s.dir := rfl
@[simp] theorem setPlace_ctrls (s : State) (rid : Nat) (p : RecPlace) : (setPlace s rid p).ctrls = s.ctrls := rfl
@[simp] theorem setPlace_waitReqs (s : State) (rid : Nat) (p : RecPlace) : (setPlace s rid p).waitReqs = s.waitReqs := rfl
@[simp] theorem setPlace_resps (s : State) (rid : Nat) (p : RecPlace) : (setPlace s rid p).resps = s.resps := rfl
@[simp] theorem setPlace_puts (s : State) (rid : Nat) (p : RecPlace) : (setPlace s rid p).puts = s.puts := rfl
@[simp] theorem setPlace_keys (s : State) (rid : Nat) (p : RecPlace) : (setPlace s rid p).keys = s.keys := rfl
@[simp] theorem setPlace_streams (s : State) (rid : Nat) (p : RecPlace) : (setPlace s rid p).streams = s.streams := rfl
@[simp] theorem setPlace_digests (s : State) (rid : Nat) (p : RecPlace) : (setPlace s rid p).digests = s.digests := rfl
@[simp] theorem setPlace_hist (s : State) (rid : Nat) (p : RecPlace) : (setPlace s rid p).hist = s.hist := rfl
@[simp] theorem setPlace_histOwner (s : State) (rid : Nat) (p : RecPlace) : (setPlace s rid p).histOwner = s.histOwner := rfl
@[simp] theorem setPlace_asids (s : State) (rid : Nat) (p : RecPlace) : (setPlace s rid p).asids = s.asids := rfl
@[simp] theorem setPlace_peerAsids (s : State) (rid : Nat) (p : RecPlace) : (setPlace s rid p).peerAsids = s.peerAsids := rfl
@[simp] theorem setPlace_tlb (s : State) (rid : Nat) (p : RecPlace) : (setPlace s rid p).tlb = s.tlb := rfl
@[simp] theorem setPlace_ptrs (s : State) (rid : Nat) (p : RecPlace) : (setPlace s rid p).ptrs = s.ptrs := rfl
@[simp] theorem setPlace_walks (s : State) (rid : Nat) (p : RecPlace) : (setPlace s rid p).walks = s.walks := rfl
@[simp] theorem setPlace_ibuf (s : State) (rid : Nat) (p : RecPlace) : (setPlace s rid p).ibuf = s.ibuf := rfl
@[simp] theorem setPlace_invals (s : State) (rid : Nat) (p : RecPlace) : (setPlace s rid p).invals = s.invals := rfl
@[simp] theorem setPlace_pageReqs (s : State) (rid : Nat) (p : RecPlace) : (setPlace s rid p).pageReqs = s.pageReqs := rfl
@[simp] theorem setPlace_joinWaits (s : State) (rid : Nat) (p : RecPlace) : (setPlace s rid p).joinWaits = s.joinWaits := rfl
@[simp] theorem setPlace_tiles (s : State) (rid : Nat) (p : RecPlace) : (setPlace s rid p).tiles = s.tiles := rfl
@[simp] theorem setPlace_pad (s : State) (rid : Nat) (p : RecPlace) : (setPlace s rid p).pad = s.pad := rfl
@[simp] theorem setPlace_crews (s : State) (rid : Nat) (p : RecPlace) : (setPlace s rid p).crews = s.crews := rfl
@[simp] theorem setPlace_clusters (s : State) (rid : Nat) (p : RecPlace) : (setPlace s rid p).clusters = s.clusters := rfl
@[simp] theorem setPlace_launches (s : State) (rid : Nat) (p : RecPlace) : (setPlace s rid p).launches = s.launches := rfl
@[simp] theorem setPlace_launchCount (s : State) (rid : Nat) (p : RecPlace) : (setPlace s rid p).launchCount = s.launchCount := rfl
@[simp] theorem setPlace_recs (s : State) (rid : Nat) (p : RecPlace) : (setPlace s rid p).recs = s.recs.map fun r => if r.rid = rid then { r with place := p, since := s.now } else r := rfl
@[simp] theorem setPlace_saggars (s : State) (rid : Nat) (p : RecPlace) : (setPlace s rid p).saggars = s.saggars := rfl
@[simp] theorem setPlace_stageOps (s : State) (rid : Nat) (p : RecPlace) : (setPlace s rid p).stageOps = s.stageOps := rfl
@[simp] theorem setPlace_acpys (s : State) (rid : Nat) (p : RecPlace) : (setPlace s rid p).acpys = s.acpys := rfl
@[simp] theorem setPlace_deficits (s : State) (rid : Nat) (p : RecPlace) : (setPlace s rid p).deficits = s.deficits := rfl
@[simp] theorem setPlace_gangs (s : State) (rid : Nat) (p : RecPlace) : (setPlace s rid p).gangs = s.gangs := rfl
@[simp] theorem setPlace_latches (s : State) (rid : Nat) (p : RecPlace) : (setPlace s rid p).latches = s.latches := rfl
@[simp] theorem setPlace_accs (s : State) (rid : Nat) (p : RecPlace) : (setPlace s rid p).accs = s.accs := rfl
@[simp] theorem setPlace_accOwned (s : State) (rid : Nat) (p : RecPlace) : (setPlace s rid p).accOwned = s.accOwned := rfl
@[simp] theorem setPlace_mxQueue (s : State) (rid : Nat) (p : RecPlace) : (setPlace s rid p).mxQueue = s.mxQueue := rfl
@[simp] theorem setPlace_mxOps (s : State) (rid : Nat) (p : RecPlace) : (setPlace s rid p).mxOps = s.mxOps := rfl
@[simp] theorem setPlace_coneLimit (s : State) (rid : Nat) (p : RecPlace) : (setPlace s rid p).coneLimit = s.coneLimit := rfl
@[simp] theorem setPlace_epochAt (s : State) (rid : Nat) (p : RecPlace) : (setPlace s rid p).epochAt = s.epochAt := rfl
@[simp] theorem setPlace_conesUsed (s : State) (rid : Nat) (p : RecPlace) : (setPlace s rid p).conesUsed = s.conesUsed := rfl
@[simp] theorem setPlace_coneOver (s : State) (rid : Nat) (p : RecPlace) : (setPlace s rid p).coneOver = s.coneOver := rfl
@[simp] theorem setPlace_rack (s : State) (rid : Nat) (p : RecPlace) : (setPlace s rid p).rack = s.rack := rfl
@[simp] theorem setPlace_queues (s : State) (rid : Nat) (p : RecPlace) : (setPlace s rid p).queues = s.queues := rfl
@[simp] theorem setPlace_packets (s : State) (rid : Nat) (p : RecPlace) : (setPlace s rid p).packets = s.packets := rfl
@[simp] theorem setPlace_colls (s : State) (rid : Nat) (p : RecPlace) : (setPlace s rid p).colls = s.colls := rfl
@[simp] theorem setPlace_collOut (s : State) (rid : Nat) (p : RecPlace) : (setPlace s rid p).collOut = s.collOut := rfl
@[simp] theorem setPlace_rshds (s : State) (rid : Nat) (p : RecPlace) : (setPlace s rid p).rshds = s.rshds := rfl
@[simp] theorem setPlace_groups (s : State) (rid : Nat) (p : RecPlace) : (setPlace s rid p).groups = s.groups := rfl
@[simp] theorem setPlace_links (s : State) (rid : Nat) (p : RecPlace) : (setPlace s rid p).links = s.links := rfl
@[simp] theorem setPlace_vis (s : State) (rid : Nat) (p : RecPlace) : (setPlace s rid p).vis = s.vis := rfl
@[simp] theorem setPlace_reports (s : State) (rid : Nat) (p : RecPlace) : (setPlace s rid p).reports = s.reports := rfl
@[simp] theorem setPlace_fwReqs (s : State) (rid : Nat) (p : RecPlace) : (setPlace s rid p).fwReqs = s.fwReqs := rfl
@[simp] theorem setPlace_lease (s : State) (rid : Nat) (p : RecPlace) : (setPlace s rid p).lease = s.lease := rfl
@[simp] theorem setPlace_fwCores (s : State) (rid : Nat) (p : RecPlace) : (setPlace s rid p).fwCores = s.fwCores := rfl
@[simp] theorem setPlace_boot (s : State) (rid : Nat) (p : RecPlace) : (setPlace s rid p).boot = s.boot := rfl
@[simp] theorem setPlace_mirrors (s : State) (rid : Nat) (p : RecPlace) : (setPlace s rid p).mirrors = s.mirrors := rfl
@[simp] theorem setPlace_sent (s : State) (rid : Nat) (p : RecPlace) : (setPlace s rid p).sent = s.sent := rfl
@[simp] theorem setPlace_sentCrews (s : State) (rid : Nat) (p : RecPlace) : (setPlace s rid p).sentCrews = s.sentCrews := rfl
@[simp] theorem setPlace_stale (s : State) (rid : Nat) (p : RecPlace) : (setPlace s rid p).stale = s.stale := rfl
@[simp] theorem setPlace_peerDown (s : State) (rid : Nat) (p : RecPlace) : (setPlace s rid p).peerDown = s.peerDown := rfl
@[simp] theorem setPlace_unreach (s : State) (rid : Nat) (p : RecPlace) : (setPlace s rid p).unreach = s.unreach := rfl
@[simp] theorem setPlace_out (s : State) (rid : Nat) (p : RecPlace) : (setPlace s rid p).out = s.out := rfl

/-! clearAcc. -/

@[simp] theorem clearAcc_agenda (s : State) (core acc : Nat) : (clearAcc s core acc).agenda = s.agenda := rfl
@[simp] theorem clearAcc_pick (s : State) (core acc : Nat) : (clearAcc s core acc).pick = s.pick := rfl
@[simp] theorem clearAcc_free (s : State) (core acc : Nat) : (clearAcc s core acc).free = s.free := rfl
@[simp] theorem clearAcc_fresh (s : State) (core acc : Nat) : (clearAcc s core acc).fresh = s.fresh := rfl
@[simp] theorem clearAcc_warp (s : State) (core acc : Nat) : (clearAcc s core acc).warp = s.warp := rfl
@[simp] theorem clearAcc_bench (s : State) (core acc : Nat) : (clearAcc s core acc).bench = s.bench := rfl
@[simp] theorem clearAcc_pkg (s : State) (core acc : Nat) : (clearAcc s core acc).pkg = s.pkg := rfl
@[simp] theorem clearAcc_domain (s : State) (core acc : Nat) : (clearAcc s core acc).domain = s.domain := rfl
@[simp] theorem clearAcc_gtc (s : State) (core acc : Nat) : (clearAcc s core acc).gtc = s.gtc := rfl
@[simp] theorem clearAcc_now (s : State) (core acc : Nat) : (clearAcc s core acc).now = s.now := rfl
@[simp] theorem clearAcc_mem (s : State) (core acc : Nat) : (clearAcc s core acc).mem = s.mem := rfl
@[simp] theorem clearAcc_host (s : State) (core acc : Nat) : (clearAcc s core acc).host = s.host := rfl
@[simp] theorem clearAcc_hostWrites (s : State) (core acc : Nat) : (clearAcc s core acc).hostWrites = s.hostWrites := rfl
@[simp] theorem clearAcc_hostPages (s : State) (core acc : Nat) : (clearAcc s core acc).hostPages = s.hostPages := rfl
@[simp] theorem clearAcc_live (s : State) (core acc : Nat) : (clearAcc s core acc).live = s.live := rfl
@[simp] theorem clearAcc_placed (s : State) (core acc : Nat) : (clearAcc s core acc).placed = s.placed := rfl
@[simp] theorem clearAcc_weak (s : State) (core acc : Nat) : (clearAcc s core acc).weak = s.weak := rfl
@[simp] theorem clearAcc_bad (s : State) (core acc : Nat) : (clearAcc s core acc).bad = s.bad := rfl
@[simp] theorem clearAcc_llc (s : State) (core acc : Nat) : (clearAcc s core acc).llc = s.llc := rfl
@[simp] theorem clearAcc_misses (s : State) (core acc : Nat) : (clearAcc s core acc).misses = s.misses := rfl
@[simp] theorem clearAcc_wbufs (s : State) (core acc : Nat) : (clearAcc s core acc).wbufs = s.wbufs := rfl
@[simp] theorem clearAcc_l1 (s : State) (core acc : Nat) : (clearAcc s core acc).l1 = s.l1 := rfl
@[simp] theorem clearAcc_dir (s : State) (core acc : Nat) : (clearAcc s core acc).dir = s.dir := rfl
@[simp] theorem clearAcc_ctrls (s : State) (core acc : Nat) : (clearAcc s core acc).ctrls = s.ctrls := rfl
@[simp] theorem clearAcc_waitReqs (s : State) (core acc : Nat) : (clearAcc s core acc).waitReqs = s.waitReqs := rfl
@[simp] theorem clearAcc_resps (s : State) (core acc : Nat) : (clearAcc s core acc).resps = s.resps := rfl
@[simp] theorem clearAcc_puts (s : State) (core acc : Nat) : (clearAcc s core acc).puts = s.puts := rfl
@[simp] theorem clearAcc_keys (s : State) (core acc : Nat) : (clearAcc s core acc).keys = s.keys := rfl
@[simp] theorem clearAcc_streams (s : State) (core acc : Nat) : (clearAcc s core acc).streams = s.streams := rfl
@[simp] theorem clearAcc_digests (s : State) (core acc : Nat) : (clearAcc s core acc).digests = s.digests := rfl
@[simp] theorem clearAcc_hist (s : State) (core acc : Nat) : (clearAcc s core acc).hist = s.hist := rfl
@[simp] theorem clearAcc_histOwner (s : State) (core acc : Nat) : (clearAcc s core acc).histOwner = s.histOwner := rfl
@[simp] theorem clearAcc_asids (s : State) (core acc : Nat) : (clearAcc s core acc).asids = s.asids := rfl
@[simp] theorem clearAcc_peerAsids (s : State) (core acc : Nat) : (clearAcc s core acc).peerAsids = s.peerAsids := rfl
@[simp] theorem clearAcc_tlb (s : State) (core acc : Nat) : (clearAcc s core acc).tlb = s.tlb := rfl
@[simp] theorem clearAcc_ptrs (s : State) (core acc : Nat) : (clearAcc s core acc).ptrs = s.ptrs := rfl
@[simp] theorem clearAcc_walks (s : State) (core acc : Nat) : (clearAcc s core acc).walks = s.walks := rfl
@[simp] theorem clearAcc_ibuf (s : State) (core acc : Nat) : (clearAcc s core acc).ibuf = s.ibuf := rfl
@[simp] theorem clearAcc_invals (s : State) (core acc : Nat) : (clearAcc s core acc).invals = s.invals := rfl
@[simp] theorem clearAcc_pageReqs (s : State) (core acc : Nat) : (clearAcc s core acc).pageReqs = s.pageReqs := rfl
@[simp] theorem clearAcc_joinWaits (s : State) (core acc : Nat) : (clearAcc s core acc).joinWaits = s.joinWaits := rfl
@[simp] theorem clearAcc_tiles (s : State) (core acc : Nat) : (clearAcc s core acc).tiles = s.tiles := rfl
@[simp] theorem clearAcc_pad (s : State) (core acc : Nat) : (clearAcc s core acc).pad = s.pad := rfl
@[simp] theorem clearAcc_crews (s : State) (core acc : Nat) : (clearAcc s core acc).crews = s.crews := rfl
@[simp] theorem clearAcc_clusters (s : State) (core acc : Nat) : (clearAcc s core acc).clusters = s.clusters := rfl
@[simp] theorem clearAcc_launches (s : State) (core acc : Nat) : (clearAcc s core acc).launches = s.launches := rfl
@[simp] theorem clearAcc_launchCount (s : State) (core acc : Nat) : (clearAcc s core acc).launchCount = s.launchCount := rfl
@[simp] theorem clearAcc_recs (s : State) (core acc : Nat) : (clearAcc s core acc).recs = s.recs := rfl
@[simp] theorem clearAcc_saggars (s : State) (core acc : Nat) : (clearAcc s core acc).saggars = s.saggars := rfl
@[simp] theorem clearAcc_stageOps (s : State) (core acc : Nat) : (clearAcc s core acc).stageOps = s.stageOps := rfl
@[simp] theorem clearAcc_acpys (s : State) (core acc : Nat) : (clearAcc s core acc).acpys = s.acpys := rfl
@[simp] theorem clearAcc_deficits (s : State) (core acc : Nat) : (clearAcc s core acc).deficits = s.deficits := rfl
@[simp] theorem clearAcc_gangs (s : State) (core acc : Nat) : (clearAcc s core acc).gangs = s.gangs := rfl
@[simp] theorem clearAcc_latches (s : State) (core acc : Nat) : (clearAcc s core acc).latches = s.latches := rfl
@[simp] theorem clearAcc_accs (s : State) (core acc : Nat) : (clearAcc s core acc).accs = mdrop s.accs (accKey core acc 0 0) (accKey core (acc + 1) 0 0) := rfl
@[simp] theorem clearAcc_accOwned (s : State) (core acc : Nat) : (clearAcc s core acc).accOwned = s.accOwned := rfl
@[simp] theorem clearAcc_mxQueue (s : State) (core acc : Nat) : (clearAcc s core acc).mxQueue = s.mxQueue := rfl
@[simp] theorem clearAcc_mxOps (s : State) (core acc : Nat) : (clearAcc s core acc).mxOps = s.mxOps := rfl
@[simp] theorem clearAcc_coneLimit (s : State) (core acc : Nat) : (clearAcc s core acc).coneLimit = s.coneLimit := rfl
@[simp] theorem clearAcc_epochAt (s : State) (core acc : Nat) : (clearAcc s core acc).epochAt = s.epochAt := rfl
@[simp] theorem clearAcc_conesUsed (s : State) (core acc : Nat) : (clearAcc s core acc).conesUsed = s.conesUsed := rfl
@[simp] theorem clearAcc_coneOver (s : State) (core acc : Nat) : (clearAcc s core acc).coneOver = s.coneOver := rfl
@[simp] theorem clearAcc_rack (s : State) (core acc : Nat) : (clearAcc s core acc).rack = s.rack := rfl
@[simp] theorem clearAcc_queues (s : State) (core acc : Nat) : (clearAcc s core acc).queues = s.queues := rfl
@[simp] theorem clearAcc_packets (s : State) (core acc : Nat) : (clearAcc s core acc).packets = s.packets := rfl
@[simp] theorem clearAcc_colls (s : State) (core acc : Nat) : (clearAcc s core acc).colls = s.colls := rfl
@[simp] theorem clearAcc_collOut (s : State) (core acc : Nat) : (clearAcc s core acc).collOut = s.collOut := rfl
@[simp] theorem clearAcc_rshds (s : State) (core acc : Nat) : (clearAcc s core acc).rshds = s.rshds := rfl
@[simp] theorem clearAcc_groups (s : State) (core acc : Nat) : (clearAcc s core acc).groups = s.groups := rfl
@[simp] theorem clearAcc_links (s : State) (core acc : Nat) : (clearAcc s core acc).links = s.links := rfl
@[simp] theorem clearAcc_vis (s : State) (core acc : Nat) : (clearAcc s core acc).vis = s.vis := rfl
@[simp] theorem clearAcc_reports (s : State) (core acc : Nat) : (clearAcc s core acc).reports = s.reports := rfl
@[simp] theorem clearAcc_fwReqs (s : State) (core acc : Nat) : (clearAcc s core acc).fwReqs = s.fwReqs := rfl
@[simp] theorem clearAcc_lease (s : State) (core acc : Nat) : (clearAcc s core acc).lease = s.lease := rfl
@[simp] theorem clearAcc_fwCores (s : State) (core acc : Nat) : (clearAcc s core acc).fwCores = s.fwCores := rfl
@[simp] theorem clearAcc_boot (s : State) (core acc : Nat) : (clearAcc s core acc).boot = s.boot := rfl
@[simp] theorem clearAcc_mirrors (s : State) (core acc : Nat) : (clearAcc s core acc).mirrors = s.mirrors := rfl
@[simp] theorem clearAcc_sent (s : State) (core acc : Nat) : (clearAcc s core acc).sent = s.sent := rfl
@[simp] theorem clearAcc_sentCrews (s : State) (core acc : Nat) : (clearAcc s core acc).sentCrews = s.sentCrews := rfl
@[simp] theorem clearAcc_stale (s : State) (core acc : Nat) : (clearAcc s core acc).stale = s.stale := rfl
@[simp] theorem clearAcc_peerDown (s : State) (core acc : Nat) : (clearAcc s core acc).peerDown = s.peerDown := rfl
@[simp] theorem clearAcc_unreach (s : State) (core acc : Nat) : (clearAcc s core acc).unreach = s.unreach := rfl
@[simp] theorem clearAcc_out (s : State) (core acc : Nat) : (clearAcc s core acc).out = s.out := rfl

/-! setCtrl. -/

@[simp] theorem setCtrl_agenda (s : State) (c : Nat) (f : Ctrl → Ctrl) : (setCtrl s c f).agenda = s.agenda := rfl
@[simp] theorem setCtrl_pick (s : State) (c : Nat) (f : Ctrl → Ctrl) : (setCtrl s c f).pick = s.pick := rfl
@[simp] theorem setCtrl_free (s : State) (c : Nat) (f : Ctrl → Ctrl) : (setCtrl s c f).free = s.free := rfl
@[simp] theorem setCtrl_fresh (s : State) (c : Nat) (f : Ctrl → Ctrl) : (setCtrl s c f).fresh = s.fresh := rfl
@[simp] theorem setCtrl_warp (s : State) (c : Nat) (f : Ctrl → Ctrl) : (setCtrl s c f).warp = s.warp := rfl
@[simp] theorem setCtrl_bench (s : State) (c : Nat) (f : Ctrl → Ctrl) : (setCtrl s c f).bench = s.bench := rfl
@[simp] theorem setCtrl_pkg (s : State) (c : Nat) (f : Ctrl → Ctrl) : (setCtrl s c f).pkg = s.pkg := rfl
@[simp] theorem setCtrl_domain (s : State) (c : Nat) (f : Ctrl → Ctrl) : (setCtrl s c f).domain = s.domain := rfl
@[simp] theorem setCtrl_gtc (s : State) (c : Nat) (f : Ctrl → Ctrl) : (setCtrl s c f).gtc = s.gtc := rfl
@[simp] theorem setCtrl_now (s : State) (c : Nat) (f : Ctrl → Ctrl) : (setCtrl s c f).now = s.now := rfl
@[simp] theorem setCtrl_mem (s : State) (c : Nat) (f : Ctrl → Ctrl) : (setCtrl s c f).mem = s.mem := rfl
@[simp] theorem setCtrl_host (s : State) (c : Nat) (f : Ctrl → Ctrl) : (setCtrl s c f).host = s.host := rfl
@[simp] theorem setCtrl_hostWrites (s : State) (c : Nat) (f : Ctrl → Ctrl) : (setCtrl s c f).hostWrites = s.hostWrites := rfl
@[simp] theorem setCtrl_hostPages (s : State) (c : Nat) (f : Ctrl → Ctrl) : (setCtrl s c f).hostPages = s.hostPages := rfl
@[simp] theorem setCtrl_live (s : State) (c : Nat) (f : Ctrl → Ctrl) : (setCtrl s c f).live = s.live := rfl
@[simp] theorem setCtrl_placed (s : State) (c : Nat) (f : Ctrl → Ctrl) : (setCtrl s c f).placed = s.placed := rfl
@[simp] theorem setCtrl_weak (s : State) (c : Nat) (f : Ctrl → Ctrl) : (setCtrl s c f).weak = s.weak := rfl
@[simp] theorem setCtrl_bad (s : State) (c : Nat) (f : Ctrl → Ctrl) : (setCtrl s c f).bad = s.bad := rfl
@[simp] theorem setCtrl_llc (s : State) (c : Nat) (f : Ctrl → Ctrl) : (setCtrl s c f).llc = s.llc := rfl
@[simp] theorem setCtrl_misses (s : State) (c : Nat) (f : Ctrl → Ctrl) : (setCtrl s c f).misses = s.misses := rfl
@[simp] theorem setCtrl_wbufs (s : State) (c : Nat) (f : Ctrl → Ctrl) : (setCtrl s c f).wbufs = s.wbufs := rfl
@[simp] theorem setCtrl_l1 (s : State) (c : Nat) (f : Ctrl → Ctrl) : (setCtrl s c f).l1 = s.l1 := rfl
@[simp] theorem setCtrl_dir (s : State) (c : Nat) (f : Ctrl → Ctrl) : (setCtrl s c f).dir = s.dir := rfl
@[simp] theorem setCtrl_ctrls (s : State) (c : Nat) (f : Ctrl → Ctrl) : (setCtrl s c f).ctrls = s.ctrls.modify c f := rfl
@[simp] theorem setCtrl_waitReqs (s : State) (c : Nat) (f : Ctrl → Ctrl) : (setCtrl s c f).waitReqs = s.waitReqs := rfl
@[simp] theorem setCtrl_resps (s : State) (c : Nat) (f : Ctrl → Ctrl) : (setCtrl s c f).resps = s.resps := rfl
@[simp] theorem setCtrl_puts (s : State) (c : Nat) (f : Ctrl → Ctrl) : (setCtrl s c f).puts = s.puts := rfl
@[simp] theorem setCtrl_keys (s : State) (c : Nat) (f : Ctrl → Ctrl) : (setCtrl s c f).keys = s.keys := rfl
@[simp] theorem setCtrl_streams (s : State) (c : Nat) (f : Ctrl → Ctrl) : (setCtrl s c f).streams = s.streams := rfl
@[simp] theorem setCtrl_digests (s : State) (c : Nat) (f : Ctrl → Ctrl) : (setCtrl s c f).digests = s.digests := rfl
@[simp] theorem setCtrl_hist (s : State) (c : Nat) (f : Ctrl → Ctrl) : (setCtrl s c f).hist = s.hist := rfl
@[simp] theorem setCtrl_histOwner (s : State) (c : Nat) (f : Ctrl → Ctrl) : (setCtrl s c f).histOwner = s.histOwner := rfl
@[simp] theorem setCtrl_asids (s : State) (c : Nat) (f : Ctrl → Ctrl) : (setCtrl s c f).asids = s.asids := rfl
@[simp] theorem setCtrl_peerAsids (s : State) (c : Nat) (f : Ctrl → Ctrl) : (setCtrl s c f).peerAsids = s.peerAsids := rfl
@[simp] theorem setCtrl_tlb (s : State) (c : Nat) (f : Ctrl → Ctrl) : (setCtrl s c f).tlb = s.tlb := rfl
@[simp] theorem setCtrl_ptrs (s : State) (c : Nat) (f : Ctrl → Ctrl) : (setCtrl s c f).ptrs = s.ptrs := rfl
@[simp] theorem setCtrl_walks (s : State) (c : Nat) (f : Ctrl → Ctrl) : (setCtrl s c f).walks = s.walks := rfl
@[simp] theorem setCtrl_ibuf (s : State) (c : Nat) (f : Ctrl → Ctrl) : (setCtrl s c f).ibuf = s.ibuf := rfl
@[simp] theorem setCtrl_invals (s : State) (c : Nat) (f : Ctrl → Ctrl) : (setCtrl s c f).invals = s.invals := rfl
@[simp] theorem setCtrl_pageReqs (s : State) (c : Nat) (f : Ctrl → Ctrl) : (setCtrl s c f).pageReqs = s.pageReqs := rfl
@[simp] theorem setCtrl_joinWaits (s : State) (c : Nat) (f : Ctrl → Ctrl) : (setCtrl s c f).joinWaits = s.joinWaits := rfl
@[simp] theorem setCtrl_tiles (s : State) (c : Nat) (f : Ctrl → Ctrl) : (setCtrl s c f).tiles = s.tiles := rfl
@[simp] theorem setCtrl_pad (s : State) (c : Nat) (f : Ctrl → Ctrl) : (setCtrl s c f).pad = s.pad := rfl
@[simp] theorem setCtrl_crews (s : State) (c : Nat) (f : Ctrl → Ctrl) : (setCtrl s c f).crews = s.crews := rfl
@[simp] theorem setCtrl_clusters (s : State) (c : Nat) (f : Ctrl → Ctrl) : (setCtrl s c f).clusters = s.clusters := rfl
@[simp] theorem setCtrl_launches (s : State) (c : Nat) (f : Ctrl → Ctrl) : (setCtrl s c f).launches = s.launches := rfl
@[simp] theorem setCtrl_launchCount (s : State) (c : Nat) (f : Ctrl → Ctrl) : (setCtrl s c f).launchCount = s.launchCount := rfl
@[simp] theorem setCtrl_recs (s : State) (c : Nat) (f : Ctrl → Ctrl) : (setCtrl s c f).recs = s.recs := rfl
@[simp] theorem setCtrl_saggars (s : State) (c : Nat) (f : Ctrl → Ctrl) : (setCtrl s c f).saggars = s.saggars := rfl
@[simp] theorem setCtrl_stageOps (s : State) (c : Nat) (f : Ctrl → Ctrl) : (setCtrl s c f).stageOps = s.stageOps := rfl
@[simp] theorem setCtrl_acpys (s : State) (c : Nat) (f : Ctrl → Ctrl) : (setCtrl s c f).acpys = s.acpys := rfl
@[simp] theorem setCtrl_deficits (s : State) (c : Nat) (f : Ctrl → Ctrl) : (setCtrl s c f).deficits = s.deficits := rfl
@[simp] theorem setCtrl_gangs (s : State) (c : Nat) (f : Ctrl → Ctrl) : (setCtrl s c f).gangs = s.gangs := rfl
@[simp] theorem setCtrl_latches (s : State) (c : Nat) (f : Ctrl → Ctrl) : (setCtrl s c f).latches = s.latches := rfl
@[simp] theorem setCtrl_accs (s : State) (c : Nat) (f : Ctrl → Ctrl) : (setCtrl s c f).accs = s.accs := rfl
@[simp] theorem setCtrl_accOwned (s : State) (c : Nat) (f : Ctrl → Ctrl) : (setCtrl s c f).accOwned = s.accOwned := rfl
@[simp] theorem setCtrl_mxQueue (s : State) (c : Nat) (f : Ctrl → Ctrl) : (setCtrl s c f).mxQueue = s.mxQueue := rfl
@[simp] theorem setCtrl_mxOps (s : State) (c : Nat) (f : Ctrl → Ctrl) : (setCtrl s c f).mxOps = s.mxOps := rfl
@[simp] theorem setCtrl_coneLimit (s : State) (c : Nat) (f : Ctrl → Ctrl) : (setCtrl s c f).coneLimit = s.coneLimit := rfl
@[simp] theorem setCtrl_epochAt (s : State) (c : Nat) (f : Ctrl → Ctrl) : (setCtrl s c f).epochAt = s.epochAt := rfl
@[simp] theorem setCtrl_conesUsed (s : State) (c : Nat) (f : Ctrl → Ctrl) : (setCtrl s c f).conesUsed = s.conesUsed := rfl
@[simp] theorem setCtrl_coneOver (s : State) (c : Nat) (f : Ctrl → Ctrl) : (setCtrl s c f).coneOver = s.coneOver := rfl
@[simp] theorem setCtrl_rack (s : State) (c : Nat) (f : Ctrl → Ctrl) : (setCtrl s c f).rack = s.rack := rfl
@[simp] theorem setCtrl_queues (s : State) (c : Nat) (f : Ctrl → Ctrl) : (setCtrl s c f).queues = s.queues := rfl
@[simp] theorem setCtrl_packets (s : State) (c : Nat) (f : Ctrl → Ctrl) : (setCtrl s c f).packets = s.packets := rfl
@[simp] theorem setCtrl_colls (s : State) (c : Nat) (f : Ctrl → Ctrl) : (setCtrl s c f).colls = s.colls := rfl
@[simp] theorem setCtrl_collOut (s : State) (c : Nat) (f : Ctrl → Ctrl) : (setCtrl s c f).collOut = s.collOut := rfl
@[simp] theorem setCtrl_rshds (s : State) (c : Nat) (f : Ctrl → Ctrl) : (setCtrl s c f).rshds = s.rshds := rfl
@[simp] theorem setCtrl_groups (s : State) (c : Nat) (f : Ctrl → Ctrl) : (setCtrl s c f).groups = s.groups := rfl
@[simp] theorem setCtrl_links (s : State) (c : Nat) (f : Ctrl → Ctrl) : (setCtrl s c f).links = s.links := rfl
@[simp] theorem setCtrl_vis (s : State) (c : Nat) (f : Ctrl → Ctrl) : (setCtrl s c f).vis = s.vis := rfl
@[simp] theorem setCtrl_reports (s : State) (c : Nat) (f : Ctrl → Ctrl) : (setCtrl s c f).reports = s.reports := rfl
@[simp] theorem setCtrl_fwReqs (s : State) (c : Nat) (f : Ctrl → Ctrl) : (setCtrl s c f).fwReqs = s.fwReqs := rfl
@[simp] theorem setCtrl_lease (s : State) (c : Nat) (f : Ctrl → Ctrl) : (setCtrl s c f).lease = s.lease := rfl
@[simp] theorem setCtrl_fwCores (s : State) (c : Nat) (f : Ctrl → Ctrl) : (setCtrl s c f).fwCores = s.fwCores := rfl
@[simp] theorem setCtrl_boot (s : State) (c : Nat) (f : Ctrl → Ctrl) : (setCtrl s c f).boot = s.boot := rfl
@[simp] theorem setCtrl_mirrors (s : State) (c : Nat) (f : Ctrl → Ctrl) : (setCtrl s c f).mirrors = s.mirrors := rfl
@[simp] theorem setCtrl_sent (s : State) (c : Nat) (f : Ctrl → Ctrl) : (setCtrl s c f).sent = s.sent := rfl
@[simp] theorem setCtrl_sentCrews (s : State) (c : Nat) (f : Ctrl → Ctrl) : (setCtrl s c f).sentCrews = s.sentCrews := rfl
@[simp] theorem setCtrl_stale (s : State) (c : Nat) (f : Ctrl → Ctrl) : (setCtrl s c f).stale = s.stale := rfl
@[simp] theorem setCtrl_peerDown (s : State) (c : Nat) (f : Ctrl → Ctrl) : (setCtrl s c f).peerDown = s.peerDown := rfl
@[simp] theorem setCtrl_unreach (s : State) (c : Nat) (f : Ctrl → Ctrl) : (setCtrl s c f).unreach = s.unreach := rfl
@[simp] theorem setCtrl_out (s : State) (c : Nat) (f : Ctrl → Ctrl) : (setCtrl s c f).out = s.out := rfl

/-! setLink. -/

@[simp] theorem setLink_agenda (s : State) (k : Nat) (f : Link → Link) : (setLink s k f).agenda = s.agenda := rfl
@[simp] theorem setLink_pick (s : State) (k : Nat) (f : Link → Link) : (setLink s k f).pick = s.pick := rfl
@[simp] theorem setLink_free (s : State) (k : Nat) (f : Link → Link) : (setLink s k f).free = s.free := rfl
@[simp] theorem setLink_fresh (s : State) (k : Nat) (f : Link → Link) : (setLink s k f).fresh = s.fresh := rfl
@[simp] theorem setLink_warp (s : State) (k : Nat) (f : Link → Link) : (setLink s k f).warp = s.warp := rfl
@[simp] theorem setLink_bench (s : State) (k : Nat) (f : Link → Link) : (setLink s k f).bench = s.bench := rfl
@[simp] theorem setLink_pkg (s : State) (k : Nat) (f : Link → Link) : (setLink s k f).pkg = s.pkg := rfl
@[simp] theorem setLink_domain (s : State) (k : Nat) (f : Link → Link) : (setLink s k f).domain = s.domain := rfl
@[simp] theorem setLink_gtc (s : State) (k : Nat) (f : Link → Link) : (setLink s k f).gtc = s.gtc := rfl
@[simp] theorem setLink_now (s : State) (k : Nat) (f : Link → Link) : (setLink s k f).now = s.now := rfl
@[simp] theorem setLink_mem (s : State) (k : Nat) (f : Link → Link) : (setLink s k f).mem = s.mem := rfl
@[simp] theorem setLink_host (s : State) (k : Nat) (f : Link → Link) : (setLink s k f).host = s.host := rfl
@[simp] theorem setLink_hostWrites (s : State) (k : Nat) (f : Link → Link) : (setLink s k f).hostWrites = s.hostWrites := rfl
@[simp] theorem setLink_hostPages (s : State) (k : Nat) (f : Link → Link) : (setLink s k f).hostPages = s.hostPages := rfl
@[simp] theorem setLink_live (s : State) (k : Nat) (f : Link → Link) : (setLink s k f).live = s.live := rfl
@[simp] theorem setLink_placed (s : State) (k : Nat) (f : Link → Link) : (setLink s k f).placed = s.placed := rfl
@[simp] theorem setLink_weak (s : State) (k : Nat) (f : Link → Link) : (setLink s k f).weak = s.weak := rfl
@[simp] theorem setLink_bad (s : State) (k : Nat) (f : Link → Link) : (setLink s k f).bad = s.bad := rfl
@[simp] theorem setLink_llc (s : State) (k : Nat) (f : Link → Link) : (setLink s k f).llc = s.llc := rfl
@[simp] theorem setLink_misses (s : State) (k : Nat) (f : Link → Link) : (setLink s k f).misses = s.misses := rfl
@[simp] theorem setLink_wbufs (s : State) (k : Nat) (f : Link → Link) : (setLink s k f).wbufs = s.wbufs := rfl
@[simp] theorem setLink_l1 (s : State) (k : Nat) (f : Link → Link) : (setLink s k f).l1 = s.l1 := rfl
@[simp] theorem setLink_dir (s : State) (k : Nat) (f : Link → Link) : (setLink s k f).dir = s.dir := rfl
@[simp] theorem setLink_ctrls (s : State) (k : Nat) (f : Link → Link) : (setLink s k f).ctrls = s.ctrls := rfl
@[simp] theorem setLink_waitReqs (s : State) (k : Nat) (f : Link → Link) : (setLink s k f).waitReqs = s.waitReqs := rfl
@[simp] theorem setLink_resps (s : State) (k : Nat) (f : Link → Link) : (setLink s k f).resps = s.resps := rfl
@[simp] theorem setLink_puts (s : State) (k : Nat) (f : Link → Link) : (setLink s k f).puts = s.puts := rfl
@[simp] theorem setLink_keys (s : State) (k : Nat) (f : Link → Link) : (setLink s k f).keys = s.keys := rfl
@[simp] theorem setLink_streams (s : State) (k : Nat) (f : Link → Link) : (setLink s k f).streams = s.streams := rfl
@[simp] theorem setLink_digests (s : State) (k : Nat) (f : Link → Link) : (setLink s k f).digests = s.digests := rfl
@[simp] theorem setLink_hist (s : State) (k : Nat) (f : Link → Link) : (setLink s k f).hist = s.hist := rfl
@[simp] theorem setLink_histOwner (s : State) (k : Nat) (f : Link → Link) : (setLink s k f).histOwner = s.histOwner := rfl
@[simp] theorem setLink_asids (s : State) (k : Nat) (f : Link → Link) : (setLink s k f).asids = s.asids := rfl
@[simp] theorem setLink_peerAsids (s : State) (k : Nat) (f : Link → Link) : (setLink s k f).peerAsids = s.peerAsids := rfl
@[simp] theorem setLink_tlb (s : State) (k : Nat) (f : Link → Link) : (setLink s k f).tlb = s.tlb := rfl
@[simp] theorem setLink_ptrs (s : State) (k : Nat) (f : Link → Link) : (setLink s k f).ptrs = s.ptrs := rfl
@[simp] theorem setLink_walks (s : State) (k : Nat) (f : Link → Link) : (setLink s k f).walks = s.walks := rfl
@[simp] theorem setLink_ibuf (s : State) (k : Nat) (f : Link → Link) : (setLink s k f).ibuf = s.ibuf := rfl
@[simp] theorem setLink_invals (s : State) (k : Nat) (f : Link → Link) : (setLink s k f).invals = s.invals := rfl
@[simp] theorem setLink_pageReqs (s : State) (k : Nat) (f : Link → Link) : (setLink s k f).pageReqs = s.pageReqs := rfl
@[simp] theorem setLink_joinWaits (s : State) (k : Nat) (f : Link → Link) : (setLink s k f).joinWaits = s.joinWaits := rfl
@[simp] theorem setLink_tiles (s : State) (k : Nat) (f : Link → Link) : (setLink s k f).tiles = s.tiles := rfl
@[simp] theorem setLink_pad (s : State) (k : Nat) (f : Link → Link) : (setLink s k f).pad = s.pad := rfl
@[simp] theorem setLink_crews (s : State) (k : Nat) (f : Link → Link) : (setLink s k f).crews = s.crews := rfl
@[simp] theorem setLink_clusters (s : State) (k : Nat) (f : Link → Link) : (setLink s k f).clusters = s.clusters := rfl
@[simp] theorem setLink_launches (s : State) (k : Nat) (f : Link → Link) : (setLink s k f).launches = s.launches := rfl
@[simp] theorem setLink_launchCount (s : State) (k : Nat) (f : Link → Link) : (setLink s k f).launchCount = s.launchCount := rfl
@[simp] theorem setLink_recs (s : State) (k : Nat) (f : Link → Link) : (setLink s k f).recs = s.recs := rfl
@[simp] theorem setLink_saggars (s : State) (k : Nat) (f : Link → Link) : (setLink s k f).saggars = s.saggars := rfl
@[simp] theorem setLink_stageOps (s : State) (k : Nat) (f : Link → Link) : (setLink s k f).stageOps = s.stageOps := rfl
@[simp] theorem setLink_acpys (s : State) (k : Nat) (f : Link → Link) : (setLink s k f).acpys = s.acpys := rfl
@[simp] theorem setLink_deficits (s : State) (k : Nat) (f : Link → Link) : (setLink s k f).deficits = s.deficits := rfl
@[simp] theorem setLink_gangs (s : State) (k : Nat) (f : Link → Link) : (setLink s k f).gangs = s.gangs := rfl
@[simp] theorem setLink_latches (s : State) (k : Nat) (f : Link → Link) : (setLink s k f).latches = s.latches := rfl
@[simp] theorem setLink_accs (s : State) (k : Nat) (f : Link → Link) : (setLink s k f).accs = s.accs := rfl
@[simp] theorem setLink_accOwned (s : State) (k : Nat) (f : Link → Link) : (setLink s k f).accOwned = s.accOwned := rfl
@[simp] theorem setLink_mxQueue (s : State) (k : Nat) (f : Link → Link) : (setLink s k f).mxQueue = s.mxQueue := rfl
@[simp] theorem setLink_mxOps (s : State) (k : Nat) (f : Link → Link) : (setLink s k f).mxOps = s.mxOps := rfl
@[simp] theorem setLink_coneLimit (s : State) (k : Nat) (f : Link → Link) : (setLink s k f).coneLimit = s.coneLimit := rfl
@[simp] theorem setLink_epochAt (s : State) (k : Nat) (f : Link → Link) : (setLink s k f).epochAt = s.epochAt := rfl
@[simp] theorem setLink_conesUsed (s : State) (k : Nat) (f : Link → Link) : (setLink s k f).conesUsed = s.conesUsed := rfl
@[simp] theorem setLink_coneOver (s : State) (k : Nat) (f : Link → Link) : (setLink s k f).coneOver = s.coneOver := rfl
@[simp] theorem setLink_rack (s : State) (k : Nat) (f : Link → Link) : (setLink s k f).rack = s.rack := rfl
@[simp] theorem setLink_queues (s : State) (k : Nat) (f : Link → Link) : (setLink s k f).queues = s.queues := rfl
@[simp] theorem setLink_packets (s : State) (k : Nat) (f : Link → Link) : (setLink s k f).packets = s.packets := rfl
@[simp] theorem setLink_colls (s : State) (k : Nat) (f : Link → Link) : (setLink s k f).colls = s.colls := rfl
@[simp] theorem setLink_collOut (s : State) (k : Nat) (f : Link → Link) : (setLink s k f).collOut = s.collOut := rfl
@[simp] theorem setLink_rshds (s : State) (k : Nat) (f : Link → Link) : (setLink s k f).rshds = s.rshds := rfl
@[simp] theorem setLink_groups (s : State) (k : Nat) (f : Link → Link) : (setLink s k f).groups = s.groups := rfl
@[simp] theorem setLink_links (s : State) (k : Nat) (f : Link → Link) : (setLink s k f).links = s.links.modify k f := rfl
@[simp] theorem setLink_vis (s : State) (k : Nat) (f : Link → Link) : (setLink s k f).vis = s.vis := rfl
@[simp] theorem setLink_reports (s : State) (k : Nat) (f : Link → Link) : (setLink s k f).reports = s.reports := rfl
@[simp] theorem setLink_fwReqs (s : State) (k : Nat) (f : Link → Link) : (setLink s k f).fwReqs = s.fwReqs := rfl
@[simp] theorem setLink_lease (s : State) (k : Nat) (f : Link → Link) : (setLink s k f).lease = s.lease := rfl
@[simp] theorem setLink_fwCores (s : State) (k : Nat) (f : Link → Link) : (setLink s k f).fwCores = s.fwCores := rfl
@[simp] theorem setLink_boot (s : State) (k : Nat) (f : Link → Link) : (setLink s k f).boot = s.boot := rfl
@[simp] theorem setLink_mirrors (s : State) (k : Nat) (f : Link → Link) : (setLink s k f).mirrors = s.mirrors := rfl
@[simp] theorem setLink_sent (s : State) (k : Nat) (f : Link → Link) : (setLink s k f).sent = s.sent := rfl
@[simp] theorem setLink_sentCrews (s : State) (k : Nat) (f : Link → Link) : (setLink s k f).sentCrews = s.sentCrews := rfl
@[simp] theorem setLink_stale (s : State) (k : Nat) (f : Link → Link) : (setLink s k f).stale = s.stale := rfl
@[simp] theorem setLink_peerDown (s : State) (k : Nat) (f : Link → Link) : (setLink s k f).peerDown = s.peerDown := rfl
@[simp] theorem setLink_unreach (s : State) (k : Nat) (f : Link → Link) : (setLink s k f).unreach = s.unreach := rfl
@[simp] theorem setLink_out (s : State) (k : Nat) (f : Link → Link) : (setLink s k f).out = s.out := rfl

/-! setStream. -/

@[simp] theorem setStream_agenda (s : State) (k : BitVec 6) (f : Stream → Stream) : (setStream s k f).agenda = s.agenda := rfl
@[simp] theorem setStream_pick (s : State) (k : BitVec 6) (f : Stream → Stream) : (setStream s k f).pick = s.pick := rfl
@[simp] theorem setStream_free (s : State) (k : BitVec 6) (f : Stream → Stream) : (setStream s k f).free = s.free := rfl
@[simp] theorem setStream_fresh (s : State) (k : BitVec 6) (f : Stream → Stream) : (setStream s k f).fresh = s.fresh := rfl
@[simp] theorem setStream_warp (s : State) (k : BitVec 6) (f : Stream → Stream) : (setStream s k f).warp = s.warp := rfl
@[simp] theorem setStream_bench (s : State) (k : BitVec 6) (f : Stream → Stream) : (setStream s k f).bench = s.bench := rfl
@[simp] theorem setStream_pkg (s : State) (k : BitVec 6) (f : Stream → Stream) : (setStream s k f).pkg = s.pkg := rfl
@[simp] theorem setStream_domain (s : State) (k : BitVec 6) (f : Stream → Stream) : (setStream s k f).domain = s.domain := rfl
@[simp] theorem setStream_gtc (s : State) (k : BitVec 6) (f : Stream → Stream) : (setStream s k f).gtc = s.gtc := rfl
@[simp] theorem setStream_now (s : State) (k : BitVec 6) (f : Stream → Stream) : (setStream s k f).now = s.now := rfl
@[simp] theorem setStream_mem (s : State) (k : BitVec 6) (f : Stream → Stream) : (setStream s k f).mem = s.mem := rfl
@[simp] theorem setStream_host (s : State) (k : BitVec 6) (f : Stream → Stream) : (setStream s k f).host = s.host := rfl
@[simp] theorem setStream_hostWrites (s : State) (k : BitVec 6) (f : Stream → Stream) : (setStream s k f).hostWrites = s.hostWrites := rfl
@[simp] theorem setStream_hostPages (s : State) (k : BitVec 6) (f : Stream → Stream) : (setStream s k f).hostPages = s.hostPages := rfl
@[simp] theorem setStream_live (s : State) (k : BitVec 6) (f : Stream → Stream) : (setStream s k f).live = s.live := rfl
@[simp] theorem setStream_placed (s : State) (k : BitVec 6) (f : Stream → Stream) : (setStream s k f).placed = s.placed := rfl
@[simp] theorem setStream_weak (s : State) (k : BitVec 6) (f : Stream → Stream) : (setStream s k f).weak = s.weak := rfl
@[simp] theorem setStream_bad (s : State) (k : BitVec 6) (f : Stream → Stream) : (setStream s k f).bad = s.bad := rfl
@[simp] theorem setStream_llc (s : State) (k : BitVec 6) (f : Stream → Stream) : (setStream s k f).llc = s.llc := rfl
@[simp] theorem setStream_misses (s : State) (k : BitVec 6) (f : Stream → Stream) : (setStream s k f).misses = s.misses := rfl
@[simp] theorem setStream_wbufs (s : State) (k : BitVec 6) (f : Stream → Stream) : (setStream s k f).wbufs = s.wbufs := rfl
@[simp] theorem setStream_l1 (s : State) (k : BitVec 6) (f : Stream → Stream) : (setStream s k f).l1 = s.l1 := rfl
@[simp] theorem setStream_dir (s : State) (k : BitVec 6) (f : Stream → Stream) : (setStream s k f).dir = s.dir := rfl
@[simp] theorem setStream_ctrls (s : State) (k : BitVec 6) (f : Stream → Stream) : (setStream s k f).ctrls = s.ctrls := rfl
@[simp] theorem setStream_waitReqs (s : State) (k : BitVec 6) (f : Stream → Stream) : (setStream s k f).waitReqs = s.waitReqs := rfl
@[simp] theorem setStream_resps (s : State) (k : BitVec 6) (f : Stream → Stream) : (setStream s k f).resps = s.resps := rfl
@[simp] theorem setStream_puts (s : State) (k : BitVec 6) (f : Stream → Stream) : (setStream s k f).puts = s.puts := rfl
@[simp] theorem setStream_keys (s : State) (k : BitVec 6) (f : Stream → Stream) : (setStream s k f).keys = s.keys := rfl
@[simp] theorem setStream_streams (s : State) (k : BitVec 6) (f : Stream → Stream) : (setStream s k f).streams = mset freeStream s.streams k.toNat (f (streamOf s k)) := rfl
@[simp] theorem setStream_digests (s : State) (k : BitVec 6) (f : Stream → Stream) : (setStream s k f).digests = s.digests := rfl
@[simp] theorem setStream_hist (s : State) (k : BitVec 6) (f : Stream → Stream) : (setStream s k f).hist = s.hist := rfl
@[simp] theorem setStream_histOwner (s : State) (k : BitVec 6) (f : Stream → Stream) : (setStream s k f).histOwner = s.histOwner := rfl
@[simp] theorem setStream_asids (s : State) (k : BitVec 6) (f : Stream → Stream) : (setStream s k f).asids = s.asids := rfl
@[simp] theorem setStream_peerAsids (s : State) (k : BitVec 6) (f : Stream → Stream) : (setStream s k f).peerAsids = s.peerAsids := rfl
@[simp] theorem setStream_tlb (s : State) (k : BitVec 6) (f : Stream → Stream) : (setStream s k f).tlb = s.tlb := rfl
@[simp] theorem setStream_ptrs (s : State) (k : BitVec 6) (f : Stream → Stream) : (setStream s k f).ptrs = s.ptrs := rfl
@[simp] theorem setStream_walks (s : State) (k : BitVec 6) (f : Stream → Stream) : (setStream s k f).walks = s.walks := rfl
@[simp] theorem setStream_ibuf (s : State) (k : BitVec 6) (f : Stream → Stream) : (setStream s k f).ibuf = s.ibuf := rfl
@[simp] theorem setStream_invals (s : State) (k : BitVec 6) (f : Stream → Stream) : (setStream s k f).invals = s.invals := rfl
@[simp] theorem setStream_pageReqs (s : State) (k : BitVec 6) (f : Stream → Stream) : (setStream s k f).pageReqs = s.pageReqs := rfl
@[simp] theorem setStream_joinWaits (s : State) (k : BitVec 6) (f : Stream → Stream) : (setStream s k f).joinWaits = s.joinWaits := rfl
@[simp] theorem setStream_tiles (s : State) (k : BitVec 6) (f : Stream → Stream) : (setStream s k f).tiles = s.tiles := rfl
@[simp] theorem setStream_pad (s : State) (k : BitVec 6) (f : Stream → Stream) : (setStream s k f).pad = s.pad := rfl
@[simp] theorem setStream_crews (s : State) (k : BitVec 6) (f : Stream → Stream) : (setStream s k f).crews = s.crews := rfl
@[simp] theorem setStream_clusters (s : State) (k : BitVec 6) (f : Stream → Stream) : (setStream s k f).clusters = s.clusters := rfl
@[simp] theorem setStream_launches (s : State) (k : BitVec 6) (f : Stream → Stream) : (setStream s k f).launches = s.launches := rfl
@[simp] theorem setStream_launchCount (s : State) (k : BitVec 6) (f : Stream → Stream) : (setStream s k f).launchCount = s.launchCount := rfl
@[simp] theorem setStream_recs (s : State) (k : BitVec 6) (f : Stream → Stream) : (setStream s k f).recs = s.recs := rfl
@[simp] theorem setStream_saggars (s : State) (k : BitVec 6) (f : Stream → Stream) : (setStream s k f).saggars = s.saggars := rfl
@[simp] theorem setStream_stageOps (s : State) (k : BitVec 6) (f : Stream → Stream) : (setStream s k f).stageOps = s.stageOps := rfl
@[simp] theorem setStream_acpys (s : State) (k : BitVec 6) (f : Stream → Stream) : (setStream s k f).acpys = s.acpys := rfl
@[simp] theorem setStream_deficits (s : State) (k : BitVec 6) (f : Stream → Stream) : (setStream s k f).deficits = s.deficits := rfl
@[simp] theorem setStream_gangs (s : State) (k : BitVec 6) (f : Stream → Stream) : (setStream s k f).gangs = s.gangs := rfl
@[simp] theorem setStream_latches (s : State) (k : BitVec 6) (f : Stream → Stream) : (setStream s k f).latches = s.latches := rfl
@[simp] theorem setStream_accs (s : State) (k : BitVec 6) (f : Stream → Stream) : (setStream s k f).accs = s.accs := rfl
@[simp] theorem setStream_accOwned (s : State) (k : BitVec 6) (f : Stream → Stream) : (setStream s k f).accOwned = s.accOwned := rfl
@[simp] theorem setStream_mxQueue (s : State) (k : BitVec 6) (f : Stream → Stream) : (setStream s k f).mxQueue = s.mxQueue := rfl
@[simp] theorem setStream_mxOps (s : State) (k : BitVec 6) (f : Stream → Stream) : (setStream s k f).mxOps = s.mxOps := rfl
@[simp] theorem setStream_coneLimit (s : State) (k : BitVec 6) (f : Stream → Stream) : (setStream s k f).coneLimit = s.coneLimit := rfl
@[simp] theorem setStream_epochAt (s : State) (k : BitVec 6) (f : Stream → Stream) : (setStream s k f).epochAt = s.epochAt := rfl
@[simp] theorem setStream_conesUsed (s : State) (k : BitVec 6) (f : Stream → Stream) : (setStream s k f).conesUsed = s.conesUsed := rfl
@[simp] theorem setStream_coneOver (s : State) (k : BitVec 6) (f : Stream → Stream) : (setStream s k f).coneOver = s.coneOver := rfl
@[simp] theorem setStream_rack (s : State) (k : BitVec 6) (f : Stream → Stream) : (setStream s k f).rack = s.rack := rfl
@[simp] theorem setStream_queues (s : State) (k : BitVec 6) (f : Stream → Stream) : (setStream s k f).queues = s.queues := rfl
@[simp] theorem setStream_packets (s : State) (k : BitVec 6) (f : Stream → Stream) : (setStream s k f).packets = s.packets := rfl
@[simp] theorem setStream_colls (s : State) (k : BitVec 6) (f : Stream → Stream) : (setStream s k f).colls = s.colls := rfl
@[simp] theorem setStream_collOut (s : State) (k : BitVec 6) (f : Stream → Stream) : (setStream s k f).collOut = s.collOut := rfl
@[simp] theorem setStream_rshds (s : State) (k : BitVec 6) (f : Stream → Stream) : (setStream s k f).rshds = s.rshds := rfl
@[simp] theorem setStream_groups (s : State) (k : BitVec 6) (f : Stream → Stream) : (setStream s k f).groups = s.groups := rfl
@[simp] theorem setStream_links (s : State) (k : BitVec 6) (f : Stream → Stream) : (setStream s k f).links = s.links := rfl
@[simp] theorem setStream_vis (s : State) (k : BitVec 6) (f : Stream → Stream) : (setStream s k f).vis = s.vis := rfl
@[simp] theorem setStream_reports (s : State) (k : BitVec 6) (f : Stream → Stream) : (setStream s k f).reports = s.reports := rfl
@[simp] theorem setStream_fwReqs (s : State) (k : BitVec 6) (f : Stream → Stream) : (setStream s k f).fwReqs = s.fwReqs := rfl
@[simp] theorem setStream_lease (s : State) (k : BitVec 6) (f : Stream → Stream) : (setStream s k f).lease = s.lease := rfl
@[simp] theorem setStream_fwCores (s : State) (k : BitVec 6) (f : Stream → Stream) : (setStream s k f).fwCores = s.fwCores := rfl
@[simp] theorem setStream_boot (s : State) (k : BitVec 6) (f : Stream → Stream) : (setStream s k f).boot = s.boot := rfl
@[simp] theorem setStream_mirrors (s : State) (k : BitVec 6) (f : Stream → Stream) : (setStream s k f).mirrors = s.mirrors := rfl
@[simp] theorem setStream_sent (s : State) (k : BitVec 6) (f : Stream → Stream) : (setStream s k f).sent = s.sent := rfl
@[simp] theorem setStream_sentCrews (s : State) (k : BitVec 6) (f : Stream → Stream) : (setStream s k f).sentCrews = s.sentCrews := rfl
@[simp] theorem setStream_stale (s : State) (k : BitVec 6) (f : Stream → Stream) : (setStream s k f).stale = s.stale := rfl
@[simp] theorem setStream_peerDown (s : State) (k : BitVec 6) (f : Stream → Stream) : (setStream s k f).peerDown = s.peerDown := rfl
@[simp] theorem setStream_unreach (s : State) (k : BitVec 6) (f : Stream → Stream) : (setStream s k f).unreach = s.unreach := rfl
@[simp] theorem setStream_out (s : State) (k : BitVec 6) (f : Stream → Stream) : (setStream s k f).out = s.out := rfl

/-! clearDigests. -/

@[simp] theorem clearDigests_agenda (s : State) (k : BitVec 6) : (clearDigests s k).agenda = s.agenda := rfl
@[simp] theorem clearDigests_pick (s : State) (k : BitVec 6) : (clearDigests s k).pick = s.pick := rfl
@[simp] theorem clearDigests_free (s : State) (k : BitVec 6) : (clearDigests s k).free = s.free := rfl
@[simp] theorem clearDigests_fresh (s : State) (k : BitVec 6) : (clearDigests s k).fresh = s.fresh := rfl
@[simp] theorem clearDigests_warp (s : State) (k : BitVec 6) : (clearDigests s k).warp = s.warp := rfl
@[simp] theorem clearDigests_bench (s : State) (k : BitVec 6) : (clearDigests s k).bench = s.bench := rfl
@[simp] theorem clearDigests_pkg (s : State) (k : BitVec 6) : (clearDigests s k).pkg = s.pkg := rfl
@[simp] theorem clearDigests_domain (s : State) (k : BitVec 6) : (clearDigests s k).domain = s.domain := rfl
@[simp] theorem clearDigests_gtc (s : State) (k : BitVec 6) : (clearDigests s k).gtc = s.gtc := rfl
@[simp] theorem clearDigests_now (s : State) (k : BitVec 6) : (clearDigests s k).now = s.now := rfl
@[simp] theorem clearDigests_mem (s : State) (k : BitVec 6) : (clearDigests s k).mem = s.mem := rfl
@[simp] theorem clearDigests_host (s : State) (k : BitVec 6) : (clearDigests s k).host = s.host := rfl
@[simp] theorem clearDigests_hostWrites (s : State) (k : BitVec 6) : (clearDigests s k).hostWrites = s.hostWrites := rfl
@[simp] theorem clearDigests_hostPages (s : State) (k : BitVec 6) : (clearDigests s k).hostPages = s.hostPages := rfl
@[simp] theorem clearDigests_live (s : State) (k : BitVec 6) : (clearDigests s k).live = s.live := rfl
@[simp] theorem clearDigests_placed (s : State) (k : BitVec 6) : (clearDigests s k).placed = s.placed := rfl
@[simp] theorem clearDigests_weak (s : State) (k : BitVec 6) : (clearDigests s k).weak = s.weak := rfl
@[simp] theorem clearDigests_bad (s : State) (k : BitVec 6) : (clearDigests s k).bad = s.bad := rfl
@[simp] theorem clearDigests_llc (s : State) (k : BitVec 6) : (clearDigests s k).llc = s.llc := rfl
@[simp] theorem clearDigests_misses (s : State) (k : BitVec 6) : (clearDigests s k).misses = s.misses := rfl
@[simp] theorem clearDigests_wbufs (s : State) (k : BitVec 6) : (clearDigests s k).wbufs = s.wbufs := rfl
@[simp] theorem clearDigests_l1 (s : State) (k : BitVec 6) : (clearDigests s k).l1 = s.l1 := rfl
@[simp] theorem clearDigests_dir (s : State) (k : BitVec 6) : (clearDigests s k).dir = s.dir := rfl
@[simp] theorem clearDigests_ctrls (s : State) (k : BitVec 6) : (clearDigests s k).ctrls = s.ctrls := rfl
@[simp] theorem clearDigests_waitReqs (s : State) (k : BitVec 6) : (clearDigests s k).waitReqs = s.waitReqs := rfl
@[simp] theorem clearDigests_resps (s : State) (k : BitVec 6) : (clearDigests s k).resps = s.resps := rfl
@[simp] theorem clearDigests_puts (s : State) (k : BitVec 6) : (clearDigests s k).puts = s.puts := rfl
@[simp] theorem clearDigests_keys (s : State) (k : BitVec 6) : (clearDigests s k).keys = s.keys := rfl
@[simp] theorem clearDigests_streams (s : State) (k : BitVec 6) : (clearDigests s k).streams = s.streams := rfl
@[simp] theorem clearDigests_digests (s : State) (k : BitVec 6) : (clearDigests s k).digests = s.digests.filter fun e => decide (e.1 % 64 ≠ k.toNat) := rfl
@[simp] theorem clearDigests_hist (s : State) (k : BitVec 6) : (clearDigests s k).hist = s.hist := rfl
@[simp] theorem clearDigests_histOwner (s : State) (k : BitVec 6) : (clearDigests s k).histOwner = s.histOwner := rfl
@[simp] theorem clearDigests_asids (s : State) (k : BitVec 6) : (clearDigests s k).asids = s.asids := rfl
@[simp] theorem clearDigests_peerAsids (s : State) (k : BitVec 6) : (clearDigests s k).peerAsids = s.peerAsids := rfl
@[simp] theorem clearDigests_tlb (s : State) (k : BitVec 6) : (clearDigests s k).tlb = s.tlb := rfl
@[simp] theorem clearDigests_ptrs (s : State) (k : BitVec 6) : (clearDigests s k).ptrs = s.ptrs := rfl
@[simp] theorem clearDigests_walks (s : State) (k : BitVec 6) : (clearDigests s k).walks = s.walks := rfl
@[simp] theorem clearDigests_ibuf (s : State) (k : BitVec 6) : (clearDigests s k).ibuf = s.ibuf := rfl
@[simp] theorem clearDigests_invals (s : State) (k : BitVec 6) : (clearDigests s k).invals = s.invals := rfl
@[simp] theorem clearDigests_pageReqs (s : State) (k : BitVec 6) : (clearDigests s k).pageReqs = s.pageReqs := rfl
@[simp] theorem clearDigests_joinWaits (s : State) (k : BitVec 6) : (clearDigests s k).joinWaits = s.joinWaits := rfl
@[simp] theorem clearDigests_tiles (s : State) (k : BitVec 6) : (clearDigests s k).tiles = s.tiles := rfl
@[simp] theorem clearDigests_pad (s : State) (k : BitVec 6) : (clearDigests s k).pad = s.pad := rfl
@[simp] theorem clearDigests_crews (s : State) (k : BitVec 6) : (clearDigests s k).crews = s.crews := rfl
@[simp] theorem clearDigests_clusters (s : State) (k : BitVec 6) : (clearDigests s k).clusters = s.clusters := rfl
@[simp] theorem clearDigests_launches (s : State) (k : BitVec 6) : (clearDigests s k).launches = s.launches := rfl
@[simp] theorem clearDigests_launchCount (s : State) (k : BitVec 6) : (clearDigests s k).launchCount = s.launchCount := rfl
@[simp] theorem clearDigests_recs (s : State) (k : BitVec 6) : (clearDigests s k).recs = s.recs := rfl
@[simp] theorem clearDigests_saggars (s : State) (k : BitVec 6) : (clearDigests s k).saggars = s.saggars := rfl
@[simp] theorem clearDigests_stageOps (s : State) (k : BitVec 6) : (clearDigests s k).stageOps = s.stageOps := rfl
@[simp] theorem clearDigests_acpys (s : State) (k : BitVec 6) : (clearDigests s k).acpys = s.acpys := rfl
@[simp] theorem clearDigests_deficits (s : State) (k : BitVec 6) : (clearDigests s k).deficits = s.deficits := rfl
@[simp] theorem clearDigests_gangs (s : State) (k : BitVec 6) : (clearDigests s k).gangs = s.gangs := rfl
@[simp] theorem clearDigests_latches (s : State) (k : BitVec 6) : (clearDigests s k).latches = s.latches := rfl
@[simp] theorem clearDigests_accs (s : State) (k : BitVec 6) : (clearDigests s k).accs = s.accs := rfl
@[simp] theorem clearDigests_accOwned (s : State) (k : BitVec 6) : (clearDigests s k).accOwned = s.accOwned := rfl
@[simp] theorem clearDigests_mxQueue (s : State) (k : BitVec 6) : (clearDigests s k).mxQueue = s.mxQueue := rfl
@[simp] theorem clearDigests_mxOps (s : State) (k : BitVec 6) : (clearDigests s k).mxOps = s.mxOps := rfl
@[simp] theorem clearDigests_coneLimit (s : State) (k : BitVec 6) : (clearDigests s k).coneLimit = s.coneLimit := rfl
@[simp] theorem clearDigests_epochAt (s : State) (k : BitVec 6) : (clearDigests s k).epochAt = s.epochAt := rfl
@[simp] theorem clearDigests_conesUsed (s : State) (k : BitVec 6) : (clearDigests s k).conesUsed = s.conesUsed := rfl
@[simp] theorem clearDigests_coneOver (s : State) (k : BitVec 6) : (clearDigests s k).coneOver = s.coneOver := rfl
@[simp] theorem clearDigests_rack (s : State) (k : BitVec 6) : (clearDigests s k).rack = s.rack := rfl
@[simp] theorem clearDigests_queues (s : State) (k : BitVec 6) : (clearDigests s k).queues = s.queues := rfl
@[simp] theorem clearDigests_packets (s : State) (k : BitVec 6) : (clearDigests s k).packets = s.packets := rfl
@[simp] theorem clearDigests_colls (s : State) (k : BitVec 6) : (clearDigests s k).colls = s.colls := rfl
@[simp] theorem clearDigests_collOut (s : State) (k : BitVec 6) : (clearDigests s k).collOut = s.collOut := rfl
@[simp] theorem clearDigests_rshds (s : State) (k : BitVec 6) : (clearDigests s k).rshds = s.rshds := rfl
@[simp] theorem clearDigests_groups (s : State) (k : BitVec 6) : (clearDigests s k).groups = s.groups := rfl
@[simp] theorem clearDigests_links (s : State) (k : BitVec 6) : (clearDigests s k).links = s.links := rfl
@[simp] theorem clearDigests_vis (s : State) (k : BitVec 6) : (clearDigests s k).vis = s.vis := rfl
@[simp] theorem clearDigests_reports (s : State) (k : BitVec 6) : (clearDigests s k).reports = s.reports := rfl
@[simp] theorem clearDigests_fwReqs (s : State) (k : BitVec 6) : (clearDigests s k).fwReqs = s.fwReqs := rfl
@[simp] theorem clearDigests_lease (s : State) (k : BitVec 6) : (clearDigests s k).lease = s.lease := rfl
@[simp] theorem clearDigests_fwCores (s : State) (k : BitVec 6) : (clearDigests s k).fwCores = s.fwCores := rfl
@[simp] theorem clearDigests_boot (s : State) (k : BitVec 6) : (clearDigests s k).boot = s.boot := rfl
@[simp] theorem clearDigests_mirrors (s : State) (k : BitVec 6) : (clearDigests s k).mirrors = s.mirrors := rfl
@[simp] theorem clearDigests_sent (s : State) (k : BitVec 6) : (clearDigests s k).sent = s.sent := rfl
@[simp] theorem clearDigests_sentCrews (s : State) (k : BitVec 6) : (clearDigests s k).sentCrews = s.sentCrews := rfl
@[simp] theorem clearDigests_stale (s : State) (k : BitVec 6) : (clearDigests s k).stale = s.stale := rfl
@[simp] theorem clearDigests_peerDown (s : State) (k : BitVec 6) : (clearDigests s k).peerDown = s.peerDown := rfl
@[simp] theorem clearDigests_unreach (s : State) (k : BitVec 6) : (clearDigests s k).unreach = s.unreach := rfl
@[simp] theorem clearDigests_out (s : State) (k : BitVec 6) : (clearDigests s k).out = s.out := rfl

/-! setPkt. -/

@[simp] theorem setPkt_agenda (s : State) (pid : Nat) (f : Packet → Packet) : (setPkt s pid f).agenda = s.agenda := rfl
@[simp] theorem setPkt_pick (s : State) (pid : Nat) (f : Packet → Packet) : (setPkt s pid f).pick = s.pick := rfl
@[simp] theorem setPkt_free (s : State) (pid : Nat) (f : Packet → Packet) : (setPkt s pid f).free = s.free := rfl
@[simp] theorem setPkt_fresh (s : State) (pid : Nat) (f : Packet → Packet) : (setPkt s pid f).fresh = s.fresh := rfl
@[simp] theorem setPkt_warp (s : State) (pid : Nat) (f : Packet → Packet) : (setPkt s pid f).warp = s.warp := rfl
@[simp] theorem setPkt_bench (s : State) (pid : Nat) (f : Packet → Packet) : (setPkt s pid f).bench = s.bench := rfl
@[simp] theorem setPkt_pkg (s : State) (pid : Nat) (f : Packet → Packet) : (setPkt s pid f).pkg = s.pkg := rfl
@[simp] theorem setPkt_domain (s : State) (pid : Nat) (f : Packet → Packet) : (setPkt s pid f).domain = s.domain := rfl
@[simp] theorem setPkt_gtc (s : State) (pid : Nat) (f : Packet → Packet) : (setPkt s pid f).gtc = s.gtc := rfl
@[simp] theorem setPkt_now (s : State) (pid : Nat) (f : Packet → Packet) : (setPkt s pid f).now = s.now := rfl
@[simp] theorem setPkt_mem (s : State) (pid : Nat) (f : Packet → Packet) : (setPkt s pid f).mem = s.mem := rfl
@[simp] theorem setPkt_host (s : State) (pid : Nat) (f : Packet → Packet) : (setPkt s pid f).host = s.host := rfl
@[simp] theorem setPkt_hostWrites (s : State) (pid : Nat) (f : Packet → Packet) : (setPkt s pid f).hostWrites = s.hostWrites := rfl
@[simp] theorem setPkt_hostPages (s : State) (pid : Nat) (f : Packet → Packet) : (setPkt s pid f).hostPages = s.hostPages := rfl
@[simp] theorem setPkt_live (s : State) (pid : Nat) (f : Packet → Packet) : (setPkt s pid f).live = s.live := rfl
@[simp] theorem setPkt_placed (s : State) (pid : Nat) (f : Packet → Packet) : (setPkt s pid f).placed = s.placed := rfl
@[simp] theorem setPkt_weak (s : State) (pid : Nat) (f : Packet → Packet) : (setPkt s pid f).weak = s.weak := rfl
@[simp] theorem setPkt_bad (s : State) (pid : Nat) (f : Packet → Packet) : (setPkt s pid f).bad = s.bad := rfl
@[simp] theorem setPkt_llc (s : State) (pid : Nat) (f : Packet → Packet) : (setPkt s pid f).llc = s.llc := rfl
@[simp] theorem setPkt_misses (s : State) (pid : Nat) (f : Packet → Packet) : (setPkt s pid f).misses = s.misses := rfl
@[simp] theorem setPkt_wbufs (s : State) (pid : Nat) (f : Packet → Packet) : (setPkt s pid f).wbufs = s.wbufs := rfl
@[simp] theorem setPkt_l1 (s : State) (pid : Nat) (f : Packet → Packet) : (setPkt s pid f).l1 = s.l1 := rfl
@[simp] theorem setPkt_dir (s : State) (pid : Nat) (f : Packet → Packet) : (setPkt s pid f).dir = s.dir := rfl
@[simp] theorem setPkt_ctrls (s : State) (pid : Nat) (f : Packet → Packet) : (setPkt s pid f).ctrls = s.ctrls := rfl
@[simp] theorem setPkt_waitReqs (s : State) (pid : Nat) (f : Packet → Packet) : (setPkt s pid f).waitReqs = s.waitReqs := rfl
@[simp] theorem setPkt_resps (s : State) (pid : Nat) (f : Packet → Packet) : (setPkt s pid f).resps = s.resps := rfl
@[simp] theorem setPkt_puts (s : State) (pid : Nat) (f : Packet → Packet) : (setPkt s pid f).puts = s.puts := rfl
@[simp] theorem setPkt_keys (s : State) (pid : Nat) (f : Packet → Packet) : (setPkt s pid f).keys = s.keys := rfl
@[simp] theorem setPkt_streams (s : State) (pid : Nat) (f : Packet → Packet) : (setPkt s pid f).streams = s.streams := rfl
@[simp] theorem setPkt_digests (s : State) (pid : Nat) (f : Packet → Packet) : (setPkt s pid f).digests = s.digests := rfl
@[simp] theorem setPkt_hist (s : State) (pid : Nat) (f : Packet → Packet) : (setPkt s pid f).hist = s.hist := rfl
@[simp] theorem setPkt_histOwner (s : State) (pid : Nat) (f : Packet → Packet) : (setPkt s pid f).histOwner = s.histOwner := rfl
@[simp] theorem setPkt_asids (s : State) (pid : Nat) (f : Packet → Packet) : (setPkt s pid f).asids = s.asids := rfl
@[simp] theorem setPkt_peerAsids (s : State) (pid : Nat) (f : Packet → Packet) : (setPkt s pid f).peerAsids = s.peerAsids := rfl
@[simp] theorem setPkt_tlb (s : State) (pid : Nat) (f : Packet → Packet) : (setPkt s pid f).tlb = s.tlb := rfl
@[simp] theorem setPkt_ptrs (s : State) (pid : Nat) (f : Packet → Packet) : (setPkt s pid f).ptrs = s.ptrs := rfl
@[simp] theorem setPkt_walks (s : State) (pid : Nat) (f : Packet → Packet) : (setPkt s pid f).walks = s.walks := rfl
@[simp] theorem setPkt_ibuf (s : State) (pid : Nat) (f : Packet → Packet) : (setPkt s pid f).ibuf = s.ibuf := rfl
@[simp] theorem setPkt_invals (s : State) (pid : Nat) (f : Packet → Packet) : (setPkt s pid f).invals = s.invals := rfl
@[simp] theorem setPkt_pageReqs (s : State) (pid : Nat) (f : Packet → Packet) : (setPkt s pid f).pageReqs = s.pageReqs := rfl
@[simp] theorem setPkt_joinWaits (s : State) (pid : Nat) (f : Packet → Packet) : (setPkt s pid f).joinWaits = s.joinWaits := rfl
@[simp] theorem setPkt_tiles (s : State) (pid : Nat) (f : Packet → Packet) : (setPkt s pid f).tiles = s.tiles := rfl
@[simp] theorem setPkt_pad (s : State) (pid : Nat) (f : Packet → Packet) : (setPkt s pid f).pad = s.pad := rfl
@[simp] theorem setPkt_crews (s : State) (pid : Nat) (f : Packet → Packet) : (setPkt s pid f).crews = s.crews := rfl
@[simp] theorem setPkt_clusters (s : State) (pid : Nat) (f : Packet → Packet) : (setPkt s pid f).clusters = s.clusters := rfl
@[simp] theorem setPkt_launches (s : State) (pid : Nat) (f : Packet → Packet) : (setPkt s pid f).launches = s.launches := rfl
@[simp] theorem setPkt_launchCount (s : State) (pid : Nat) (f : Packet → Packet) : (setPkt s pid f).launchCount = s.launchCount := rfl
@[simp] theorem setPkt_recs (s : State) (pid : Nat) (f : Packet → Packet) : (setPkt s pid f).recs = s.recs := rfl
@[simp] theorem setPkt_saggars (s : State) (pid : Nat) (f : Packet → Packet) : (setPkt s pid f).saggars = s.saggars := rfl
@[simp] theorem setPkt_stageOps (s : State) (pid : Nat) (f : Packet → Packet) : (setPkt s pid f).stageOps = s.stageOps := rfl
@[simp] theorem setPkt_acpys (s : State) (pid : Nat) (f : Packet → Packet) : (setPkt s pid f).acpys = s.acpys := rfl
@[simp] theorem setPkt_deficits (s : State) (pid : Nat) (f : Packet → Packet) : (setPkt s pid f).deficits = s.deficits := rfl
@[simp] theorem setPkt_gangs (s : State) (pid : Nat) (f : Packet → Packet) : (setPkt s pid f).gangs = s.gangs := rfl
@[simp] theorem setPkt_latches (s : State) (pid : Nat) (f : Packet → Packet) : (setPkt s pid f).latches = s.latches := rfl
@[simp] theorem setPkt_accs (s : State) (pid : Nat) (f : Packet → Packet) : (setPkt s pid f).accs = s.accs := rfl
@[simp] theorem setPkt_accOwned (s : State) (pid : Nat) (f : Packet → Packet) : (setPkt s pid f).accOwned = s.accOwned := rfl
@[simp] theorem setPkt_mxQueue (s : State) (pid : Nat) (f : Packet → Packet) : (setPkt s pid f).mxQueue = s.mxQueue := rfl
@[simp] theorem setPkt_mxOps (s : State) (pid : Nat) (f : Packet → Packet) : (setPkt s pid f).mxOps = s.mxOps := rfl
@[simp] theorem setPkt_coneLimit (s : State) (pid : Nat) (f : Packet → Packet) : (setPkt s pid f).coneLimit = s.coneLimit := rfl
@[simp] theorem setPkt_epochAt (s : State) (pid : Nat) (f : Packet → Packet) : (setPkt s pid f).epochAt = s.epochAt := rfl
@[simp] theorem setPkt_conesUsed (s : State) (pid : Nat) (f : Packet → Packet) : (setPkt s pid f).conesUsed = s.conesUsed := rfl
@[simp] theorem setPkt_coneOver (s : State) (pid : Nat) (f : Packet → Packet) : (setPkt s pid f).coneOver = s.coneOver := rfl
@[simp] theorem setPkt_rack (s : State) (pid : Nat) (f : Packet → Packet) : (setPkt s pid f).rack = s.rack := rfl
@[simp] theorem setPkt_queues (s : State) (pid : Nat) (f : Packet → Packet) : (setPkt s pid f).queues = s.queues := rfl
@[simp] theorem setPkt_packets (s : State) (pid : Nat) (f : Packet → Packet) : (setPkt s pid f).packets = s.packets.map fun p => if p.pid = pid then f p else p := rfl
@[simp] theorem setPkt_colls (s : State) (pid : Nat) (f : Packet → Packet) : (setPkt s pid f).colls = s.colls := rfl
@[simp] theorem setPkt_collOut (s : State) (pid : Nat) (f : Packet → Packet) : (setPkt s pid f).collOut = s.collOut := rfl
@[simp] theorem setPkt_rshds (s : State) (pid : Nat) (f : Packet → Packet) : (setPkt s pid f).rshds = s.rshds := rfl
@[simp] theorem setPkt_groups (s : State) (pid : Nat) (f : Packet → Packet) : (setPkt s pid f).groups = s.groups := rfl
@[simp] theorem setPkt_links (s : State) (pid : Nat) (f : Packet → Packet) : (setPkt s pid f).links = s.links := rfl
@[simp] theorem setPkt_vis (s : State) (pid : Nat) (f : Packet → Packet) : (setPkt s pid f).vis = s.vis := rfl
@[simp] theorem setPkt_reports (s : State) (pid : Nat) (f : Packet → Packet) : (setPkt s pid f).reports = s.reports := rfl
@[simp] theorem setPkt_fwReqs (s : State) (pid : Nat) (f : Packet → Packet) : (setPkt s pid f).fwReqs = s.fwReqs := rfl
@[simp] theorem setPkt_lease (s : State) (pid : Nat) (f : Packet → Packet) : (setPkt s pid f).lease = s.lease := rfl
@[simp] theorem setPkt_fwCores (s : State) (pid : Nat) (f : Packet → Packet) : (setPkt s pid f).fwCores = s.fwCores := rfl
@[simp] theorem setPkt_boot (s : State) (pid : Nat) (f : Packet → Packet) : (setPkt s pid f).boot = s.boot := rfl
@[simp] theorem setPkt_mirrors (s : State) (pid : Nat) (f : Packet → Packet) : (setPkt s pid f).mirrors = s.mirrors := rfl
@[simp] theorem setPkt_sent (s : State) (pid : Nat) (f : Packet → Packet) : (setPkt s pid f).sent = s.sent := rfl
@[simp] theorem setPkt_sentCrews (s : State) (pid : Nat) (f : Packet → Packet) : (setPkt s pid f).sentCrews = s.sentCrews := rfl
@[simp] theorem setPkt_stale (s : State) (pid : Nat) (f : Packet → Packet) : (setPkt s pid f).stale = s.stale := rfl
@[simp] theorem setPkt_peerDown (s : State) (pid : Nat) (f : Packet → Packet) : (setPkt s pid f).peerDown = s.peerDown := rfl
@[simp] theorem setPkt_unreach (s : State) (pid : Nat) (f : Packet → Packet) : (setPkt s pid f).unreach = s.unreach := rfl
@[simp] theorem setPkt_out (s : State) (pid : Nat) (f : Packet → Packet) : (setPkt s pid f).out = s.out := rfl

/-! setQueue. -/

@[simp] theorem setQueue_agenda (s : State) (vi hva : Nat) (f : Queue → Queue) : (setQueue s vi hva f).agenda = s.agenda := rfl
@[simp] theorem setQueue_pick (s : State) (vi hva : Nat) (f : Queue → Queue) : (setQueue s vi hva f).pick = s.pick := rfl
@[simp] theorem setQueue_free (s : State) (vi hva : Nat) (f : Queue → Queue) : (setQueue s vi hva f).free = s.free := rfl
@[simp] theorem setQueue_fresh (s : State) (vi hva : Nat) (f : Queue → Queue) : (setQueue s vi hva f).fresh = s.fresh := rfl
@[simp] theorem setQueue_warp (s : State) (vi hva : Nat) (f : Queue → Queue) : (setQueue s vi hva f).warp = s.warp := rfl
@[simp] theorem setQueue_bench (s : State) (vi hva : Nat) (f : Queue → Queue) : (setQueue s vi hva f).bench = s.bench := rfl
@[simp] theorem setQueue_pkg (s : State) (vi hva : Nat) (f : Queue → Queue) : (setQueue s vi hva f).pkg = s.pkg := rfl
@[simp] theorem setQueue_domain (s : State) (vi hva : Nat) (f : Queue → Queue) : (setQueue s vi hva f).domain = s.domain := rfl
@[simp] theorem setQueue_gtc (s : State) (vi hva : Nat) (f : Queue → Queue) : (setQueue s vi hva f).gtc = s.gtc := rfl
@[simp] theorem setQueue_now (s : State) (vi hva : Nat) (f : Queue → Queue) : (setQueue s vi hva f).now = s.now := rfl
@[simp] theorem setQueue_mem (s : State) (vi hva : Nat) (f : Queue → Queue) : (setQueue s vi hva f).mem = s.mem := rfl
@[simp] theorem setQueue_host (s : State) (vi hva : Nat) (f : Queue → Queue) : (setQueue s vi hva f).host = s.host := rfl
@[simp] theorem setQueue_hostWrites (s : State) (vi hva : Nat) (f : Queue → Queue) : (setQueue s vi hva f).hostWrites = s.hostWrites := rfl
@[simp] theorem setQueue_hostPages (s : State) (vi hva : Nat) (f : Queue → Queue) : (setQueue s vi hva f).hostPages = s.hostPages := rfl
@[simp] theorem setQueue_live (s : State) (vi hva : Nat) (f : Queue → Queue) : (setQueue s vi hva f).live = s.live := rfl
@[simp] theorem setQueue_placed (s : State) (vi hva : Nat) (f : Queue → Queue) : (setQueue s vi hva f).placed = s.placed := rfl
@[simp] theorem setQueue_weak (s : State) (vi hva : Nat) (f : Queue → Queue) : (setQueue s vi hva f).weak = s.weak := rfl
@[simp] theorem setQueue_bad (s : State) (vi hva : Nat) (f : Queue → Queue) : (setQueue s vi hva f).bad = s.bad := rfl
@[simp] theorem setQueue_llc (s : State) (vi hva : Nat) (f : Queue → Queue) : (setQueue s vi hva f).llc = s.llc := rfl
@[simp] theorem setQueue_misses (s : State) (vi hva : Nat) (f : Queue → Queue) : (setQueue s vi hva f).misses = s.misses := rfl
@[simp] theorem setQueue_wbufs (s : State) (vi hva : Nat) (f : Queue → Queue) : (setQueue s vi hva f).wbufs = s.wbufs := rfl
@[simp] theorem setQueue_l1 (s : State) (vi hva : Nat) (f : Queue → Queue) : (setQueue s vi hva f).l1 = s.l1 := rfl
@[simp] theorem setQueue_dir (s : State) (vi hva : Nat) (f : Queue → Queue) : (setQueue s vi hva f).dir = s.dir := rfl
@[simp] theorem setQueue_ctrls (s : State) (vi hva : Nat) (f : Queue → Queue) : (setQueue s vi hva f).ctrls = s.ctrls := rfl
@[simp] theorem setQueue_waitReqs (s : State) (vi hva : Nat) (f : Queue → Queue) : (setQueue s vi hva f).waitReqs = s.waitReqs := rfl
@[simp] theorem setQueue_resps (s : State) (vi hva : Nat) (f : Queue → Queue) : (setQueue s vi hva f).resps = s.resps := rfl
@[simp] theorem setQueue_puts (s : State) (vi hva : Nat) (f : Queue → Queue) : (setQueue s vi hva f).puts = s.puts := rfl
@[simp] theorem setQueue_keys (s : State) (vi hva : Nat) (f : Queue → Queue) : (setQueue s vi hva f).keys = s.keys := rfl
@[simp] theorem setQueue_streams (s : State) (vi hva : Nat) (f : Queue → Queue) : (setQueue s vi hva f).streams = s.streams := rfl
@[simp] theorem setQueue_digests (s : State) (vi hva : Nat) (f : Queue → Queue) : (setQueue s vi hva f).digests = s.digests := rfl
@[simp] theorem setQueue_hist (s : State) (vi hva : Nat) (f : Queue → Queue) : (setQueue s vi hva f).hist = s.hist := rfl
@[simp] theorem setQueue_histOwner (s : State) (vi hva : Nat) (f : Queue → Queue) : (setQueue s vi hva f).histOwner = s.histOwner := rfl
@[simp] theorem setQueue_asids (s : State) (vi hva : Nat) (f : Queue → Queue) : (setQueue s vi hva f).asids = s.asids := rfl
@[simp] theorem setQueue_peerAsids (s : State) (vi hva : Nat) (f : Queue → Queue) : (setQueue s vi hva f).peerAsids = s.peerAsids := rfl
@[simp] theorem setQueue_tlb (s : State) (vi hva : Nat) (f : Queue → Queue) : (setQueue s vi hva f).tlb = s.tlb := rfl
@[simp] theorem setQueue_ptrs (s : State) (vi hva : Nat) (f : Queue → Queue) : (setQueue s vi hva f).ptrs = s.ptrs := rfl
@[simp] theorem setQueue_walks (s : State) (vi hva : Nat) (f : Queue → Queue) : (setQueue s vi hva f).walks = s.walks := rfl
@[simp] theorem setQueue_ibuf (s : State) (vi hva : Nat) (f : Queue → Queue) : (setQueue s vi hva f).ibuf = s.ibuf := rfl
@[simp] theorem setQueue_invals (s : State) (vi hva : Nat) (f : Queue → Queue) : (setQueue s vi hva f).invals = s.invals := rfl
@[simp] theorem setQueue_pageReqs (s : State) (vi hva : Nat) (f : Queue → Queue) : (setQueue s vi hva f).pageReqs = s.pageReqs := rfl
@[simp] theorem setQueue_joinWaits (s : State) (vi hva : Nat) (f : Queue → Queue) : (setQueue s vi hva f).joinWaits = s.joinWaits := rfl
@[simp] theorem setQueue_tiles (s : State) (vi hva : Nat) (f : Queue → Queue) : (setQueue s vi hva f).tiles = s.tiles := rfl
@[simp] theorem setQueue_pad (s : State) (vi hva : Nat) (f : Queue → Queue) : (setQueue s vi hva f).pad = s.pad := rfl
@[simp] theorem setQueue_crews (s : State) (vi hva : Nat) (f : Queue → Queue) : (setQueue s vi hva f).crews = s.crews := rfl
@[simp] theorem setQueue_clusters (s : State) (vi hva : Nat) (f : Queue → Queue) : (setQueue s vi hva f).clusters = s.clusters := rfl
@[simp] theorem setQueue_launches (s : State) (vi hva : Nat) (f : Queue → Queue) : (setQueue s vi hva f).launches = s.launches := rfl
@[simp] theorem setQueue_launchCount (s : State) (vi hva : Nat) (f : Queue → Queue) : (setQueue s vi hva f).launchCount = s.launchCount := rfl
@[simp] theorem setQueue_recs (s : State) (vi hva : Nat) (f : Queue → Queue) : (setQueue s vi hva f).recs = s.recs := rfl
@[simp] theorem setQueue_saggars (s : State) (vi hva : Nat) (f : Queue → Queue) : (setQueue s vi hva f).saggars = s.saggars := rfl
@[simp] theorem setQueue_stageOps (s : State) (vi hva : Nat) (f : Queue → Queue) : (setQueue s vi hva f).stageOps = s.stageOps := rfl
@[simp] theorem setQueue_acpys (s : State) (vi hva : Nat) (f : Queue → Queue) : (setQueue s vi hva f).acpys = s.acpys := rfl
@[simp] theorem setQueue_deficits (s : State) (vi hva : Nat) (f : Queue → Queue) : (setQueue s vi hva f).deficits = s.deficits := rfl
@[simp] theorem setQueue_gangs (s : State) (vi hva : Nat) (f : Queue → Queue) : (setQueue s vi hva f).gangs = s.gangs := rfl
@[simp] theorem setQueue_latches (s : State) (vi hva : Nat) (f : Queue → Queue) : (setQueue s vi hva f).latches = s.latches := rfl
@[simp] theorem setQueue_accs (s : State) (vi hva : Nat) (f : Queue → Queue) : (setQueue s vi hva f).accs = s.accs := rfl
@[simp] theorem setQueue_accOwned (s : State) (vi hva : Nat) (f : Queue → Queue) : (setQueue s vi hva f).accOwned = s.accOwned := rfl
@[simp] theorem setQueue_mxQueue (s : State) (vi hva : Nat) (f : Queue → Queue) : (setQueue s vi hva f).mxQueue = s.mxQueue := rfl
@[simp] theorem setQueue_mxOps (s : State) (vi hva : Nat) (f : Queue → Queue) : (setQueue s vi hva f).mxOps = s.mxOps := rfl
@[simp] theorem setQueue_coneLimit (s : State) (vi hva : Nat) (f : Queue → Queue) : (setQueue s vi hva f).coneLimit = s.coneLimit := rfl
@[simp] theorem setQueue_epochAt (s : State) (vi hva : Nat) (f : Queue → Queue) : (setQueue s vi hva f).epochAt = s.epochAt := rfl
@[simp] theorem setQueue_conesUsed (s : State) (vi hva : Nat) (f : Queue → Queue) : (setQueue s vi hva f).conesUsed = s.conesUsed := rfl
@[simp] theorem setQueue_coneOver (s : State) (vi hva : Nat) (f : Queue → Queue) : (setQueue s vi hva f).coneOver = s.coneOver := rfl
@[simp] theorem setQueue_rack (s : State) (vi hva : Nat) (f : Queue → Queue) : (setQueue s vi hva f).rack = s.rack := rfl
@[simp] theorem setQueue_queues (s : State) (vi hva : Nat) (f : Queue → Queue) : (setQueue s vi hva f).queues = s.queues.map fun q => if q.vi = vi ∧ q.hva = hva then f q else q := rfl
@[simp] theorem setQueue_packets (s : State) (vi hva : Nat) (f : Queue → Queue) : (setQueue s vi hva f).packets = s.packets := rfl
@[simp] theorem setQueue_colls (s : State) (vi hva : Nat) (f : Queue → Queue) : (setQueue s vi hva f).colls = s.colls := rfl
@[simp] theorem setQueue_collOut (s : State) (vi hva : Nat) (f : Queue → Queue) : (setQueue s vi hva f).collOut = s.collOut := rfl
@[simp] theorem setQueue_rshds (s : State) (vi hva : Nat) (f : Queue → Queue) : (setQueue s vi hva f).rshds = s.rshds := rfl
@[simp] theorem setQueue_groups (s : State) (vi hva : Nat) (f : Queue → Queue) : (setQueue s vi hva f).groups = s.groups := rfl
@[simp] theorem setQueue_links (s : State) (vi hva : Nat) (f : Queue → Queue) : (setQueue s vi hva f).links = s.links := rfl
@[simp] theorem setQueue_vis (s : State) (vi hva : Nat) (f : Queue → Queue) : (setQueue s vi hva f).vis = s.vis := rfl
@[simp] theorem setQueue_reports (s : State) (vi hva : Nat) (f : Queue → Queue) : (setQueue s vi hva f).reports = s.reports := rfl
@[simp] theorem setQueue_fwReqs (s : State) (vi hva : Nat) (f : Queue → Queue) : (setQueue s vi hva f).fwReqs = s.fwReqs := rfl
@[simp] theorem setQueue_lease (s : State) (vi hva : Nat) (f : Queue → Queue) : (setQueue s vi hva f).lease = s.lease := rfl
@[simp] theorem setQueue_fwCores (s : State) (vi hva : Nat) (f : Queue → Queue) : (setQueue s vi hva f).fwCores = s.fwCores := rfl
@[simp] theorem setQueue_boot (s : State) (vi hva : Nat) (f : Queue → Queue) : (setQueue s vi hva f).boot = s.boot := rfl
@[simp] theorem setQueue_mirrors (s : State) (vi hva : Nat) (f : Queue → Queue) : (setQueue s vi hva f).mirrors = s.mirrors := rfl
@[simp] theorem setQueue_sent (s : State) (vi hva : Nat) (f : Queue → Queue) : (setQueue s vi hva f).sent = s.sent := rfl
@[simp] theorem setQueue_sentCrews (s : State) (vi hva : Nat) (f : Queue → Queue) : (setQueue s vi hva f).sentCrews = s.sentCrews := rfl
@[simp] theorem setQueue_stale (s : State) (vi hva : Nat) (f : Queue → Queue) : (setQueue s vi hva f).stale = s.stale := rfl
@[simp] theorem setQueue_peerDown (s : State) (vi hva : Nat) (f : Queue → Queue) : (setQueue s vi hva f).peerDown = s.peerDown := rfl
@[simp] theorem setQueue_unreach (s : State) (vi hva : Nat) (f : Queue → Queue) : (setQueue s vi hva f).unreach = s.unreach := rfl
@[simp] theorem setQueue_out (s : State) (vi hva : Nat) (f : Queue → Queue) : (setQueue s vi hva f).out = s.out := rfl

/-! setColl. -/

@[simp] theorem setColl_agenda (s : State) (cid : Nat) (f : Coll → Coll) : (setColl s cid f).agenda = s.agenda := rfl
@[simp] theorem setColl_pick (s : State) (cid : Nat) (f : Coll → Coll) : (setColl s cid f).pick = s.pick := rfl
@[simp] theorem setColl_free (s : State) (cid : Nat) (f : Coll → Coll) : (setColl s cid f).free = s.free := rfl
@[simp] theorem setColl_fresh (s : State) (cid : Nat) (f : Coll → Coll) : (setColl s cid f).fresh = s.fresh := rfl
@[simp] theorem setColl_warp (s : State) (cid : Nat) (f : Coll → Coll) : (setColl s cid f).warp = s.warp := rfl
@[simp] theorem setColl_bench (s : State) (cid : Nat) (f : Coll → Coll) : (setColl s cid f).bench = s.bench := rfl
@[simp] theorem setColl_pkg (s : State) (cid : Nat) (f : Coll → Coll) : (setColl s cid f).pkg = s.pkg := rfl
@[simp] theorem setColl_domain (s : State) (cid : Nat) (f : Coll → Coll) : (setColl s cid f).domain = s.domain := rfl
@[simp] theorem setColl_gtc (s : State) (cid : Nat) (f : Coll → Coll) : (setColl s cid f).gtc = s.gtc := rfl
@[simp] theorem setColl_now (s : State) (cid : Nat) (f : Coll → Coll) : (setColl s cid f).now = s.now := rfl
@[simp] theorem setColl_mem (s : State) (cid : Nat) (f : Coll → Coll) : (setColl s cid f).mem = s.mem := rfl
@[simp] theorem setColl_host (s : State) (cid : Nat) (f : Coll → Coll) : (setColl s cid f).host = s.host := rfl
@[simp] theorem setColl_hostWrites (s : State) (cid : Nat) (f : Coll → Coll) : (setColl s cid f).hostWrites = s.hostWrites := rfl
@[simp] theorem setColl_hostPages (s : State) (cid : Nat) (f : Coll → Coll) : (setColl s cid f).hostPages = s.hostPages := rfl
@[simp] theorem setColl_live (s : State) (cid : Nat) (f : Coll → Coll) : (setColl s cid f).live = s.live := rfl
@[simp] theorem setColl_placed (s : State) (cid : Nat) (f : Coll → Coll) : (setColl s cid f).placed = s.placed := rfl
@[simp] theorem setColl_weak (s : State) (cid : Nat) (f : Coll → Coll) : (setColl s cid f).weak = s.weak := rfl
@[simp] theorem setColl_bad (s : State) (cid : Nat) (f : Coll → Coll) : (setColl s cid f).bad = s.bad := rfl
@[simp] theorem setColl_llc (s : State) (cid : Nat) (f : Coll → Coll) : (setColl s cid f).llc = s.llc := rfl
@[simp] theorem setColl_misses (s : State) (cid : Nat) (f : Coll → Coll) : (setColl s cid f).misses = s.misses := rfl
@[simp] theorem setColl_wbufs (s : State) (cid : Nat) (f : Coll → Coll) : (setColl s cid f).wbufs = s.wbufs := rfl
@[simp] theorem setColl_l1 (s : State) (cid : Nat) (f : Coll → Coll) : (setColl s cid f).l1 = s.l1 := rfl
@[simp] theorem setColl_dir (s : State) (cid : Nat) (f : Coll → Coll) : (setColl s cid f).dir = s.dir := rfl
@[simp] theorem setColl_ctrls (s : State) (cid : Nat) (f : Coll → Coll) : (setColl s cid f).ctrls = s.ctrls := rfl
@[simp] theorem setColl_waitReqs (s : State) (cid : Nat) (f : Coll → Coll) : (setColl s cid f).waitReqs = s.waitReqs := rfl
@[simp] theorem setColl_resps (s : State) (cid : Nat) (f : Coll → Coll) : (setColl s cid f).resps = s.resps := rfl
@[simp] theorem setColl_puts (s : State) (cid : Nat) (f : Coll → Coll) : (setColl s cid f).puts = s.puts := rfl
@[simp] theorem setColl_keys (s : State) (cid : Nat) (f : Coll → Coll) : (setColl s cid f).keys = s.keys := rfl
@[simp] theorem setColl_streams (s : State) (cid : Nat) (f : Coll → Coll) : (setColl s cid f).streams = s.streams := rfl
@[simp] theorem setColl_digests (s : State) (cid : Nat) (f : Coll → Coll) : (setColl s cid f).digests = s.digests := rfl
@[simp] theorem setColl_hist (s : State) (cid : Nat) (f : Coll → Coll) : (setColl s cid f).hist = s.hist := rfl
@[simp] theorem setColl_histOwner (s : State) (cid : Nat) (f : Coll → Coll) : (setColl s cid f).histOwner = s.histOwner := rfl
@[simp] theorem setColl_asids (s : State) (cid : Nat) (f : Coll → Coll) : (setColl s cid f).asids = s.asids := rfl
@[simp] theorem setColl_peerAsids (s : State) (cid : Nat) (f : Coll → Coll) : (setColl s cid f).peerAsids = s.peerAsids := rfl
@[simp] theorem setColl_tlb (s : State) (cid : Nat) (f : Coll → Coll) : (setColl s cid f).tlb = s.tlb := rfl
@[simp] theorem setColl_ptrs (s : State) (cid : Nat) (f : Coll → Coll) : (setColl s cid f).ptrs = s.ptrs := rfl
@[simp] theorem setColl_walks (s : State) (cid : Nat) (f : Coll → Coll) : (setColl s cid f).walks = s.walks := rfl
@[simp] theorem setColl_ibuf (s : State) (cid : Nat) (f : Coll → Coll) : (setColl s cid f).ibuf = s.ibuf := rfl
@[simp] theorem setColl_invals (s : State) (cid : Nat) (f : Coll → Coll) : (setColl s cid f).invals = s.invals := rfl
@[simp] theorem setColl_pageReqs (s : State) (cid : Nat) (f : Coll → Coll) : (setColl s cid f).pageReqs = s.pageReqs := rfl
@[simp] theorem setColl_joinWaits (s : State) (cid : Nat) (f : Coll → Coll) : (setColl s cid f).joinWaits = s.joinWaits := rfl
@[simp] theorem setColl_tiles (s : State) (cid : Nat) (f : Coll → Coll) : (setColl s cid f).tiles = s.tiles := rfl
@[simp] theorem setColl_pad (s : State) (cid : Nat) (f : Coll → Coll) : (setColl s cid f).pad = s.pad := rfl
@[simp] theorem setColl_crews (s : State) (cid : Nat) (f : Coll → Coll) : (setColl s cid f).crews = s.crews := rfl
@[simp] theorem setColl_clusters (s : State) (cid : Nat) (f : Coll → Coll) : (setColl s cid f).clusters = s.clusters := rfl
@[simp] theorem setColl_launches (s : State) (cid : Nat) (f : Coll → Coll) : (setColl s cid f).launches = s.launches := rfl
@[simp] theorem setColl_launchCount (s : State) (cid : Nat) (f : Coll → Coll) : (setColl s cid f).launchCount = s.launchCount := rfl
@[simp] theorem setColl_recs (s : State) (cid : Nat) (f : Coll → Coll) : (setColl s cid f).recs = s.recs := rfl
@[simp] theorem setColl_saggars (s : State) (cid : Nat) (f : Coll → Coll) : (setColl s cid f).saggars = s.saggars := rfl
@[simp] theorem setColl_stageOps (s : State) (cid : Nat) (f : Coll → Coll) : (setColl s cid f).stageOps = s.stageOps := rfl
@[simp] theorem setColl_acpys (s : State) (cid : Nat) (f : Coll → Coll) : (setColl s cid f).acpys = s.acpys := rfl
@[simp] theorem setColl_deficits (s : State) (cid : Nat) (f : Coll → Coll) : (setColl s cid f).deficits = s.deficits := rfl
@[simp] theorem setColl_gangs (s : State) (cid : Nat) (f : Coll → Coll) : (setColl s cid f).gangs = s.gangs := rfl
@[simp] theorem setColl_latches (s : State) (cid : Nat) (f : Coll → Coll) : (setColl s cid f).latches = s.latches := rfl
@[simp] theorem setColl_accs (s : State) (cid : Nat) (f : Coll → Coll) : (setColl s cid f).accs = s.accs := rfl
@[simp] theorem setColl_accOwned (s : State) (cid : Nat) (f : Coll → Coll) : (setColl s cid f).accOwned = s.accOwned := rfl
@[simp] theorem setColl_mxQueue (s : State) (cid : Nat) (f : Coll → Coll) : (setColl s cid f).mxQueue = s.mxQueue := rfl
@[simp] theorem setColl_mxOps (s : State) (cid : Nat) (f : Coll → Coll) : (setColl s cid f).mxOps = s.mxOps := rfl
@[simp] theorem setColl_coneLimit (s : State) (cid : Nat) (f : Coll → Coll) : (setColl s cid f).coneLimit = s.coneLimit := rfl
@[simp] theorem setColl_epochAt (s : State) (cid : Nat) (f : Coll → Coll) : (setColl s cid f).epochAt = s.epochAt := rfl
@[simp] theorem setColl_conesUsed (s : State) (cid : Nat) (f : Coll → Coll) : (setColl s cid f).conesUsed = s.conesUsed := rfl
@[simp] theorem setColl_coneOver (s : State) (cid : Nat) (f : Coll → Coll) : (setColl s cid f).coneOver = s.coneOver := rfl
@[simp] theorem setColl_rack (s : State) (cid : Nat) (f : Coll → Coll) : (setColl s cid f).rack = s.rack := rfl
@[simp] theorem setColl_queues (s : State) (cid : Nat) (f : Coll → Coll) : (setColl s cid f).queues = s.queues := rfl
@[simp] theorem setColl_packets (s : State) (cid : Nat) (f : Coll → Coll) : (setColl s cid f).packets = s.packets := rfl
@[simp] theorem setColl_colls (s : State) (cid : Nat) (f : Coll → Coll) : (setColl s cid f).colls = s.colls.map fun c => if c.cid = cid then f c else c := rfl
@[simp] theorem setColl_collOut (s : State) (cid : Nat) (f : Coll → Coll) : (setColl s cid f).collOut = s.collOut := rfl
@[simp] theorem setColl_rshds (s : State) (cid : Nat) (f : Coll → Coll) : (setColl s cid f).rshds = s.rshds := rfl
@[simp] theorem setColl_groups (s : State) (cid : Nat) (f : Coll → Coll) : (setColl s cid f).groups = s.groups := rfl
@[simp] theorem setColl_links (s : State) (cid : Nat) (f : Coll → Coll) : (setColl s cid f).links = s.links := rfl
@[simp] theorem setColl_vis (s : State) (cid : Nat) (f : Coll → Coll) : (setColl s cid f).vis = s.vis := rfl
@[simp] theorem setColl_reports (s : State) (cid : Nat) (f : Coll → Coll) : (setColl s cid f).reports = s.reports := rfl
@[simp] theorem setColl_fwReqs (s : State) (cid : Nat) (f : Coll → Coll) : (setColl s cid f).fwReqs = s.fwReqs := rfl
@[simp] theorem setColl_lease (s : State) (cid : Nat) (f : Coll → Coll) : (setColl s cid f).lease = s.lease := rfl
@[simp] theorem setColl_fwCores (s : State) (cid : Nat) (f : Coll → Coll) : (setColl s cid f).fwCores = s.fwCores := rfl
@[simp] theorem setColl_boot (s : State) (cid : Nat) (f : Coll → Coll) : (setColl s cid f).boot = s.boot := rfl
@[simp] theorem setColl_mirrors (s : State) (cid : Nat) (f : Coll → Coll) : (setColl s cid f).mirrors = s.mirrors := rfl
@[simp] theorem setColl_sent (s : State) (cid : Nat) (f : Coll → Coll) : (setColl s cid f).sent = s.sent := rfl
@[simp] theorem setColl_sentCrews (s : State) (cid : Nat) (f : Coll → Coll) : (setColl s cid f).sentCrews = s.sentCrews := rfl
@[simp] theorem setColl_stale (s : State) (cid : Nat) (f : Coll → Coll) : (setColl s cid f).stale = s.stale := rfl
@[simp] theorem setColl_peerDown (s : State) (cid : Nat) (f : Coll → Coll) : (setColl s cid f).peerDown = s.peerDown := rfl
@[simp] theorem setColl_unreach (s : State) (cid : Nat) (f : Coll → Coll) : (setColl s cid f).unreach = s.unreach := rfl
@[simp] theorem setColl_out (s : State) (cid : Nat) (f : Coll → Coll) : (setColl s cid f).out = s.out := rfl

/-! setRshd. -/

@[simp] theorem setRshd_agenda (s : State) (pid : Nat) (f : Rshd → Rshd) : (setRshd s pid f).agenda = s.agenda := rfl
@[simp] theorem setRshd_pick (s : State) (pid : Nat) (f : Rshd → Rshd) : (setRshd s pid f).pick = s.pick := rfl
@[simp] theorem setRshd_free (s : State) (pid : Nat) (f : Rshd → Rshd) : (setRshd s pid f).free = s.free := rfl
@[simp] theorem setRshd_fresh (s : State) (pid : Nat) (f : Rshd → Rshd) : (setRshd s pid f).fresh = s.fresh := rfl
@[simp] theorem setRshd_warp (s : State) (pid : Nat) (f : Rshd → Rshd) : (setRshd s pid f).warp = s.warp := rfl
@[simp] theorem setRshd_bench (s : State) (pid : Nat) (f : Rshd → Rshd) : (setRshd s pid f).bench = s.bench := rfl
@[simp] theorem setRshd_pkg (s : State) (pid : Nat) (f : Rshd → Rshd) : (setRshd s pid f).pkg = s.pkg := rfl
@[simp] theorem setRshd_domain (s : State) (pid : Nat) (f : Rshd → Rshd) : (setRshd s pid f).domain = s.domain := rfl
@[simp] theorem setRshd_gtc (s : State) (pid : Nat) (f : Rshd → Rshd) : (setRshd s pid f).gtc = s.gtc := rfl
@[simp] theorem setRshd_now (s : State) (pid : Nat) (f : Rshd → Rshd) : (setRshd s pid f).now = s.now := rfl
@[simp] theorem setRshd_mem (s : State) (pid : Nat) (f : Rshd → Rshd) : (setRshd s pid f).mem = s.mem := rfl
@[simp] theorem setRshd_host (s : State) (pid : Nat) (f : Rshd → Rshd) : (setRshd s pid f).host = s.host := rfl
@[simp] theorem setRshd_hostWrites (s : State) (pid : Nat) (f : Rshd → Rshd) : (setRshd s pid f).hostWrites = s.hostWrites := rfl
@[simp] theorem setRshd_hostPages (s : State) (pid : Nat) (f : Rshd → Rshd) : (setRshd s pid f).hostPages = s.hostPages := rfl
@[simp] theorem setRshd_live (s : State) (pid : Nat) (f : Rshd → Rshd) : (setRshd s pid f).live = s.live := rfl
@[simp] theorem setRshd_placed (s : State) (pid : Nat) (f : Rshd → Rshd) : (setRshd s pid f).placed = s.placed := rfl
@[simp] theorem setRshd_weak (s : State) (pid : Nat) (f : Rshd → Rshd) : (setRshd s pid f).weak = s.weak := rfl
@[simp] theorem setRshd_bad (s : State) (pid : Nat) (f : Rshd → Rshd) : (setRshd s pid f).bad = s.bad := rfl
@[simp] theorem setRshd_llc (s : State) (pid : Nat) (f : Rshd → Rshd) : (setRshd s pid f).llc = s.llc := rfl
@[simp] theorem setRshd_misses (s : State) (pid : Nat) (f : Rshd → Rshd) : (setRshd s pid f).misses = s.misses := rfl
@[simp] theorem setRshd_wbufs (s : State) (pid : Nat) (f : Rshd → Rshd) : (setRshd s pid f).wbufs = s.wbufs := rfl
@[simp] theorem setRshd_l1 (s : State) (pid : Nat) (f : Rshd → Rshd) : (setRshd s pid f).l1 = s.l1 := rfl
@[simp] theorem setRshd_dir (s : State) (pid : Nat) (f : Rshd → Rshd) : (setRshd s pid f).dir = s.dir := rfl
@[simp] theorem setRshd_ctrls (s : State) (pid : Nat) (f : Rshd → Rshd) : (setRshd s pid f).ctrls = s.ctrls := rfl
@[simp] theorem setRshd_waitReqs (s : State) (pid : Nat) (f : Rshd → Rshd) : (setRshd s pid f).waitReqs = s.waitReqs := rfl
@[simp] theorem setRshd_resps (s : State) (pid : Nat) (f : Rshd → Rshd) : (setRshd s pid f).resps = s.resps := rfl
@[simp] theorem setRshd_puts (s : State) (pid : Nat) (f : Rshd → Rshd) : (setRshd s pid f).puts = s.puts := rfl
@[simp] theorem setRshd_keys (s : State) (pid : Nat) (f : Rshd → Rshd) : (setRshd s pid f).keys = s.keys := rfl
@[simp] theorem setRshd_streams (s : State) (pid : Nat) (f : Rshd → Rshd) : (setRshd s pid f).streams = s.streams := rfl
@[simp] theorem setRshd_digests (s : State) (pid : Nat) (f : Rshd → Rshd) : (setRshd s pid f).digests = s.digests := rfl
@[simp] theorem setRshd_hist (s : State) (pid : Nat) (f : Rshd → Rshd) : (setRshd s pid f).hist = s.hist := rfl
@[simp] theorem setRshd_histOwner (s : State) (pid : Nat) (f : Rshd → Rshd) : (setRshd s pid f).histOwner = s.histOwner := rfl
@[simp] theorem setRshd_asids (s : State) (pid : Nat) (f : Rshd → Rshd) : (setRshd s pid f).asids = s.asids := rfl
@[simp] theorem setRshd_peerAsids (s : State) (pid : Nat) (f : Rshd → Rshd) : (setRshd s pid f).peerAsids = s.peerAsids := rfl
@[simp] theorem setRshd_tlb (s : State) (pid : Nat) (f : Rshd → Rshd) : (setRshd s pid f).tlb = s.tlb := rfl
@[simp] theorem setRshd_ptrs (s : State) (pid : Nat) (f : Rshd → Rshd) : (setRshd s pid f).ptrs = s.ptrs := rfl
@[simp] theorem setRshd_walks (s : State) (pid : Nat) (f : Rshd → Rshd) : (setRshd s pid f).walks = s.walks := rfl
@[simp] theorem setRshd_ibuf (s : State) (pid : Nat) (f : Rshd → Rshd) : (setRshd s pid f).ibuf = s.ibuf := rfl
@[simp] theorem setRshd_invals (s : State) (pid : Nat) (f : Rshd → Rshd) : (setRshd s pid f).invals = s.invals := rfl
@[simp] theorem setRshd_pageReqs (s : State) (pid : Nat) (f : Rshd → Rshd) : (setRshd s pid f).pageReqs = s.pageReqs := rfl
@[simp] theorem setRshd_joinWaits (s : State) (pid : Nat) (f : Rshd → Rshd) : (setRshd s pid f).joinWaits = s.joinWaits := rfl
@[simp] theorem setRshd_tiles (s : State) (pid : Nat) (f : Rshd → Rshd) : (setRshd s pid f).tiles = s.tiles := rfl
@[simp] theorem setRshd_pad (s : State) (pid : Nat) (f : Rshd → Rshd) : (setRshd s pid f).pad = s.pad := rfl
@[simp] theorem setRshd_crews (s : State) (pid : Nat) (f : Rshd → Rshd) : (setRshd s pid f).crews = s.crews := rfl
@[simp] theorem setRshd_clusters (s : State) (pid : Nat) (f : Rshd → Rshd) : (setRshd s pid f).clusters = s.clusters := rfl
@[simp] theorem setRshd_launches (s : State) (pid : Nat) (f : Rshd → Rshd) : (setRshd s pid f).launches = s.launches := rfl
@[simp] theorem setRshd_launchCount (s : State) (pid : Nat) (f : Rshd → Rshd) : (setRshd s pid f).launchCount = s.launchCount := rfl
@[simp] theorem setRshd_recs (s : State) (pid : Nat) (f : Rshd → Rshd) : (setRshd s pid f).recs = s.recs := rfl
@[simp] theorem setRshd_saggars (s : State) (pid : Nat) (f : Rshd → Rshd) : (setRshd s pid f).saggars = s.saggars := rfl
@[simp] theorem setRshd_stageOps (s : State) (pid : Nat) (f : Rshd → Rshd) : (setRshd s pid f).stageOps = s.stageOps := rfl
@[simp] theorem setRshd_acpys (s : State) (pid : Nat) (f : Rshd → Rshd) : (setRshd s pid f).acpys = s.acpys := rfl
@[simp] theorem setRshd_deficits (s : State) (pid : Nat) (f : Rshd → Rshd) : (setRshd s pid f).deficits = s.deficits := rfl
@[simp] theorem setRshd_gangs (s : State) (pid : Nat) (f : Rshd → Rshd) : (setRshd s pid f).gangs = s.gangs := rfl
@[simp] theorem setRshd_latches (s : State) (pid : Nat) (f : Rshd → Rshd) : (setRshd s pid f).latches = s.latches := rfl
@[simp] theorem setRshd_accs (s : State) (pid : Nat) (f : Rshd → Rshd) : (setRshd s pid f).accs = s.accs := rfl
@[simp] theorem setRshd_accOwned (s : State) (pid : Nat) (f : Rshd → Rshd) : (setRshd s pid f).accOwned = s.accOwned := rfl
@[simp] theorem setRshd_mxQueue (s : State) (pid : Nat) (f : Rshd → Rshd) : (setRshd s pid f).mxQueue = s.mxQueue := rfl
@[simp] theorem setRshd_mxOps (s : State) (pid : Nat) (f : Rshd → Rshd) : (setRshd s pid f).mxOps = s.mxOps := rfl
@[simp] theorem setRshd_coneLimit (s : State) (pid : Nat) (f : Rshd → Rshd) : (setRshd s pid f).coneLimit = s.coneLimit := rfl
@[simp] theorem setRshd_epochAt (s : State) (pid : Nat) (f : Rshd → Rshd) : (setRshd s pid f).epochAt = s.epochAt := rfl
@[simp] theorem setRshd_conesUsed (s : State) (pid : Nat) (f : Rshd → Rshd) : (setRshd s pid f).conesUsed = s.conesUsed := rfl
@[simp] theorem setRshd_coneOver (s : State) (pid : Nat) (f : Rshd → Rshd) : (setRshd s pid f).coneOver = s.coneOver := rfl
@[simp] theorem setRshd_rack (s : State) (pid : Nat) (f : Rshd → Rshd) : (setRshd s pid f).rack = s.rack := rfl
@[simp] theorem setRshd_queues (s : State) (pid : Nat) (f : Rshd → Rshd) : (setRshd s pid f).queues = s.queues := rfl
@[simp] theorem setRshd_packets (s : State) (pid : Nat) (f : Rshd → Rshd) : (setRshd s pid f).packets = s.packets := rfl
@[simp] theorem setRshd_colls (s : State) (pid : Nat) (f : Rshd → Rshd) : (setRshd s pid f).colls = s.colls := rfl
@[simp] theorem setRshd_collOut (s : State) (pid : Nat) (f : Rshd → Rshd) : (setRshd s pid f).collOut = s.collOut := rfl
@[simp] theorem setRshd_rshds (s : State) (pid : Nat) (f : Rshd → Rshd) : (setRshd s pid f).rshds = s.rshds.map fun h => if h.pid = pid then f h else h := rfl
@[simp] theorem setRshd_groups (s : State) (pid : Nat) (f : Rshd → Rshd) : (setRshd s pid f).groups = s.groups := rfl
@[simp] theorem setRshd_links (s : State) (pid : Nat) (f : Rshd → Rshd) : (setRshd s pid f).links = s.links := rfl
@[simp] theorem setRshd_vis (s : State) (pid : Nat) (f : Rshd → Rshd) : (setRshd s pid f).vis = s.vis := rfl
@[simp] theorem setRshd_reports (s : State) (pid : Nat) (f : Rshd → Rshd) : (setRshd s pid f).reports = s.reports := rfl
@[simp] theorem setRshd_fwReqs (s : State) (pid : Nat) (f : Rshd → Rshd) : (setRshd s pid f).fwReqs = s.fwReqs := rfl
@[simp] theorem setRshd_lease (s : State) (pid : Nat) (f : Rshd → Rshd) : (setRshd s pid f).lease = s.lease := rfl
@[simp] theorem setRshd_fwCores (s : State) (pid : Nat) (f : Rshd → Rshd) : (setRshd s pid f).fwCores = s.fwCores := rfl
@[simp] theorem setRshd_boot (s : State) (pid : Nat) (f : Rshd → Rshd) : (setRshd s pid f).boot = s.boot := rfl
@[simp] theorem setRshd_mirrors (s : State) (pid : Nat) (f : Rshd → Rshd) : (setRshd s pid f).mirrors = s.mirrors := rfl
@[simp] theorem setRshd_sent (s : State) (pid : Nat) (f : Rshd → Rshd) : (setRshd s pid f).sent = s.sent := rfl
@[simp] theorem setRshd_sentCrews (s : State) (pid : Nat) (f : Rshd → Rshd) : (setRshd s pid f).sentCrews = s.sentCrews := rfl
@[simp] theorem setRshd_stale (s : State) (pid : Nat) (f : Rshd → Rshd) : (setRshd s pid f).stale = s.stale := rfl
@[simp] theorem setRshd_peerDown (s : State) (pid : Nat) (f : Rshd → Rshd) : (setRshd s pid f).peerDown = s.peerDown := rfl
@[simp] theorem setRshd_unreach (s : State) (pid : Nat) (f : Rshd → Rshd) : (setRshd s pid f).unreach = s.unreach := rfl
@[simp] theorem setRshd_out (s : State) (pid : Nat) (f : Rshd → Rshd) : (setRshd s pid f).out = s.out := rfl

/-! setFw. -/

@[simp] theorem setFw_agenda (s : State) (k : Nat) (f : FwCore → FwCore) : (setFw s k f).agenda = s.agenda := rfl
@[simp] theorem setFw_pick (s : State) (k : Nat) (f : FwCore → FwCore) : (setFw s k f).pick = s.pick := rfl
@[simp] theorem setFw_free (s : State) (k : Nat) (f : FwCore → FwCore) : (setFw s k f).free = s.free := rfl
@[simp] theorem setFw_fresh (s : State) (k : Nat) (f : FwCore → FwCore) : (setFw s k f).fresh = s.fresh := rfl
@[simp] theorem setFw_warp (s : State) (k : Nat) (f : FwCore → FwCore) : (setFw s k f).warp = s.warp := rfl
@[simp] theorem setFw_bench (s : State) (k : Nat) (f : FwCore → FwCore) : (setFw s k f).bench = s.bench := rfl
@[simp] theorem setFw_pkg (s : State) (k : Nat) (f : FwCore → FwCore) : (setFw s k f).pkg = s.pkg := rfl
@[simp] theorem setFw_domain (s : State) (k : Nat) (f : FwCore → FwCore) : (setFw s k f).domain = s.domain := rfl
@[simp] theorem setFw_gtc (s : State) (k : Nat) (f : FwCore → FwCore) : (setFw s k f).gtc = s.gtc := rfl
@[simp] theorem setFw_now (s : State) (k : Nat) (f : FwCore → FwCore) : (setFw s k f).now = s.now := rfl
@[simp] theorem setFw_mem (s : State) (k : Nat) (f : FwCore → FwCore) : (setFw s k f).mem = s.mem := rfl
@[simp] theorem setFw_host (s : State) (k : Nat) (f : FwCore → FwCore) : (setFw s k f).host = s.host := rfl
@[simp] theorem setFw_hostWrites (s : State) (k : Nat) (f : FwCore → FwCore) : (setFw s k f).hostWrites = s.hostWrites := rfl
@[simp] theorem setFw_hostPages (s : State) (k : Nat) (f : FwCore → FwCore) : (setFw s k f).hostPages = s.hostPages := rfl
@[simp] theorem setFw_live (s : State) (k : Nat) (f : FwCore → FwCore) : (setFw s k f).live = s.live := rfl
@[simp] theorem setFw_placed (s : State) (k : Nat) (f : FwCore → FwCore) : (setFw s k f).placed = s.placed := rfl
@[simp] theorem setFw_weak (s : State) (k : Nat) (f : FwCore → FwCore) : (setFw s k f).weak = s.weak := rfl
@[simp] theorem setFw_bad (s : State) (k : Nat) (f : FwCore → FwCore) : (setFw s k f).bad = s.bad := rfl
@[simp] theorem setFw_llc (s : State) (k : Nat) (f : FwCore → FwCore) : (setFw s k f).llc = s.llc := rfl
@[simp] theorem setFw_misses (s : State) (k : Nat) (f : FwCore → FwCore) : (setFw s k f).misses = s.misses := rfl
@[simp] theorem setFw_wbufs (s : State) (k : Nat) (f : FwCore → FwCore) : (setFw s k f).wbufs = s.wbufs := rfl
@[simp] theorem setFw_l1 (s : State) (k : Nat) (f : FwCore → FwCore) : (setFw s k f).l1 = s.l1 := rfl
@[simp] theorem setFw_dir (s : State) (k : Nat) (f : FwCore → FwCore) : (setFw s k f).dir = s.dir := rfl
@[simp] theorem setFw_ctrls (s : State) (k : Nat) (f : FwCore → FwCore) : (setFw s k f).ctrls = s.ctrls := rfl
@[simp] theorem setFw_waitReqs (s : State) (k : Nat) (f : FwCore → FwCore) : (setFw s k f).waitReqs = s.waitReqs := rfl
@[simp] theorem setFw_resps (s : State) (k : Nat) (f : FwCore → FwCore) : (setFw s k f).resps = s.resps := rfl
@[simp] theorem setFw_puts (s : State) (k : Nat) (f : FwCore → FwCore) : (setFw s k f).puts = s.puts := rfl
@[simp] theorem setFw_keys (s : State) (k : Nat) (f : FwCore → FwCore) : (setFw s k f).keys = s.keys := rfl
@[simp] theorem setFw_streams (s : State) (k : Nat) (f : FwCore → FwCore) : (setFw s k f).streams = s.streams := rfl
@[simp] theorem setFw_digests (s : State) (k : Nat) (f : FwCore → FwCore) : (setFw s k f).digests = s.digests := rfl
@[simp] theorem setFw_hist (s : State) (k : Nat) (f : FwCore → FwCore) : (setFw s k f).hist = s.hist := rfl
@[simp] theorem setFw_histOwner (s : State) (k : Nat) (f : FwCore → FwCore) : (setFw s k f).histOwner = s.histOwner := rfl
@[simp] theorem setFw_asids (s : State) (k : Nat) (f : FwCore → FwCore) : (setFw s k f).asids = s.asids := rfl
@[simp] theorem setFw_peerAsids (s : State) (k : Nat) (f : FwCore → FwCore) : (setFw s k f).peerAsids = s.peerAsids := rfl
@[simp] theorem setFw_tlb (s : State) (k : Nat) (f : FwCore → FwCore) : (setFw s k f).tlb = s.tlb := rfl
@[simp] theorem setFw_ptrs (s : State) (k : Nat) (f : FwCore → FwCore) : (setFw s k f).ptrs = s.ptrs := rfl
@[simp] theorem setFw_walks (s : State) (k : Nat) (f : FwCore → FwCore) : (setFw s k f).walks = s.walks := rfl
@[simp] theorem setFw_ibuf (s : State) (k : Nat) (f : FwCore → FwCore) : (setFw s k f).ibuf = s.ibuf := rfl
@[simp] theorem setFw_invals (s : State) (k : Nat) (f : FwCore → FwCore) : (setFw s k f).invals = s.invals := rfl
@[simp] theorem setFw_pageReqs (s : State) (k : Nat) (f : FwCore → FwCore) : (setFw s k f).pageReqs = s.pageReqs := rfl
@[simp] theorem setFw_joinWaits (s : State) (k : Nat) (f : FwCore → FwCore) : (setFw s k f).joinWaits = s.joinWaits := rfl
@[simp] theorem setFw_tiles (s : State) (k : Nat) (f : FwCore → FwCore) : (setFw s k f).tiles = s.tiles := rfl
@[simp] theorem setFw_pad (s : State) (k : Nat) (f : FwCore → FwCore) : (setFw s k f).pad = s.pad := rfl
@[simp] theorem setFw_crews (s : State) (k : Nat) (f : FwCore → FwCore) : (setFw s k f).crews = s.crews := rfl
@[simp] theorem setFw_clusters (s : State) (k : Nat) (f : FwCore → FwCore) : (setFw s k f).clusters = s.clusters := rfl
@[simp] theorem setFw_launches (s : State) (k : Nat) (f : FwCore → FwCore) : (setFw s k f).launches = s.launches := rfl
@[simp] theorem setFw_launchCount (s : State) (k : Nat) (f : FwCore → FwCore) : (setFw s k f).launchCount = s.launchCount := rfl
@[simp] theorem setFw_recs (s : State) (k : Nat) (f : FwCore → FwCore) : (setFw s k f).recs = s.recs := rfl
@[simp] theorem setFw_saggars (s : State) (k : Nat) (f : FwCore → FwCore) : (setFw s k f).saggars = s.saggars := rfl
@[simp] theorem setFw_stageOps (s : State) (k : Nat) (f : FwCore → FwCore) : (setFw s k f).stageOps = s.stageOps := rfl
@[simp] theorem setFw_acpys (s : State) (k : Nat) (f : FwCore → FwCore) : (setFw s k f).acpys = s.acpys := rfl
@[simp] theorem setFw_deficits (s : State) (k : Nat) (f : FwCore → FwCore) : (setFw s k f).deficits = s.deficits := rfl
@[simp] theorem setFw_gangs (s : State) (k : Nat) (f : FwCore → FwCore) : (setFw s k f).gangs = s.gangs := rfl
@[simp] theorem setFw_latches (s : State) (k : Nat) (f : FwCore → FwCore) : (setFw s k f).latches = s.latches := rfl
@[simp] theorem setFw_accs (s : State) (k : Nat) (f : FwCore → FwCore) : (setFw s k f).accs = s.accs := rfl
@[simp] theorem setFw_accOwned (s : State) (k : Nat) (f : FwCore → FwCore) : (setFw s k f).accOwned = s.accOwned := rfl
@[simp] theorem setFw_mxQueue (s : State) (k : Nat) (f : FwCore → FwCore) : (setFw s k f).mxQueue = s.mxQueue := rfl
@[simp] theorem setFw_mxOps (s : State) (k : Nat) (f : FwCore → FwCore) : (setFw s k f).mxOps = s.mxOps := rfl
@[simp] theorem setFw_coneLimit (s : State) (k : Nat) (f : FwCore → FwCore) : (setFw s k f).coneLimit = s.coneLimit := rfl
@[simp] theorem setFw_epochAt (s : State) (k : Nat) (f : FwCore → FwCore) : (setFw s k f).epochAt = s.epochAt := rfl
@[simp] theorem setFw_conesUsed (s : State) (k : Nat) (f : FwCore → FwCore) : (setFw s k f).conesUsed = s.conesUsed := rfl
@[simp] theorem setFw_coneOver (s : State) (k : Nat) (f : FwCore → FwCore) : (setFw s k f).coneOver = s.coneOver := rfl
@[simp] theorem setFw_rack (s : State) (k : Nat) (f : FwCore → FwCore) : (setFw s k f).rack = s.rack := rfl
@[simp] theorem setFw_queues (s : State) (k : Nat) (f : FwCore → FwCore) : (setFw s k f).queues = s.queues := rfl
@[simp] theorem setFw_packets (s : State) (k : Nat) (f : FwCore → FwCore) : (setFw s k f).packets = s.packets := rfl
@[simp] theorem setFw_colls (s : State) (k : Nat) (f : FwCore → FwCore) : (setFw s k f).colls = s.colls := rfl
@[simp] theorem setFw_collOut (s : State) (k : Nat) (f : FwCore → FwCore) : (setFw s k f).collOut = s.collOut := rfl
@[simp] theorem setFw_rshds (s : State) (k : Nat) (f : FwCore → FwCore) : (setFw s k f).rshds = s.rshds := rfl
@[simp] theorem setFw_groups (s : State) (k : Nat) (f : FwCore → FwCore) : (setFw s k f).groups = s.groups := rfl
@[simp] theorem setFw_links (s : State) (k : Nat) (f : FwCore → FwCore) : (setFw s k f).links = s.links := rfl
@[simp] theorem setFw_vis (s : State) (k : Nat) (f : FwCore → FwCore) : (setFw s k f).vis = s.vis := rfl
@[simp] theorem setFw_reports (s : State) (k : Nat) (f : FwCore → FwCore) : (setFw s k f).reports = s.reports := rfl
@[simp] theorem setFw_fwReqs (s : State) (k : Nat) (f : FwCore → FwCore) : (setFw s k f).fwReqs = s.fwReqs := rfl
@[simp] theorem setFw_lease (s : State) (k : Nat) (f : FwCore → FwCore) : (setFw s k f).lease = s.lease := rfl
@[simp] theorem setFw_fwCores (s : State) (k : Nat) (f : FwCore → FwCore) : (setFw s k f).fwCores = s.fwCores.modify k f := rfl
@[simp] theorem setFw_boot (s : State) (k : Nat) (f : FwCore → FwCore) : (setFw s k f).boot = s.boot := rfl
@[simp] theorem setFw_mirrors (s : State) (k : Nat) (f : FwCore → FwCore) : (setFw s k f).mirrors = s.mirrors := rfl
@[simp] theorem setFw_sent (s : State) (k : Nat) (f : FwCore → FwCore) : (setFw s k f).sent = s.sent := rfl
@[simp] theorem setFw_sentCrews (s : State) (k : Nat) (f : FwCore → FwCore) : (setFw s k f).sentCrews = s.sentCrews := rfl
@[simp] theorem setFw_stale (s : State) (k : Nat) (f : FwCore → FwCore) : (setFw s k f).stale = s.stale := rfl
@[simp] theorem setFw_peerDown (s : State) (k : Nat) (f : FwCore → FwCore) : (setFw s k f).peerDown = s.peerDown := rfl
@[simp] theorem setFw_unreach (s : State) (k : Nat) (f : FwCore → FwCore) : (setFw s k f).unreach = s.unreach := rfl
@[simp] theorem setFw_out (s : State) (k : Nat) (f : FwCore → FwCore) : (setFw s k f).out = s.out := rfl

end Sys2Proof.Machine
end

