-- ==== Sys2Proof/Laws/Memory.lean ====
section
/-! SUPPORT. What the operations over memory do: each keeps the memories in their form, and one that writes device memory changes
nothing but device memory and what stands before it. -/

namespace Sys2Proof.Machine

/-- A state whose memories are those of a state in form is in form. -/
theorem MemForm.of_eq {s t : State} (h : MemForm s) (hm : t.mem = s.mem) (hh : t.host = s.host) (hp : t.pad = s.pad) : MemForm t := by
  simpa [MemForm, hm, hh, hp] using h

/-- Nothing changes but device memory, its caches, directory and controllers' queues, the responses on their way, the fabric links and
the count of free values; and device memory keeps its form. -/
def Homeward (s t : State) : Prop :=
  { t with mem := s.mem, live := s.live, placed := s.placed, weak := s.weak, bad := s.bad, llc := s.llc, misses := s.misses,
           wbufs := s.wbufs, l1 := s.l1, dir := s.dir, ctrls := s.ctrls, waitReqs := s.waitReqs, resps := s.resps, links := s.links,
           free := s.free } = s ∧ (Memory.wf s.mem = true → Memory.wf t.mem = true)

theorem Homeward.refl (s : State) : Homeward s s := ⟨rfl, id⟩

theorem Homeward.trans {s t u : State} (h : Homeward s t) (g : Homeward t u) : Homeward s u := by
  refine ⟨?_, g.2 ∘ h.2⟩
  have h := h.1
  have g := g.1
  rw [← h, ← g]

/-- The memories keep their form where nothing else changes. -/
theorem Homeward.keeps {s t : State} (h : Homeward s t) (hf : MemForm s) : MemForm t := by
  have e := h.1
  refine ⟨h.2 hf.1, ?_, ?_⟩
  · rw [← e] at hf; exact hf.2.1
  · rw [← e] at hf; exact hf.2.2

/-- A step that keeps a relation, repeated, keeps it. -/
theorem foldl_keeps {α β : Type} (R : α → α → Prop) (refl : ∀ a, R a a) (trans : ∀ {a b c}, R a b → R b c → R a c) (f : α → β → α)
    (l : List β) (h : ∀ a b, R a (f a b)) (a : α) : R a (l.foldl f a) := by
  induction l generalizing a with
  | nil => exact refl a
  | cons b t ih => exact trans (h a b) (ih (f a b))

/-- A step that keeps a property, repeated, keeps it. -/
theorem foldl_holds {α β : Type} (P : α → Prop) (f : α → β → α) (l : List β) (h : ∀ a b, P a → P (f a b)) (a : α) (ha : P a) :
    P (l.foldl f a) := by
  induction l generalizing a with
  | nil => exact ha
  | cons b t ih => exact ih (f a b) (h a b ha)

/-- Steps that stay homeward, repeated. -/
theorem foldl_home {β : Type} (f : State → β → State) (l : List β) (h : ∀ t b, Homeward t (f t b)) (s : State) :
    Homeward s (l.foldl f s) := foldl_keeps Homeward .refl (fun h g => h.trans g) f l h s

/-! Lines. -/

theorem markLive_home (s : State) (swz : BitVec 4) (line : Nat) : Homeward s (markLive s swz line) := by
  unfold markLive
  simp only
  split
  · exact .refl s
  · exact ⟨rfl, filter_mwf 0 s.mem _⟩

theorem dramWrite_home (s : State) (swz : BitVec 4) (line : Nat) (mask : BitVec 128) (data : Line) :
    Homeward s (dramWrite s swz line mask data) := by
  have cells : ∀ (l : List Nat) (u : State), Homeward u { u with
      mem := l.foldl (fun m i =>
        if mask.getLsbD i then mset 0 m (cellOf swz (line * 128 + i)) (lineByte data i) else m) u.mem } :=
    fun l u => ⟨rfl, fun h => foldl_mset_mwf 0 l (fun i => mask.getLsbD i) _ _ _ h⟩
  unfold dramWrite
  by_cases hm : mask = fullMask
  · rw [if_pos hm]
    exact .trans (t := { s with bad := s.bad.filter (· ≠ line), weak := s.weak.filter (· ≠ line) }) ⟨rfl, id⟩
      ((markLive_home _ swz line).trans (cells (List.range 128) _))
  · rw [if_neg hm]
    exact (markLive_home s swz line).trans (cells (List.range 128) _)

theorem flushLine_home (s : State) (line : Nat) : Homeward s (flushLine s line) := by
  unfold flushLine
  refine Homeward.trans ?_ (foldl_home _ _ (fun t q => ?_) _)
  · exact ⟨rfl, id⟩
  · split
    · exact dramWrite_home ..
    · exact .refl t

/-! The slices, their miss entries and write-back buffers. -/

theorem llcPut_home (s : State) (swz : BitVec 4) (line : Nat) (data : Line) (dirty : Bool) :
    Homeward s (llcPut s swz line data dirty) := by
  cases dirty <;> exact ⟨rfl, id⟩

theorem recallL1_home (s : State) (line : Nat) : Homeward s (recallL1 s line) := by
  unfold recallL1
  simp only
  split
  · next l _ =>
    refine (llcPut_home s l.swz line l.data true).trans ?_
    exact ⟨rfl, id⟩
  · exact ⟨rfl, id⟩

theorem pushReq_home (s : State) (q : CtrlReq) : Homeward s (pushReq s q) := ⟨rfl, id⟩

theorem sendMisses_home (s : State) : Homeward s (sendMisses s) := by
  unfold sendMisses
  refine foldl_home _ _ (fun t m => ?_) s
  simp only
  split
  · exact .refl t
  · exact ⟨rfl, id⟩

theorem sendAll_home (s : State) : Homeward s (sendAll s) := by
  unfold sendAll
  simp only
  have h := foldl_home (fun (t : State) (q : CtrlReq) =>
    if ctrlRoom t (ctrlOf q.swz (q.line * 128)) then pushReq { t with wbufs := t.wbufs.erase q } q else t) s.wbufs (fun t q => by
      split
      · exact ⟨rfl, id⟩
      · exact .refl t) s
  refine (h.trans (sendMisses_home _)).trans ?_
  refine foldl_home _ _ (fun t q => ?_) _
  split
  · exact ⟨rfl, id⟩
  · exact .refl t

theorem bufferWrite_home (s : State) (q : CtrlReq) : Homeward s (bufferWrite s q) := by
  have push : ∀ u : State, Homeward u (sendAll { u with wbufs := u.wbufs ++ [q] }) := fun u =>
    Homeward.trans (t := { u with wbufs := u.wbufs ++ [q] }) ⟨rfl, id⟩ (sendAll_home _)
  unfold bufferWrite
  refine Homeward.trans ?_ (push _)
  split
  · exact .refl s
  · split
    · exact flushLine_home ..
    · exact .refl s

theorem evictLine_home (s : State) (line : Nat) : Homeward s (evictLine s line) := by
  unfold evictLine
  split
  · exact .refl s
  · simp only
    refine (recallL1_home s line).trans ?_
    generalize recallL1 s line = u
    have h : Homeward u (dirLeave { u with llc := mset none u.llc line none } line) := ⟨rfl, id⟩
    split
    · exact h.trans (bufferWrite_home ..)
    · exact h.trans (dramWrite_home ..)
    · exact h

theorem llcRoom_home (s : State) (line : Nat) : Homeward s (llcRoom s line) := by
  unfold llcRoom
  simp only
  split
  · exact .refl s
  · split
    · exact .refl s
    · exact Homeward.trans (t := { s with free := s.free + 1 }) ⟨rfl, id⟩ (evictLine_home ..)

theorem llcInstall_home (s : State) (swz : BitVec 4) (line : Nat) (data : Line) (dirty : Bool) :
    Homeward s (llcInstall s swz line data dirty) := (llcRoom_home s line).trans (llcPut_home ..)

theorem dropL1_home (s : State) (core line : Nat) : Homeward s (dropL1 s core line) := by
  unfold dropL1
  split
  · exact .refl s
  · simp only
    have h : Homeward s { s with l1 := s.l1.filter fun x => !(x.core = core && x.line = line) } := ⟨rfl, id⟩
    split
    · exact h.trans (llcInstall_home ..)
    · exact h

theorem l1Put_home (s : State) (core : Nat) (swz : BitVec 4) (line : Nat) (data : Line) : Homeward s (l1Put s core swz line data) := by
  unfold l1Put
  split
  · exact .refl s
  · simp only
    refine Homeward.trans ?_ ⟨rfl, id⟩
    repeat' split
    all_goals first
      | exact .refl s
      | exact Homeward.trans (t := { s with free := s.free + 1 }) ⟨rfl, id⟩ (dropL1_home ..)

theorem closeMiss_home (s : State) (line : Nat) (data : Line) : Homeward s (closeMiss s line data) := by
  unfold closeMiss
  simp only
  split
  · exact ⟨rfl, id⟩
  · refine Homeward.trans ?_ (sendAll_home _)
    exact Homeward.trans (t := answerLine { s with misses := s.misses.filter fun m => m.line ≠ line } line data) ⟨rfl, id⟩
      (foldl_home _ _ (fun t c => l1Put_home ..) _)

theorem fillMiss_home (s : State) (m : MissEnt) (fill : Line) : Homeward s (fillMiss s m fill) :=
  (llcInstall_home ..).trans (closeMiss_home ..)

theorem acceptLine_home (s : State) (swz : BitVec 4) (line : Nat) (data : Line) : Homeward s (acceptLine s swz line data) :=
  (llcInstall_home ..).trans (closeMiss_home ..)

theorem openMiss_home (s : State) (swz : BitVec 4) (line : Nat) (rep : Option Nat) (l1 : List Nat) :
    Homeward s (openMiss s swz line rep l1) := by
  unfold openMiss
  split
  · exact ⟨rfl, id⟩
  · refine Homeward.trans (t := { s with misses := s.misses ++
      [{ line := line, swz := swz, rep := rep, mask := 0, data := 0, fill := none, sent := false, l1 := l1 }] }) ?_ (sendMisses_home _)
    exact ⟨rfl, id⟩

/-! Stores. -/

theorem homeStore_home (s : State) (swz : BitVec 4) (line : Nat) (mask : BitVec 128) (data : Line) :
    Homeward s (homeStore s swz line mask data) := by
  unfold homeStore
  refine (recallL1_home s line).trans ?_
  simp only
  split
  · exact llcPut_home ..
  · split
    · exact acceptLine_home ..
    · exact Homeward.trans (t := dirWrite (recallL1 s line) line true) ⟨rfl, id⟩ ((openMiss_home ..).trans ⟨rfl, id⟩)

theorem coreStore_home (s : State) (core : Nat) (swz : BitVec 4) (line : Nat) (mask : BitVec 128) (data : Line) :
    Homeward s (coreStore s core swz line mask data) := by
  unfold coreStore
  split
  · exact homeStore_home ..
  · simp only
    generalize cohLine s swz line = cur
    have h : Homeward s (if isRemote s line then llcPut s swz line cur true else dirWrite s line true) := by
      split
      · exact llcPut_home ..
      · exact ⟨rfl, id⟩
    refine h.trans ?_
    exact ⟨rfl, id⟩

/-- The slice's copy of a line written to DRAM and dropped. -/
theorem dropHome_home (u : State) (line : Nat) : Homeward u (match mget none u.llc line with
    | none => u
    | some l =>
      let s := if l.st = .dirty ∨ l.st = .rown then dramWrite u l.swz line fullMask l.data else u
      dirLeave { s with llc := mset none s.llc line none } line) := by
  split
  · exact .refl u
  · next l _ =>
    have h : Homeward u (if l.st = .dirty ∨ l.st = .rown then dramWrite u l.swz line fullMask l.data else u) := by
      split
      · exact dramWrite_home ..
      · exact .refl u
    refine h.trans ?_
    generalize (if l.st = .dirty ∨ l.st = .rown then dramWrite u l.swz line fullMask l.data else u) = v
    exact ⟨rfl, id⟩

/-- The partial writes of a line's open entry brought to DRAM. -/
theorem dropPart_home (u : State) (line : Nat) : Homeward u (match missOf u line with
    | none => u
    | some m =>
      let s := if m.mask = 0 then u else dramWrite u m.swz line m.mask m.data
      { s with misses := s.misses.map fun x => if x.line = line then { x with mask := 0, data := 0 } else x }) := by
  split
  · exact .refl u
  · next m _ =>
    have h : Homeward u (if m.mask = 0 then u else dramWrite u m.swz line m.mask m.data) := by
      split
      · exact .refl u
      · exact dramWrite_home ..
    refine h.trans ?_
    generalize (if m.mask = 0 then u else dramWrite u m.swz line m.mask m.data) = v
    exact ⟨rfl, id⟩

theorem passHome_home (s : State) (line : Nat) : Homeward s (passHome s line) :=
  ((recallL1_home s line).trans (flushLine_home ..)).trans ((dropHome_home _ line).trans (dropPart_home _ line))

theorem dramPast_home (s : State) (swz : BitVec 4) (line : Nat) (mask : BitVec 128) (data : Line) :
    Homeward s (dramPast s swz line mask data) := (dramWrite_home s swz line mask data).trans ⟨rfl, id⟩

theorem crossFabric_home (s : State) (plane : Option Nat) : Homeward s (crossFabric s plane) := by
  unfold crossFabric
  simp only
  split
  · exact .refl s
  · exact ⟨rfl, id⟩

theorem farPut_home (s : State) (swz : BitVec 4) (line : Nat) (mask : BitVec 128) (data : Line) :
    Homeward s (farPut s swz line mask data) := by
  have h := (passHome_home s line).trans (dramPast_home _ swz line mask data)
  unfold farPut
  generalize dramPast (passHome s line) swz line mask data = u at h ⊢
  exact h.trans ⟨rfl, id⟩

theorem farStore_home (s : State) (swz : BitVec 4) (line : Nat) (mask : BitVec 128) (data : Line) :
    Homeward s (farStore s swz line mask data) := (crossFabric_home s none).trans (farPut_home ..)

theorem storeLine_home (s : State) (core : Option Nat) (ord : Ord) (swz : BitVec 4) (line : Nat) (mask : BitVec 128) (data : Line) :
    Homeward s (storeLine s core ord swz line mask data) := by
  unfold storeLine
  repeat' split
  · exact farStore_home ..
  · exact homeStore_home ..
  · exact coreStore_home ..
  · exact homeStore_home ..

/-! Device addresses. -/

/-- A write from a device address changes nothing but device memory and what stands before it. -/
theorem writeDpa_home (s : State) (ord : Ord) (swz : BitVec 4) (dpa : Nat) (bytes : List Byte) :
    Homeward s (writeDpa s ord swz dpa bytes) := foldl_home _ _ (fun _ _ => storeLine_home ..) s

/-- A write in another package's memory changes nothing but device memory, what stands before it and the links. -/
theorem writeFar_home (s : State) (swz : BitVec 4) (dpa : Nat) (bytes : List Byte) : Homeward s (writeFar s swz dpa bytes) :=
  foldl_home _ _ (fun _ _ => farStore_home ..) s

/-- Host writes landed keep the form of host memory. -/
theorem landHost_form (s : State) (h : MemForm s) : MemForm (landHost s) :=
  ⟨h.1, foldl_holds (fun m : SMap Byte => Memory.wf m = true) (fun m (w : Nat × List Byte) => msetRange 0 m w.1 w.2) s.hostWrites
    (fun m w hm => msetRange_mwf 0 m w.1 w.2 hm) s.host h.2.1, h.2.2⟩

theorem writeLoc_form (s : State) (ord : Ord) (swz : BitVec 4) (l : Loc) (bytes : List Byte) (h : MemForm s) :
    MemForm (writeLoc s ord swz l bytes) := by
  cases l with
  | dev a => exact (writeDpa_home s ord swz a bytes).keeps h
  | host a =>
    have g := landHost_form s h
    exact ⟨g.1, msetRange_mwf 0 _ a bytes g.2.1, g.2.2⟩

/-! Virtual addresses. -/

theorem setVi_form (s : State) (vi : Nat) (f : Vi → Vi) (h : MemForm s) : MemForm (setVi s vi f) := h.of_eq rfl rfl rfl

theorem report_form (s : State) (vi kind launch asid addr data : Nat) (h : MemForm s) :
    MemForm (report s vi kind launch asid addr data) := by
  unfold report
  simp only
  split <;> exact h.of_eq rfl rfl rfl

theorem markStale_form (s : State) (asid va b a : Nat) (h : MemForm s) : MemForm (markStale s asid va b a) := by
  unfold markStale
  split
  · exact h
  · exact report_form _ _ _ _ _ _ _ (h.of_eq rfl rfl rfl)

theorem foldlM_holds {α β : Type} (P : α → Prop) (f : α → β → Option α) (l : List β) (h : ∀ a b c, P a → f a b = some c → P c)
    (a b : α) (ha : P a) (hb : l.foldlM f a = some b) : P b := by
  induction l generalizing a with
  | nil => simp only [List.foldlM_nil, pure, Option.some.injEq] at hb; exact hb ▸ ha
  | cons x t ih =>
    simp only [List.foldlM_cons, bind, Option.bind_eq_some_iff] at hb
    obtain ⟨c, hc, hb⟩ := hb
    exact ih c (h a x c ha hc) hb

theorem writeX_form (s : State) (x : Xlat) (asid va i : Nat) (bytes : List Byte) (h : MemForm s) :
    MemForm (writeX s x asid va i bytes) := by
  have g := writeLoc_form s x.ord x.swz (x.loc.add i) bytes h
  unfold writeX writeBuddy
  simp only
  split
  · split
    · exact g
    · split
      · exact markStale_form _ _ _ _ _ g
      · exact (writeFar_home ..).keeps g
  · exact g

theorem writeVa_form (s t : State) (sp : Space) (va : Nat) (bytes : List Byte) (h : MemForm s) (ht : writeVa s sp va bytes = some t) :
    MemForm t := by
  unfold writeVa at ht
  refine foldlM_holds MemForm _ _ (fun a b c ha hc => ?_) s t h ht
  split at hc
  · cases hc
    exact writeX_form _ _ _ _ _ _ ha
  · cases hc

/-! Requests for pages. -/

theorem postPageReqs_form (s : State) (vi : Nat) (h : MemForm s) : MemForm (postPageReqs s vi) := by
  unfold postPageReqs
  refine foldl_holds MemForm _ _ (fun t r ht => ?_) s h
  simp only
  repeat' split
  all_goals first
    | exact ht
    | (rename_i h1 _ _ h2
       exact (writeVa_form _ _ _ _ _ (writeVa_form _ _ _ _ _ ht h1) h2).of_eq rfl rfl rfl)

theorem requestPage_form (s : State) (vi asid va psz : Nat) (eng : Bool) (h : MemForm s) : MemForm (requestPage s vi asid va psz eng) := by
  unfold requestPage
  simp only
  repeat' split
  all_goals exact h.of_eq rfl rfl rfl

theorem askPage_form (s : State) (vi asid va psz : Nat) (eng : Bool) (h : MemForm s) : MemForm (askPage s vi asid va psz eng) :=
  postPageReqs_form _ _ (requestPage_form _ _ _ _ _ _ h)

/-! Scratchpad and discarded regions. -/

theorem padWrite_form (s : State) (core phys off : Nat) (bytes : List Byte) (h : MemForm s) :
    MemForm (padWrite s core phys off bytes) := ⟨h.1, h.2.1, msetRange_mwf 0 s.pad _ bytes h.2.2⟩

theorem discardRegion_form (s : State) (r : Nat) (h : MemForm s) : MemForm (discardRegion s r) := h.of_eq rfl rfl rfl

/-- The bytes written at a tile read back, and the others as before. -/
theorem padWrite_pad (s : State) (core phys off : Nat) (bytes : List Byte) (a : Nat) :
    mget 0 (padWrite s core phys off bytes).pad a =
      if tileBase core phys + off ≤ a ∧ a < tileBase core phys + off + bytes.length
      then bytes.getD (a - (tileBase core phys + off)) 0 else mget 0 s.pad a := by
  unfold padWrite tileBase
  simp only
  split
  · next h =>
    obtain ⟨i, hi⟩ : ∃ i, a = core * 2 ^ 21 + phys * 16384 + off + i := ⟨a - (core * 2 ^ 21 + phys * 16384 + off), by omega⟩
    subst hi
    rw [mget_msetRange_same 0 s.pad _ i bytes (by omega), Nat.add_sub_cancel_left,
      List.getD_eq_getElem bytes 0 (by omega)]
  · next h => exact mget_msetRange_other 0 s.pad _ a bytes (by omega)

end Sys2Proof.Machine
end

