-- ==== Sys2Proof/Laws/PerInstr.lean ====
section
/-! SUPPORT. A statement proved instruction by instruction: the fields that encode an instruction fit their places in the word, so that
the word gives them back. -/

namespace Sys2Proof.Laws.FieldsFit

/-- Fields in the ranges of R23. -/
structure Fits (r : Raw) : Prop where
  op : r.op < 128
  fmt : r.fmt < 16
  fn : r.fn < 16
  mod : r.mod < 256
  d : r.d < 4096
  a : r.a < 4096
  b : r.b < 4096
  x : r.x < 65536

/-- The fields of an instruction that has some fit. -/
def Statement (i : Instr) : Prop := ∀ r, i.raw = some r → Fits r

theorem Fmt_code_lt (t : Fmt) : t.code < 16 := by cases t <;> decide
theorem ICmpKind_code_lt (k : ICmpKind) : k.code < 6 := by cases k <;> decide
theorem FCmpKind_code_lt (k : FCmpKind) : k.code < 8 := by cases k <;> decide
theorem LeaScale_code_lt (k : LeaScale) : k.code < 5 := by cases k <;> decide
theorem ShflKind_code_lt (k : ShflKind) : k.code < 4 := by cases k <;> decide
theorem ShflSeg_code_lt (k : ShflSeg) : k.code < 5 := by cases k <;> decide
theorem QswpKind_code_lt (k : QswpKind) : k.code < 3 := by cases k <;> decide
theorem QredOp_code_lt (k : QredOp) : k.code < 3 := by cases k <;> decide
theorem LredOp_code_lt (k : LredOp) : k.code < 6 := by cases k <;> decide
theorem VoteKind_code_lt (k : VoteKind) : k.code < 4 := by cases k <;> decide
theorem AtomOp_code_lt (k : AtomOp) : k.code < 8 := by cases k <;> decide
theorem AtomOrd_code_lt (k : AtomOrd) : k.code < 4 := by cases k <;> decide
theorem Count_code_lt (k : Count) : k.code < 3 := by cases k <;> decide
theorem FnceKind_code_lt (k : FnceKind) : k.code < 4 := by cases k <;> decide
theorem WordCond_code_lt (k : WordCond) : k.code < 6 := by cases k <;> decide
theorem RowCount_code_lt (k : RowCount) : k.code < 4 := by cases k <;> decide
theorem Tswz_code_lt (k : Tswz) : k.code < 3 := by cases k <;> decide
theorem AcpySize_code_lt (k : AcpySize) : k.code < 4 := by cases k <;> decide
theorem RMode_code_lt (k : RMode) : k.code < 4 := by cases k <;> decide
theorem Scope_code_lt (k : Scope) : k.code < 7 := by cases k <;> decide
theorem Sel_code_lt (k : Sel) : k.code < 16 := by cases k <;> decide
theorem opnd_code_lt (o : Opnd) : o.code < 4096 := by
  cases o with
  | sel k => have := Sel_code_lt k; simp only [Opnd.code]; omega
  | _ => simp only [Opnd.code]; omega
theorem tile_code_lt (o : TileOp) : o.code < 4096 := by cases o <;> (simp only [TileOp.code]; omega)
theorem codeOr0_lt (o : Option Opnd) : codeOr0 o < 4096 := by
  cases o with
  | none => simp [codeOr0]
  | some o => exact opnd_code_lt o
theorem bit01_lt (b : Bool) : bit01 b < 2 := by cases b <;> decide
theorem barScope_lt (b : Bool) : barScope b < 97 := by cases b <;> decide
theorem longB_lt (i : BitVec 27) : longB i < 4096 := by unfold longB; omega
theorem longX_lt (i : BitVec 27) : longX i < 65536 := by unfold longX; omega

/-- Fields given one by one fit if each does. -/
theorem fits_mk {c : Ctl} {op fmt fn mod d a b x : Nat} (h1 : op < 128) (h2 : fmt < 16) (h3 : fn < 16) (h4 : mod < 256) (h5 : d < 4096)
    (h6 : a < 4096) (h7 : b < 4096) (h8 : x < 65536) (r : Raw) (h : mk c op fmt fn mod d a b x = some r) : Fits r := by
  cases h
  exact ⟨h1, h2, h3, h4, h5, h6, h7, h8⟩

/-- The guard and hints are read back from their fields. -/
theorem ctlOf_gh (c : Ctl) : c.g < 32 ∧ c.h < 65536 ∧ ctlOf c.g c.h = c := by
  obtain ⟨n, p, m, w, st, y⟩ := c
  have hn := bit01_lt n
  have hy := bit01_lt y
  simp only [Ctl.g, Ctl.h, ctlOf]
  refine ⟨by omega, by omega, ?_⟩
  congr 1
  · cases n <;> simp [bit01] <;> omega
  · apply Fin.ext
    show (p.val + 16 * bit01 n) % 16 = p.val
    omega
  · apply BitVec.eq_of_toNat_eq
    simp only [BitVec.toNat_ofNat]
    omega
  · apply BitVec.eq_of_toNat_eq
    simp only [BitVec.toNat_ofNat]
    omega
  · apply BitVec.eq_of_toNat_eq
    simp only [BitVec.toNat_ofNat]
    omega
  · cases y <;> simp [bit01] <;> omega

/-- Fields that fit are read back from their word. -/
theorem rawOf_word (r : Raw) (h : Fits r) : rawOf r.word = r := by
  obtain ⟨h1, h2, h3, h4, h5, h6, h7, h8⟩ := h
  obtain ⟨hg, hh, hc⟩ := ctlOf_gh r.ctl
  obtain ⟨op, fmt, fn, mod, d, a, b, x, c⟩ := r
  simp only at *
  unfold rawOf Raw.word
  simp only [BitVec.toNat_ofNat]
  generalize hgv : c.g = g at *
  generalize hhv : c.h = hv at *
  have e : (op + 2 ^ 7 * fmt + 2 ^ 11 * fn + 2 ^ 15 * mod + 2 ^ 23 * d + 2 ^ 35 * a + 2 ^ 47 * b + 2 ^ 59 * g + 2 ^ 64 * x + 2 ^ 80 * hv)
      % 2 ^ 96 = op + 2 ^ 7 * fmt + 2 ^ 11 * fn + 2 ^ 15 * mod + 2 ^ 23 * d + 2 ^ 35 * a + 2 ^ 47 * b + 2 ^ 59 * g + 2 ^ 64 * x
      + 2 ^ 80 * hv := by omega
  rw [e]
  have e1 : ∀ y z, y = g → z = hv → ctlOf y z = c := fun y z hy hz => by rw [hy, hz]; exact hc
  rw [e1 _ _ (by omega) (by omega)]
  congr 1 <;> omega

theorem ill : Statement (.ill) := fun _ h => nomatch (h : (none : Option Raw) = some _)
theorem nop (c : Ctl) : Statement (.nop c) :=
  fits_mk (by omega) (by omega) (by omega) (by omega) (by omega) (by omega) (by omega) (by omega)
theorem braRel (c : Ctl) (p : BitVec 4) (off : BitVec 27) : Statement (.braRel c p off) :=
  fits_mk (by omega) (by omega) (by omega) (by omega) (by omega) (by omega) (by have := longB_lt off; omega) (by have := longX_lt off; omega)
theorem braAny (c : Ctl) (p : BitVec 4) (off : BitVec 27) : Statement (.braAny c p off) :=
  fits_mk (by omega) (by omega) (by omega) (by omega) (by omega) (by omega) (by have := longB_lt off; omega) (by have := longX_lt off; omega)
theorem braAll (c : Ctl) (p : BitVec 4) (off : BitVec 27) : Statement (.braAll c p off) :=
  fits_mk (by omega) (by omega) (by omega) (by omega) (by omega) (by omega) (by have := longB_lt off; omega) (by have := longX_lt off; omega)
theorem jumpLane (c : Ctl) (p : BitVec 4) (a : Opnd) : Statement (.jumpLane c p a) :=
  fits_mk (by omega) (by omega) (by omega) (by omega) (by omega) (by have := opnd_code_lt a; omega) (by omega) (by omega)
theorem jumpWarp (c : Ctl) (p : BitVec 4) (a : Opnd) : Statement (.jumpWarp c p a) :=
  fits_mk (by omega) (by omega) (by omega) (by omega) (by omega) (by have := opnd_code_lt a; omega) (by omega) (by omega)
theorem callRel (c : Ctl) (p : BitVec 4) (d : Opnd) (off : BitVec 27) : Statement (.callRel c p d off) :=
  fits_mk (by omega) (by omega) (by omega) (by omega) (by have := opnd_code_lt d; omega) (by omega) (by have := longB_lt off; omega) (by have := longX_lt off; omega)
theorem callS (c : Ctl) (p : BitVec 4) (d : Opnd) (a : Opnd) : Statement (.callS c p d a) :=
  fits_mk (by omega) (by omega) (by omega) (by omega) (by have := opnd_code_lt d; omega) (by have := opnd_code_lt a; omega) (by omega) (by omega)
theorem ret (c : Ctl) (p : BitVec 4) (a : Opnd) : Statement (.ret c p a) :=
  fits_mk (by omega) (by omega) (by omega) (by omega) (by omega) (by have := opnd_code_lt a; omega) (by omega) (by omega)
theorem split (c : Ctl) : Statement (.split c) :=
  fits_mk (by omega) (by omega) (by omega) (by omega) (by omega) (by omega) (by omega) (by omega)
theorem exit (c : Ctl) : Statement (.exit c) :=
  fits_mk (by omega) (by omega) (by omega) (by omega) (by omega) (by omega) (by omega) (by omega)
theorem yield (c : Ctl) : Statement (.yield c) :=
  fits_mk (by omega) (by omega) (by omega) (by omega) (by omega) (by omega) (by omega) (by omega)
theorem waiteTile (c : Ctl) (t : TileOp) : Statement (.waiteTile c t) :=
  fits_mk (by omega) (by omega) (by omega) (by omega) (by omega) (by have := tile_code_lt t; omega) (by omega) (by omega)
theorem waiteBatch (c : Ctl) (b : Opnd) : Statement (.waiteBatch c b) :=
  fits_mk (by omega) (by omega) (by omega) (by omega) (by omega) (by omega) (by have := opnd_code_lt b; omega) (by omega)
theorem waiteWord (c : Ctl) (k : WordCond) (w : Bool) (br : Fin 64) (b : Opnd) (r : Opnd) : Statement (.waiteWord c k w br b r) :=
  fits_mk (by omega) (by omega) (by omega) (by have := WordCond_code_lt k; have := bit01_lt w; omega) (by omega) (by omega) (by have := opnd_code_lt b; omega) (by have := opnd_code_lt r; omega)
theorem waiteJoin (c : Ctl) (a : Opnd) : Statement (.waiteJoin c a) :=
  fits_mk (by omega) (by omega) (by omega) (by omega) (by omega) (by have := opnd_code_lt a; omega) (by omega) (by omega)
theorem waiteBar (c : Ctl) (bar : BitVec 4) (cl : Bool) (a : Opnd) : Statement (.waiteBar c bar cl a) :=
  fits_mk (by omega) (by omega) (by omega) (by have := barScope_lt cl; omega) (by omega) (by have := opnd_code_lt a; omega) (by omega) (by omega)
theorem waiteGtc (c : Ctl) (a : Opnd) : Statement (.waiteGtc c a) :=
  fits_mk (by omega) (by omega) (by omega) (by omega) (by omega) (by have := opnd_code_lt a; omega) (by omega) (by omega)
theorem waitePage (c : Ctl) (br : Fin 64) (b : Opnd) : Statement (.waitePage c br b) :=
  fits_mk (by omega) (by omega) (by omega) (by omega) (by omega) (by omega) (by have := opnd_code_lt b; omega) (by omega)
theorem waiteColl (c : Ctl) (a : Opnd) : Statement (.waiteColl c a) :=
  fits_mk (by omega) (by omega) (by omega) (by omega) (by omega) (by have := opnd_code_lt a; omega) (by omega) (by omega)
theorem spawnNode (c : Ctl) (na : BitVec 4) (d : Opnd) (a : Opnd) (b : Opnd) : Statement (.spawnNode c na d a b) :=
  fits_mk (by omega) (by omega) (by omega) (by omega) (by have := opnd_code_lt d; omega) (by have := opnd_code_lt a; omega) (by have := opnd_code_lt b; omega) (by omega)
theorem spawnStage (c : Ctl) (na : BitVec 4) (k : BitVec 3) (d : Opnd) (a : Opnd) (b : Opnd) (r : Opnd) : Statement (.spawnStage c na k d a b r) :=
  fits_mk (by omega) (by omega) (by omega) (by omega) (by have := opnd_code_lt d; omega) (by have := opnd_code_lt a; omega) (by have := opnd_code_lt b; omega) (by have := opnd_code_lt r; omega)
theorem joinc (c : Ctl) : Statement (.joinc c) :=
  fits_mk (by omega) (by omega) (by omega) (by omega) (by omega) (by omega) (by omega) (by omega)
theorem joinUpdatePageReady (asid vpn : Nat) : Statement (.joinUpdatePageReady asid vpn) := fun _ h => nomatch (h : (none : Option Raw) = some _)
theorem fwd (c : Ctl) (t : FwdTarget) : Statement (.fwd c t) := by
  cases t with
  | core a => exact fits_mk (by omega) (by omega) (by omega) (by omega) (by omega) (opnd_code_lt a) (by omega) (by omega)
  | sect a => exact fits_mk (by omega) (by omega) (by omega) (by omega) (by omega) (opnd_code_lt a) (by omega) (by omega)
  | pkg a => exact fits_mk (by omega) (by omega) (by omega) (by omega) (by omega) (opnd_code_lt a) (by omega) (by omega)
  | any => exact fits_mk (by omega) (by omega) (by omega) (by omega) (by omega) (by omega) (by omega) (by omega)
theorem barWait (c : Ctl) (bar : BitVec 4) (cl : Bool) : Statement (.barWait c bar cl) :=
  fits_mk (by omega) (by omega) (by omega) (by have := barScope_lt cl; omega) (by omega) (by omega) (by omega) (by omega)
theorem barPost (c : Ctl) (bar : BitVec 4) (cl : Bool) (d : Opnd) : Statement (.barPost c bar cl d) :=
  fits_mk (by omega) (by omega) (by omega) (by have := barScope_lt cl; omega) (by have := opnd_code_lt d; omega) (by omega) (by omega) (by omega)
theorem refill (c : Ctl) (sc : Scope) (d : Opnd) (a : Opnd) (b : Opnd) (p : Opnd) : Statement (.refill c sc d a b p) :=
  fits_mk (by omega) (by omega) (by omega) (by have := Scope_code_lt sc; omega) (by have := opnd_code_lt d; omega) (by have := opnd_code_lt a; omega) (by have := opnd_code_lt b; omega) (by have := opnd_code_lt p; omega)
theorem trap (c : Ctl) (n : Byte) : Statement (.trap c n) :=
  fits_mk (by omega) (by omega) (by omega) (by omega) (by omega) (by omega) (by omega) (by omega)
theorem tret (c : Ctl) (a : Opnd) : Statement (.tret c a) :=
  fits_mk (by omega) (by omega) (by omega) (by omega) (by omega) (by have := opnd_code_lt a; omega) (by omega) (by omega)
theorem tretKill (c : Ctl) (a : Opnd) : Statement (.tretKill c a) :=
  fits_mk (by omega) (by omega) (by omega) (by omega) (by omega) (by have := opnd_code_lt a; omega) (by omega) (by omega)
theorem srd (c : Ctl) (w : Bool) (n : Byte) (d : Opnd) : Statement (.srd c w n d) :=
  fits_mk (by omega) (by split <;> omega) (by omega) (by omega) (by have := opnd_code_lt d; omega) (by omega) (by omega) (by omega)
theorem swr (c : Ctl) (w : Bool) (n : Byte) (a : Opnd) : Statement (.swr c w n a) :=
  fits_mk (by omega) (by split <;> omega) (by omega) (by omega) (by omega) (by have := opnd_code_lt a; omega) (by omega) (by omega)
theorem iadd (c : Ctl) (t : Fmt) (x : Bool) (d : Opnd) (a : Opnd) (b : Opnd) : Statement (.iadd c t x d a b) :=
  fits_mk (by omega) (by have := Fmt_code_lt t; omega) (by have := bit01_lt x; omega) (by omega) (by have := opnd_code_lt d; omega) (by have := opnd_code_lt a; omega) (by have := opnd_code_lt b; omega) (by omega)
theorem isub (c : Ctl) (t : Fmt) (x : Bool) (d : Opnd) (a : Opnd) (b : Opnd) : Statement (.isub c t x d a b) :=
  fits_mk (by omega) (by have := Fmt_code_lt t; omega) (by have := bit01_lt x; omega) (by omega) (by have := opnd_code_lt d; omega) (by have := opnd_code_lt a; omega) (by have := opnd_code_lt b; omega) (by omega)
theorem addc (c : Ctl) (t : Fmt) (x : Bool) (cp : Fin 16) (d : Opnd) (a : Opnd) (b : Opnd) (ci : Opnd) : Statement (.addc c t x cp d a b ci) :=
  fits_mk (by omega) (by have := Fmt_code_lt t; omega) (by have := bit01_lt x; omega) (by omega) (by have := opnd_code_lt d; omega) (by have := opnd_code_lt a; omega) (by have := opnd_code_lt b; omega) (by have := opnd_code_lt ci; omega)
theorem imul (c : Ctl) (t : Fmt) (d : Opnd) (a : Opnd) (b : Opnd) : Statement (.imul c t d a b) :=
  fits_mk (by omega) (by have := Fmt_code_lt t; omega) (by omega) (by omega) (by have := opnd_code_lt d; omega) (by have := opnd_code_lt a; omega) (by have := opnd_code_lt b; omega) (by omega)
theorem imulh (c : Ctl) (t : Fmt) (d : Opnd) (a : Opnd) (b : Opnd) : Statement (.imulh c t d a b) :=
  fits_mk (by omega) (by have := Fmt_code_lt t; omega) (by omega) (by omega) (by have := opnd_code_lt d; omega) (by have := opnd_code_lt a; omega) (by have := opnd_code_lt b; omega) (by omega)
theorem imad (c : Ctl) (t : Fmt) (x : Bool) (d : Opnd) (a : Opnd) (b : Opnd) (e : Opnd) : Statement (.imad c t x d a b e) :=
  fits_mk (by omega) (by have := Fmt_code_lt t; omega) (by have := bit01_lt x; omega) (by omega) (by have := opnd_code_lt d; omega) (by have := opnd_code_lt a; omega) (by have := opnd_code_lt b; omega) (by have := opnd_code_lt e; omega)
theorem imin (c : Ctl) (t : Fmt) (d : Opnd) (a : Opnd) (b : Opnd) : Statement (.imin c t d a b) :=
  fits_mk (by omega) (by have := Fmt_code_lt t; omega) (by omega) (by omega) (by have := opnd_code_lt d; omega) (by have := opnd_code_lt a; omega) (by have := opnd_code_lt b; omega) (by omega)
theorem imax (c : Ctl) (t : Fmt) (d : Opnd) (a : Opnd) (b : Opnd) : Statement (.imax c t d a b) :=
  fits_mk (by omega) (by have := Fmt_code_lt t; omega) (by omega) (by omega) (by have := opnd_code_lt d; omega) (by have := opnd_code_lt a; omega) (by have := opnd_code_lt b; omega) (by omega)
theorem iabs (c : Ctl) (t : Fmt) (x : Bool) (d : Opnd) (a : Opnd) : Statement (.iabs c t x d a) :=
  fits_mk (by omega) (by have := Fmt_code_lt t; omega) (by have := bit01_lt x; omega) (by omega) (by have := opnd_code_lt d; omega) (by have := opnd_code_lt a; omega) (by omega) (by omega)
theorem and (c : Ctl) (t : Fmt) (x : Bool) (d : Opnd) (a : Opnd) (b : Opnd) : Statement (.and c t x d a b) :=
  fits_mk (by omega) (by have := Fmt_code_lt t; omega) (by have := bit01_lt x; omega) (by omega) (by have := opnd_code_lt d; omega) (by have := opnd_code_lt a; omega) (by have := opnd_code_lt b; omega) (by omega)
theorem or (c : Ctl) (t : Fmt) (x : Bool) (d : Opnd) (a : Opnd) (b : Opnd) : Statement (.or c t x d a b) :=
  fits_mk (by omega) (by have := Fmt_code_lt t; omega) (by have := bit01_lt x; omega) (by omega) (by have := opnd_code_lt d; omega) (by have := opnd_code_lt a; omega) (by have := opnd_code_lt b; omega) (by omega)
theorem xor (c : Ctl) (t : Fmt) (x : Bool) (d : Opnd) (a : Opnd) (b : Opnd) : Statement (.xor c t x d a b) :=
  fits_mk (by omega) (by have := Fmt_code_lt t; omega) (by have := bit01_lt x; omega) (by omega) (by have := opnd_code_lt d; omega) (by have := opnd_code_lt a; omega) (by have := opnd_code_lt b; omega) (by omega)
theorem shl (c : Ctl) (t : Fmt) (d : Opnd) (a : Opnd) (b : Opnd) : Statement (.shl c t d a b) :=
  fits_mk (by omega) (by have := Fmt_code_lt t; omega) (by omega) (by omega) (by have := opnd_code_lt d; omega) (by have := opnd_code_lt a; omega) (by have := opnd_code_lt b; omega) (by omega)
theorem shr (c : Ctl) (t : Fmt) (d : Opnd) (a : Opnd) (b : Opnd) : Statement (.shr c t d a b) :=
  fits_mk (by omega) (by have := Fmt_code_lt t; omega) (by omega) (by omega) (by have := opnd_code_lt d; omega) (by have := opnd_code_lt a; omega) (by have := opnd_code_lt b; omega) (by omega)
theorem rot (c : Ctl) (t : Fmt) (x : Bool) (d : Opnd) (a : Opnd) (b : Opnd) : Statement (.rot c t x d a b) :=
  fits_mk (by omega) (by have := Fmt_code_lt t; omega) (by have := bit01_lt x; omega) (by omega) (by have := opnd_code_lt d; omega) (by have := opnd_code_lt a; omega) (by have := opnd_code_lt b; omega) (by omega)
theorem popc (c : Ctl) (t : Fmt) (d : Opnd) (a : Opnd) : Statement (.popc c t d a) :=
  fits_mk (by omega) (by have := Fmt_code_lt t; omega) (by omega) (by omega) (by have := opnd_code_lt d; omega) (by have := opnd_code_lt a; omega) (by omega) (by omega)
theorem clz (c : Ctl) (t : Fmt) (d : Opnd) (a : Opnd) : Statement (.clz c t d a) :=
  fits_mk (by omega) (by have := Fmt_code_lt t; omega) (by omega) (by omega) (by have := opnd_code_lt d; omega) (by have := opnd_code_lt a; omega) (by omega) (by omega)
theorem brev (c : Ctl) (t : Fmt) (d : Opnd) (a : Opnd) : Statement (.brev c t d a) :=
  fits_mk (by omega) (by have := Fmt_code_lt t; omega) (by omega) (by omega) (by have := opnd_code_lt d; omega) (by have := opnd_code_lt a; omega) (by omega) (by omega)
theorem bfx (c : Ctl) (t : Fmt) (x : BitVec 16) (d : Opnd) (a : Opnd) (b : Opnd) : Statement (.bfx c t x d a b) :=
  fits_mk (by omega) (by have := Fmt_code_lt t; omega) (by omega) (by omega) (by have := opnd_code_lt d; omega) (by have := opnd_code_lt a; omega) (by have := opnd_code_lt b; omega) (by omega)
theorem bfi (c : Ctl) (t : Fmt) (d : Opnd) (a : Opnd) (b : Opnd) (e : Opnd) : Statement (.bfi c t d a b e) :=
  fits_mk (by omega) (by have := Fmt_code_lt t; omega) (by omega) (by omega) (by have := opnd_code_lt d; omega) (by have := opnd_code_lt a; omega) (by have := opnd_code_lt b; omega) (by have := opnd_code_lt e; omega)
theorem icmp (c : Ctl) (t : Fmt) (k : ICmpKind) (d : Opnd) (a : Opnd) (b : Opnd) : Statement (.icmp c t k d a b) :=
  fits_mk (by omega) (by have := Fmt_code_lt t; omega) (by have := ICmpKind_code_lt k; omega) (by omega) (by have := opnd_code_lt d; omega) (by have := opnd_code_lt a; omega) (by have := opnd_code_lt b; omega) (by omega)
theorem sel (c : Ctl) (t : Fmt) (d : Opnd) (a : Opnd) (b : Opnd) (e : Opnd) : Statement (.sel c t d a b e) :=
  fits_mk (by omega) (by have := Fmt_code_lt t; omega) (by omega) (by omega) (by have := opnd_code_lt d; omega) (by have := opnd_code_lt a; omega) (by have := opnd_code_lt b; omega) (by have := opnd_code_lt e; omega)
theorem lea (c : Ctl) (k : LeaScale) (d : Opnd) (a : Opnd) (b : Opnd) : Statement (.lea c k d a b) :=
  fits_mk (by omega) (by omega) (by have := LeaScale_code_lt k; omega) (by omega) (by have := opnd_code_lt d; omega) (by have := opnd_code_lt a; omega) (by have := opnd_code_lt b; omega) (by omega)
theorem plop (c : Ctl) (tt : Byte) (d : Opnd) (a : Opnd) (b : Opnd) (e : Opnd) : Statement (.plop c tt d a b e) :=
  fits_mk (by omega) (by omega) (by omega) (by omega) (by have := opnd_code_lt d; omega) (by have := opnd_code_lt a; omega) (by have := opnd_code_lt b; omega) (by have := opnd_code_lt e; omega)
theorem fadd (c : Ctl) (t : Fmt) (rm : RMode) (d : Opnd) (a : Opnd) (b : Opnd) : Statement (.fadd c t rm d a b) :=
  fits_mk (by omega) (by have := Fmt_code_lt t; omega) (by omega) (by have := RMode_code_lt rm; omega) (by have := opnd_code_lt d; omega) (by have := opnd_code_lt a; omega) (by have := opnd_code_lt b; omega) (by omega)
theorem fsub (c : Ctl) (t : Fmt) (rm : RMode) (d : Opnd) (a : Opnd) (b : Opnd) : Statement (.fsub c t rm d a b) :=
  fits_mk (by omega) (by have := Fmt_code_lt t; omega) (by omega) (by have := RMode_code_lt rm; omega) (by have := opnd_code_lt d; omega) (by have := opnd_code_lt a; omega) (by have := opnd_code_lt b; omega) (by omega)
theorem fmul (c : Ctl) (t : Fmt) (rm : RMode) (d : Opnd) (a : Opnd) (b : Opnd) : Statement (.fmul c t rm d a b) :=
  fits_mk (by omega) (by have := Fmt_code_lt t; omega) (by omega) (by have := RMode_code_lt rm; omega) (by have := opnd_code_lt d; omega) (by have := opnd_code_lt a; omega) (by have := opnd_code_lt b; omega) (by omega)
theorem ffma (c : Ctl) (t : Fmt) (rm : RMode) (d : Opnd) (a : Opnd) (b : Opnd) (e : Opnd) : Statement (.ffma c t rm d a b e) :=
  fits_mk (by omega) (by have := Fmt_code_lt t; omega) (by omega) (by have := RMode_code_lt rm; omega) (by have := opnd_code_lt d; omega) (by have := opnd_code_lt a; omega) (by have := opnd_code_lt b; omega) (by have := opnd_code_lt e; omega)
theorem fmin (c : Ctl) (t : Fmt) (x : Bool) (d : Opnd) (a : Opnd) (b : Opnd) : Statement (.fmin c t x d a b) :=
  fits_mk (by omega) (by have := Fmt_code_lt t; omega) (by have := bit01_lt x; omega) (by omega) (by have := opnd_code_lt d; omega) (by have := opnd_code_lt a; omega) (by have := opnd_code_lt b; omega) (by omega)
theorem fmax (c : Ctl) (t : Fmt) (x : Bool) (d : Opnd) (a : Opnd) (b : Opnd) : Statement (.fmax c t x d a b) :=
  fits_mk (by omega) (by have := Fmt_code_lt t; omega) (by have := bit01_lt x; omega) (by omega) (by have := opnd_code_lt d; omega) (by have := opnd_code_lt a; omega) (by have := opnd_code_lt b; omega) (by omega)
theorem fcmp (c : Ctl) (t : Fmt) (k : FCmpKind) (d : Opnd) (a : Opnd) (b : Opnd) : Statement (.fcmp c t k d a b) :=
  fits_mk (by omega) (by have := Fmt_code_lt t; omega) (by have := FCmpKind_code_lt k; omega) (by omega) (by have := opnd_code_lt d; omega) (by have := opnd_code_lt a; omega) (by have := opnd_code_lt b; omega) (by omega)
theorem frcp (c : Ctl) (t : Fmt) (rm : RMode) (d : Opnd) (a : Opnd) : Statement (.frcp c t rm d a) :=
  fits_mk (by omega) (by have := Fmt_code_lt t; omega) (by omega) (by have := RMode_code_lt rm; omega) (by have := opnd_code_lt d; omega) (by have := opnd_code_lt a; omega) (by omega) (by omega)
theorem frsq (c : Ctl) (t : Fmt) (rm : RMode) (d : Opnd) (a : Opnd) : Statement (.frsq c t rm d a) :=
  fits_mk (by omega) (by have := Fmt_code_lt t; omega) (by omega) (by have := RMode_code_lt rm; omega) (by have := opnd_code_lt d; omega) (by have := opnd_code_lt a; omega) (by omega) (by omega)
theorem fsqrt (c : Ctl) (t : Fmt) (rm : RMode) (d : Opnd) (a : Opnd) : Statement (.fsqrt c t rm d a) :=
  fits_mk (by omega) (by have := Fmt_code_lt t; omega) (by omega) (by have := RMode_code_lt rm; omega) (by have := opnd_code_lt d; omega) (by have := opnd_code_lt a; omega) (by omega) (by omega)
theorem fex2 (c : Ctl) (t : Fmt) (d : Opnd) (a : Opnd) : Statement (.fex2 c t d a) :=
  fits_mk (by omega) (by have := Fmt_code_lt t; omega) (by omega) (by omega) (by have := opnd_code_lt d; omega) (by have := opnd_code_lt a; omega) (by omega) (by omega)
theorem flg2 (c : Ctl) (t : Fmt) (d : Opnd) (a : Opnd) : Statement (.flg2 c t d a) :=
  fits_mk (by omega) (by have := Fmt_code_lt t; omega) (by omega) (by omega) (by have := opnd_code_lt d; omega) (by have := opnd_code_lt a; omega) (by omega) (by omega)
theorem fsin (c : Ctl) (t : Fmt) (d : Opnd) (a : Opnd) : Statement (.fsin c t d a) :=
  fits_mk (by omega) (by have := Fmt_code_lt t; omega) (by omega) (by omega) (by have := opnd_code_lt d; omega) (by have := opnd_code_lt a; omega) (by omega) (by omega)
theorem fcos (c : Ctl) (t : Fmt) (d : Opnd) (a : Opnd) : Statement (.fcos c t d a) :=
  fits_mk (by omega) (by have := Fmt_code_lt t; omega) (by omega) (by omega) (by have := opnd_code_lt d; omega) (by have := opnd_code_lt a; omega) (by omega) (by omega)
theorem fcls (c : Ctl) (t : Fmt) (d : Opnd) (a : Opnd) (b : Opnd) : Statement (.fcls c t d a b) :=
  fits_mk (by omega) (by have := Fmt_code_lt t; omega) (by omega) (by omega) (by have := opnd_code_lt d; omega) (by have := opnd_code_lt a; omega) (by have := opnd_code_lt b; omega) (by omega)
theorem frnd (c : Ctl) (t : Fmt) (rm : RMode) (d : Opnd) (a : Opnd) : Statement (.frnd c t rm d a) :=
  fits_mk (by omega) (by have := Fmt_code_lt t; omega) (by omega) (by have := RMode_code_lt rm; omega) (by have := opnd_code_lt d; omega) (by have := opnd_code_lt a; omega) (by omega) (by omega)
theorem fscl (c : Ctl) (t : Fmt) (rm : RMode) (d : Opnd) (a : Opnd) (b : Opnd) : Statement (.fscl c t rm d a b) :=
  fits_mk (by omega) (by have := Fmt_code_lt t; omega) (by omega) (by have := RMode_code_lt rm; omega) (by have := opnd_code_lt d; omega) (by have := opnd_code_lt a; omega) (by have := opnd_code_lt b; omega) (by omega)
theorem fdiv (c : Ctl) (t : Fmt) (rm : RMode) (d : Opnd) (a : Opnd) (b : Opnd) : Statement (.fdiv c t rm d a b) :=
  fits_mk (by omega) (by have := Fmt_code_lt t; omega) (by omega) (by have := RMode_code_lt rm; omega) (by have := opnd_code_lt d; omega) (by have := opnd_code_lt a; omega) (by have := opnd_code_lt b; omega) (by omega)
theorem cmul (c : Ctl) (t : Fmt) (rm : RMode) (x : Bool) (d : Opnd) (a : Opnd) (b : Opnd) : Statement (.cmul c t rm x d a b) :=
  fits_mk (by omega) (by have := Fmt_code_lt t; omega) (by omega) (by have := RMode_code_lt rm; have := bit01_lt x; omega) (by have := opnd_code_lt d; omega) (by have := opnd_code_lt a; omega) (by have := opnd_code_lt b; omega) (by omega)
theorem cfma (c : Ctl) (t : Fmt) (rm : RMode) (x : Bool) (d : Opnd) (a : Opnd) (b : Opnd) (e : Opnd) : Statement (.cfma c t rm x d a b e) :=
  fits_mk (by omega) (by have := Fmt_code_lt t; omega) (by omega) (by have := RMode_code_lt rm; have := bit01_lt x; omega) (by have := opnd_code_lt d; omega) (by have := opnd_code_lt a; omega) (by have := opnd_code_lt b; omega) (by have := opnd_code_lt e; omega)
theorem bfly (c : Ctl) (t : Fmt) (rm : RMode) (d : Opnd) (a : Opnd) (b : Opnd) (e : Opnd) : Statement (.bfly c t rm d a b e) :=
  fits_mk (by omega) (by have := Fmt_code_lt t; omega) (by omega) (by have := RMode_code_lt rm; omega) (by have := opnd_code_lt d; omega) (by have := opnd_code_lt a; omega) (by have := opnd_code_lt b; omega) (by have := opnd_code_lt e; omega)
theorem bfl4 (c : Ctl) (t : Fmt) (rm : RMode) (x : Bool) (d : Opnd) (a : Opnd) (b : Opnd) : Statement (.bfl4 c t rm x d a b) :=
  fits_mk (by omega) (by have := Fmt_code_lt t; omega) (by omega) (by have := RMode_code_lt rm; have := bit01_lt x; omega) (by have := opnd_code_lt d; omega) (by have := opnd_code_lt a; omega) (by have := opnd_code_lt b; omega) (by omega)
theorem twid (c : Ctl) (t : Fmt) (rm : RMode) (d : Opnd) (a : Opnd) (b : Opnd) : Statement (.twid c t rm d a b) :=
  fits_mk (by omega) (by have := Fmt_code_lt t; omega) (by omega) (by have := RMode_code_lt rm; omega) (by have := opnd_code_lt d; omega) (by have := opnd_code_lt a; omega) (by have := opnd_code_lt b; omega) (by omega)
theorem fdt2 (c : Ctl) (t : Fmt) (rm : RMode) (x : Bool) (d : Opnd) (a : Opnd) (b : Opnd) : Statement (.fdt2 c t rm x d a b) :=
  fits_mk (by omega) (by have := Fmt_code_lt t; omega) (by omega) (by have := RMode_code_lt rm; have := bit01_lt x; omega) (by have := opnd_code_lt d; omega) (by have := opnd_code_lt a; omega) (by have := opnd_code_lt b; omega) (by omega)
theorem mov (c : Ctl) (t : Fmt) (d : Opnd) (a : Opnd) : Statement (.mov c t d a) :=
  fits_mk (by omega) (by have := Fmt_code_lt t; omega) (by omega) (by omega) (by have := opnd_code_lt d; omega) (by have := opnd_code_lt a; omega) (by omega) (by omega)
theorem moviLo (c : Ctl) (t : Fmt) (d : Opnd) (i : BitVec 27) : Statement (.moviLo c t d i) :=
  fits_mk (by omega) (by have := Fmt_code_lt t; omega) (by omega) (by omega) (by have := opnd_code_lt d; omega) (by omega) (by have := longB_lt i; omega) (by have := longX_lt i; omega)
theorem moviHi (c : Ctl) (t : Fmt) (h : BitVec 2) (d : Opnd) (i : BitVec 27) : Statement (.moviHi c t h d i) :=
  fits_mk (by omega) (by have := Fmt_code_lt t; omega) (by omega) (by omega) (by have := opnd_code_lt d; omega) (by omega) (by have := longB_lt i; omega) (by have := longX_lt i; omega)
theorem cvt (c : Ctl) (t : Fmt) (src : Fmt) (rm : RMode) (sat : Bool) (d : Opnd) (a : Opnd) (rb : Option Opnd) : Statement (.cvt c t src rm sat d a rb) :=
  fits_mk (by omega) (by have := Fmt_code_lt t; omega) (by have := Fmt_code_lt src; omega) (by have := RMode_code_lt rm; have := bit01_lt sat; have := bit01_lt rb.isSome; omega) (by have := opnd_code_lt d; omega) (by have := opnd_code_lt a; omega) (by omega) (by have := codeOr0_lt rb; omega)
theorem cvtBlk (c : Ctl) (t : Fmt) (src : Fmt) (rm : RMode) (d : Opnd) (a : Opnd) (rb : Option Opnd) : Statement (.cvtBlk c t src rm d a rb) :=
  fits_mk (by omega) (by have := Fmt_code_lt t; omega) (by have := Fmt_code_lt src; omega) (by have := RMode_code_lt rm; have := bit01_lt rb.isSome; omega) (by have := opnd_code_lt d; omega) (by have := opnd_code_lt a; omega) (by omega) (by have := codeOr0_lt rb; omega)
theorem pack (c : Ctl) (t : Fmt) (d : Opnd) (a : Opnd) (b : Opnd) (e : Option Opnd) : Statement (.pack c t d a b e) :=
  fits_mk (by omega) (by have := Fmt_code_lt t; omega) (by omega) (by omega) (by have := opnd_code_lt d; omega) (by have := opnd_code_lt a; omega) (by have := opnd_code_lt b; omega) (by have := codeOr0_lt e; omega)
theorem unpk (c : Ctl) (t : Fmt) (d : Opnd) (a : Opnd) (b : Opnd) : Statement (.unpk c t d a b) :=
  fits_mk (by omega) (by have := Fmt_code_lt t; omega) (by omega) (by omega) (by have := opnd_code_lt d; omega) (by have := opnd_code_lt a; omega) (by have := opnd_code_lt b; omega) (by omega)
theorem shfl (c : Ctl) (t : Fmt) (k : ShflKind) (g : ShflSeg) (d : Opnd) (a : Opnd) (b : Opnd) (p : Opnd) : Statement (.shfl c t k g d a b p) :=
  fits_mk (by omega) (by have := Fmt_code_lt t; omega) (by have := ShflKind_code_lt k; omega) (by have := ShflSeg_code_lt g; omega) (by have := opnd_code_lt d; omega) (by have := opnd_code_lt a; omega) (by have := opnd_code_lt b; omega) (by have := opnd_code_lt p; omega)
theorem qswp (c : Ctl) (t : Fmt) (k : QswpKind) (d : Opnd) (a : Opnd) : Statement (.qswp c t k d a) :=
  fits_mk (by omega) (by have := Fmt_code_lt t; omega) (by have := QswpKind_code_lt k; omega) (by omega) (by have := opnd_code_lt d; omega) (by have := opnd_code_lt a; omega) (by omega) (by omega)
theorem qred (c : Ctl) (t : Fmt) (op : QredOp) (rm : RMode) (d : Opnd) (a : Opnd) : Statement (.qred c t op rm d a) :=
  fits_mk (by omega) (by have := Fmt_code_lt t; omega) (by have := QredOp_code_lt op; omega) (by have := RMode_code_lt rm; omega) (by have := opnd_code_lt d; omega) (by have := opnd_code_lt a; omega) (by omega) (by omega)
theorem vote (c : Ctl) (k : VoteKind) (d : Opnd) (a : Opnd) : Statement (.vote c k d a) :=
  fits_mk (by omega) (by omega) (by have := VoteKind_code_lt k; omega) (by omega) (by have := opnd_code_lt d; omega) (by have := opnd_code_lt a; omega) (by omega) (by omega)
theorem pmovTomask (c : Ctl) (d : Opnd) (a : Opnd) : Statement (.pmovTomask c d a) :=
  fits_mk (by omega) (by omega) (by omega) (by omega) (by have := opnd_code_lt d; omega) (by have := opnd_code_lt a; omega) (by omega) (by omega)
theorem pmovTopred (c : Ctl) (d : Opnd) (a : Opnd) : Statement (.pmovTopred c d a) :=
  fits_mk (by omega) (by omega) (by omega) (by omega) (by have := opnd_code_lt d; omega) (by have := opnd_code_lt a; omega) (by omega) (by omega)
theorem lred (c : Ctl) (t : Fmt) (op : LredOp) (rm : RMode) (d : Opnd) (a : Opnd) : Statement (.lred c t op rm d a) :=
  fits_mk (by omega) (by have := Fmt_code_lt t; omega) (by have := LredOp_code_lt op; omega) (by have := RMode_code_lt rm; omega) (by have := opnd_code_lt d; omega) (by have := opnd_code_lt a; omega) (by omega) (by omega)
theorem prfx (c : Ctl) (t : Fmt) (x : Bool) (rm : RMode) (d : Opnd) (a : Opnd) : Statement (.prfx c t x rm d a) :=
  fits_mk (by omega) (by have := Fmt_code_lt t; omega) (by have := bit01_lt x; omega) (by have := RMode_code_lt rm; omega) (by have := opnd_code_lt d; omega) (by have := opnd_code_lt a; omega) (by omega) (by omega)
theorem bcst (c : Ctl) (t : Fmt) (d : Opnd) (a : Opnd) (b : Opnd) : Statement (.bcst c t d a b) :=
  fits_mk (by omega) (by have := Fmt_code_lt t; omega) (by omega) (by omega) (by have := opnd_code_lt d; omega) (by have := opnd_code_lt a; omega) (by have := opnd_code_lt b; omega) (by omega)
theorem mtch (c : Ctl) (t : Fmt) (x : Bool) (d : Opnd) (a : Opnd) : Statement (.mtch c t x d a) :=
  fits_mk (by omega) (by have := Fmt_code_lt t; omega) (by have := bit01_lt x; omega) (by omega) (by have := opnd_code_lt d; omega) (by have := opnd_code_lt a; omega) (by omega) (by omega)
theorem ld (c : Ctl) (t : Fmt) (n : Count) (i : BitVec 5) (d : Opnd) (br : Fin 64) (b : Opnd) (p : Opnd) : Statement (.ld c t n i d br b p) :=
  fits_mk (by omega) (by have := Fmt_code_lt t; omega) (by have := Count_code_lt n; omega) (by omega) (by have := opnd_code_lt d; omega) (by omega) (by have := opnd_code_lt b; omega) (by have := opnd_code_lt p; omega)
theorem st (c : Ctl) (t : Fmt) (n : Count) (i : BitVec 5) (d : Opnd) (br : Fin 64) (b : Opnd) (p : Opnd) : Statement (.st c t n i d br b p) :=
  fits_mk (by omega) (by have := Fmt_code_lt t; omega) (by have := Count_code_lt n; omega) (by omega) (by have := opnd_code_lt d; omega) (by omega) (by have := opnd_code_lt b; omega) (by have := opnd_code_lt p; omega)
theorem lds (c : Ctl) (t : Fmt) (n : Count) (d : Opnd) (tile : TileOp) (b : Opnd) (r : Option Opnd) : Statement (.lds c t n d tile b r) :=
  fits_mk (by omega) (by have := Fmt_code_lt t; omega) (by have := Count_code_lt n; omega) (by have := bit01_lt r.isSome; omega) (by have := opnd_code_lt d; omega) (by have := tile_code_lt tile; omega) (by have := opnd_code_lt b; omega) (by have := codeOr0_lt r; omega)
theorem sts (c : Ctl) (t : Fmt) (n : Count) (d : Opnd) (tile : TileOp) (b : Opnd) (r : Option Opnd) : Statement (.sts c t n d tile b r) :=
  fits_mk (by omega) (by have := Fmt_code_lt t; omega) (by have := Count_code_lt n; omega) (by have := bit01_lt r.isSome; omega) (by have := opnd_code_lt d; omega) (by have := tile_code_lt tile; omega) (by have := opnd_code_lt b; omega) (by have := codeOr0_lt r; omega)
theorem atom (c : Ctl) (t : Fmt) (op : AtomOp) (rm : RMode) (o : AtomOrd) (sc : Scope) (d : Opnd) (br : Fin 64) (b : Opnd) (p : Opnd) : Statement (.atom c t op rm o sc d br b p) :=
  fits_mk (by omega) (by have := Fmt_code_lt t; omega) (by have := AtomOp_code_lt op; omega) (by have := RMode_code_lt rm; have := AtomOrd_code_lt o; have := Scope_code_lt sc; omega) (by have := opnd_code_lt d; omega) (by omega) (by have := opnd_code_lt b; omega) (by have := opnd_code_lt p; omega)
theorem atms (c : Ctl) (t : Fmt) (op : AtomOp) (rm : RMode) (o : AtomOrd) (sc : Scope) (d : Opnd) (tile : TileOp) (b : Opnd) (r : Option Opnd) : Statement (.atms c t op rm o sc d tile b r) :=
  fits_mk (by omega) (by have := Fmt_code_lt t; omega) (by have := AtomOp_code_lt op; omega) (by have := RMode_code_lt rm; have := AtomOrd_code_lt o; have := Scope_code_lt sc; have := bit01_lt r.isSome; omega) (by have := opnd_code_lt d; omega) (by have := tile_code_lt tile; omega) (by have := opnd_code_lt b; omega) (by have := codeOr0_lt r; omega)
theorem pref (c : Ctl) (llc : Bool) (br : Fin 64) (b : Opnd) : Statement (.pref c llc br b) :=
  fits_mk (by omega) (by omega) (by have := bit01_lt llc; omega) (by omega) (by omega) (by omega) (by have := opnd_code_lt b; omega) (by omega)
theorem stgr (c : Ctl) (a : Opnd) : Statement (.stgr c a) :=
  fits_mk (by omega) (by omega) (by omega) (by omega) (by omega) (by have := opnd_code_lt a; omega) (by omega) (by omega)
theorem pgrq (c : Ctl) (d : Opnd) (br : Fin 64) (b : Opnd) : Statement (.pgrq c d br b) :=
  fits_mk (by omega) (by omega) (by omega) (by omega) (by have := opnd_code_lt d; omega) (by omega) (by have := opnd_code_lt b; omega) (by omega)
theorem dscd (c : Ctl) (d : Opnd) (br : Fin 64) (b : Opnd) (e : Opnd) : Statement (.dscd c d br b e) :=
  fits_mk (by omega) (by omega) (by omega) (by omega) (by have := opnd_code_lt d; omega) (by omega) (by have := opnd_code_lt b; omega) (by have := opnd_code_lt e; omega)
theorem fnce (c : Ctl) (k : FnceKind) (sc : Scope) : Statement (.fnce c k sc) :=
  fits_mk (by omega) (by omega) (by have := FnceKind_code_lt k; omega) (by have := Scope_code_lt sc; omega) (by omega) (by omega) (by omega) (by omega)
theorem tgiv (c : Ctl) (t : TileOp) : Statement (.tgiv c t) :=
  fits_mk (by omega) (by omega) (by omega) (by omega) (by omega) (by have := tile_code_lt t; omega) (by omega) (by omega)
theorem ttak (c : Ctl) (t : TileOp) : Statement (.ttak c t) :=
  fits_mk (by omega) (by omega) (by omega) (by omega) (by omega) (by have := tile_code_lt t; omega) (by omega) (by omega)
theorem tsta (c : Ctl) (d : Opnd) (t : TileOp) : Statement (.tsta c d t) :=
  fits_mk (by omega) (by omega) (by omega) (by omega) (by have := opnd_code_lt d; omega) (by have := tile_code_lt t; omega) (by omega) (by omega)
theorem brecLd (c : Ctl) (br : Fin 64) (a : Opnd) : Statement (.brecLd c br a) :=
  fits_mk (by omega) (by omega) (by omega) (by omega) (by omega) (by have := opnd_code_lt a; omega) (by omega) (by omega)
theorem brecSet (c : Ctl) (br : Fin 64) (a : Opnd) : Statement (.brecSet c br a) :=
  fits_mk (by omega) (by omega) (by omega) (by omega) (by omega) (by have := opnd_code_lt a; omega) (by omega) (by omega)
theorem lrecLd (c : Ctl) (lr : Fin 16) (a : Opnd) : Statement (.lrecLd c lr a) :=
  fits_mk (by omega) (by omega) (by omega) (by omega) (by omega) (by have := opnd_code_lt a; omega) (by omega) (by omega)
theorem mcst (c : Ctl) (w : Bool) (g : Byte) (d : Opnd) (br : Fin 64) (b : Opnd) (p : Opnd) : Statement (.mcst c w g d br b p) :=
  fits_mk (by omega) (by split <;> omega) (by omega) (by omega) (by have := opnd_code_lt d; omega) (by omega) (by have := opnd_code_lt b; omega) (by have := opnd_code_lt p; omega)
theorem wake (c : Ctl) (w : Bool) (sc : Scope) (d : Opnd) (br : Fin 64) (b : Opnd) (p : Opnd) : Statement (.wake c w sc d br b p) :=
  fits_mk (by omega) (by split <;> omega) (by omega) (by have := Scope_code_lt sc; omega) (by have := opnd_code_lt d; omega) (by omega) (by have := opnd_code_lt b; omega) (by have := opnd_code_lt p; omega)
theorem mma (c : Ctl) (ta : Fmt) (tb : Fmt) (l : BitVec 3) (sw : Tswz) (z : Fin 16) (t : TileOp) (b : Opnd) (kb : Opnd) : Statement (.mma c ta tb l sw z t b kb) :=
  fits_mk (by omega) (by have := Fmt_code_lt ta; omega) (by have := Fmt_code_lt tb; omega) (by have := Tswz_code_lt sw; omega) (by omega) (by have := tile_code_lt t; omega) (by have := opnd_code_lt b; omega) (by have := opnd_code_lt kb; omega)
theorem mmsp (c : Ctl) (ta : Fmt) (tb : Fmt) (l : BitVec 3) (sw : Tswz) (h : Bool) (z : Fin 16) (t : TileOp) (b : Opnd) (kb : Opnd) : Statement (.mmsp c ta tb l sw h z t b kb) :=
  fits_mk (by omega) (by have := Fmt_code_lt ta; omega) (by have := Fmt_code_lt tb; omega) (by have := Tswz_code_lt sw; have := bit01_lt h; omega) (by omega) (by have := tile_code_lt t; omega) (by have := opnd_code_lt b; omega) (by have := opnd_code_lt kb; omega)
theorem mzro (c : Ctl) (z : Fin 16) : Statement (.mzro c z) :=
  fits_mk (by omega) (by omega) (by omega) (by omega) (by omega) (by omega) (by omega) (by omega)
theorem mrda (c : Ctl) (t : Fmt) (rm : RMode) (n : RowCount) (d : Opnd) (z : Fin 16) (row : Opnd) : Statement (.mrda c t rm n d z row) :=
  fits_mk (by omega) (by have := Fmt_code_lt t; omega) (by omega) (by have := RMode_code_lt rm; have := RowCount_code_lt n; omega) (by have := opnd_code_lt d; omega) (by omega) (by have := opnd_code_lt row; omega) (by omega)
theorem mwra (c : Ctl) (t : Fmt) (rm : RMode) (n : RowCount) (z : Fin 16) (a : Opnd) (row : Opnd) : Statement (.mwra c t rm n z a row) :=
  fits_mk (by omega) (by have := Fmt_code_lt t; omega) (by omega) (by have := RMode_code_lt rm; have := RowCount_code_lt n; omega) (by omega) (by have := opnd_code_lt a; omega) (by have := opnd_code_lt row; omega) (by omega)
theorem mfnc (c : Ctl) : Statement (.mfnc c) :=
  fits_mk (by omega) (by omega) (by omega) (by omega) (by omega) (by omega) (by omega) (by omega)
theorem gangForm (c : Ctl) (a : Fin 256) : Statement (.gangForm c a) :=
  fits_mk (by omega) (by omega) (by omega) (by omega) (by omega) (by omega) (by omega) (by omega)
theorem gangDissolve (c : Ctl) : Statement (.gangDissolve c) :=
  fits_mk (by omega) (by omega) (by omega) (by omega) (by omega) (by omega) (by omega) (by omega)
theorem qput (c : Ctl) (sc : Scope) (now : Bool) (a : Opnd) (b : Opnd) : Statement (.qput c sc now a b) :=
  fits_mk (by omega) (by omega) (by omega) (by have := Scope_code_lt sc; have := bit01_lt now; omega) (by omega) (by have := opnd_code_lt a; omega) (by have := opnd_code_lt b; omega) (by omega)
theorem acpy (c : Ctl) (sz : AcpySize) (t : TileOp) (br : Fin 64) (b : Opnd) (e : Opnd) : Statement (.acpy c sz t br b e) :=
  fits_mk (by omega) (by omega) (by omega) (by have := AcpySize_code_lt sz; omega) (by have := tile_code_lt t; omega) (by omega) (by have := opnd_code_lt b; omega) (by have := opnd_code_lt e; omega)
theorem bcls (c : Ctl) : Statement (.bcls c) :=
  fits_mk (by omega) (by omega) (by omega) (by omega) (by omega) (by omega) (by omega) (by omega)
theorem waitb (c : Ctl) (b : Opnd) : Statement (.waitb c b) :=
  fits_mk (by omega) (by omega) (by omega) (by omega) (by omega) (by omega) (by have := opnd_code_lt b; omega) (by omega)
theorem qsta (c : Ctl) (d : Opnd) (b : Opnd) : Statement (.qsta c d b) :=
  fits_mk (by omega) (by omega) (by omega) (by omega) (by have := opnd_code_lt d; omega) (by omega) (by have := opnd_code_lt b; omega) (by omega)
theorem collRs (c : Ctl) (a : Opnd) : Statement (.collRs c a) :=
  fits_mk (by omega) (by omega) (by omega) (by omega) (by omega) (by have := opnd_code_lt a; omega) (by omega) (by omega)
theorem collAg (c : Ctl) (a : Opnd) : Statement (.collAg c a) :=
  fits_mk (by omega) (by omega) (by omega) (by omega) (by omega) (by have := opnd_code_lt a; omega) (by omega) (by omega)
theorem collA2a (c : Ctl) (a : Opnd) : Statement (.collA2a c a) :=
  fits_mk (by omega) (by omega) (by omega) (by omega) (by omega) (by have := opnd_code_lt a; omega) (by omega) (by omega)
theorem collRpart (c : Ctl) (a : Opnd) : Statement (.collRpart c a) :=
  fits_mk (by omega) (by omega) (by omega) (by omega) (by omega) (by have := opnd_code_lt a; omega) (by omega) (by omega)
theorem waitWindowExpiry (uid : Nat) : Statement (.waitWindowExpiry uid) := fun _ h => nomatch (h : (none : Option Raw) = some _)
theorem responseLand (k : Nat) : Statement (.responseLand k) := fun _ h => nomatch (h : (none : Option Raw) = some _)
theorem pageWalkComplete (asid vpn : Nat) (victim : Option Nat) : Statement (.pageWalkComplete asid vpn victim) := fun _ h => nomatch (h : (none : Option Raw) = some _)
theorem recordEventFire (ev : DWord) : Statement (.recordEventFire ev) := fun _ h => nomatch (h : (none : Option Raw) = some _)
theorem saggarTimerLapse (sid : Nat) : Statement (.saggarTimerLapse sid) := fun _ h => nomatch (h : (none : Option Raw) = some _)
theorem kilnFire (core : Nat) : Statement (.kilnFire core) := fun _ h => nomatch (h : (none : Option Raw) = some _)
theorem saggarSlotFree (core : Nat) : Statement (.saggarSlotFree core) := fun _ h => nomatch (h : (none : Option Raw) = some _)
theorem poolSpaceFreed (vi : Nat) : Statement (.poolSpaceFreed vi) := fun _ h => nomatch (h : (none : Option Raw) = some _)
theorem stageRegionResident (k : Nat) : Statement (.stageRegionResident k) := fun _ h => nomatch (h : (none : Option Raw) = some _)
theorem stageRegionFail (k : Nat) (status : Byte) : Statement (.stageRegionFail k status) := fun _ h => nomatch (h : (none : Option Raw) = some _)
theorem acpyComplete (k : Nat) : Statement (.acpyComplete k) := fun _ h => nomatch (h : (none : Option Raw) = some _)
theorem tileLineWritten (pid line : Nat) : Statement (.tileLineWritten pid line) := fun _ h => nomatch (h : (none : Option Raw) = some _)
theorem tileHolderComplete (pid : Nat) : Statement (.tileHolderComplete pid) := fun _ h => nomatch (h : (none : Option Raw) = some _)
theorem matrixStepStart (core : Nat) : Statement (.matrixStepStart core) := fun _ h => nomatch (h : (none : Option Raw) = some _)
theorem matrixStepReadDone (core : Nat) : Statement (.matrixStepReadDone core) := fun _ h => nomatch (h : (none : Option Raw) = some _)
theorem matrixStepComplete (core : Nat) : Statement (.matrixStepComplete core) := fun _ h => nomatch (h : (none : Option Raw) = some _)
theorem matrixAccOpComplete (k : Nat) : Statement (.matrixAccOpComplete k) := fun _ h => nomatch (h : (none : Option Raw) = some _)
theorem preemptBoundExpiry (uid : Nat) : Statement (.preemptBoundExpiry uid) := fun _ h => nomatch (h : (none : Option Raw) = some _)
theorem seglimExpiry (uid : Nat) : Statement (.seglimExpiry uid) := fun _ h => nomatch (h : (none : Option Raw) = some _)
theorem hwdogExpiry (rid : Nat) : Statement (.hwdogExpiry rid) := fun _ h => nomatch (h : (none : Option Raw) = some _)
theorem poolHoldExpiry (launch : Nat) : Statement (.poolHoldExpiry launch) := fun _ h => nomatch (h : (none : Option Raw) = some _)
theorem softError (uid : Nat) (e : SoftErr) : Statement (.softError uid e) := fun _ h => nomatch (h : (none : Option Raw) = some _)
theorem crewRestore (launch crew core : Nat) : Statement (.crewRestore launch crew core) := fun _ h => nomatch (h : (none : Option Raw) = some _)
theorem llcLookup (line : Nat) (swz : BitVec 4) (keyed : Bool) (stream : BitVec 6) : Statement (.llcLookup line swz keyed stream) := fun _ h => nomatch (h : (none : Option Raw) = some _)
theorem llcMissFill (line : Nat) (victim : Option Nat) : Statement (.llcMissFill line victim) := fun _ h => nomatch (h : (none : Option Raw) = some _)
theorem llcPartialWrite (line : Nat) (swz : BitVec 4) (w : PartWrite) : Statement (.llcPartialWrite line swz w) := fun _ h => nomatch (h : (none : Option Raw) = some _)
theorem llcWriteback (core line : Nat) : Statement (.llcWriteback core line) := fun _ h => nomatch (h : (none : Option Raw) = some _)
theorem l1Recall (line : Nat) : Statement (.l1Recall line) := fun _ h => nomatch (h : (none : Option Raw) = some _)
theorem controllerRead (ctrl : Nat) : Statement (.controllerRead ctrl) := fun _ h => nomatch (h : (none : Option Raw) = some _)
theorem controllerWrite (ctrl : Nat) : Statement (.controllerWrite ctrl) := fun _ h => nomatch (h : (none : Option Raw) = some _)
theorem patrolScrub (ctrl : Nat) : Statement (.patrolScrub ctrl) := fun _ h => nomatch (h : (none : Option Raw) = some _)
theorem refresh (ctrl : Nat) : Statement (.refresh ctrl) := fun _ h => nomatch (h : (none : Option Raw) = some _)
theorem congestionLevel (ctrl : Nat) (occ : Nat) : Statement (.congestionLevel ctrl occ) := fun _ h => nomatch (h : (none : Option Raw) = some _)
theorem coneEpoch (limit : Nat) : Statement (.coneEpoch limit) := fun _ h => nomatch (h : (none : Option Raw) = some _)
theorem beaconArrive (time : DWord) : Statement (.beaconArrive time) := fun _ h => nomatch (h : (none : Option Raw) = some _)
theorem beaconTimeout : Statement (.beaconTimeout) := fun _ h => nomatch (h : (none : Option Raw) = some _)
theorem flitGroupReceive (link : Nat) (seq : BitVec 3) (data : BitVec 2048) (tag : DWord) : Statement (.flitGroupReceive link seq data tag) := fun _ h => nomatch (h : (none : Option Raw) = some _)
theorem groupReplay (link : Nat) (seq : BitVec 3) : Statement (.groupReplay link seq) := fun _ h => nomatch (h : (none : Option Raw) = some _)
theorem linkDown (link : Nat) : Statement (.linkDown link) := fun _ h => nomatch (h : (none : Option Raw) = some _)
theorem packetAccept (vi hva : Nat) : Statement (.packetAccept vi hva) := fun _ h => nomatch (h : (none : Option Raw) = some _)
theorem packetComplete (pid : Nat) : Statement (.packetComplete pid) := fun _ h => nomatch (h : (none : Option Raw) = some _)
theorem copy (pid : Nat) : Statement (.copy pid) := fun _ h => nomatch (h : (none : Option Raw) = some _)
theorem tcopy (pid : Nat) : Statement (.tcopy pid) := fun _ h => nomatch (h : (none : Option Raw) = some _)
theorem stage (pid : Nat) : Statement (.stage pid) := fun _ h => nomatch (h : (none : Option Raw) = some _)
theorem fence (pid : Nat) : Statement (.fence pid) := fun _ h => nomatch (h : (none : Option Raw) = some _)
theorem glzloadLoad (pid : Nat) : Statement (.glzloadLoad pid) := fun _ h => nomatch (h : (none : Option Raw) = some _)
theorem glzloadUnload (pid : Nat) : Statement (.glzloadUnload pid) := fun _ h => nomatch (h : (none : Option Raw) = some _)
theorem glzloadRead (pid : Nat) : Statement (.glzloadRead pid) := fun _ h => nomatch (h : (none : Option Raw) = some _)
theorem glzloadReadclr (pid : Nat) : Statement (.glzloadReadclr pid) := fun _ h => nomatch (h : (none : Option Raw) = some _)
theorem glazeDrainDone (stream : BitVec 6) : Statement (.glazeDrainDone stream) := fun _ h => nomatch (h : (none : Option Raw) = some _)
theorem rshd (pid : Nat) : Statement (.rshd pid) := fun _ h => nomatch (h : (none : Option Raw) = some _)
theorem rshdTransferDone (pid i : Nat) : Statement (.rshdTransferDone pid i) := fun _ h => nomatch (h : (none : Option Raw) = some _)
theorem rshdTransferFail (pid i : Nat) (memerr : Bool) : Statement (.rshdTransferFail pid i memerr) := fun _ h => nomatch (h : (none : Option Raw) = some _)
theorem rshdProgressWrite (pid : Nat) : Statement (.rshdProgressWrite pid) := fun _ h => nomatch (h : (none : Option Raw) = some _)
theorem coll (pid : Nat) : Statement (.coll pid) := fun _ h => nomatch (h : (none : Option Raw) = some _)
theorem collSignature (cid rank : Nat) (ok : Bool) (sig : CollSig) : Statement (.collSignature cid rank ok sig) := fun _ h => nomatch (h : (none : Option Raw) = some _)
theorem collComplete (cid : Nat) (peers : List (Nat × List Byte)) : Statement (.collComplete cid peers) := fun _ h => nomatch (h : (none : Option Raw) = some _)
theorem collRpartPacket (pid : Nat) : Statement (.collRpartPacket pid) := fun _ h => nomatch (h : (none : Option Raw) = some _)
theorem rpartKeypass (cid : Nat) : Statement (.rpartKeypass cid) := fun _ h => nomatch (h : (none : Option Raw) = some _)
theorem rpartReduce (cid : Nat) (peers : List (Nat × SMap Word)) : Statement (.rpartReduce cid peers) := fun _ h => nomatch (h : (none : Option Raw) = some _)
theorem rpartRefine (cid : Nat) (peers : List RpItem) : Statement (.rpartRefine cid peers) := fun _ h => nomatch (h : (none : Option Raw) = some _)
theorem rpartAssign (cid : Nat) (counts : List (List Nat)) (caps : List (Nat × Nat)) : Statement (.rpartAssign cid counts caps) := fun _ h => nomatch (h : (none : Option Raw) = some _)
theorem rpartMoveDone (cid : Nat) (peers : List (Triple × List Byte)) : Statement (.rpartMoveDone cid peers) := fun _ h => nomatch (h : (none : Option Raw) = some _)
theorem rpartWeightFail (cid : Nat) : Statement (.rpartWeightFail cid) := fun _ h => nomatch (h : (none : Option Raw) = some _)
theorem launchGrid (pid : Nat) : Statement (.launchGrid pid) := fun _ h => nomatch (h : (none : Option Raw) = some _)
theorem launchNode (pid : Nat) : Statement (.launchNode pid) := fun _ h => nomatch (h : (none : Option Raw) = some _)
theorem launchAdmit (pid : Nat) : Statement (.launchAdmit pid) := fun _ h => nomatch (h : (none : Option Raw) = some _)
theorem indirect (pid : Nat) : Statement (.indirect pid) := fun _ h => nomatch (h : (none : Option Raw) = some _)
theorem doorbell (vi : Nat) (value : DWord) : Statement (.doorbell vi value) := fun _ h => nomatch (h : (none : Option Raw) = some _)
theorem queueScan : Statement (.queueScan) := fun _ h => nomatch (h : (none : Option Raw) = some _)
theorem qreg (vi : Nat) (value : DWord) : Statement (.qreg vi value) := fun _ h => nomatch (h : (none : Option Raw) = some _)
theorem qregFinish (vi : Nat) (hva : Nat) : Statement (.qregFinish vi hva) := fun _ h => nomatch (h : (none : Option Raw) = some _)
theorem qreset (vi : Nat) (value : DWord) : Statement (.qreset vi value) := fun _ h => nomatch (h : (none : Option Raw) = some _)
theorem qunreg (vi : Nat) (value : DWord) : Statement (.qunreg vi value) := fun _ h => nomatch (h : (none : Option Raw) = some _)
theorem qunregFinish (vi : Nat) (hva : Nat) : Statement (.qunregFinish vi hva) := fun _ h => nomatch (h : (none : Option Raw) = some _)
theorem invreqRange (vi : Nat) (req : BitVec 256) : Statement (.invreqRange vi req) := fun _ h => nomatch (h : (none : Option Raw) = some _)
theorem invreqWholeAsid (vi : Nat) (req : BitVec 256) : Statement (.invreqWholeAsid vi req) := fun _ h => nomatch (h : (none : Option Raw) = some _)
theorem invalidationComplete (vi : Nat) : Statement (.invalidationComplete vi) := fun _ h => nomatch (h : (none : Option Raw) = some _)
theorem pgring (vi : Nat) (value : DWord) : Statement (.pgring vi value) := fun _ h => nomatch (h : (none : Option Raw) = some _)
theorem pgringRetry (vi : Nat) : Statement (.pgringRetry vi) := fun _ h => nomatch (h : (none : Option Raw) = some _)
theorem pgdone (vi : Nat) (value : BitVec 128) : Statement (.pgdone vi value) := fun _ h => nomatch (h : (none : Option Raw) = some _)
theorem ctrl (vi : Nat) (value : Word) : Statement (.ctrl vi value) := fun _ h => nomatch (h : (none : Option Raw) = some _)
theorem repring (vi : Nat) (value : DWord) : Statement (.repring vi value) := fun _ h => nomatch (h : (none : Option Raw) = some _)
theorem reportRingRetry (vi : Nat) : Statement (.reportRingRetry vi) := fun _ h => nomatch (h : (none : Option Raw) = some _)
theorem ctlasid (vi : Nat) (value : Word) : Statement (.ctlasid vi value) := fun _ h => nomatch (h : (none : Option Raw) = some _)
theorem aper (vi : Nat) (w : Fin 256) (value : DWord) : Statement (.aper vi w value) := fun _ h => nomatch (h : (none : Option Raw) = some _)
theorem registerWriteOther (vi : Nat) (off width : Nat) (value : DWord) : Statement (.registerWriteOther vi off width value) := fun _ h => nomatch (h : (none : Option Raw) = some _)
theorem hostWindowRead (vi off n : Nat) : Statement (.hostWindowRead vi off n) := fun _ h => nomatch (h : (none : Option Raw) = some _)
theorem hostWindowWrite (vi off : Nat) (data : List Byte) : Statement (.hostWindowWrite vi off data) := fun _ h => nomatch (h : (none : Option Raw) = some _)
theorem hostWindowAtomicop (vi off : Nat) (op : HostAtomic) (w64 : Bool) (x y : DWord) : Statement (.hostWindowAtomicop vi off op w64 x y) := fun _ h => nomatch (h : (none : Option Raw) = some _)
theorem spdmRequest (msg : List Byte) : Statement (.spdmRequest msg) := fun _ h => nomatch (h : (none : Option Raw) = some _)
theorem grantAsidsOrKeySlots (vi : Nat) (seq : BitVec 40) (target : Nat) (asids keys : List Nat) : Statement (.grantAsidsOrKeySlots vi seq target asids keys) := fun _ h => nomatch (h : (none : Option Raw) = some _)
theorem writeAsidEntry (vi : Nat) (seq : BitVec 40) (asid : Nat) (entry : BitVec 256) : Statement (.writeAsidEntry vi seq asid entry) := fun _ h => nomatch (h : (none : Option Raw) = some _)
theorem writeOrEmptyKeySlot (vi : Nat) (seq : BitVec 40) (slot : Nat) (key : Option (BitVec 512)) : Statement (.writeOrEmptyKeySlot vi seq slot key) := fun _ h => nomatch (h : (none : Option Raw) = some _)
theorem bindOrUnbindStream (vi : Nat) (seq : BitVec 40) (stream : Nat) (target : Option Nat) : Statement (.bindOrUnbindStream vi seq stream target) := fun _ h => nomatch (h : (none : Option Raw) = some _)
theorem registerHandler (vi : Nat) (seq : BitVec 40) (asid image : Nat) : Statement (.registerHandler vi seq asid image) := fun _ h => nomatch (h : (none : Option Raw) = some _)
theorem registerMulticastGroup (vi : Nat) (seq : BitVec 40) (grp plane : Nat) (pkgs : List Nat) : Statement (.registerMulticastGroup vi seq grp plane pkgs) := fun _ h => nomatch (h : (none : Option Raw) = some _)
theorem poolSize (vi : Nat) (seq : BitVec 40) (target size base : Nat) : Statement (.poolSize vi seq target size base) := fun _ h => nomatch (h : (none : Option Raw) = some _)
theorem setWeightsAndWatchdogs (vi : Nat) (seq : BitVec 40) (target cw wt hwdog seglim : Nat) : Statement (.setWeightsAndWatchdogs vi seq target cw wt hwdog seglim) := fun _ h => nomatch (h : (none : Option Raw) = some _)
theorem rackBudget (vi : Nat) (seq : BitVec 40) (watts : Nat) : Statement (.rackBudget vi seq watts) := fun _ h => nomatch (h : (none : Option Raw) = some _)
theorem resetInterface (vi : Nat) (seq : BitVec 40) (target : Nat) : Statement (.resetInterface vi seq target) := fun _ h => nomatch (h : (none : Option Raw) = some _)
theorem updateFirmware (vi : Nat) (seq : BitVec 40) (image : Nat) (svn : Nat) (ok : Bool) : Statement (.updateFirmware vi seq image svn ok) := fun _ h => nomatch (h : (none : Option Raw) = some _)
theorem suspendLaunch (vi : Nat) (seq : BitVec 40) (launch : Nat) : Statement (.suspendLaunch vi seq launch) := fun _ h => nomatch (h : (none : Option Raw) = some _)
theorem resumeLaunch (vi : Nat) (seq : BitVec 40) (launch : Nat) : Statement (.resumeLaunch vi seq launch) := fun _ h => nomatch (h : (none : Option Raw) = some _)
theorem switchInterfaceOut (vi : Nat) (seq : BitVec 40) (target : Nat) : Statement (.switchInterfaceOut vi seq target) := fun _ h => nomatch (h : (none : Option Raw) = some _)
theorem viSwitchedOut (vi : Nat) : Statement (.viSwitchedOut vi) := fun _ h => nomatch (h : (none : Option Raw) = some _)
theorem switchInterfaceIn (vi : Nat) (seq : BitVec 40) (target : Nat) : Statement (.switchInterfaceIn vi seq target) := fun _ h => nomatch (h : (none : Option Raw) = some _)
theorem adoptDurableLaunches (vi : Nat) (seq : BitVec 40) (pkg : Nat) : Statement (.adoptDurableLaunches vi seq pkg) := fun _ h => nomatch (h : (none : Option Raw) = some _)
theorem deviceInformation (vi : Nat) (seq : BitVec 40) (asid va : Nat) : Statement (.deviceInformation vi seq asid va) := fun _ h => nomatch (h : (none : Option Raw) = some _)
theorem leaseTry (sector : Nat) : Statement (.leaseTry sector) := fun _ h => nomatch (h : (none : Option Raw) = some _)
theorem leaseRenew (sector : Nat) : Statement (.leaseRenew sector) := fun _ h => nomatch (h : (none : Option Raw) = some _)
theorem leaseExpire (sector : Nat) : Statement (.leaseExpire sector) := fun _ h => nomatch (h : (none : Option Raw) = some _)
theorem packageReset : Statement (.packageReset) := fun _ h => nomatch (h : (none : Option Raw) = some _)
theorem peerFetch (sector : Nat) : Statement (.peerFetch sector) := fun _ h => nomatch (h : (none : Option Raw) = some _)
theorem hbmTrainingDone : Statement (.hbmTrainingDone) := fun _ h => nomatch (h : (none : Option Raw) = some _)
theorem linkTrainingDone : Statement (.linkTrainingDone) := fun _ h => nomatch (h : (none : Option Raw) = some _)
theorem imageVerificationDone (sector : Nat) (ok : Bool) : Statement (.imageVerificationDone sector ok) := fun _ h => nomatch (h : (none : Option Raw) = some _)
theorem directoryRecall (line : Nat) (exclusive : Bool) : Statement (.directoryRecall line exclusive) := fun _ h => nomatch (h : (none : Option Raw) = some _)
theorem registerPieceWrite (vi : Nat) (reg : PieceReg) (off : Nat) (data : List Byte) : Statement (.registerPieceWrite vi reg off data) := fun _ h => nomatch (h : (none : Option Raw) = some _)

end Sys2Proof.Laws.FieldsFit
end

