-- ==== Sys2Proof/Laws/Write.lean ====
section
/-! SUPPORT. What writing a destination does: the registers it gives, the registers it leaves, and that it touches nothing else of the
machine. -/

namespace Sys2Proof.Machine

/-- The lanes of a mask are below 32. -/
theorem lt_of_mem_lanesOf {m : Mask} {k : Nat} (h : k ∈ lanesOf m) : k < 32 := by simp [lanesOf] at h; exact h.1

/-- A lane is in the list of a mask's lanes when its bit is set. -/
theorem mem_lanesOf {m : Mask} {k : Nat} : k ∈ lanesOf m ↔ HasLane m k := by
  simp only [lanesOf, List.mem_filter, List.mem_range, HasLane, and_iff_right_iff_imp]
  exact BitVec.lt_of_getLsbD

/-- The lanes of a mask are listed once. -/
theorem lanesOf_nodup (m : Mask) : (lanesOf m).Nodup := List.Nodup.filter _ List.nodup_range

/-- One lane of a vector destination written. -/
def putLane (r n : Nat) (f : Nat → Nat) (w : Warp) (k : Nat) : Warp :=
  let x := f k
  let w := setV w r k (BitVec.ofNat 32 x)
  if n = 2 then setV w (r + 1) k (BitVec.ofNat 32 (x / 2 ^ 32)) else w

/-- A vector destination is written lane by lane. -/
theorem writeDst_vec (s : State) (m : Mask) (r : Fin 1536) (n : Nat) (f : Nat → Nat) :
    writeDst s m (.v r) n f = setWarp s fun w => (lanesOf m).foldl (putLane r.val n f) w := rfl

/-- A lane written leaves every other register, and its own register in other lanes. -/
theorem putLane_other (r n : Nat) (f : Nat → Nat) (w : Warp) (k x y : Nat) (hk : k < 32) (hy : y < 32)
    (h : (x ≠ r ∧ (n = 2 → x ≠ r + 1)) ∨ y ≠ k) : mget 0 (putLane r n f w k).v (x * 32 + y) = mget 0 w.v (x * 32 + y) := by
  have h1 : x * 32 + y ≠ r * 32 + k := by rcases h with h | h <;> omega
  simp only [putLane]
  split
  · next hn =>
    have h2 : x * 32 + y ≠ (r + 1) * 32 + k := by
      rcases h with h | h
      · have := h.2 hn; omega
      · omega
    simp only [setV]
    rw [mget_mset_other 0 _ _ _ _ h2, mget_mset_other 0 _ _ _ _ h1]
  · simp only [setV]
    rw [mget_mset_other 0 _ _ _ _ h1]

/-- What a lane written holds. -/
theorem putLane_same (r n : Nat) (f : Nat → Nat) (w : Warp) (k j : Nat) (hj : j < n) (hn : n = 1 ∨ n = 2) :
    mget 0 (putLane r n f w k).v ((r + j) * 32 + k) = BitVec.ofNat 32 (f k / 2 ^ (32 * j)) := by
  rcases hn with rfl | rfl
  · obtain rfl : j = 0 := by omega
    simp [putLane, setV]
  · rcases (by omega : j = 0 ∨ j = 1) with rfl | rfl
    · simp only [putLane, setV, ↓reduceIte]
      rw [mget_mset_other 0 _ _ _ _ (by omega)]
      simp
    · simp [putLane, setV]

/-- Lanes written leave what they do not name. -/
theorem putLanes_other (r n : Nat) (f : Nat → Nat) (l : List Nat) (w : Warp) (x y : Nat) (hl : ∀ k ∈ l, k < 32) (hy : y < 32)
    (h : (x ≠ r ∧ (n = 2 → x ≠ r + 1)) ∨ y ∉ l) :
    mget 0 (l.foldl (putLane r n f) w).v (x * 32 + y) = mget 0 w.v (x * 32 + y) := by
  induction l generalizing w with
  | nil => rfl
  | cons k t ih =>
    simp only [List.foldl_cons]
    rw [ih _ (fun k hk => hl k (by simp [hk])) (by
      rcases h with h | h
      · exact .inl h
      · exact .inr (by simp at h; exact h.2))]
    exact putLane_other r n f w k x y (hl k (by simp)) hy (by
      rcases h with h | h
      · exact .inl h
      · exact .inr (by simp at h; exact h.1))

/-- What lanes written hold. -/
theorem putLanes_same (r n : Nat) (f : Nat → Nat) (l : List Nat) (w : Warp) (k j : Nat) (hl : ∀ k ∈ l, k < 32) (hd : l.Nodup)
    (hk : k ∈ l) (hj : j < n) (hn : n = 1 ∨ n = 2) :
    mget 0 (l.foldl (putLane r n f) w).v ((r + j) * 32 + k) = BitVec.ofNat 32 (f k / 2 ^ (32 * j)) := by
  induction l generalizing w with
  | nil => simp at hk
  | cons a t ih =>
    simp only [List.foldl_cons]
    by_cases ha : k ∈ t
    · exact ih _ (fun k hk => hl k (by simp [hk])) (List.Nodup.of_cons hd) ha
    · obtain rfl : k = a := by simpa [ha] using hk
      rw [putLanes_other r n f t _ (r + j) k (fun k hk => hl k (by simp [hk])) (hl k (by simp)) (.inr ha)]
      exact putLane_same r n f w k j hj hn

/-- The codes of the registers of a destination of n registers; p15 has none (R31, R36). -/
def dstCodes (d : Opnd) (n : Nat) : List Nat :=
  match d with
  | .v r => (List.range n).map (r.val + ·)
  | .s r => (List.range n).map (0x600 + r.val + ·)
  | .p r => if r.val = 15 then [] else [0x700 + r.val]
  | _ => []

/-- What of a warp only its register files may differ in. -/
def SameBut (w x : Warp) : Prop := { x with v := w.v, sr := w.sr, p := w.p } = w

/-- A lane written changes nothing of the warp but its vector registers. -/
theorem putLane_sameBut (r n : Nat) (f : Nat → Nat) (w : Warp) (k : Nat) :
    (putLane r n f w k) = { w with v := (putLane r n f w k).v } := by
  simp only [putLane]
  split <;> rfl

/-- Lanes written change nothing of the warp but its vector registers. -/
theorem putLanes_sameBut (r n : Nat) (f : Nat → Nat) (l : List Nat) (w : Warp) :
    l.foldl (putLane r n f) w = { w with v := (l.foldl (putLane r n f) w).v } := by
  induction l generalizing w with
  | nil => rfl
  | cons k t ih =>
    simp only [List.foldl_cons]
    rw [ih, putLane_sameBut r n f w k]

/-- A destination written is a change of the warp's register files alone. -/
theorem writeDst_eq (s : State) (m : Mask) (d : Opnd) (n : Nat) (f : Nat → Nat) :
    ∃ v sr p, writeDst s m d n f = { s with warp := { s.warp with v := v, sr := sr, p := p } } := by
  cases d with
  | v r =>
    refine ⟨((lanesOf m).foldl (putLane r.val n f) s.warp).v, s.warp.sr, s.warp.p, ?_⟩
    rw [writeDst_vec]
    simp only [setWarp]
    rw [putLanes_sameBut]
  | s r =>
    simp only [writeDst, setWarp, setS]
    split <;> exact ⟨_, _, _, rfl⟩
  | p r =>
    simp only [writeDst, setWarp, setP]
    split <;> exact ⟨_, _, _, rfl⟩
  | sel x => exact ⟨_, _, _, rfl⟩
  | imm x => exact ⟨_, _, _, rfl⟩

/-- The bits of a mask built lane by lane. -/
theorem getLsbD_maskOf (f : Nat → Bool) (k : Nat) (hk : k < 32) : (maskOf f).getLsbD k = f k := by
  have aux : ∀ n, n ≤ 32 → ∀ j, ((List.range n).foldl (fun a i => if f i then a + 2 ^ i else a) 0).testBit j
      = (decide (j < n) && f j) ∧ (List.range n).foldl (fun a i => if f i then a + 2 ^ i else a) 0 < 2 ^ n := by
    intro n
    induction n with
    | zero => intro _ j; simp
    | succ n ih =>
      intro hn j
      have hlt := (ih (by omega) 0).2
      have hb := fun j => (ih (by omega) j).1
      rw [List.range_succ, List.foldl_append]
      generalize hA : (List.range n).foldl (fun a i => if f i then a + 2 ^ i else a) 0 = A at *
      simp only [List.foldl_cons, List.foldl_nil]
      cases hf : f n with
      | false =>
        simp only [Bool.false_eq_true, if_false]
        refine ⟨?_, by rw [Nat.pow_succ]; omega⟩
        rw [hb j]
        by_cases hj : j < n
        · simp [hj, Nat.lt_succ_of_lt hj]
        · by_cases he : j = n
          · subst he; simp [hf]
          · simp [hj, show ¬ j < n + 1 by omega]
      | true =>
        simp only [if_true]
        refine ⟨?_, by rw [Nat.pow_succ]; omega⟩
        have h := Nat.two_pow_add_eq_or_of_lt hlt 1
        rw [Nat.mul_one] at h
        rw [Nat.add_comm, h, Nat.testBit_or, hb j, Nat.testBit_two_pow]
        by_cases hj : j < n
        · simp [hj, Nat.lt_succ_of_lt hj, show n ≠ j by omega]
        · by_cases he : j = n
          · subst he; simp [hf]
          · simp [hj, show ¬ j < n + 1 by omega, Ne.symm he]
  simp only [maskOf, BitVec.getLsbD_ofNat, hk, decide_true, Bool.true_and]
  rw [(aux 32 (by omega) k).1]
  simp [hk]

/-- A destination written holds what was to be written. -/
theorem writeDst_wrote (s : State) (m : Mask) (d : Opnd) (n : Nat) (f : Nat → Nat) (hn : n = 1 ∨ n = 2) :
    Wrote (writeDst s m d n f) m d n f := by
  cases d with
  | v r =>
    intro k j hk hj
    rw [writeDst_vec]
    exact putLanes_same r.val n f _ _ k j (fun k h => lt_of_mem_lanesOf h) (lanesOf_nodup m) (mem_lanesOf.mpr hk) hj hn
  | s r =>
    intro j hj
    simp only [writeDst, setWarp, setS]
    rcases hn with rfl | rfl
    · obtain rfl : j = 0 := by omega
      simp
    · rcases (by omega : j = 0 ∨ j = 1) with rfl | rfl
      · simp only [↓reduceIte]
        rw [mget_mset_other 0 _ _ _ _ (by omega)]
        simp
      · simp
  | p r =>
    intro hr k hk
    have hm := getLsbD_maskOf (fun k => decide (f k % 2 = 1)) k (BitVec.lt_of_getLsbD hk)
    simp only [writeDst, setWarp, setP, hr, if_false]
    rw [mget_mset_same]
    simp [hm, hk]
  | sel x => trivial
  | imm x => trivial

/-- A destination written leaves every register but its own, and its own in the lanes outside the mask. -/
theorem writeDst_regs (s : State) (m : Mask) (d : Opnd) (n : Nat) (f : Nat → Nat) (hn : n = 1 ∨ n = 2) (codes : List Nat)
    (hc : ∀ x ∈ dstCodes d n, x ∈ codes) : RegsKept s (writeDst s m d n f) m codes := by
  cases d with
  | v r =>
    refine ⟨fun x k hk h => ?_, fun x _ => ?_, fun x k _ => ?_⟩
    · rw [writeDst_vec]
      refine putLanes_other r.val n f _ _ x k (fun k h => lt_of_mem_lanesOf h) hk ?_
      rcases h with h | h
      · left
        constructor
        · rintro rfl
          exact h (hc _ (by simp [dstCodes]; omega))
        · rintro rfl rfl
          exact h (hc _ (by simp [dstCodes]))
      · right
        rw [mem_lanesOf]
        simp [HasLane, h]
    · rw [writeDst_vec]
      simp only [setWarp]
      rw [putLanes_sameBut]
    · rw [writeDst_vec]
      simp only [setWarp]
      rw [putLanes_sameBut]
  | s r =>
    refine ⟨fun x k hk h => ?_, fun x hx => ?_, fun x k _ => ?_⟩
    · simp only [writeDst, setWarp, setS]
      split <;> rfl
    · simp only [writeDst, setWarp, setS]
      have h0 : x ≠ r.val := by
        rintro rfl
        exact hx (hc _ (by simp [dstCodes]; omega))
      split
      · next h2 =>
        have h1 : x ≠ r.val + 1 := by
          rintro rfl
          refine hx (hc _ ?_)
          simp only [dstCodes, List.mem_map, List.mem_range]
          exact ⟨1, by omega, by omega⟩
        show mget 0 (mset 0 (mset 0 _ _ _) _ _) x = _
        rw [mget_mset_other 0 _ _ _ _ h1, mget_mset_other 0 _ _ _ _ h0]
      · show mget 0 (mset 0 _ _ _) x = _
        rw [mget_mset_other 0 _ _ _ _ h0]
    · simp only [writeDst, setWarp, setS]
      split <;> rfl
  | p r =>
    refine ⟨fun x k hk h => ?_, fun x hx => ?_, fun x k h => ?_⟩
    · simp only [writeDst, setWarp, setP]
      split <;> rfl
    · simp only [writeDst, setWarp, setP]
      split <;> rfl
    · simp only [writeDst, setWarp, setP]
      split
      · rfl
      · next hr =>
        by_cases he : x = r.val
        · subst he
          rw [mget_mset_same]
          rcases h with h | h
          · exact absurd (hc _ (by simp [dstCodes, hr])) h
          · rw [BitVec.getLsbD_or, BitVec.getLsbD_and, BitVec.getLsbD_and, BitVec.getLsbD_not, h]
            by_cases hk : k < 32
            · simp [hk]
            · simp [BitVec.getLsbD_of_ge, Nat.le_of_not_lt hk]
        · rw [mget_mset_other 0 _ _ _ _ he]
  | sel x => exact ⟨fun _ _ _ _ => rfl, fun _ _ => rfl, fun _ _ _ => rfl⟩
  | imm x => exact ⟨fun _ _ _ _ => rfl, fun _ _ => rfl, fun _ _ _ => rfl⟩

/-- What follows a register-only instruction's own part keeps what it wrote, moves on and keeps everything else. -/
theorem finish_done {s : State} {i : Instr} {c : Ctl} (h : Clear s i) (t : State) (v sr p : SMap Word)
    (ht : t = { issued s c with warp := { (issued s c).warp with v := v, sr := sr, p := p } })
    (hr : RegsKept s t (acting s c) i.writes) :
    ∃ u, finish (issued s c) i c (acting s c) (.done t) = u ∧ u.warp.v = t.warp.v ∧ u.warp.sr = t.warp.sr ∧ u.warp.p = t.warp.p
      ∧ MovedOn s u c ∧ RegFrame s u i c := by
  obtain ⟨due, hdue⟩ := recordDue_clear (c := c) h (acting s c) t
  obtain ⟨D, L, he, -, -⟩ := issued_eq s c
  refine ⟨_, rfl, ?_⟩
  simp only [finish, hdue]
  rw [he] at ht
  subst ht
  refine ⟨rfl, rfl, rfl, ⟨rfl, rfl, rfl⟩, ?_⟩
  exact ⟨rfl, ⟨fun _ _ => rfl, fun _ => rfl, fun _ => rfl⟩, by constructor <;> rfl, ⟨hr.vec, hr.scal, hr.pred⟩⟩

/-- An instruction of one result of n registers computes it: wherever it runs it writes it, moves on and keeps the rest. -/
theorem laneOp_computes (i : Instr) (c : Ctl) (d : Opnd) (n : Nat) (f : State → Mask → Nat → Nat) (hn : n = 1 ∨ n = 2)
    (hm : isMatrix i = false) (hw : ∀ x ∈ dstCodes d n, x ∈ i.writes) (he : ∀ s, exec i s = laneOp i c d n f s) :
    Computes i c d n f := by
  intro s h
  have hk := writeDst_regs (issued s c) (acting s c) d n (f (issued s c) (acting s c)) hn i.writes hw
  obtain ⟨D, L, he, -, -⟩ := issued_eq s c
  have hv : (issued s c).warp.v = s.warp.v ∧ (issued s c).warp.sr = s.warp.sr ∧ (issued s c).warp.p = s.warp.p := by
    rw [he]; exact ⟨rfl, rfl, rfl⟩
  have hk : RegsKept s _ (acting s c) i.writes :=
    ⟨fun r k a b => hv.1 ▸ hk.vec r k a b, fun r a => hv.2.1 ▸ hk.scal r a, fun r k a => hv.2.2 ▸ hk.pred r k a⟩
  obtain ⟨v, sr, p, ht⟩ := writeDst_eq (issued s c) (acting s c) d n (f (issued s c) (acting s c))
  obtain ⟨u, hu, hv, hs, hp, hmv, hf⟩ := finish_done h.clear _ v sr p ht hk
  have hwr := writeDst_wrote (issued s c) (acting s c) d n (f (issued s c) (acting s c)) hn
  refine ⟨u, ?_, ?_, hmv, hf⟩
  · rw [‹∀ s, exec i s = laneOp i c d n f s›, laneOp, issue_runs _ h hm, ← hu]
  · cases d with
    | v r => exact fun k j hk hj => by rw [hv]; exact hwr k j hk hj
    | s r => exact fun j hj => by rw [hs]; exact hwr j hj
    | p r => exact fun hr k hk => by rw [hp]; exact hwr hr k hk
    | sel x => trivial
    | imm x => trivial

end Sys2Proof.Machine
end

