-- ==== Sys2Proof/Tests/Slice0.lean ====
section
/-! SUPPORT. Tests of single words and single steps, with expected results from the spec, and for each statement a state and operands
that meet its hypotheses. -/

namespace Sys2Proof.Tests

open Sys2Proof.Machine

set_option Elab.async false

/-- The guard that takes every lane, and a stall of one cycle. -/
def always : Ctl := { gneg := false, gpred := 15, wmask := 0, wslot := 0, stall := 1, yld := false }

/-- A resident warp of 32 lanes at IP 0, as the bring-up of a test leaves it. -/
def ready : State := placeWord State.reset 0

/-- Words of the control family written from their fields (R23, R31): BRA to -2: long immediate, B holds the low 11 bits, X the high 16; WAITE.bar: BAR 5 at cluster scope; REFILL.dm; TRET.kill. -/
theorem test_decode_control :
    decode 0x0002FFFF7FFF000000000782 = .ok (.braRel always 0 (-2)) ∧
    decode 0x00020000780030200032A789 = .ok (.waiteBar always 5 true (.s 4)) ∧
    decode 0x000207027C03B04001D0078E = .ok (.refill always .dm (.v 3) (.s 8) (.imm 7) (.p 2)) ∧
    decode 0x000200007800003000008790 = .ok (.tretKill always (.v 6)) :=
  ⟨by decide +kernel, by decide +kernel, by decide +kernel, by decide +kernel⟩

/-- Words of the special family written from their fields (R23, R31): SWR.n32 class. -/
theorem test_decode_special :
    decode 0x000200007800401000040092 = .ok (.swr always false 8 (.imm 2)) :=
  by decide +kernel

/-- Words of the integer family written from their fields (R23, R31): IADD.i32.sat v3, v4, -1; ADDC.n64.sub with carry-out p7, carry-in p2; ICMP.n32.ge to p4; PLOP of 0xC0. -/
theorem test_decode_integer :
    decode 0x000200007FFF802001800813 = .ok (.iadd always .i32 true (.v 3) (.v 4) (.imm (-1))) ∧
    decode 0x000207027804003002038995 = .ok (.addc always .n64 true 7 (.v 4) (.v 6) (.v 8) (.p 2)) ∧
    decode 0x000200007B88B04B820028A7 = .ok (.icmp always .n32 .ge (.p 4) (.s 9) (.sel .laneid)) ∧
    decode 0x0002070F7B81B81380E007AA = .ok (.plop always 0xC0 (.p 1) (.p 2) (.p 3) (.p 15)) :=
  ⟨by decide +kernel, by decide +kernel, by decide +kernel, by decide +kernel⟩

/-- Words of the float family written from their fields (R23, R31): FADD.bf16 rounded up; BFL4.f32, inverse; FCLS.f64. -/
theorem test_decode_float :
    decode 0x0002000078018010008105AB = .ok (.fadd always .bf16 .ru (.v 1) (.v 2) (.v 3)) ∧
    decode 0x00020000781000C008020440 = .ok (.bfl4 always .f32 .rne true (.v 16) (.v 24) (.v 32)) ∧
    decode 0x000200007C018023800004B9 = .ok (.fcls always .f64 (.p 0) (.v 4) (.imm 3)) :=
  ⟨by decide +kernel, by decide +kernel, by decide +kernel⟩

/-- Words of the move family written from their fields (R23, R31): MOVI.n32.hi.h1 v5, 0x3F80; CVT.i32 from .f32, saturating; PACK.k8e4 with three sources. -/
theorem test_decode_move :
    decode 0x000200077FC00000028088C4 = .ok (.moviHi always .n32 1 (.v 5) 0x3F80) ∧
    decode 0x000200007800001000824045 = .ok (.cvt always .i32 .f32 .rne true (.v 1) (.v 2) none) ∧
    decode 0x000200047801801000800646 = .ok (.pack always .k8e4 (.v 1) (.v 2) (.v 3) (some (.v 4))) :=
  ⟨by decide +kernel, by decide +kernel, by decide +kernel⟩

/-- Words of the lane family written from their fields (R23, R31): SHFL.n32.down in segments of 8; LRED.f32.max. -/
theorem test_decode_lane :
    decode 0x000207037C020010008110C8 = .ok (.shfl always .n32 .down .w8 (.v 1) (.v 2) (.imm 4) (.p 3)) ∧
    decode 0x00020000780000130200144C = .ok (.lred always .f32 .max .rne (.s 4) (.v 2)) :=
  ⟨by decide +kernel, by decide +kernel⟩

/-- Words of the memory family written from their fields (R23, R31): LD.n32.x4 v8, b2, v1, 16, p3; ST.n64 s10; STS.n32 with a remote crew; ATOM.i32.cas, acquire, .pk; FNCE.ar.dm; PREF.llc. -/
theorem test_decode_memory :
    decode 0x000207037800C010040810D1 = .ok (.ld always .n32 .x4 16 (.v 8) 2 (.v 1) (.p 3)) ∧
    decode 0x0002070F7C004003050001D2 = .ok (.st always .n64 .x1 0 (.s 10) 0 (.imm 0) (.p 15)) ∧
    decode 0x0002080178024028018080D4 = .ok (.sts always .n32 .x1 (.v 3) (.idx 5) (.v 4) (some (.imm 1))) ∧
    decode 0x000207017803401801423855 = .ok (.atom always .i32 .cas .rne .acq .pk (.v 2) 3 (.v 6) (.p 1)) ∧
    decode 0x0002000078000000005017DB = .ok (.fnce always .ar .dm) ∧
    decode 0x000200007802C02000000FD7 = .ok (.pref always true 4 (.v 5)) :=
  ⟨by decide +kernel, by decide +kernel, by decide +kernel, by decide +kernel, by decide +kernel, by decide +kernel⟩

/-- Words of the tile family written from their fields (R23, R31): TGIV of the tile that s7 names. -/
theorem test_decode_tile :
    decode 0x0002000078003038000007DC = .ok (.tgiv always (.reg 7)) :=
  by decide +kernel

/-- Words of the record family written from their fields (R23, R31): BREC.set b9; LREC.ld 3. -/
theorem test_decode_record :
    decode 0x000200007800308404800FDF = .ok (.brecSet always 9 (.s 16)) ∧
    decode 0x0002000078003094018007E0 = .ok (.lrecLd always 3 (.s 18)) :=
  ⟨by decide +kernel, by decide +kernel⟩

/-- Words of the matrix family written from their fields (R23, R31): MMSP with its header in the upper half; MRDA.bf16.x4, rounded to zero; GANG s6 and GANG 0; GANG 0. -/
theorem test_decode_matrix :
    decode 0x000208017808401C00915564 = .ok (.mmsp always .f16 .f16 2 .sw0 true 1 (.idx 3) (.v 16) (.imm 1)) ∧
    decode 0x000200007B01C010040485E6 = .ok (.mrda always .bf16 .rz .x4 (.v 8) 2 (.s 3)) ∧
    decode 0x0002000078003030000007E9 = .ok (.gangForm always 6) ∧
    decode 0x0002000078003880000007E9 = .ok (.gangDissolve always) :=
  ⟨by decide +kernel, by decide +kernel, by decide +kernel, by decide +kernel⟩

/-- Words of the engine family written from their fields (R23, R31): ACPY of 8 bytes; COLL.a2a; QSTA. -/
theorem test_decode_engine :
    decode 0x0002084078054024010087EB = .ok (.acpy always .sz8 (.idx 2) 4 (.v 10) (.imm 64)) ∧
    decode 0x0002000078003040000017EE = .ok (.collA2a always (.s 8)) ∧
    decode 0x000200007C038003008007EF = .ok (.qsta always (.s 1) (.imm 7)) :=
  ⟨by decide +kernel, by decide +kernel, by decide +kernel⟩

/-! Well-formedness: an ill-formed term for each check, beside a well-formed neighbour (R31, R32, R36 to R39, R48). -/

theorem smoke_guard : Instr.wf 256 (.nop always) = true ∧ Instr.wf 256 (.nop { always with gneg := true }) = false := by decide
theorem smoke_type : Instr.wf 256 (.imul always .i32 (.v 1) (.v 2) (.v 3)) = true ∧
    Instr.wf 256 (.imul always .f32 (.v 1) (.v 2) (.v 3)) = false := by decide
theorem smoke_variant : Instr.wf 256 (.wake always false .dm (.v 1) 2 (.v 3) (.p 0)) = true ∧
    Instr.wf 256 (.wake always false .co (.v 1) 2 (.v 3) (.p 0)) = false := by decide
theorem smoke_rounding : Instr.wf 256 (.lred always .f32 .add .ru (.s 1) (.v 2)) = true ∧
    Instr.wf 256 (.lred always .f32 .max .ru (.s 1) (.v 2)) = false := by decide
theorem smoke_halfword : Instr.wf 256 (.moviHi always .n64 3 (.v 2) 1) = true ∧
    Instr.wf 256 (.moviHi always .n32 3 (.v 2) 1) = false := by decide
theorem smoke_register_number : Instr.wf 256 (.srd always false 0x11 (.v 1)) = true ∧
    Instr.wf 256 (.srd always false 0x12 (.v 1)) = false := by decide
theorem smoke_matrix_types : Instr.wf 256 (.mma always .bf16 .bf16 3 .sw0 0 (.idx 0) (.v 0) (.imm 0)) = true ∧
    Instr.wf 256 (.mma always .bf16 .f16 3 .sw0 0 (.idx 0) (.v 0) (.imm 0)) = false ∧
    Instr.wf 256 (.mma always .bf16 .bf16 4 .sw0 0 (.idx 0) (.v 0) (.imm 0)) = false := by decide
theorem smoke_class : Instr.wf 256 (.exit always) = true ∧ Instr.wf 256 (.jumpWarp always 0 (.s 2)) = true ∧
    Instr.wf 256 (.jumpWarp always 0 (.v 2)) = false := by decide
theorem smoke_alignment : Instr.wf 256 (.iadd always .i64 false (.v 2) (.v 4) (.v 6)) = true ∧
    Instr.wf 256 (.iadd always .i64 false (.v 3) (.v 4) (.v 6)) = false := by decide
theorem smoke_range : Instr.wf 256 (.mov always .n32 (.v 255) (.v 0)) = true ∧
    Instr.wf 256 (.mov always .n32 (.v 256) (.v 0)) = false ∧ Instr.wf 1536 (.qput always .pk false (.s 2) (.v 1521)) = false := by
  decide
theorem smoke_scalar_destination : Instr.wf 256 (.iadd always .n32 false (.s 1) (.s 2) (.sel .gtc)) = true ∧
    Instr.wf 256 (.iadd always .n32 false (.s 1) (.v 2) (.s 3)) = false ∧
    Instr.wf 256 (.iadd always .n32 false (.s 1) (.s 2) (.sel .laneid)) = false := by decide
theorem smoke_own_rules : Instr.wf 256 (.refill always .pk (.v 1) (.s 2) (.imm 3) (.p 14)) = true ∧
    Instr.wf 256 (.refill always .pk (.v 1) (.s 2) (.imm 3) (.p 15)) = false ∧
    Instr.wf 256 (.dscd always (.s 1) 0 (.s 2) (.imm 0)) = false ∧ Instr.wf 256 (.srd always false 1 (.s 1)) = false ∧
    Instr.wf 256 (.bfx always .i32 5 (.v 1) (.v 2) (.v 3)) = false := by decide

/-! Single steps. -/

/-- ready with every lane of each listed vector register holding a value. -/
def withV (l : List (Nat × Word)) : State :=
  setWarp ready fun w => { w with v := l.foldl (fun m e => (List.range 32).foldl (fun m k => mset 0 m (e.1 * 32 + k) e.2) m) [] }

/-- A vector register's lane after an instruction. -/
def vAfter (i : Instr) (s : State) (r k : Nat) : Word :=
  match exec i s with | .next t => mget 0 t.warp.v (r * 32 + k) | _ => 0xDEAD

/-- A predicate after an instruction. -/
def pAfter (i : Instr) (s : State) (p : Nat) : Word := match exec i s with | .next t => mget 0 t.warp.p p | _ => 0xDEAD

/-- A scalar register after an instruction. -/
def sAfter (i : Instr) (s : State) (r : Nat) : Word := match exec i s with | .next t => mget 0 t.warp.sr r | _ => 0xDEAD

/-- The code and detail of the trap that an instruction takes, from the record that it leaves. -/
def trapOf (i : Instr) (s : State) : Option (Nat × Nat) :=
  match exec i s with
  | .next t => match t.recs.find? fun r => decide (r.kind = .trap) with
    | some r => some ((r.tinfo.extractLsb' 0 8).toNat, (r.tinfo.extractLsb' 8 8).toNat)
    | none => none
  | _ => none

/-- The frontier after an instruction. -/
def entriesAfter (i : Instr) (s : State) : List Entry := match exec i s with | .next t => t.warp.entries | _ => []

/-- R211: wrapping and saturation. -/
theorem test_iadd : vAfter (.iadd always .i32 false (.v 1) (.v 2) (.imm 1)) (withV [(2, 0x7FFFFFFF)]) 1 31 = 0x80000000 ∧
    vAfter (.iadd always .i32 true (.v 1) (.v 2) (.imm 1)) (withV [(2, 0x7FFFFFFF)]) 1 0 = 0x7FFFFFFF := by decide +kernel
/-- R211: the low word of a 64-bit sum carries out. -/
theorem test_addc : vAfter (.addc always .n32 false 3 (.v 1) (.v 2) (.v 2) (.imm 1)) (withV [(2, 0x80000000)]) 1 5 = 1 ∧
    pAfter (.addc always .n32 false 3 (.v 1) (.v 2) (.v 2) (.imm 1)) (withV [(2, 0x80000000)]) 3 = 0xFFFFFFFF := by decide +kernel
/-- R212: the high half of a signed product. -/
theorem test_imulh : vAfter (.imulh always .i32 (.v 1) (.v 2) (.imm 3)) (withV [(2, 0xFFFFFFFE)]) 1 0 = 0xFFFFFFFF ∧
    vAfter (.imulh always .n32 (.v 1) (.v 2) (.imm 3)) (withV [(2, 0xFFFFFFFE)]) 1 0 = 2 := by decide +kernel
/-- R213: the magnitude of the least value, saturated. -/
theorem test_iabs : vAfter (.iabs always .i32 true (.v 1) (.v 2)) (withV [(2, 0x80000000)]) 1 0 = 0x7FFFFFFF ∧
    vAfter (.iabs always .i32 false (.v 1) (.v 2)) (withV [(2, 0x80000000)]) 1 0 = 0x80000000 := by decide +kernel
/-- R214: a count of the width or more. -/
theorem test_shifts : vAfter (.shl always .n32 (.v 1) (.v 2) (.imm 32)) (withV [(2, 5)]) 1 0 = 0 ∧
    vAfter (.shr always .i32 (.v 1) (.v 2) (.imm 40)) (withV [(2, 0x80000000)]) 1 0 = 0xFFFFFFFF ∧
    vAfter (.rot always .n32 false (.v 1) (.v 2) (.imm 36)) (withV [(2, 0x90000001)]) 1 0 = 0x19 := by decide +kernel
/-- R215: the field of the manual's own control value. -/
theorem test_bfx : vAfter (.bfx always .i32 0 (.v 1) (.v 2) (.v 3)) (withV [(2, 0x00900000), (3, 0x0810)]) 1 0 = 0xFFFFFF90 := by
  decide +kernel
/-- R216: comparison by type, a predicate's lanes. -/
theorem test_icmp : pAfter (.icmp always .i32 .lt (.p 2) (.v 2) (.imm 0)) (withV [(2, 0xFFFFFFFF)]) 2 = 0xFFFFFFFF ∧
    pAfter (.icmp always .n32 .lt (.p 2) (.v 2) (.imm 0)) (withV [(2, 0xFFFFFFFF)]) 2 = 0 := by decide +kernel
/-- R218: FP32 1.0 by two moves. -/
theorem test_movi : vAfter (.moviHi always .n32 1 (.v 5) 0x3F80) (withV []) 5 7 = 0x3F800000 := by decide +kernel
/-- R109, R224: 1.0 and three of 2^-24 in the order of the tree. -/
theorem test_fadd : vAfter (.fadd always .f32 .rne (.v 1) (.v 2) (.v 3)) (withV [(2, 0x3F800000), (3, 0x33800000)]) 1 0 = 0x3F800000 ∧
    vAfter (.fadd always .f32 .ru (.v 1) (.v 2) (.v 3)) (withV [(2, 0x3F800000), (3, 0x33800000)]) 1 0 = 0x3F800001 := by decide +kernel
/-- R242, R243: FP32 2^31 to a signed integer saturates. -/
theorem test_cvt : vAfter (.cvt always .i32 .f32 .rne true (.v 1) (.v 2) none) (withV [(2, 0x4F000000)]) 1 0 = 0x7FFFFFFF := by
  decide +kernel
/-- R241: the twiddle factor of index 1 of 8. -/
theorem test_twid : vAfter (.twid always .f32 .rne (.v 2) (.v 4) (.imm 3)) (withV [(4, 1)]) 2 0 = 0x3F3504F3 ∧
    vAfter (.twid always .f32 .rne (.v 2) (.v 4) (.imm 3)) (withV [(4, 1)]) 3 0 = 0xBF3504F3 := by decide +kernel
/-- R223: a vote over every lane, and its mask. -/
theorem test_vote : sAfter (.vote always .mask (.s 4) (.p 15)) ready 4 = 0xFFFFFFFF := by decide +kernel
/-- R346: a branch on every lane leaves one entry at its target. -/
theorem test_bra : entriesAfter (.braRel always 3 5) ready = [{ ip := 5, mask := 0xFFFFFFFF, prio := 3 }] := by decide +kernel
/-- R371, R377: TRAP. -/
theorem test_trap : trapOf (.trap always 0x2A) ready = some (0xF, 0x2A) := by decide +kernel
/-- R376: TRET at user level. -/
theorem test_tret : trapOf (.tret always (.v 2)) ready = some (0x10, 1) := by decide +kernel
/-- R380: a register other than class cannot be written. -/
theorem test_swr : trapOf (.swr always false 0 (.imm 0)) ready = some (0x10, 2) := by decide +kernel
/-- R245, R249: GANG of zero outside a gang only goes on. -/
theorem test_gang_zero : entriesAfter (.gangDissolve always) ready = [{ ip := 1, mask := 0xFFFFFFFF, prio := 0 }] := by decide +kernel
/-- R4, R297: GTC counts every fourth cycle. -/
theorem test_step_time : (match step State.reset with | .next t => t.now | _ => 0) = 1 := by decide +kernel
/-- R48: the all-zero word at the place of fetch traps ILLOP. -/
theorem test_step_ill : (match step (State.reset.withFetchWord 96 0) with | .next t => t.recs.map (·.tinfo) | _ => []) = [0x101] := by
  decide +kernel
/-- R25, R49: the word placed for fetch is the one that a step runs. -/
theorem test_step_runs : (match step (State.reset.withFetchWord 96 0x000200007FFF802001800813) with
    | .next t => (t.warp.entries, mget 0 t.warp.v (3 * 32 + 31)) | _ => ([], 0)) = ([{ ip := 1, mask := 0xFFFFFFFF, prio := 0 }], 0xFFFFFFFF) := by
  decide +kernel

/-! Witnesses: for each statement, states and operands that meet its hypotheses, at the boundaries of its clauses. -/

/-- What Runs asks, as a test on a state. -/
def canRun (s : State) (c : Ctl) : Bool :=
  decide (s.warp.entries ≠ []) && !s.warp.marked && !s.warp.victim && !s.warp.retire && !slotsBusy s.now s.warp c && !slotFull s.now s.warp c
    && s.warp.due.isEmpty && s.mxOps.isEmpty && s.warp.late.isEmpty && decide (acting s c ≠ 0)

/-- A state that passes the test runs every instruction. -/
theorem runs_of {s : State} {c : Ctl} (h : canRun s c = true) (i : Instr) : Runs s i c := by
  simp only [canRun, Bool.and_eq_true, decide_eq_true_eq, Bool.not_eq_true', List.isEmpty_iff] at h
  obtain ⟨⟨⟨⟨⟨⟨⟨⟨⟨h1, h2⟩, h3⟩, h4⟩, h5⟩, h6⟩, h7⟩, h8⟩, h9⟩, h10⟩ := h
  refine ⟨⟨h1, h2, h3, h4, h5, h6⟩, ⟨?_, ?_, ?_⟩, h10⟩
  · rw [h7]; simp
  · rw [h8]; simp
  · rw [h9]; simp

theorem ready_runs (i : Instr) : Runs ready i always := runs_of (by decide +kernel) i

/-- A warp whose p0 has lane 3 alone, under a guard of p0: a part of the lanes acts. -/
def part : State := setWarp ready fun w => { w with p := [(0, 8)] }
theorem part_runs (i : Instr) : Runs part i { always with gpred := 0 } := runs_of (by decide +kernel) i

theorem wit_IntegerSums : Fmt.i32 ∈ i4 ∧ Fmt.n64 ∈ i4 ∧ Fmt.n32 ∈ n2 ∧ Fmt.n64 ∈ n2 ∧
    Runs ready (.iadd always .n64 true (.v 2) (.v 4) (.v 6)) always ∧
    Runs ready (.addc always .n64 true 15 (.v 2) (.v 4) (.v 6) (.p 15)) always :=
  ⟨by decide, by decide, by decide, by decide, ready_runs _, ready_runs _⟩
theorem wit_IntegerProducts : Fmt.n64 ∈ i4 ∧ Fmt.i32 ∈ i4 ∧ Fmt.i32.width = 32 ∧
    Runs ready (.imad always .i32 true (.v 2) (.v 4) (.v 6) (.v 8)) always := ⟨by decide, by decide, by decide, ready_runs _⟩
theorem wit_MinMaxLogic : Fmt.i64 ∈ i4 ∧ Fmt.i64 ∈ [Fmt.i32, .i64] ∧ Fmt.n64 ∈ n2 ∧
    Runs ready (.xor always .n64 true (.v 2) (.v 4) (.v 6)) always := ⟨by decide, by decide, by decide, ready_runs _⟩
theorem wit_ShiftsAndRotations : Fmt.n64 ∈ n2 ∧ Fmt.i64 ∈ [Fmt.i32, .i64] ∧
    Runs ready (.shr always .i64 (.v 2) (.v 4) (.imm 64)) always := ⟨by decide, by decide, ready_runs _⟩
theorem wit_BitFields : Fmt.n32 ∈ n2 ∧ Fmt.i64 ∈ i4 ∧ Runs ready (.bfx always .i64 0 (.v 2) (.v 4) (.v 6)) always :=
  ⟨by decide, by decide, ready_runs _⟩
theorem wit_CompareSelectAddress : Fmt.n64 ∈ i4 ∧ Fmt.n64 ∈ n2 ∧ Runs ready (.plop always 0xC0 (.p 1) (.p 2) (.p 3) (.p 15)) always :=
  ⟨by decide, by decide, ready_runs _⟩
theorem wit_MovesAndPacking : Fmt.n64 ∈ n2 ∧ ((Fmt.n64 = .n64) ∧ (3 : BitVec 2).toNat = 3) ∧ (1 : BitVec 2).toNat < 2 ∧
    Fmt.bf16.width = 16 ∧ Fmt.bf16 ∈ packTypes ∧ Fmt.k8e4.width = 8 ∧ Fmt.k8e4 ∈ packTypes ∧
    Runs ready (.pack always .k8e4 (.v 2) (.v 4) (.v 6) (some (.v 8))) always :=
  ⟨by decide, by decide, by decide, by decide, by decide, by decide, by decide, ready_runs _⟩
theorem wit_LaneExchangeAndReductions : Fmt.n64 ∈ n2 ∧ Fmt.f32 ∈ [Fmt.i32, .n32, .f32] ∧ Fmt.f64 ∈ [Fmt.i32, .n32, .f32, .f64] ∧
    Runs part (.shfl { always with gpred := 0 } .n64 .down .w2 (.v 2) (.v 4) (.imm 1) (.p 15)) { always with gpred := 0 } :=
  ⟨by decide, by decide, by decide, part_runs _⟩
theorem wit_FloatSums : Fmt.f64 ∈ f4 ∧ Fmt.f64 ∈ [Fmt.f32, .f64] ∧
    Instr.wf 1536 (.cmul always .f64 .ru true (.v 4) (.v 8) (.v 12)) = true ∧
    Instr.wf 1536 (.cfma always .f32 .rne false (.v 4) (.v 8) (.v 12) (.v 2)) = true ∧
    Instr.wf 1536 (.bfly always .f32 .rne (.v 40) (.v 8) (.v 10) (.v 12)) = true ∧
    Instr.wf 1536 (.bfl4 always .f64 .rne true (.v 16) (.v 32) (.v 48)) = true ∧
    Runs ready (.bfl4 always .f64 .rne true (.v 16) (.v 32) (.v 48)) always :=
  ⟨by decide, by decide, by decide, by decide, by decide, by decide, ready_runs _⟩
theorem wit_FloatChoices : Fmt.f16 ∈ f4 ∧ Runs ready (.fcls always .f16 (.p 1) (.v 1) (.imm 0x3FF)) always := ⟨by decide, ready_runs _⟩
theorem wit_FloatFunctions : Fmt.bf16 ∈ f4 ∧ Fmt.f16 ∈ [Fmt.f32, .f16] ∧ Fmt.f64 ∈ [Fmt.f32, .f64] ∧
    Instr.wf 1536 (.twid always .f64 .rd (.v 4) (.v 8) (.imm 24)) = true ∧
    Runs ready (.twid always .f64 .rd (.v 4) (.v 8) (.imm 24)) always := ⟨by decide, by decide, by decide, by decide, ready_runs _⟩
theorem wit_Conversions : Fmt.w8 ≠ .untyped ∧ Fmt.w8.isFloat = false ∧ Fmt.f64.isFloat = true ∧ Fmt.i8.isFloat = false ∧
    ((some (Opnd.v 3)).isSome = true ∧ Fmt.f32.isFloat = true ∧ Fmt.k8e4 ≠ Fmt.f64 ∧ RMode.rne = .rne) ∧
    (1534 : Fin 1536).val + 1 < 1536 ∧ Runs ready (.cvtBlk always .k8e4 .f32 .rne (.v 1534) (.v 2) none) always :=
  ⟨by decide, by decide, by decide, by decide, by decide, by decide, ready_runs _⟩

theorem wit_DecodeEncode : Instr.wf 1536 (.iadd always .i32 true (.v 3) (.v 4) (.imm (-1))) = true ∧
    Instr.ctl (.iadd always .i32 true (.v 3) (.v 4) (.imm (-1))) ≠ none ∧
    encode (.iadd always .i32 true (.v 3) (.v 4) (.imm (-1))) = some 0x000200007FFF802001800813 ∧
    Instr.wf 1536 .ill = true ∧ encode .ill = some 0 := by decide +kernel
theorem wit_EncodeDecodeAndReservedWords : decode 0x000200007FFF802001800813 = .ok (.iadd always .i32 true (.v 3) (.v 4) (.imm (-1))) ∧
    0x70 ≤ (0x70 : CodeWord).toNat % 128 ∧ (0x80 : CodeWord) ≠ 0 ∧ (0x80 : CodeWord).toNat % 128 = 0 := by decide +kernel

/-- ready with a word where the next step fetches. -/
def fetching (w : Nat) : State := State.reset.withFetchWord 96 w
/-- Whether an outcome is a next state. -/
def isNextState (o : Host.Outcome State Fault Refusal) : Bool := match o with | .next _ => true | _ => false
theorem wit_StepRunsDecoded : (fetching 0x000200007FFF802001800813).agenda = [] ∧ (fetching 0x000200007FFF802001800813).pick = [] ∧
    (fetching 0x000200007FFF802001800813).hostWrites = [] ∧
    (fetching 0x000200007FFF802001800813).warp.nextAt ≤ (fetching 0x000200007FFF802001800813).now ∧
    (fetching 0x000200007FFF802001800813).warp.entries ≠ [] ∧ (fetching 0x000200007FFF802001800813).warp.retire = false ∧
    Instr.operandsOk 1536 (.iadd always .i32 true (.v 3) (.v 4) (.imm (-1))) = true ∧
    (fetching 0x000200007FFF802001800813).warp.nreg = 1536 ∧
    buffered (fetching 0x000200007FFF802001800813) 0 0 0 = some 0x000200007FFF802001800813 ∧
    isNextState (exec (.iadd always .i32 true (.v 3) (.v 4) (.imm (-1))) (fetching 0x000200007FFF802001800813)) = true := by
  decide +kernel

/-! Memory: an identity map of the first 16 GiB for ASID 0, in two table entries (R112 to R115), and a record in b0 of 64 elements
of 4 bytes at 0x10000 (R124). -/

/-- A buffer record's 32 bytes. -/
def recOf (base extent clamp : Nat) (es : Nat := 2) (glz : Nat := 0) : BitVec 256 :=
  BitVec.ofNat 256 (base + extent * 2 ^ 64 + clamp * 2 ^ 208 + es * 2 ^ 211 + glz * 2 ^ 216)
/-- A line at a device address whose first bytes hold a number, as core 0's L1 holds it. -/
def putAt (dpa x : Nat) : L1Line := ⟨0, dpa / 128, 0, BitVec.ofNat 1024 x, true⟩
/-- The two tables: L3 at 0x1000 and L2 at 0x2000, whose first entry is a leaf of every permission. -/
def tables (leaf : Nat := 0xE000000000000007) : List L1Line := [putAt 0x1000 0x2001, putAt 0x2000 leaf]
/-- ready with the map, the records b0 to b4, the walks of its low pages in hand, and ASID 0 valid for interface 0. -/
def mapped (leaf : Nat := 0xE000000000000007) : State :=
  { setCrew (setWarp ready fun w => { w with walked := List.range 64 }) (fun k => { k with tiles := [4, 5], brec :=
      [(0, recOf 0x10000 64 0), (1, recOf 0x10000 8 1), (2, recOf 0x10002 64 0), (3, recOf 0x10000 64 0 2 5), (4, recOf 0x200000 0x80000 0)] }) with
    asids := [(0, ⟨1, 0x1000, 0⟩)], l1 := tables leaf, live := [0]
    tiles := [(4, { Tile.reset with crew := some (0, 2 ^ 32 + 1), thread := true, st := .ready }),
      (5, { Tile.reset with crew := some (0, 2 ^ 32 + 1), st := .ready })] }
theorem mapped_runs (i : Instr) : Runs (mapped) i always := runs_of (by decide +kernel) i
/-- Each lane's own number in v1, for an element index. -/
def laneNo (s : State) : State :=
  setWarp s fun w => { w with v := (List.range 32).foldl (fun m k => mset 0 m (32 + k) (BitVec.ofNat 32 k)) w.v }
/-- The location that VA 0x10000 has. -/
def at64k : Xlat := { loc := .dev 0x10000, swz := 0, ord := .rc, psz := 2, rep := none }

theorem wit_translate : translate (mapped) { vi := 0, asid := 0, user := true } 0x10000 true false = .ok at64k ∧
    translate (mapped) { vi := 0, asid := 0, user := true } (2 ^ 52) false false = .prot 5 ∧
    translate (mapped) { vi := 0, asid := 0, user := true } (2 ^ 34) false false = .prot 1 ∧
    translate (mapped 0xA000000000000007) { vi := 0, asid := 0, user := true } 0x10000 true false = .prot 2 ∧
    translate (mapped 0xC000000000000007) { vi := 0, asid := 0, user := true } 0x10000 true false = .prot 4 ∧
    translate (mapped 0x6000000000000007) { vi := 0, asid := 0, user := true } 0x10000 false true = .prot 3 ∧
    translate (mapped 0xE000000000000005) { vi := 0, asid := 0, user := true } 0x10000 true false = .nores 2 ∧
    translate (mapped 0xE000000000000015) { vi := 0, asid := 0, user := true } 0x10000 true false = .malf := by decide +kernel

/-- mapped with nothing buffered: the word at VA 0 is read from memory. -/
def unbuffered : State := { mapped with ibuf := [] }
theorem wit_StepRunsDecoded_memory : unbuffered.agenda = [] ∧ unbuffered.pick = [] ∧ unbuffered.warp.entries ≠ [] ∧
    unbuffered.hostWrites = [] ∧ unbuffered.warp.nextAt ≤ unbuffered.now ∧ walksWanted unbuffered [lineVa 0, lineVa 0 + 191] = [] ∧
    buffered unbuffered 0 0 0 = none ∧ readCode unbuffered unbuffered.warp.space 0 = .ok 0 ∧ decode 0 = .ok .ill ∧
    translate unbuffered unbuffered.warp.space 0 false true = .ok { at64k with loc := .dev 0 } ∧
    codeErr unbuffered { at64k with loc := .dev 0 } 12 = none := by decide +kernel
theorem wit_StepRunsDecoded_event : ({ State.reset with agenda := [.refresh 3] } : State).agenda = [.refresh 3] ∧
    State.reset.hostWrites = [] ∧ (setWarp ready fun w => { w with nextAt := 9 }).now < (setWarp ready fun w => { w with nextAt := 9 }).warp.nextAt ∧
    (setWarp ready fun w => { w with nextAt := 9 }).warp.entries ≠ [] ∧
    encode (.refresh 3) = none ∧ isNextState (exec (.refresh 3) State.reset) = true := by decide +kernel
theorem wit_BadWordsAndEmptySets : buffered (fetching 0x70) 0 0 0 = some 0x70 ∧ decode 0x70 = .error (.illop 2) ∧
    (fetching 0x70).warp.retire = false ∧ (fetching 0x70).hostWrites = [] ∧ (fetching 0x70).warp.nextAt ≤ (fetching 0x70).now ∧ (fetching 0x70).agenda = [] ∧ (fetching 0x70).pick = [] ∧ (fetching 0x70).warp.entries ≠ [] ∧
    decode 0x00000000F800000000000781 = .error .rsvd ∧ decode 0x000200007BD6802001800013 = .error .badopnd ∧
    Instr.operandsOk 16 (.mov always .n32 (.v 16) (.v 0)) = false ∧ isJoint (.mov always .n32 (.v 16) (.v 0)) = false ∧
    decode 0 = .ok .ill := by decide +kernel
/-- A state that passes the test but for its lanes. -/
theorem canIssue_of {s : State} {c : Ctl} (h : canRun (setWarp s fun w => { w with p := [(0, 1)] }) c = true)
    (hw : slotsBusy s.now s.warp c = slotsBusy s.now (setWarp s fun w => { w with p := [(0, 1)] }).warp c)
    (hf : slotFull s.now s.warp c = slotFull s.now (setWarp s fun w => { w with p := [(0, 1)] }).warp c) : CanIssue s c := by
  obtain ⟨h1, h2, h3, h4, h5, h6⟩ := (runs_of h .ill).can
  exact ⟨h1, h2, h3, h4, hw.trans h5, hf.trans h6⟩
theorem wit_EmptySets : CanIssue ready { always with gpred := 0 } ∧ acting ready { always with gpred := 0 } = 0 ∧ ready.gangs = [] ∧
    Instr.ctl (.exit { always with gpred := 0 }) = some { always with gpred := 0 } :=
  ⟨canIssue_of (by decide +kernel) rfl rfl, by decide +kernel, by decide +kernel, by decide⟩
theorem wit_Retired : (setWarp (fetching 0) fun w => { w with retire := true }).warp.retire = true ∧
    (setWarp (fetching 0) fun w => { w with retire := true }).warp.entries ≠ [] ∧ (fetching 0).hostWrites = [] ∧
    (fetching 0).warp.nextAt ≤ (fetching 0).now := by decide +kernel

/-! Control. -/

/-- A warp with two entries: lanes 0 to 15 at 0, the others at 9. -/
def forked : State := setWarp ready fun w => { w with entries := [⟨0, 0xFFFF, 1⟩, ⟨9, 0xFFFF0000, 0⟩] }
theorem forked_runs (i : Instr) : Runs forked i always := runs_of (by decide +kernel) i
theorem wit_FrontierAndSpills : (forked.warp.entries.drop 1).length ≤ 3 ∧ ([⟨5, 0xFF, 0⟩, ⟨6, 0xFF00, 0⟩] : List Entry) ≠ [] ∧
    inGang forked forked.warp = false ∧
    spillRecs (issued forked always) (forked.warp.entries.drop 1) ≠ [] ∧
    roomFor forked forked.warp.launch ((spillRecs (issued forked always) (forked.warp.entries.drop 1)).foldl
      (fun n r => n + recSize (laneCount r.mask) r.regs.length) 0) = true ∧
    roomFor { forked with vis := [], launches := forked.launches.map fun l => { l with reserved := 0 } } forked.warp.launch ((spillRecs (issued forked always) (forked.warp.entries.drop 1)).foldl
      (fun n r => n + recSize (laneCount r.mask) r.regs.length) 0) = false ∧
    (forked.warp.entries.drop 1).find? (fun e => e.mask.getLsbD 16) = some ⟨9, 0xFFFF0000, 0⟩ := by decide +kernel
theorem wit_FrontierAndSpills_runs : Runs forked (.split always) always := forked_runs _
/-- Five targets, one of which cannot stay. -/
theorem wit_Spill_boundary : (splitPaths ready.warp [⟨1, 1, 0⟩, ⟨2, 2, 0⟩, ⟨3, 4, 0⟩, ⟨4, 8, 0⟩]).2 = [] ∧
    (splitPaths ready.warp [⟨1, 1, 0⟩, ⟨2, 2, 0⟩, ⟨3, 4, 0⟩, ⟨4, 8, 0⟩, ⟨5, 16, 0⟩]).2.length = 1 := by decide +kernel
theorem wit_Branches : Runs forked (.braRel always 0 5) always ∧
    (after forked [⟨5, acting forked always, 0⟩, stayPath forked (acting forked always)]).length ≤ 4 ∧
    acting forked always = entryMask forked.warp := ⟨forked_runs _, by decide +kernel, by decide +kernel⟩
theorem wit_Branches_part : CanIssue part { always with gpred := 0 } ∧ Clear part (.braAll { always with gpred := 0 } 0 5) ∧
    acting part { always with gpred := 0 } ≠ entryMask part.warp :=
  ⟨(part_runs .ill).can, (part_runs _).clear, by decide +kernel⟩
/-- mapped with a doubleword in s4, s5. -/
def withS (x : Nat) (s : State := mapped) : State :=
  setWarp s fun w => { w with sr := mset 0 (mset 0 w.sr 4 (BitVec.ofNat 32 x)) 5 (BitVec.ofNat 32 (x / 2 ^ 32)) }
theorem withS_runs (x : Nat) (i : Instr) (h : canRun (withS x) always = true) : Runs (withS x) i always := runs_of h i
theorem wit_SegmentWaits_gtc : pairS (issued (withS (2 ^ 60 - 1)) always) (.s 4) = 2 ^ 60 - 1 ∧
    pairS (issued (withS (2 ^ 60)) always) (.s 4) = 2 ^ 60 ∧
    segReady (issued (withS (2 ^ 60 - 1)) always) (.at (eventOf 6 (2 ^ 60 - 1)) (nextIp (withS (2 ^ 60 - 1)))) = true := by
  decide +kernel
theorem wit_SegmentWaits_runs : Runs (withS (2 ^ 60 - 1)) (.waiteGtc always (.s 4)) always ∧
    Runs (withS (2 ^ 60)) (.waiteGtc always (.s 4)) always ∧ Runs (withS 0x10008) (.waiteJoin always (.s 4)) always ∧
    Runs (withS 0x10004) (.waiteJoin always (.s 4)) always ∧ Runs mapped (.waiteWord always .eq true 0 (.imm 2) (.s 4)) always :=
  ⟨runs_of (by decide +kernel) _, runs_of (by decide +kernel) _, runs_of (by decide +kernel) _, runs_of (by decide +kernel) _,
    mapped_runs _⟩
theorem wit_SegmentWaits_tile : tileOfOp (issued mapped always) (.idx 1) = .ok (0, 5) ∧
    tileOfOp (issued mapped always) (.idx 2) = .error (0xC, 1) ∧
    segReady (issued mapped always) (.at (eventOf 1 (3 * 2 ^ 21 + 5)) (nextIp mapped)) = true := by decide +kernel
theorem wit_SegmentWaits_join : pairS (issued (withS 0x10008) always) (.s 4) % 8 = 0 ∧
    pairS (issued (withS 0x10004) always) (.s 4) % 8 ≠ 0 ∧ walksWanted (issued (withS 0x10008) always) [0x10008] = [] ∧
    translate (issued (withS 0x10008) always) (withS 0x10008).warp.space 0x10008 false false = .ok { at64k with loc := .dev 0x10008 } ∧
    segReady (tlbTouch (issued (withS 0x10008) always) 0 0 0x10008)
      { SegEnd.at (eventOf 4 (0x10008 / 8)) (nextIp (withS 0x10008)) with swz := 0 } = true := by decide +kernel
/-- mapped with VA 0x10000 on a page of host memory. -/
def hosted : State := { mapped with hostPages := [⟨⟨0, 1⟩, 0x5000⟩] }
theorem wit_SegmentWaits_host : translate (issued (withS 0x10008 hosted) always) (withS 0x10008 hosted).warp.space 0x10008 false false
      = .ok { at64k with loc := .host 0x5008 } ∧
    segReady (tlbTouch (issued (withS 0x10008 hosted) always) 0 0 0x10008) (.at 0 (nextIp (withS 0x10008 hosted))) = true := by
  decide +kernel
/-- The record of WAITE.word and .page in slot 0 of a state. -/
def slot0 (s : State) : BufRec := { slotRec (issued s always) 0 with clamp := false }
theorem wit_SegmentWaits_word : streamCheck (issued mapped always) 0 (slot0 mapped).glz false = none ∧
    walksWanted (issued mapped always) (laneVas (slot0 mapped) 2 0 4) = [] ∧
    checkLane (issued mapped always) (slot0 mapped) 2 0 4 false = .ok [(0x10008, 4, { at64k with loc := .dev 0x10008 })] ∧
    checkLane (issued mapped always) (slot0 mapped) 64 0 4 false = .fail 6 0 ∧
    walksWanted (issued mapped always) (laneVas (slot0 mapped) 64 0 4) = [] ∧
    segReady (touchLanes (issued mapped always) [(0, .ok [(0x10008, 4, { at64k with loc := .dev 0x10008 })])])
      { SegEnd.at (eventOf 3 (0x10008 / 4)) (nextIp mapped) with cmp := 0, swz := 0 } = true := by decide +kernel
theorem wit_SegmentWaits_page : let s := mapped 0xE000000000000005
    checkLane (issued s always) (slot0 s) 2 0 4 false = .nores 0x10008 2 ∧ walksWanted (issued s always) (laneVas (slot0 s) 2 0 4) = [] ∧
    segReady (askPage (issued s always) 0 0 0x10008 2 false)
      { SegEnd.at (eventOf 7 0) (nextIp s) with pages := [⟨0, 0⟩] } = true := by decide +kernel
theorem wit_SegmentWaits_streams : streamCheck (issued mapped always) 0 (slotRec (issued mapped always) 3).glz false = some 1 := by
  decide +kernel
theorem wit_SegmentRecords : segReady forked (.at evReady 7) = true ∧ (SegEnd.at evReady 7).dest = none ∧
    (∀ k ∈ forked.crews, k.moving = none) ∧ forked.recs = [] ∧
    forked.warp.entries[1]? = some ⟨9, 0xFFFF0000, 0⟩ ∧ HasLane 0xFFFF0000 31 := by decide +kernel
theorem wit_Exits : forked.puts = [] ∧ Runs forked (.exit always) always ∧ Runs ready (.exit always) always ∧ Runs ready (.joinc always) always ∧
    frontier forked.warp.helpers (stayPath forked (acting forked always) :: forked.warp.entries.drop 1) ≠ [] ∧
    frontier ready.warp.helpers (stayPath ready (acting ready always) :: ready.warp.entries.drop 1) = [] :=
  ⟨by decide +kernel, forked_runs _, ready_runs _, ready_runs _, by decide +kernel, by decide +kernel⟩
theorem wit_Exits_end : segReady (setWarp (issued ready always) fun w => { w with exited := 0xFFFFFFFF, entries := [] }) (.at evReady 0)
    = true := by decide +kernel
/-- ready with its own thread index in each lane. -/
def threads : State :=
  setWarp ready fun w => { w with tid := (List.range 32).foldl (fun m k => mset 0 m k (BitVec.ofNat 32 k)) [] }
def threadsPart : State := setWarp threads fun w => { w with p := [(0, 8)] }
/-- threads after its warp has waited at barrier 5 of generation 3, which the crew's barrier has passed by then. -/
def awaited : State :=
  setWarp (setCrew threads fun k => { k with bars := [(5, ⟨4, [], []⟩)] })
    fun w => { w with wait := some (barEvent 3 false 5), resume := some 1 }
/-- threads whose every thread has arrived at barrier 5 twice, without the instance having passed. -/
def crowded : State :=
  setCrew threads fun k => { k with bars := [(5, ⟨0, List.range 32, List.range 32⟩)] }
theorem wit_Barriers : crewAt threads threads.warp.launch (crewKey threads.warp) = threads.crews.head? ∧ threads.crews.length = 1 ∧
    (∀ q ∈ threads.crews, q.launch = threads.warp.launch → q.crew = crewKey threads.warp → q.saved = false) ∧
    (barOf (barSet threads threads.warp false) 5).next = [] ∧ (barOf (barSet threads threads.warp false) 5).now = [] ∧
    barThreads threads threads.warp false = (tidsOf threads.warp (acting threads always &&& ~~~threads.warp.helpers)).length ∧
    threads.warp.wait = none ∧ threads.warp.resume = none ∧ threads.warp.waitwin ≠ 0 ∧
    (tidsOf threadsPart.warp (acting threadsPart { always with gpred := 0 })).length < barThreads threadsPart threadsPart.warp false := by
  decide +kernel
theorem wit_Barriers_twice : 5 ∈ tidsOf crowded.warp (acting crowded always &&& ~~~crowded.warp.helpers) ∧
    5 ∈ (barOf (barSet crowded crowded.warp false) 5).now ∧ 5 ∈ (barOf (barSet crowded crowded.warp false) 5).next := by decide +kernel
theorem wit_Barriers_done : awaited.warp.wait = some (barEvent 3 false 5) ∧ awaited.warp.resume = some 1 ∧
    barDone (barOf (barSet awaited awaited.warp false) 5).gen 3 = true := by decide +kernel
theorem wit_Barriers_runs : Runs threads (.barWait always 5 false) always ∧ Runs threads (.barPost always 5 false (.s 3)) always ∧
    Runs crowded (.barPost always 5 false (.s 3)) always ∧ Runs awaited (.barWait always 5 false) always ∧
    Runs threadsPart (.barWait { always with gpred := 0 } 5 false) { always with gpred := 0 } :=
  ⟨runs_of (by decide +kernel) _, runs_of (by decide +kernel) _, runs_of (by decide +kernel) _, runs_of (by decide +kernel) _,
    runs_of (by decide +kernel) _⟩

/-- What LoadsAs asks, as a test on a state. -/
def canLoad (s : State) (va n al : Nat) (bs : List Byte) : Bool :=
  let vas := (List.range (n / 4)).map fun j => va + 4 * j
  let t := touchVa s s.warp.vi s.warp.asid va n
  decide (va % al = 0) && (walksWanted s vas).isEmpty &&
    match joinWords (vas.map fun a => (a, 4, translate s s.warp.space a false false)) with
    | .ok ws => !(ws.any fun x => decide (x.2.2.ord = .so)) && (missingLines t ws).isEmpty &&
        decide ((ws.flatMap fun x => recBytesAt t x.2.2 x.2.1) = bs)
    | _ => false
/-- A state that passes the test answers the load. -/
theorem loads_of {s : State} {va n al : Nat} {bs : List Byte} (h : canLoad s va n al bs = true) :
    LoadsAs s va n al bs (touchVa s s.warp.vi s.warp.asid va n) := by
  intro f
  simp only [canLoad, Bool.and_eq_true, decide_eq_true_eq, List.isEmpty_iff] at h
  obtain ⟨⟨h1, h2⟩, h3⟩ := h
  simp only [recLoad, withWalks, h2]
  split at h3
  · rename_i ws hw
    simp only [Bool.and_eq_true, Bool.not_eq_true', decide_eq_true_eq, List.isEmpty_iff] at h3
    rw [if_neg (by omega), hw]
    simp only [h3.1.1, h3.2, h3.1.2, Bool.false_and, Bool.false_eq_true, if_false]
  · simp at h3

/-- The 64 bytes of an image of entry 0x40, 8 registers and pool for one record (R58). -/
def imageNum : Nat := 0x40 + 8 * 2 ^ 64 + 512 * 2 ^ 128 + 1 * 2 ^ 144 + 1 * 2 ^ 160
def imageBytes : List Byte := bytesOfNat 64 imageNum
/-- mapped with that image at VA 0x3000 and its address in s4, s5, room in the pool, and zeros in s8 up. -/
def withImage (va : Nat := 0x3000) : State :=
  setVi { withS va (mapped) with l1 := putAt 0x3000 imageNum :: tables } 0 fun v => { v with poolSize := 2 ^ 30 }
/-- The state in which SPAWN has read its image. -/
def imageRead : State := touchVa (issued (withImage) always) (withImage).warp.vi (withImage).warp.asid 0x3000 64
theorem wit_Spawns_load : LoadsAs (issued (withImage) always) 0x3000 64 64 imageBytes imageRead := loads_of (by decide +kernel)
theorem wit_Spawns_tables : TableAs imageRead (imageTables (natOfBytes imageBytes)).1 [] imageRead ∧
    TableAs imageRead (imageTables (natOfBytes imageBytes)).2 [] imageRead := by
  have h1 : (imageTables (natOfBytes imageBytes)).1.2 = 0 := by decide +kernel
  have h2 : (imageTables (natOfBytes imageBytes)).2.2 = 0 := by decide +kernel
  constructor <;> intro f <;> simp only [tableLoad, h1, h2, if_true]
theorem wit_Spawns : pairS (issued (withImage) always) (.s 4) = 0x3000 ∧ imageBad (natOfBytes imageBytes) = false ∧
    imageRegions (natOfBytes imageBytes) [] = some [] ∧
    (match imageRecs (natOfBytes imageBytes) [] [] with
      | some i => decide (i.entry = 0x40 ∧ canReserve imageRead 0 (reservation i 0) = true) | none => false) = true ∧
    (imageOf (natOfBytes imageBytes)).tiles = 0 ∧ (imageOf (natOfBytes imageBytes)).gang = 0 ∧
    (imageOf (natOfBytes imageBytes)).frame = 0 ∧ (8 : BitVec 4).toNat ≤ (imageOf (natOfBytes imageBytes)).nreg ∧
    vecNum (.v 1528) + (8 : BitVec 4).toNat ≤ 1536 := by decide +kernel
theorem wit_Spawns_bounds : pairS (issued (withS (2 ^ 52)) always) (.s 4) = 2 ^ 52 ∧ (2 ^ 52) % 64 = 0 ∧
    (imageOf (natOfBytes imageBytes)).nreg < (9 : BitVec 4).toNat ∧ regionBad (0x10000 + 128 * 2 ^ 64) = false ∧
    ((2 ^ 127 : Nat) != 0 && regionBad (2 ^ 127)) = true := by decide +kernel
theorem wit_Spawns_regions : regionBad (0x10000 + 128 * 2 ^ 64) = false ∧ (regionOf16 (0x10000 + 128 * 2 ^ 64)).tile.isSome = false ∧
    acting (withImage) always &&& ~~~(withImage).warp.helpers ≠ 0 ∧ pairS (issued (withImage 0x3020) always) (.s 4) % 64 ≠ 0 := by
  decide +kernel
theorem wit_Spawns_runs : Runs (withImage) (.spawnNode always 8 (.sel .zero) (.s 4) (.v 1528)) always ∧
    Runs (withImage 0x3020) (.spawnNode always 8 (.sel .zero) (.s 4) (.v 1528)) always ∧
    Runs (withS (2 ^ 52)) (.spawnNode always 8 (.sel .zero) (.s 4) (.v 1528)) always ∧
    Runs (withImage) (.spawnStage always 1 0 (.s 6) (.s 4) (.v 8) (.s 8)) always :=
  ⟨runs_of (by decide +kernel) _, runs_of (by decide +kernel) _, runs_of (by decide +kernel) _, runs_of (by decide +kernel) _⟩

/-- A counter of 7 at VA 0x3000, addressed by s4, with lanes 0 and 3 finished in p1. -/
def counting (va : Nat := 0x3000) (fin : Word := 9) : State :=
  setWarp { withS va (mapped) with l1 := putAt 0x3000 7 :: tables } fun w => { w with p := [(1, fin)] }
/-- counting with the counter's line in the slice, which answers at once, and not in the L1. -/
def countingNow : State :=
  { setWarp (withS 0x3000 (mapped)) fun w => { w with p := [(1, 9)] } with
    llc := [(96, some ⟨.dirty, BitVec.ofNat 1024 7, 0⟩)] }
theorem wit_Refill : rdP (issued (counting) always) 1 = 9 ∧ pairS (issued (counting) always) (.s 4) = 0x3000 ∧
    (counting).warp.resume = none ∧ (counting).warp.waitwin ≠ 0 ∧ walksWanted (issued (counting) always) [0x3000] = [] ∧
    translate (issued (counting) always) (counting).warp.space 0x3000 true false = .ok { at64k with loc := .dev 0x3000 } ∧
    (atomWord (tlbTouch (issued (counting) always) 0 0 0x3000) { at64k with loc := .dev 0x3000 } 0x3000 8 fun m => m + 2).2 = 7 ∧
    atomAnswered (issued (counting) always) 96 = false ∧
    (∀ j, j < 2 → 7 + j < 9) ∧ (∀ j, j < 2 → 7 ≤ 7 + j) ∧ rdP (issued (counting 0x3000 0) always) 1 = 0 ∧
    pairS (issued (counting 0x3004) always) (.s 4) % 8 ≠ 0 ∧
    frontier 0 (stayPath (counting) 9 :: (counting).warp.entries.drop 1) ≠ [] := by
  decide +kernel
theorem wit_Refill_now : rdP (issued countingNow always) 1 = 9 ∧ pairS (issued countingNow always) (.s 4) = 0x3000 ∧
    atomAnswered (issued countingNow always) 96 = true ∧ walksWanted (issued countingNow always) [0x3000] = [] ∧
    translate (issued countingNow always) countingNow.warp.space 0x3000 true false = .ok { at64k with loc := .dev 0x3000 } ∧
    (atomWord (tlbTouch (issued countingNow always) 0 0 0x3000) { at64k with loc := .dev 0x3000 } 0x3000 8 fun m => m + 2).2 = 7 := by
  decide +kernel
theorem wit_Refill_runs : Runs countingNow (.refill always .dm (.v 3) (.s 4) (.imm 9) (.p 1)) always ∧
    Runs countingNow (.refill always .dm (.v 3) (.s 4) (.imm 7) (.p 1)) always ∧
    Runs (counting) (.refill always .dm (.v 3) (.s 4) (.imm 9) (.p 1)) always ∧
    Runs (counting 0x3000 0) (.refill always .dm (.v 3) (.s 4) (.imm 9) (.p 1)) always ∧
    Runs (counting 0x3004) (.refill always .dm (.v 3) (.s 4) (.imm 9) (.p 1)) always :=
  ⟨runs_of (by decide +kernel) _, runs_of (by decide +kernel) _, runs_of (by decide +kernel) _, runs_of (by decide +kernel) _, runs_of (by decide +kernel) _⟩
/-- A warp of crew 0 of a launch with crews of one. -/
def crewed : State :=
  { setWarp ready fun w => { w with crew := some 0 } with crews := ready.crews.map fun k => { k with crew := 0 }, domain := 2 }
theorem crewed_runs (i : Instr) : Runs crewed i always := runs_of (by decide +kernel) i
theorem wit_Forwards : srcBits (issued ready always) (acting ready always) (.imm 95) 1 0 = 95 ∧
    srcBits (issued ready always) (acting ready always) (.imm 96) 1 0 = 96 ∧ ready.warp.crew = none ∧ ready.domain = 1 ∧
    segReady (issued ready always) { SegEnd.at evReady (nextIp ready) with dest := some (0, 95) } = true ∧
    segReady (issued ready always) { SegEnd.at evReady (nextIp ready) with dest := some (1, leastSector (issued ready always)) } = true ∧
    segReady (issued { ready with domain := 2 } always) { SegEnd.at evReady (nextIp ready) with dest := some (2, 1) } = true := by
  decide +kernel
theorem wit_Forwards_crew : crewed.warp.crew = some 0 ∧
    (match crewAt (issued crewed always) crewed.warp.launch 0 with
      | some q => decide (q.moving = none) && moveOk (issued crewed always) q 0 3 | none => false) = true ∧
    segReady (issued crewed always) (.at evReady (nextIp crewed)) = true := by decide +kernel
/-- crewed, whose crew is on its way to core 3, and whose launch has clusters of two. -/
def moving : State := setCrew crewed fun k => { k with moving := some (0, 3) }
def paired : State := { crewed with launches := crewed.launches.map fun l => { l with cpc := 2 } }
theorem wit_Forwards_turned : (match crewAt (issued moving always) moving.warp.launch 0 with
      | some q => decide (q.moving ≠ none) | none => false) = true ∧
    segReady (issued moving always) (.at evReady (nextIp moving)) = true ∧
    (match crewAt (issued paired always) paired.warp.launch 0 with
      | some q => decide (q.moving = none) && !moveOk (issued paired always) q 2 1 | none => false) = true := by decide +kernel
theorem wit_Forwards_dest : segReady ready { SegEnd.at evReady 1 with dest := some (2, 1) } = true ∧ ready.warp.crew = none ∧
    ready.recs = [] ∧ ready.warp.entries[0]? = some ⟨0, 0xFFFFFFFF, 0⟩ ∧ HasLane 0xFFFFFFFF 31 ∧ ready.warp.helpers = 0 := by
  decide +kernel
theorem wit_Forwards_runs : Runs ready (.fwd always (.core (.imm 95))) always ∧ Runs ready (.fwd always .any) always ∧
    Runs crewed (.fwd always (.core (.imm 3))) always ∧
    Runs moving (.fwd always (.core (.imm 5))) always ∧ Runs { paired with domain := 2 } (.fwd always (.pkg (.imm 1))) always ∧
    Runs { ready with domain := 2 } (.fwd always (.pkg (.imm 1))) always :=
  ⟨ready_runs _, ready_runs _, crewed_runs _, runs_of (by decide +kernel) _, runs_of (by decide +kernel) _,
    runs_of (by decide +kernel) _⟩

theorem wit_TakesTraps : ready.warp.entries ≠ [] ∧ ready.warp.retire = false ∧ (0x12 : Nat) < 256 ∧ (255 : Nat) < 256 ∧
    segReady ready { SegEnd.at evReady 0 with kind := .trap, all := true, tinfo := tinfoOf 1 1 none false } = true ∧
    (launchOf ready 0).isSome = true ∧ (viOf ready 0).handler = none := by decide +kernel
/-- mapped with the handler of interface 0 in launch 5, whose mapping is ASID 0's and its pool at 0x8000 up. -/
def handled : State :=
  setVi { mapped with launches := mapped.launches ++ mapped.launches.map fun l => { l with id := 5, mode := .handler } } 0
    fun v => { v with handler := some 5, poolBase := 0x8000, poolSize := 2 ^ 30 }
theorem wit_TakesTraps_handler : (viOf handled 0).handler ≠ none ∧ (match launchOf handled 0 with
      | some l => decide (l.mode ≠ .handler) | none => false) = true ∧
    segReady handled { SegEnd.at evReady 0 with kind := .trap, all := true, tinfo := tinfoOf 3 7 none false } = true := by decide +kernel
theorem wit_TakesTraps_runs : Runs ready (.trap always 0xFF) always := ready_runs _
/-- A warp at supervisor level, whose v2, v3 hold an address in every lane. -/
def supervisor (va : Nat) : State :=
  setWarp ready fun w => { w with priv := 1, v := (List.range 32).foldl (fun m k => mset 0 m (64 + k) (BitVec.ofNat 32 va)) [] }
theorem wit_TrapReturns : srcBits (issued (supervisor 0x80) always) (acting (supervisor 0x80) always) (.v 2) 2 31 % 64 = 0 ∧
    srcBits (issued (supervisor 0x84) always) (acting (supervisor 0x84) always) (.v 2) 2 0 % 64 ≠ 0 ∧
    HasLane (acting (supervisor 0x84) always) 0 ∧ (supervisor 0x80).warp.priv ≠ 0 ∧ ready.warp.priv = 0 := by decide +kernel
theorem wit_TrapReturns_runs : Runs ready (.tret always (.v 2)) always ∧ Runs (supervisor 0x80) (.tretKill always (.v 2)) always ∧
    Runs (supervisor 0x84) (.tret always (.v 2)) always :=
  ⟨ready_runs _, runs_of (by decide +kernel) _, runs_of (by decide +kernel) _⟩
/-- The state that a trap leaves, with the address of its record. -/
def trapped (s : State := ready) : State := takeTrap s 3 7 none 0
def trapAt (s : State := ready) : Nat := match (trapped s).recs with | r :: _ => r.addr | [] => 1
theorem wit_TrapRecord : (trapRecAt (trapped) 0 (trapAt)).isSome = true ∧ poolSpace (trapped) 0 = none ∧
    (match trapRecAt (trapped) 0 (trapAt) with | some r => decide (r.join = 0 ∧ r.launch = 0) | none => false) = true ∧
    trapRecAt (trapped) 0 (trapAt + 64) = none := by decide +kernel
theorem wit_TrapRecord_memory : poolSpace handled 0 = some { vi := 0, asid := 0, user := false } ∧
    (readVa handled { vi := 0, asid := 0, user := false } 0x8000 (recSize 32 0)).isSome = true := by decide +kernel

theorem wit_SpecialRegisters : srcBits (issued ready always) (acting ready always) (.imm 3) 1 0 = 3 ∧
    srcBits (issued ready always) (acting ready always) (.imm 4) 1 0 = 4 ∧ (supervisor 0).warp.priv ≠ 0 ∧ ready.warp.priv = 0 ∧
    ready.warp.cls = 0 ∧ srcBits (issued ready always) (acting ready always) (.imm 0) 1 0 ≤ ready.warp.cls := by decide +kernel
theorem wit_SpecialRegisters_runs : Runs ready (.swr always false 8 (.imm 3)) always ∧
    Runs (supervisor 0) (.swr always false 8 (.imm 3)) always ∧ Runs ready (.swr always false 0x11 (.imm 4)) always ∧
    Runs ready (.srd always true 0x11 (.v 4)) always ∧ Runs ready (.nop always) always :=
  ⟨ready_runs _, runs_of (by decide +kernel) _, ready_runs _, ready_runs _, ready_runs _⟩

/-! Paged memory. -/

theorem wit_AccessChecks : checkLane (mapped) (slotRec mapped 0) 63 0 4 true = .ok [(0x100FC, 4, { at64k with loc := .dev 0x100FC })] ∧
    checkLane (mapped) (slotRec mapped 0) 64 0 4 true = .fail 6 0 ∧ checkLane (mapped) (slotRec mapped 1) 8 0 4 true = .clamped ∧
    checkLane (mapped) (slotRec mapped 0) 63 4 1 true = .fail 6 0 ∧ checkLane (mapped) (slotRec mapped 2) 0 0 4 true = .fail 7 0 ∧
    checkLane (mapped 0xA000000000000007) (slotRec (mapped 0xA000000000000007) 0) 0 0 4 true = .fail 8 2 ∧
    checkLane (mapped 0xE000000000000015) (slotRec (mapped 0xE000000000000015) 0) 0 0 4 true = .fail 9 0 ∧
    (match checkLane (mapped 0xE000000000000005) (slotRec (mapped 0xE000000000000005) 0) 0 0 4 true with
      | .nores _ p => decide (p = 2) | _ => false) = true := by decide +kernel
/-- The index of lane k in v1 plus 40: lanes 24 up are out of bounds. -/
def offEnd : State :=
  setWarp { mapped with groups := [⟨0, 3, 0, [0], []⟩] } fun w => { w with v := (List.range 32).foldl (fun m k => mset 0 m (32 + k) (BitVec.ofNat 32 (k + 40))) [] }
theorem wit_AccessTraps : faultOf 0 (checkLanes (issued offEnd always) (acting offEnd always) (slotRec (issued offEnd always) 0)
      (elemIndex (issued offEnd always) (acting offEnd always) (.v 1)) 0 4 true) = some (6, 0, 24) ∧
    streamCheck (issued offEnd always) 0 (slotRec (issued offEnd always) 0).glz true = none ∧
    streamCheck (issued offEnd always) 0 (slotRec (issued offEnd always) 0).glz false = none ∧
    walksWanted (issued offEnd always) (maskVas (acting offEnd always) (slotRec (issued offEnd always) 0)
      (elemIndex (issued offEnd always) (acting offEnd always) (.v 1)) 0 4) = [] ∧
    (slotRec (issued offEnd always) 0).glz = 0 ∧ (issued offEnd always).groups.find? (fun q => q.vi = offEnd.warp.vi && q.grp = (3 : BitVec 8).toNat) =
      some ⟨0, 3, 0, [0], []⟩ := by decide +kernel
theorem wit_AccessTraps_runs : Runs offEnd (.st always .n32 .x1 0 (.v 3) 0 (.v 1) (.p 2)) always ∧
    Runs offEnd (.ld always .n32 .x1 0 (.v 3) 0 (.v 1) (.p 2)) always ∧ Runs offEnd (.wake always false .dm (.v 3) 0 (.v 1) (.p 2)) always ∧
    Runs offEnd (.atom always .n32 .add .rne .relaxed .dm (.v 3) 0 (.v 1) (.p 2)) always ∧
    Runs offEnd (.mcst always false 3 (.v 3) 0 (.v 1) (.p 2)) always :=
  ⟨runs_of (by decide +kernel) _, runs_of (by decide +kernel) _, runs_of (by decide +kernel) _, runs_of (by decide +kernel) _,
    runs_of (by decide +kernel) _⟩
/-- A state whose lines at 0x10000 are in L1, so that a load of them is answered. -/
def cached : State :=
  { laneNo mapped with l1 := putAt 0x10000 0x5A :: tables }
/-- An L1 of few lines has room in every set. -/
theorem l1Room_of {s : State} {core n : Nat} (h : s.l1.length + n ≤ 16) : L1Room s core n := fun _ =>
  Nat.le_trans (Nat.add_le_add_right (List.length_filter_le ..) n) h
/-- A slice of few lines has room in every set. -/
theorem setRoom_of {s : State} {line n : Nat} (h : s.llc.length + n ≤ 24) : SetRoom s line n := by
  refine Nat.le_trans (Nat.add_le_add_right (List.length_filter_le ..) n) ?_
  rwa [List.length_map]
/-- What LD and the other accesses of a lane index in v1 check of a state. -/
def indexed (s : State) (n : Nat) (w : Bool) (slot : Fin 64 := 0) : List (Nat × LaneAcc) :=
  checkLanes (issued s always) (acting s always) (slotRec (issued s always) slot) (elemIndex (issued s always) (acting s always) (.v 1)) 0 n w
/-- The pages that they wait for. -/
def walksOf (s : State) (n : Nat) (slot : Fin 64 := 0) : List Nat :=
  walksWanted (issued s always) (maskVas (acting s always) (slotRec (issued s always) slot)
    (elemIndex (issued s always) (acting s always) (.v 1)) 0 n)
theorem wit_Loads : faultOf 0 (indexed cached 4 false) = none ∧ walksOf cached 4 = [] ∧ walksOf (laneNo mapped) 4 = [] ∧
    (linesOf (indexed cached 4 false)).map (·.1) = [0x200] ∧ touchesSo (indexed cached 4 false) = false ∧
    answered (touchLanes (issued cached always) (indexed cached 4 false)) 0 .rc 0x200 = true ∧
    answered (touchLanes (issued (laneNo mapped) always) (indexed (laneNo mapped) 4 false)) 0 .rc 0x200 = false ∧
    Instr.wf 1536 (.ld always .n32 .x1 0 (.v 3) 0 (.v 1) (.p 2)) = true ∧
    streamCheck (issued cached always) 0 (slotRec (issued cached always) 0).glz false = none ∧
    (touchLanes (issued cached always) (indexed cached 4 false)).l1.length = 3 ∧ (laneNo mapped).wbufs = [] ∧
    (laneNo mapped).waitReqs = [] ∧ (laneNo mapped).warp.sb = [] := by decide +kernel
theorem wit_Loads_room : L1Room (touchLanes (issued cached always) (indexed cached 4 false)) 0 1 := l1Room_of (by decide +kernel)
theorem wit_Loads_runs : Runs cached (.ld always .n32 .x1 0 (.v 3) 0 (.v 1) (.p 2)) always ∧
    Runs (laneNo mapped) (.ld always .n32 .x1 0 (.v 3) 0 (.v 1) (.p 2)) always :=
  ⟨runs_of (by decide +kernel) _, runs_of (by decide +kernel) _⟩
/-- A store of bytes to a place at VA 0x10000. -/
def storeTo (loc : Loc) (bytes : List Byte) (ord : Ord := .rc) : StoreEnt := ⟨0, loc, 0, none, ord, 0, 0x10000, bytes, 0, none⟩
/-- A buffer of n bytes: at 262,144 it stays, one byte more and it drains. -/
theorem wit_Stores_full : ∀ n, bufferedBytes (setWarp ready fun w => { w with sb := w.sb ++ [storeTo (.dev 0) (List.replicate n 0)] })
    ready.warp.core = n := by
  intro n; simp [bufferedBytes, residents, setWarp, ready, placeWord, storeTo, State.reset, Warp.none, setVi]
/-- laneNo mapped with a multicast group 15. -/
def grouped : State := { laneNo mapped with groups := [⟨0, 15, 0, [0, 1], []⟩] }
theorem wit_Stores : streamCheck (issued grouped always) 0 (slotRec (issued grouped always) 0).glz true = none ∧
    faultOf 0 (indexed grouped 4 true) = none ∧ walksOf grouped 4 = [] ∧
    grouped.groups.find? (fun x => x.vi = grouped.warp.vi && x.grp = (15 : BitVec 8).toNat) = some ⟨0, 15, 0, [0, 1], []⟩ ∧
    (slotRec (issued grouped always) 0).glz = 0 := by decide +kernel
theorem wit_Stores_runs : Runs grouped (.st always .n32 .x1 0 (.v 3) 0 (.v 1) (.p 2)) always ∧
    Runs grouped (.mcst always false 15 (.v 3) 0 (.v 1) (.p 2)) always :=
  ⟨runs_of (by decide +kernel) _, runs_of (by decide +kernel) _⟩
theorem wit_Drain : (storeTo (.dev 0x10000) [1, 2, 3, 4]).group = none ∧ (storeTo (.dev 0x10000) [1, 2, 3, 4]).stream = 0 ∧
    (storeTo (.dev 0x10000) [1, 2, 3, 4]).rep = none ∧ 0x1007C % 128 + 4 ≤ 128 ∧ isRemote grouped 0x200 = false ∧
    isRemote grouped (2 ^ 39) = true ∧ missOf grouped 0x200 = none ∧ (15 : BitVec 128) ≠ fullMask ∧
    ({ ready.warp with sb := [storeTo (.dev 0x10000) [1, 2, 3, 4]] } : Warp).sb = [] ++ [storeTo (.dev 0x10000) [1, 2, 3, 4]] ∧
    ({ at64k with loc := .dev 0x10003 } : Xlat).loc = .dev 0x10003 ∧ 0x10000 ≤ 0x10003 ∧ 0x10003 + 1 ≤ 0x10000 + 4 := by decide +kernel
theorem wit_Drain_so : (storeTo (.dev 0x10000) [1] .so).ord = .so ∧ (storeTo (.dev 0x10000) [1]).ord ≠ .so ∧
    bufferedBytes (setWarp grouped fun w => { w with sb := [storeTo (.dev 0x10000) [1]] }) 0 = 1 := by decide +kernel

/-- grouped with its line in the slice, which answers at once. -/
def homed : State := { grouped with llc := [(0x200, some ⟨.dirty, 7, 0⟩)] }
theorem wit_Atomics : at64k.rep = none ∧ at64k.loc = .dev 0x10000 ∧ ready.warp.sb = [] ∧ 0x10000 % 128 + 8 ≤ 128 ∧
    0x10000 / 2 ^ 46 = ready.pkg ∧ missOf ready (0x10000 / 128) = none ∧ 2 ^ 46 / 2 ^ 46 ≠ ready.pkg ∧ Fmt.n64 ∈ i4 ∧
    2 ^ 64 - 1 < 2 ^ Fmt.n64.width ∧ (slotRec (issued grouped always) 0).glz = 0 ∧ walksOf grouped 4 = [] ∧
    faultOf 0 (indexed grouped 4 true) = none ∧
    (lateLines (touchLanes (issued grouped always) (indexed grouped 4 true)) (indexed grouped 4 true)).map (·.1) = [0x200] ∧
    lateLines (touchLanes (issued homed always) (indexed homed 4 true)) (indexed homed 4 true) = [] ∧
    touchesSo (indexed homed 4 true) = false := by decide +kernel
theorem wit_Atomics_runs : Runs homed (.atom always .n32 .min .rne .ar .wp (.v 3) 0 (.v 1) (.p 2)) always ∧
    Runs grouped (.atom always .n32 .cas .rne .rel .sy (.v 3) 0 (.v 1) (.p 2)) always ∧
    Runs grouped (.atom always .n32 .add .rne .relaxed .wp (.v 3) 0 (.v 1) (.p 2)) always ∧
    Runs grouped (.wake always false .dm (.v 3) 0 (.v 1) (.p 2)) always ∧ Runs grouped (.wake always false .co (.v 3) 0 (.v 1) (.p 2)) always :=
  ⟨runs_of (by decide +kernel) _, runs_of (by decide +kernel) _, runs_of (by decide +kernel) _, runs_of (by decide +kernel) _,
    runs_of (by decide +kernel) _⟩
/-- A record of a whole warp of launch 0 at IP 5. -/
def aRec (rid : Nat) (place : RecPlace) (event : DWord := 0) : Rec :=
  { rid := rid, addr := 0x40, vi := 0, asid := 0, kind := .normal, event := event, join := 0, frame := 0, code := 5, mask := BitVec.allOnes 32,
    launch := 0, crew := none, nreg := 8, livemap := 0xFFFF, cls := 0, prio := 0, wid := 0, tinfo := 0, regs := [], v := [], sr := [], p := []
    tid := [], src := 77, pages := [], pgrq := [], cmp := 0, swz := 0, place := place, runs := 0, walked := [], since := 0, core := 0, pin := none
    latchAt := none }
/-- A record parked on the word at 0x10000 until it is 0, which it is. -/
def parkedOn : State := { mapped with recs := [{ aRec 9 .parked (eventOf 3 (0x10000 / 4)) with kind := .lane, cmp := 0 }] }
theorem wit_WordEvent : (match parkedOn.recs with
    | r :: _ => decide (r.place = .parked ∧ wordKind r = true ∧ wordKey r / 8 = 0x10000 / 8 ∧ eventHolds parkedOn r = true ∧
        firable parkedOn r.launch r.vi = true) | [] => false) = true := by decide +kernel

theorem wit_Prefetch : (slotRec (issued grouped always) 0).glz = 0 ∧
    (match linesOf (indexed grouped 4 false) with
      | x :: _ => decide (answered (issued grouped always) 0 x.2.ord x.1 = false ∧ isRemote (issued grouped always) x.1 = false ∧
          x.2.ord ≠ .so ∧ (linesOf (indexed grouped 4 false)).length = 1) | [] => false) = true ∧
    (slotRec (issued grouped always) 0).es = 4 ∧ acting grouped always &&& ~~~grouped.warp.helpers = acting grouped always ∧
    (match linesOf (indexed cached 4 false) with
      | x :: _ => answered (issued cached always) 0 x.2.ord x.1 | [] => false) = true := by decide +kernel
theorem wit_Prefetch_room : L1Room (issued grouped always) 0 1 := l1Room_of (by decide +kernel)
theorem wit_Prefetch_runs : Runs grouped (.pref always false 0 (.v 1)) always ∧ Runs grouped (.fnce always .rel .sy) always ∧
    Runs cached (.pref always false 0 (.v 1)) always ∧ Runs grouped (.fnce always .un .cl) always ∧
    Runs grouped (.fnce always .acq .wp) always := ⟨runs_of (by decide +kernel) _, runs_of (by decide +kernel) _, runs_of (by decide +kernel) _, runs_of (by decide +kernel) _, runs_of (by decide +kernel) _⟩
/-- mapped with the region offset in s4, s5 and a count in s8: b4 is at 0x200000. -/
def discarding (x n : Nat) : State := setWarp (withS x) fun w => { w with sr := mset 0 w.sr 8 (BitVec.ofNat 32 n) }
/-- The walk of an address whose leaf it finds whichever pointer gives it (R117). -/
theorem walk_of {s : State} {vi asid va : Nat} {e : DWord}
    (hp : ∀ p ∈ s.ptrs, walkFrom s (asidEnt s asid).budv s.pkg va p.level (nextTable p.entry) = .leaf e 2)
    (hr : walkFrom s (asidEnt s asid).budv s.pkg va 4 (nextTable (asidEnt s asid).root) = .leaf e 2)
    (hv : (asidEnt s asid).valid = true ∧ (asidEnt s asid).owner = vi) : walk s vi asid va = .leaf e 2 := by
  simp only [walk, hv.1, hv.2, decide_true, Bool.and_self, if_true]
  split
  · rename_i p h
    refine hp p ?_
    simp only [cachedPtr] at h
    split at h
    · simp at h
    · obtain ⟨lvl, -, hf⟩ := List.exists_of_findSome?_eq_some h
      split at hf
      · exact List.mem_of_find?_eq_some hf
      · simp at hf
  · exact hr
/-- The lookup of an address whose leaf is cached, and which its walk finds (R117). -/
theorem lookup_of {s : State} {vi asid va : Nat} {e : DWord} {t : TlbEnt} (ht : tlbFind s vi asid (va / 65536) = some t)
    (hl : t.leaf = e ∧ t.psz = 2) (hp : ∀ p ∈ s.ptrs, walkFrom s (asidEnt s asid).budv s.pkg va p.level (nextTable p.entry) = .leaf e 2)
    (hr : walkFrom s (asidEnt s asid).budv s.pkg va 4 (nextTable (asidEnt s asid).root) = .leaf e 2)
    (hv : (asidEnt s asid).valid = true ∧ (asidEnt s asid).owner = vi) : lookup s vi asid va = .leaf e 2 := by
  simp only [lookup, ht, hl.1, hl.2, walk_of hp hr hv, ite_self]
/-- A chunk of DSCD within its record, on a page that may be written, is discarded (R77). -/
theorem discards_of {s : State} {r : BufRec} {o : Nat} {e : DWord} (ho : r.base ≤ o ∧ o + 2 ^ 21 ≤ r.base + r.extent * r.stride)
    (h52 : o < 2 ^ 52) (hl : lookup s s.warp.vi s.warp.asid o = .leaf e 2)
    (he : e.getLsbD 61 = true ∧ e.getLsbD 62 = true ∧ e.getLsbD 1 = true)
    (hx : (leafXlat s s.warp.asid o e 2).loc = .dev o ∧ (leafXlat s s.warp.asid o e 2).rep = none ∧ (leafXlat s s.warp.asid o e 2).psz = 2) :
    (dscdFrom r o 1 0 s 0 []).2.2 = ([o / 2 ^ 21], none) := by
  have h : ∀ (sp : Space) w, sp.vi = s.warp.vi → sp.asid = s.warp.asid → translate s sp o w false = .ok (leafXlat s s.warp.asid o e 2) := by
    intro sp w h1 h2
    unfold Machine.translate
    rw [if_neg (Nat.not_le.mpr h52), h1, h2, hl]
    simp only [he.1, he.2.1, he.2.2, Bool.not_true, Bool.and_false, Bool.false_and, Bool.false_eq_true, if_false, if_true]
  have h1 := h { s.warp.space with user := false } false rfl rfl
  have h2 := h s.warp.space true rfl rfl
  simp only [dscdFrom, dscdChunk, Nat.zero_mul, Nat.add_zero, ho, and_self, decide_true, Bool.not_true, Bool.false_eq_true, if_false]
  simp only [h1, h2, hx.2.2, hx.1, hx.2.1, chunkRegions]
  simp
/-- The state in which DSCD of a number of chunks from the start of b4 discards them. -/
def discardAt (s : State) (n : Nat) : State :=
  (List.range n).foldl (fun t i => tlbTouch t t.warp.vi t.warp.asid (2 ^ 21 + i * 2 ^ 21)) (drainCore (issued s always))
/-- discarding with a miss of the region open. -/
def missing : State := { withS 0 with misses := [⟨2 ^ 14, 0, none, 0, 0, none, true, []⟩] }
theorem wit_Discard : (slotRec (issued (withS 0) always) 4).base + pairS (issued (withS 0) always) (.s 4) = 2 ^ 21 ∧
    (slotRec (issued (withS 8) always) 4).base + pairS (issued (withS 8) always) (.s 4) = 2 ^ 21 + 8 ∧
    srcBits (issued (discarding 0 65536) always) (acting (discarding 0 65536) always) (.s 8) 1 0 = 65536 ∧
    srcBits (issued (discarding 0 65537) always) (acting (discarding 0 65537) always) (.s 8) 1 0 = 65537 ∧
    walksWanted (issued (withS 0) always) ((List.range 1).map fun i => 2 ^ 21 + i * 2 ^ 21) = [] ∧
    (discardAt (withS 0) 1).misses = [] ∧
    (match (discardAt missing 1).misses with | m :: _ => decide (m.line / 16384 = 1) | [] => false) = true ∧ missing.warp.waitwin ≠ 0 ∧
    (2 ^ 22 - 1) / 2 ^ 21 = 1 ∧ missOf (withS 0) ((2 ^ 22 - 1) / 128) = none ∧ 2 ^ 22 / 2 ^ 21 ≠ 1 := by decide +kernel
/-- The leaf of the map, as a translation cache holds it. -/
def cachedLeaf : TlbEnt := { vi := 0, asid := 0, vpn := 0, psz := 2, leaf := 0xE000000000000007, hits := 1 }
theorem wit_Discard_gone : ∀ s ∈ [withS 0, missing],
    (dscdFrom (slotRec (issued s always) 4) (2 ^ 21) 1 0 (discardAt s 1) 0 []).2.2 = ([1], none) := by
  intro s hs
  simp only [List.mem_cons, List.not_mem_nil, or_false] at hs
  rcases hs with rfl | rfl <;>
    exact discards_of (by decide +kernel) (by decide) (lookup_of (t := cachedLeaf) (e := 0xE000000000000007) (by decide +kernel) (by decide) (by decide +kernel)
      (by decide +kernel) (by decide +kernel)) (by decide) (by decide +kernel)
theorem wit_Discard_stop : (dscdFrom (slotRec (issued (withS 0) always) 0) (2 ^ 21) 1 0 (discardAt (withS 0) 1) 0 []).2.2 = ([], some (6, 0)) := by
  decide +kernel
theorem wit_Discard_runs : Runs (withS 0) (.dscd always (.s 8) 4 (.s 4) (.imm 1)) always ∧
    Runs missing (.dscd always (.s 8) 4 (.s 4) (.imm 1)) always ∧
    Runs (discarding 0 65537) (.dscd always (.s 9) 4 (.s 4) (.s 8)) always ∧
    Runs (withS 8) (.dscd always (.s 8) 4 (.s 4) (.imm 1)) always :=
  ⟨runs_of (by decide +kernel) _, runs_of (by decide +kernel) _, runs_of (by decide +kernel) _, runs_of (by decide +kernel) _⟩

/-- grouped with a page map whose pages are not resident. -/
def absent : State := laneNo (mapped 0xE000000000000005)
/-- What PGRQ through b0 finds of the lanes of a state, and the pages whose walks it waits for. -/
def asked (s : State) : List (Nat × LaneAcc) := (lanesOf (acting s always)).map fun k =>
  (k, pgrqLane (issued s always) (slotRec (issued s always) 0) (elemIndex (issued s always) (acting s always) (.v 1) k))
def askedVas (s : State) : List Nat := (lanesOf (acting s always)).filterMap fun k =>
  let i := elemIndex (issued s always) (acting s always) (.v 1) k
  let r := slotRec (issued s always) 0
  if inBounds r i 0 r.es then some (r.base + i * r.stride) else none
theorem wit_PageRequests : ((asked grouped).all fun e => match e.2 with | .ok _ => true | _ => false) = true ∧
    walksWanted (issued grouped always) (askedVas grouped) = [] ∧ walksWanted (issued absent always) (askedVas absent) = [] ∧
    faultOf 0 (asked grouped) = none ∧ faultOf 0 (asked absent) = none ∧ faultOf 0 (asked offEnd) = some (6, 0, 24) ∧
    (31, LaneAcc.nores (0x10000 + 124) 2) ∈ asked absent ∧ ¬HasLane absent.warp.helpers 31 := by decide +kernel
theorem wit_PageRequests_runs : Runs grouped (.pgrq always (.p 3) 0 (.v 1)) always ∧ Runs absent (.pgrq always (.p 3) 0 (.v 1)) always ∧
    Runs offEnd (.pgrq always (.p 3) 0 (.v 1)) always :=
  ⟨runs_of (by decide +kernel) _, runs_of (by decide +kernel) _, runs_of (by decide +kernel) _⟩
/-- mapped with a record's bytes at VA 0x3000, addressed by s4. -/
def recAt (x : Nat) : State := { withS 0x3000 with l1 := putAt 0x3000 x :: tables }
/-- The bytes of a record of 64 elements, of one whose element size is out of range, and of an empty layout record. -/
def goodRec : List Byte := bytesOfNat 32 (recOf 0x10000 64 0).toNat
def badRec : List Byte := bytesOfNat 32 (recOf 0x10000 64 0 6).toNat
theorem wit_RecordLoads : (crewAt (recAt 0) 0 (crewKey (recAt 0).warp)).isSome = true ∧ pairS (issued (recAt 0) always) (.s 4) = 0x3000 ∧
    goodRec.length = 32 ∧ bufBad (BitVec.ofNat 256 (natOfBytes goodRec)) = false ∧
    bufBad (BitVec.ofNat 256 (natOfBytes badRec)) = true ∧ layBad (BitVec.ofNat 1024 (natOfBytes (List.replicate 128 (0 : Byte)))) = true ∧
    bufBad (recOf 0x10000 64 0) = false ∧ pairS (issued (withS 0x3010) always) (.s 4) % 32 ≠ 0 := by decide +kernel
theorem wit_RecordLoads_loads :
    LoadsAs (issued (recAt (recOf 0x10000 64 0).toNat) always) 0x3000 32 32 goodRec
      (touchVa (issued (recAt (recOf 0x10000 64 0).toNat) always) 0 0 0x3000 32) ∧
    LoadsAs (issued (recAt (recOf 0x10000 64 0 6).toNat) always) 0x3000 32 32 badRec
      (touchVa (issued (recAt (recOf 0x10000 64 0 6).toNat) always) 0 0 0x3000 32) ∧
    LoadsAs (issued (recAt 0) always) 0x3000 128 64 (List.replicate 128 0) (touchVa (issued (recAt 0) always) 0 0 0x3000 128) :=
  ⟨loads_of (by decide +kernel), loads_of (by decide +kernel), loads_of (by decide +kernel)⟩
theorem wit_RecordLoads_missing : walksWanted (withS 0x3000) ((List.range 8).map fun j => 0x3000 + 4 * j) = [] ∧
    (match joinWords (((List.range 8).map fun j => 0x3000 + 4 * j).map fun a => (a, 4, translate (withS 0x3000) (withS 0x3000).warp.space a false false)) with
      | .ok ws => (ws.all fun x => decide (x.2.2.ord ≠ .so)) && decide ((missingLines (touchVa (withS 0x3000) 0 0 0x3000 32) ws).map (·.1) = [0x60])
      | _ => false) = true := by decide +kernel
theorem wit_RecordLoads_runs : Runs (withS 0x3010) (.brecLd always 63 (.s 4)) always ∧ Runs (recAt 0) (.brecLd always 63 (.s 4)) always ∧ Runs (recAt 0) (.brecSet always 63 (.s 4)) always ∧
    Runs (recAt 0) (.lrecLd always 15 (.s 4)) always :=
  ⟨runs_of (by decide +kernel) _, runs_of (by decide +kernel) _, runs_of (by decide +kernel) _, runs_of (by decide +kernel) _⟩

/-! Tiles. -/

/-- mapped with v1 one number in every lane: an offset into a tile. -/
def offset (x : Nat) : State :=
  setWarp mapped fun w => { w with v := (List.range 32).foldl (fun m k => mset 0 m (32 + k) (BitVec.ofNat 32 x)) [] }
theorem wit_Tiles : tileTarget (issued (offset 16380) always) (acting (offset 16380) always) (.idx 0) none = .ok (0, 4, 2) ∧
    tileTarget (issued (offset 16380) always) (acting (offset 16380) always) (.idx 1) (some (.imm 0)) = .ok (0, 5, 3) ∧
    threadTile (tileAt (issued (offset 16380) always) 0 4) = true ∧ threadTile (tileAt (issued (offset 16380) always) 0 5) = false ∧
    srcBits (issued (offset 16380) always) (acting (offset 16380) always) (.v 1) 1 31 = 16380 ∧ 16380 % 4 = 0 ∧ 16380 + 4 ≤ 16384 ∧
    srcBits (issued (offset 16384) always) (acting (offset 16384) always) (.v 1) 1 0 = 16384 ∧ 16384 < 16384 + 4 ∧
    srcBits (issued (offset 16382) always) (acting (offset 16382) always) (.v 1) 1 0 % 4 ≠ 0 ∧
    (∀ k, HasLane (acting (offset 16380) always) k → k < 32) ∧ (tileAt (issued (offset 16380) always) 0 5).st ≠ .filling ∧
    Instr.wf 1536 (.lds always .n32 .x1 (.v 3) (.idx 0) (.v 1) none) = true := by
  refine ⟨?_, ?_, ?_, ?_, ?_, ?_, ?_, ?_, ?_, ?_, fun k h => ?_, ?_, ?_⟩
  on_goal 11 => exact Nat.lt_of_not_le fun hk => by simp [HasLane, BitVec.getLsbD_of_ge _ _ hk] at h
  all_goals decide +kernel
/-- offset with the engines' tile filling, its first line full and the lines past it not. -/
def fillingAt (x : Nat) : State := setTile (offset x) 0 5 fun t => { t with st := .filling, flip := true, full := 1 }
theorem wit_Tiles_filling : tileTarget (issued (fillingAt 0) always) (acting (fillingAt 0) always) (.idx 1) none = .ok (0, 5, 2) ∧
    threadTile (tileAt (issued (fillingAt 0) always) 0 5) = false ∧ (tileAt (issued (fillingAt 0) always) 0 5).st = .filling ∧
    (tileAt (issued (fillingAt 0) always) 0 5).flip = true ∧
    emptyLine (tileAt (issued (fillingAt 0) always) 0 5) (acting (fillingAt 0) always)
      (fun k => srcBits (issued (fillingAt 0) always) (acting (fillingAt 0) always) (.v 1) 1 k) 4 = none ∧
    emptyLine (tileAt (issued (fillingAt 128) always) 0 5) (acting (fillingAt 128) always)
      (fun k => srcBits (issued (fillingAt 128) always) (acting (fillingAt 128) always) (.v 1) 1 k) 4 = some 1 ∧
    (fillingAt 128).warp.waitwin ≠ 0 := by decide +kernel
theorem wit_Tiles_filling_runs (i : Instr) : Runs (fillingAt 0) i always ∧ Runs (fillingAt 128) i always :=
  ⟨runs_of (by decide +kernel) _, runs_of (by decide +kernel) _⟩
theorem wit_Tiles_runs (x : Nat) (h : x ∈ [16380, 16382, 16384]) (i : Instr) : Runs (offset x) i always := by
  simp only [List.mem_cons, List.not_mem_nil, or_false] at h
  rcases h with rfl | rfl | rfl <;> exact runs_of (by decide +kernel) i
theorem wit_TileOwners : tileOfOp (issued mapped always) (.idx 127) = .error (0xC, 1) ∧ tileOfOp (issued mapped always) (.idx 0) = .ok (0, 4) ∧
    (tileAt mapped 0 4).thread = true ∧ tileOfOp (issued mapped always) (.idx 1) = .ok (0, 5) ∧ (tileAt mapped 0 5).thread = false ∧
    (tileAt mapped 0 5).hold = false ∧ (tileAt mapped 0 5).mxr = 0 ∧ (mapped.acpys.any fun a => a.core = 0 && a.phys = 4) = false ∧
    mapped.warp.waitwin ≠ 0 := by decide +kernel
/-- mapped with the second tile read by the engine, and one with a copy in flight into the first. -/
def readTile : State := setTile mapped 0 5 fun t => { t with mxr := 1 }
def copying : State := { mapped with acpys := [⟨0, 2 ^ 32 + 1, 0, 0, 0, 4, []⟩] }
theorem wit_TileWaits : tileOfOp (issued readTile always) (.idx 1) = .ok (0, 5) ∧ (tileAt readTile 0 5).thread = false ∧
    (tileAt readTile 0 5).mxr ≠ 0 ∧ readTile.warp.waitwin ≠ 0 ∧ tileOfOp (issued copying always) (.idx 0) = .ok (0, 4) ∧
    (copying.acpys.any fun a => a.core = 0 && a.phys = 4) = true := by decide +kernel
theorem wit_TileOwners_runs : Runs mapped (.tgiv always (.idx 0)) always ∧ Runs mapped (.ttak always (.idx 1)) always ∧
    Runs mapped (.tsta always (.s 4) (.idx 127)) always ∧ Runs readTile (.ttak always (.idx 1)) always ∧
    Runs copying (.tgiv always (.idx 0)) always :=
  ⟨mapped_runs _, mapped_runs _, mapped_runs _, runs_of (by decide +kernel) _, runs_of (by decide +kernel) _⟩

/-! Engines. -/

/-- mapped with batches of the warp: tag 0 done with nothing left, tag 1 closed with one, tag 2 open. -/
def batching : State := setCrew mapped fun k => { k with next := [(0, 3)], tags :=
  [(1, ⟨.closed, 1, true, false, 1⟩), (2, ⟨.opened, 1, false, false, 2⟩)] }
theorem wit_Batches : (match crewAt batching 0 (crewKey batching.warp) with
    | some k => decide ((tagOf k 0 2).st = .opened ∧ (tagOf k 0 2).count ≠ 0) &&
        ((List.range 8).all fun i => decide (i = 2 ∨ (tagOf k 0 i).st ≠ .opened)) &&
        (match joinBatch k 0 with | .ok (_, t) => decide (t = 2) | _ => false) &&
        (match joinBatch k 31 with | .ok (_, t) => decide (t = 0) | _ => false) | none => false) = true ∧
    ((crewAt (settle (setCrew (issued batching always) fun k => closeBatch k 0)) 0 (crewKey batching.warp)).elim 0 fun k => outstanding k 0) = 2 ∧
    srcBits (issued batching always) (acting batching always) (.imm 2) 1 0 = 2 ∧
    srcBits (issued batching always) (acting batching always) (.imm 7) 1 0 = 7 ∧
    srcBits (issued batching always) (acting batching always) (.imm 8) 1 0 = 8 ∧ batching.warp.waitwin ≠ 0 := by decide +kernel
theorem batching_runs (i : Instr) : Runs batching i always := runs_of (by decide +kernel) i
theorem wit_Batches_runs : Runs batching (.bcls always) always ∧ Runs batching (.waitb always (.imm 2)) always ∧
    Runs batching (.waitb always (.imm 1)) always ∧ Runs batching (.qsta always (.s 4) (.imm 8)) always :=
  ⟨batching_runs _, batching_runs _, batching_runs _, batching_runs _⟩
/-- Copies by lane: v2 an element index of 0, v3 a tile offset of 128, and v4 the four bytes to copy. -/
def copier : State := setWarp mapped fun w =>
  { w with v := (List.range 32).foldl (fun m k => mset 0 (mset 0 m (96 + k) 128) (128 + k) 4) [] }
theorem wit_Copies : streamCheck (issued copier always) 0 (slotRec (issued copier always) 0).glz false = none ∧
    walksWanted (issued copier always) ((lanesOf (acting copier always &&& ~~~copier.warp.helpers)).flatMap fun j =>
      acpyVas (slotRec (issued copier always) 0) (srcBits (issued copier always) (acting copier always) (.v 2) 1 j)
        (min (srcBits (issued copier always) (acting copier always) (.v 4) 1 j) 4) 4) = [] ∧
    (match acpyLanes (issued copier always) (acting copier always) (slotRec (issued copier always) 0) (.v 2) (.v 4) (AcpySize.n .sz4) with
      | .ok l => decide (l.length = 32) | _ => false) = true ∧ tileOfOp (issued copier always) (.idx 0) = .ok (0, 4) ∧
    (match crewOf (issued copier always) with
      | some k => (match joinBatch k 0 with | .ok (_, t) => decide (t = 0) | _ => false) | none => false) = true ∧
    threadTile (tileAt (issued copier always) 0 4) = true := by decide +kernel
theorem wit_Copies_runs : Runs copier (.acpy always .sz4 (.idx 0) 0 (.v 2) (.v 4)) always := runs_of (by decide +kernel) _
/-- mapped with a region of 128 bytes at 0x10000 in s4 to s7, and one of length zero. -/
def region (len : Nat) : State := setWarp (withS 0x10000) fun w => { w with sr := mset 0 w.sr 6 (BitVec.ofNat 32 len) }
/-- A region of 128 bytes for a tile of the crew, in s4 to s7: tile 1 is the engines', tile 0 the threads'. -/
def tileRegion (n : Nat) (s : State := mapped) : State := setWarp (withS 0x10000 s) fun w =>
  { w with sr := mset 0 (mset 0 w.sr 6 128) 7 (BitVec.ofNat 32 (0x8000 + 256 * n)) }
theorem wit_Stage : regionBad (pairS (issued (region 128) always) (.s 4) + 2 ^ 64 * pairS (issued (region 128) always) (.s 6)) = false ∧
    regionBad (pairS (issued (region 0) always) (.s 4) + 2 ^ 64 * pairS (issued (region 0) always) (.s 6)) = true ∧
    streamCheck (issued (region 128) always) 0 (regionOf16 (0x10000 + 2 ^ 64 * 128)).glz false = none ∧
    (regionOf16 (0x10000 + 2 ^ 64 * 128)).tile = none ∧
    (match crewOf (issued (region 128) always) with
      | some k => (match joinBatch k 0 with | .ok _ => true | _ => false) | none => false) = true := by decide +kernel
theorem wit_Stage_tile : (let x := pairS (issued (tileRegion 1) always) (.s 4) + 2 ^ 64 * pairS (issued (tileRegion 1) always) (.s 6)
      decide (regionBad x = false ∧ (regionOf16 x).tile = some (1, 0) ∧ (regionOf16 x).glz = 0)) = true ∧
    (regionOf16 (pairS (issued (tileRegion 0) always) (.s 4) + 2 ^ 64 * pairS (issued (tileRegion 0) always) (.s 6))).tile = some (0, 0) ∧
    (match crewOf (issued (tileRegion 1) always) with
      | some k => decide (k.tiles[1]? = some 5 ∧ k.tiles[0]? = some 4) && (match joinBatch k 0 with | .ok _ => true | _ => false)
      | none => false) = true ∧
    (tileAt (issued (tileRegion 1) always) 0 5).thread = false ∧ packetHolds (issued (tileRegion 1) always) 0 5 = false ∧
    canHold (tileAt (issued (tileRegion 1) always) 0 5) = true ∧ (tileAt (issued (tileRegion 0) always) 0 4).thread = true := by
  decide +kernel
theorem wit_Stage_runs : Runs (tileRegion 0) (.stgr always (.s 4)) always ∧ Runs (tileRegion 1) (.stgr always (.s 4)) always ∧ Runs (region 128) (.stgr always (.s 4)) always ∧ Runs (region 0) (.stgr always (.s 4)) always :=
  ⟨runs_of (by decide +kernel) _, runs_of (by decide +kernel) _, runs_of (by decide +kernel) _, runs_of (by decide +kernel) _⟩
/-- homed with one of a copy's lanes: a byte of its line and a zero, which nothing before it meets. -/
def copied : AcpyLane := ⟨0, 2, [.mem (.dev 0x10000) 0 none, .val 0], false, 0⟩
theorem wit_CopyCompletes : copying.acpys[0]? = some ⟨0, 2 ^ 32 + 1, 0, 0, 0, 4, []⟩ ∧ copying.acpys.take 0 = [] ∧
    acpyClash ⟨0, 2 ^ 32 + 1, 0, 0, 0, 4, [copied]⟩ ⟨0, 2 ^ 32 + 1, 0, 0, 0, 4, [{ copied with off := 2 }]⟩ = false ∧
    copied.stream = 0 ∧ (mget none homed.llc (0x10000 / 128)).isSome = true ∧ 0x10000 / 128 / 2 ^ 39 ∉ homed.unreach := by decide +kernel

/-- mapped with a queue header at 0x10000, whose ring is at 0x20000, in s4. -/
def withQueue (wr : Nat) (va : Nat := 0x10000) : State :=
  { withS va with l1 := putAt 0x10000 (wr + 0x20000 * 2 ^ 128 + (5 + 0 * 2 ^ 16) * 2 ^ 192) :: tables }
/-- What HeadAs asks, as a test on a state. -/
def canHead (s : State) (va off n : Nat) (bs : List Byte) : Bool :=
  (walksWanted s [va]).isEmpty && (match translate s s.warp.space va false false with | .nores _ => false | _ => true)
    && canLoad s (va + off) n (min n 64) bs
/-- A state that passes the test answers the read. -/
theorem heads_of {s : State} {va off n : Nat} {bs : List Byte} (h : canHead s va off n bs = true) :
    HeadAs s va off n bs (touchVa s s.warp.vi s.warp.asid (va + off) n) := by
  intro f
  simp only [canHead, Bool.and_eq_true, List.isEmpty_iff] at h
  obtain ⟨⟨h1, h2⟩, h3⟩ := h
  simp only [headLoad, withWalks, h1]
  split
  · rename_i psz hz; simp [hz] at h2
  · exact loads_of h3 f
/-- The header's ring and control word, and the state in which QPUT has read them. -/
def headBytes : List Byte := bytesOfNat 16 (0x20000 + 5 * 2 ^ 64)
def headRead (wr : Nat) : State := touchVa (issued (withQueue wr) always) 0 0 (0x10000 + 16) 16
/-- The put that a QPUT through it makes in a state. -/
def aPut (s : State) : PutOp :=
  { uid := s.warp.uid, hdr := at64k, hva := 0x10000, hasid := 0, ring := { at64k with loc := .dev 0x20000 }, rva := 0x20000, asid := 0,
    log2n := 5, next := 0, packets := List.replicate 32 0, now := true }
theorem wit_Puts : pairS (issued (withQueue 0) always) (.s 4) = 0x10000 ∧ pairS (issued (withQueue 0 0x10020) always) (.s 4) % 64 ≠ 0 ∧
    (withQueue 0).warp.resume = none ∧ (withQueue 0).warp.waitwin ≠ 0 ∧ numAt headBytes 0 8 = 0x20000 ∧ numAt headBytes 8 8 % 16 = 5 ∧
    lanesOf (acting (withQueue 0) always &&& ~~~(withQueue 0).warp.helpers) ≠ [] ∧ (withQueue 0).puts = [] := by decide +kernel
theorem wit_Puts_head : HeadAs (issued (withQueue 0) always) 0x10000 16 16 headBytes (headRead 0) := heads_of (by decide +kernel)
theorem wit_Puts_room : putting (claimPut (drain (tlbTouch (headRead 0) 0 0 0x20000)) (aPut (headRead 0))) 1 = false ∧
    putting (claimPut (drain (tlbTouch (headRead 1) 0 0 0x20000)) (aPut (headRead 1))) (headRead 1).warp.uid = true := by decide +kernel
theorem wit_Puts_slots : (32 + 2 ^ 64 - 1) % 2 ^ 64 < 2 ^ 5 ∧ 2 ^ 5 ≤ (33 + 2 ^ 64 - 1) % 2 ^ 64 := by decide
theorem wit_Collectives : HeadAs (issued (withQueue 0) always) 0x10000 0 64 ((bytesOfNat 64 (0x20000 * 2 ^ 128 + 5 * 2 ^ 192)))
    (touchVa (issued (withQueue 0) always) 0 0 (0x10000 + 0) 64) := heads_of (by decide +kernel)
theorem wit_Puts_runs : Runs (withQueue 0) (.qput always .dm false (.s 4) (.v 8)) always ∧
    Runs (withQueue 0) (.qput always .dm true (.s 4) (.v 8)) always ∧ Runs (withQueue 0 0x10020) (.qput always .dm true (.s 4) (.v 8)) always ∧
    Runs (withQueue 0) (.collRs always (.s 4)) always ∧ Runs (withQueue 0 0x10020) (.collRpart always (.s 4)) always :=
  ⟨runs_of (by decide +kernel) _, runs_of (by decide +kernel) _, runs_of (by decide +kernel) _, runs_of (by decide +kernel) _,
    runs_of (by decide +kernel) _⟩
/-! The matrix engine. -/

/-- The GANG value of warps 0 and 1 with n accumulators (R245). -/
def gangOfTwo (n : Nat) : Word := BitVec.ofNat 32 (32 + 2 ^ 20 + n * 2 ^ 22)
/-- mapped as crew 0 with a second warp beside, whose arrival at an instruction stands at the latch if there is one. -/
def squad (x : Word) (l : List (Instr × List Word)) (g : List Gang := []) : State :=
  let s := setWarp mapped fun w => { w with crew := some 0, sr := [(4, x)] }
  { s with crews := s.crews.map (fun k => { k with crew := 0 }), bench := [{ s.warp with uid := 50, wid := 1 }], gangs := g, coneLimit := 9
           latches := l.map fun a => ⟨0, 0, 0, [0, 1], [⟨50, a.1, a.2⟩]⟩ }
def theGang : Gang := ⟨0, 0, 0, [0, 1], [3, 7], false, 0⟩
theorem wit_Gangs : acting (squad (gangOfTwo 16) [(.gangForm always 4, [gangOfTwo 16])]) always = BitVec.allOnes 32 ∧
    rdS (issued (squad (gangOfTwo 16) []) always) 4 = gangOfTwo 16 ∧ gangOfTwo 16 ≠ 0 ∧
    gangBad (gangOfTwo 16) 0 0 false = false ∧ gangBad (gangOfTwo 17) 0 0 false = true ∧ gangMembers (gangOfTwo 16) = [0, 1] ∧
    decide (gangReg (issued (squad (gangOfTwo 16) []) always) (squad (gangOfTwo 16) []).warp ≠ 0) = false ∧
    (match arrive (issued (squad (gangOfTwo 16) [(.gangForm always 4, [gangOfTwo 16])]) always) (.gangForm always 4) [0, 1] [gangOfTwo 16] with
      | .full t _ => decide (gangNz (gangOfTwo 16) ≤ (freeAccs t 0).length ∧ launchMx t (squad (gangOfTwo 16) []).warp = false) | _ => false) = true ∧
    (match arrive (issued (squad (gangOfTwo 16) []) always) (.gangForm always 4) [0, 1] [gangOfTwo 16] with | .waits _ => true | _ => false)
      = true ∧ (squad 0 []).warp.waitwin ≠ 0 ∧ gangOf (issued (squad 0 []) always) (squad 0 []).warp = none ∧
    (crewAt (squad 0 []) 0 0).isSome = true := by decide +kernel
/-- squad in a launch with cones. -/
def squadMx (x : Word) (l : List (Instr × List Word)) : State :=
  { squad x l with launches := (squad x l).launches.map fun l => { l with image := { l.image with mx := true } } }
theorem wit_Gangs_cones : (match arrive (issued (squadMx (gangOfTwo 16) [(.gangForm always 4, [gangOfTwo 16])]) always) (.gangForm always 4) [0, 1] [gangOfTwo 16] with
      | .full t _ => decide (launchMx (issued (squadMx (gangOfTwo 16) []) always) (squad 0 []).warp = true) &&
          (match (formGang t (gangOfTwo 16)).gangs.find? (fun g => g.launch = 0 && g.crew = 0 && g.members = [0, 1]) with
            | some g => (chargeCones (formGang t (gangOfTwo 16)) g).isSome | none => false)
      | _ => false) = true := by decide +kernel
theorem wit_GangDissolves : gangOf (issued (squad 0 [(.gangDissolve always, [0])] [theGang]) always) (squad 0 []).warp = some theGang ∧
    (match arrive (issued (squad 0 [(.gangDissolve always, [0])] [theGang]) always) (.gangDissolve always) [0, 1] [0] with
      | .full t _ => decide (gangWork t theGang = false) | _ => false) = true := by decide +kernel
theorem wit_Gangs_runs : Runs (squadMx (gangOfTwo 16) [(.gangForm always 4, [gangOfTwo 16])]) (.gangForm always 4) always ∧
    Runs (squad (gangOfTwo 16) [(.gangForm always 4, [gangOfTwo 16])]) (.gangForm always 4) always ∧
    Runs (squad (gangOfTwo 17) []) (.gangForm always 4) always ∧ Runs (squad 0 []) (.gangForm always 4) always ∧
    Runs (squad 0 []) (.gangDissolve always) always ∧ Runs (squad 0 [(.gangDissolve always, [0])] [theGang]) (.gangDissolve always) always :=
  ⟨runs_of (by decide +kernel) _, runs_of (by decide +kernel) _, runs_of (by decide +kernel) _, runs_of (by decide +kernel) _, runs_of (by decide +kernel) _,
    runs_of (by decide +kernel) _⟩

/-- An MMA on accumulator 1 of the gang from tile 1, columns 7 of 8, with the B fragments in v16 up, and its partner waiting. -/
def anMma : Instr := .mma always .bf16 .bf16 3 .sw0 1 (.idx 1) (.v 16) (.imm 7)
def stepping : State := squad 0 [(anMma, [])] [theGang]
theorem wit_MatrixSteps : acting stepping always = BitVec.allOnes 32 ∧ gangOf (issued stepping always) stepping.warp = some theGang ∧
    gangDead (issued stepping always) theGang = false ∧ (1 : Fin 16).val < theGang.accs.length ∧ mmaNG false .bf16 * 2 = 8 ∧
    vecNum (.v 16) + 8 - 1 < min 1536 stepping.warp.nreg ∧ srcBits (issued stepping always) (acting stepping always) (.imm 7) 1 0 = 7 ∧
    7 < 2 ^ (3 : BitVec 3).toNat ∧ tileOfOp (issued stepping always) (.idx 1) = .ok (0, 5) ∧ fenced (issued stepping always) theGang = false ∧
    jointScalars (issued stepping always) anMma = [] ∧
    (match arrive (issued stepping always) anMma [0, 1] [] with
      | .full v _ => decide ((tileAt v 0 5).thread = false ∧ (tileAt v 0 5).st = .ready ∧ (tileAt v 0 5).hold = false ∧
          launchMx v stepping.warp = false) && (chargeCones v theGang).isSome | _ => false) = true := by decide +kernel
theorem wit_MatrixSteps_runs : Runs stepping anMma always := runs_of (by decide +kernel) _
/-- A queued step of the gang, and the engine in each of its states. -/
def aStep : MxStep := ⟨1, [0, 1], 0, 0, 0, 0, 0, 7, 5, .bf16, .bf16, false, false, 3, .sw0, 7, [[], []], [1, 50], [], 0, false, false, [], []⟩
def engineAt (started readDone : Bool) : State :=
  { squad 0 [] [theGang] with mxQueue := [{ aStep with started := started, readDone := readDone }] }
/-- The four operations outstanding. -/
def accOps : State := { stepping with mxOps := [.mzro always 1, .mrda always .f32 .rne .x1 (.v 8) 1 (.imm 127),
  .mwra always .f32 .rne .x1 1 (.v 8) (.imm 127), .mfnc always].map fun i => ⟨1, [0, 1], none, 1, 0, 0, 0, 0, 7, i, 127, [], [], [], none⟩ }
theorem wit_MatrixEvents : nextStep (engineAt false false) 0 = some aStep ∧
    ((engineAt false false).mxQueue.any fun y => y.core = 0 && y.started && !y.readDone) = false ∧
    ((engineAt true false).mxQueue.find? fun y => y.core = 0 && y.started && !y.readDone).isSome = true ∧
    ((engineAt true true).mxQueue.find? fun y => y.core = 0 && y.readDone).isSome = true ∧
    (engineAt true true).mxOps = [] ∧ (∀ o ∈ accOps.mxOps, o.core = 0 → o.acc = 7 → o.seq ≠ 1 → o.isFence = true) ∧ accOps.mxQueue = [] ∧
    accKey 0 (7 + 1) 0 0 ≤ accKey 0 8 0 0 ∧ accKey 0 7 127 127 + 1 = accKey 0 8 0 0 := by decide +kernel

theorem wit_AccumulatorOps : acting stepping always = BitVec.allOnes 32 ∧ 127 + RowCount.n .x1 ≤ 128 ∧ (1 : Fin 16).val < theGang.accs.length ∧
    srcBits (issued stepping always) (acting stepping always) (.imm 127) 1 0 = 127 ∧
    fenced (issued stepping always) theGang = false ∧ covered (issued (engineAt false false) always) theGang (engineAt false false).warp.wid (engineAt false false).fresh = true ∧
    gangDead (issued (engineAt false false) always) theGang = false ∧ gangOf (issued (squad 0 []) always) (squad 0 []).warp = none := by
  decide +kernel
theorem wit_AccumulatorOps_runs : Runs stepping (.mzro always 1) always ∧ Runs stepping (.mrda always .f32 .rne .x1 (.v 8) 1 (.imm 127)) always ∧
    Runs stepping (.mwra always .f32 .rne .x1 1 (.v 8) (.imm 127)) always ∧ Runs (engineAt false false) (.mfnc always) always ∧
    Runs (squad 0 []) (.mfnc always) always :=
  ⟨runs_of (by decide +kernel) _, runs_of (by decide +kernel) _, runs_of (by decide +kernel) _, runs_of (by decide +kernel) _,
    runs_of (by decide +kernel) _⟩
theorem wit_AccumulatorEvents : (accOps.mxOps[0]?).isSome = true ∧ (∀ o ∈ accOps.mxOps, o.done = []) ∧
    (∀ p ∈ accOps.mxOps, p.core = 0 → p.acc = 7 → p.seq ≠ 1 → p.isFence = true) ∧ accOps.mxQueue = [] ∧ (accOps.mxOps[3]?).map (·.instr) = some (.mfnc always) ∧
    accOps.mxOps[4]? = none ∧ (127 : Nat) < 128 ∧ (3 : Nat) < 4 ∧ (31 : Nat) < 32 := by decide +kernel

/-! Segments, records and kilns. -/

/-- mapped waiting, with a line's response outstanding whose bytes are come. -/
def waiting : State := { setWarp mapped (fun w => { w with wait := some 0, waitSince := 0 }) with
  resps := [⟨1, 0, 0x200, true, 0, some 0x5A, none, [⟨15, 1535, 31, .dev 0x10000, 4, false, []⟩]⟩] }
/-- waiting at the end of its window, at the cycle before, and with a response for an instruction that waits for its line. -/
def waited (n : Nat) : State := { waiting with now := n }
def loading : State := { waiting with resps := [⟨1, 0, 0x200, true, 0, some 0x5A, none, []⟩] }
/-- The same, its warp gone and its record parked. -/
def departed : State := { setWarp waiting (fun w => { w with entries := [] }) with recs := [{ aRec 9 .parked with src := 1, regs := [3] }] }
theorem wit_Waits : waiting.warp.entries ≠ [] ∧ waiting.warp.wait = some 0 ∧
    (match waiting.resps[0]? with | some x => decide (x.err = none ∧ x.data = some 0x5A ∧ x.uid = waiting.warp.uid ∧
      (∀ p ∈ x.pieces, p.reg < 1536 ∧ p.lane < 32) ∧ (x.pieces.map fun p => (p.reg, p.lane)).Nodup) | none => false) = true ∧
    (loading.resps.map (·.pieces)) = [[]] ∧
    (∀ w ∈ residents departed, w.uid = 1 → w.entries = []) ∧ (∀ k ∈ departed.crews, k.moving = none) ∧
    (∀ r ∈ departed.recs, r.src = 1 ∧ r.isKept = false ∧ r.place = .parked) := by decide +kernel
theorem wit_Waits_window : (waited mapped.warp.waitwin).warp.waitSince + (waited mapped.warp.waitwin).warp.waitwin ≤ (waited mapped.warp.waitwin).now ∧
    (waited (mapped.warp.waitwin - 1)).now < (waited 0).warp.waitSince + (waited 0).warp.waitwin := by decide +kernel
/-- mapped with the walk of page 1 in flight for its warp, and one with an unused entry in its cache. -/
def walking : State := { mapped with walks := [⟨1, 0, 0, 0, 1⟩] }
theorem wit_Walks : tlbFind walking (asidEnt walking 0).owner 0 1 = none ∧ mapped.walks = [] ∧
    walking.walks = [⟨mapped.warp.uid, 0, 0, 0, 1⟩] ∧
    walkFrom walking (asidEnt walking 0).budv walking.pkg (1 * 65536) 4 (nextTable (asidEnt walking 0).root) = .leaf 0xE000000000000007 2 ∧
    (asidEnt walking 0).valid = true ∧ (0xE000000000000007 : DWord).getLsbD 1 = true ∧
    ({ mapped with tlb := [⟨0, 0, 0, 2, 0xE000000000000007, 0⟩] } : State).tlb[0]? = some ⟨0, 0, 0, 2, 0xE000000000000007, 0⟩ := by
  decide +kernel
/-- Once the pointers of its walk are cached, the walk still finds the leaf. -/
theorem wit_Walks_filled : walk (ptrFill walking 0 0 65536) 0 0 65536 = .leaf 0xE000000000000007 2 := by
  have hr : walkFrom (ptrFill walking 0 0 65536) (asidEnt (ptrFill walking 0 0 65536) 0).budv (ptrFill walking 0 0 65536).pkg 65536 4
      (nextTable (asidEnt (ptrFill walking 0 0 65536) 0).root) = .leaf 0xE000000000000007 2 := by decide +kernel
  have hp : ∀ p ∈ (ptrFill walking 0 0 65536).ptrs, walkFrom (ptrFill walking 0 0 65536) (asidEnt (ptrFill walking 0 0 65536) 0).budv
      (ptrFill walking 0 0 65536).pkg 65536 p.level (nextTable p.entry) = .leaf 0xE000000000000007 2 := by decide +kernel
  exact walk_of hp hr (by decide +kernel)
/-- A package behind its beacons, or ahead, at the end of 10,000 nanoseconds. -/
def slewed (d : Int) : State := { State.reset with now := 39999, gtc := { State.reset.gtc with slew := d } }
theorem wit_Slew : ((slewed 1).now + 1) % 40000 = 0 ∧ 0 < (slewed 1).gtc.slew ∧ (slewed (-1)).gtc.slew < 0 ∧
    ((slewed 0).now + 1) % 4 = 0 ∧ (slewed 0).gtc.slew = 0 ∧ (State.reset.now + 1) % 4 ≠ 0 ∧
    (passCycle (slewed 1)).gtc.value = 2 ∧ (passCycle (slewed (-1))).gtc.value = 0 ∧ (passCycle (slewed 0)).gtc.value = 1 := by decide +kernel
/-- A launch with one seed still to write, and a join update that waits for its page. -/
def seeding : State := { mapped with launches := mapped.launches.map fun l => { l with seeds := [(2, 1)] } }
def joining : State := { mapped with joinWaits := [⟨0, 0x10000, 0xFFFFFFFFFFFFFFFF, 0, 0, []⟩] }
theorem wit_Seeds : (match seeding.launches with
    | [l] => decide (l.seeds = [(2, 1)] ∧ roomFor seeding l.id (recSize 32 l.image.nreg) = true) | _ => false) = true ∧
    (∀ k ∈ seeding.crews, k.moving = none) ∧ joining.joinWaits.map (·.rids) = [[]] ∧ 0x10000 % 8 = 0 ∧ 0x10000 / 65536 = 1 ∧
    translate joining { vi := 0, asid := 0, user := true } 0x10000 true false = .ok at64k ∧ at64k.rep = none ∧ at64k.loc = .dev 0x10000 := by
  decide +kernel

/-- A gathering saggar and a due one of launch 0 on core 0, with records by place. -/
def aSag (sid : Nat) (st : SagState) (rids : List Nat) : Saggar := ⟨sid, 0, 0, 5, none, false, none, st, rids, 0, 0, 0, none, 0⟩
def kilnState : State := { mapped with saggars := [aSag 1 .gather [], aSag 2 .due [9]]
                                       recs := [aRec 9 (.saggar 2), aRec 10 .parked, aRec 11 (.overflow 0)] }
theorem wit_Records : dbits evReady 63 60 ∉ [3, 4] ∧ (aRec 10 .parked).event = evReady ∧ eventHolds kilnState (aRec 10 .parked) = true ∧
    firable kilnState 0 0 = true ∧ (kilnState.recs.map (·.rid)).Nodup ∧ oldestOverflow kilnState 0 = some (aRec 11 (.overflow 0)) ∧
    (∀ r ∈ mapped.recs, r.place ≠ .overflow 0) ∧ (slotCore kilnState 0 (aRec 11 (.overflow 0))).isSome = true := by decide +kernel
/-- kilnState with its launch's time of one microsecond, at its end. -/
def timed (n : Nat) : State :=
  { kilnState with now := n, launches := kilnState.launches.map fun l => { l with image := { l.image with timer := 10 } } }
theorem wit_Timers : (match launchOf (timed 4000) 0 with
      | some l => decide (0 + 400 * l.image.timer ≤ (timed 4000).now ∧ (timed 3999).now < 0 + 400 * l.image.timer) | none => false) = true ∧
    aSag 1 .gather [] ∈ (timed 4000).saggars ∧ (aSag 1 .gather []).since = 0 := by decide +kernel
/-- The machine with crew 0 of the launch saved, its one tile's bytes all 1. -/
def savedCrew : Crew :=
  { launch := 0, vi := 0, crew := 0, core := 0, cluster := 0, tiles := [0], brec := [], lrec := [], tags := [], next := [], ages := 0, gang := [],
    bars := [], mfence := [], staged := true, saved := true, image := 128, moving := none, savedTiles := []
    savedAccs := [] }
def crewState : State := { mapped with crews := [savedCrew], tiles := [] }
theorem wit_CrewRestore : (launchOf crewState 0).isSome = true ∧ firable crewState 0 0 = true ∧ savedCrew.core < 96 ∧
    crewAt crewState 0 0 = some savedCrew ∧ savedCrew.saved = true ∧ savedCrew.moving = none ∧ 128 ≤ savedCrew.image ∧
    crewInFlight crewState savedCrew = false ∧ barSets crewState 0 < 64 ∧
    (∀ k ∈ crewState.crews, saveWanted crewState k = false ∧ k.moving = none) ∧
    savedCrew.tiles.length ≤ (freeTiles crewState 0).length ∧ savedNeed savedCrew = 0 := by decide +kernel
theorem wit_KilnFires : victimFor kilnState 0 = none ∧
    (match choose kilnState 0 with | (some g, _) => decide (g = aSag 2 .due [9]) | _ => false) = true ∧
    (match choose mapped 0 with | (none, _) => true | _ => false) = true ∧ victimFor mapped 0 = none ∧
    (∀ h ∈ kilnState.saggars, h.sid = 2 → h = aSag 2 .due [9]) ∧ saggarRecs kilnState (aSag 2 .due [9]) = [aRec 9 (.saggar 2)] ∧
    (launchOf kilnState 0).isSome = true ∧ (aRec 9 (.saggar 2)).kind = .normal ∧ laneCount (aRec 9 (.saggar 2)).mask = 32 ∧
    namesEntry (aRec 9 (.saggar 2)) = false ∧
    (match launchOf kilnState 0 with
      | some l => decide (liveCheck kilnState l (aRec 9 (.saggar 2)) = .ok ∧ restored kilnState l (aRec 9 (.saggar 2)) = aRec 9 (.saggar 2))
      | none => false) = true ∧
    mwf 0 (aRec 9 (.saggar 2)).v = true := by decide +kernel
/-- A record whose live-map entry is the first of a table at 0x4000. -/
theorem wit_LiveEntry : namesEntry { aRec 9 (.saggar 2) with livemap := 1 } = true ∧ namesEntry { aRec 9 (.saggar 2) with livemap := 0xFEFF } = true ∧
    (match launchOf mapped 0 with
      | some l => let m := { l with image := { l.image with livetab := 0x4000 } }
          (readVa mapped (liveSpace m) (entryVa m { aRec 9 (.saggar 2) with livemap := 1 } + 8) 192).isSome
      | none => false) = true := by decide +kernel
theorem wit_TakeLanes : (takeLanes 0 [aRec 1 .parked, { aRec 2 .parked with mask := 1 }]).2.length = 1 ∧
    (takeLanes 0 [{ aRec 1 .parked with mask := 0x7FFFFFFF }, { aRec 2 .parked with mask := 1 }]).2 = [] := by decide +kernel

/-- A marked warp at a number of cycles, a record that waits for a barrier, one that stands in a saggar, and a launch whose seeds are
held from cycle 5. -/
def watched (n : Nat := 0) : State := { setWarp mapped (fun w => { w with marked := true, markedAt := 0 }) with
  now := n, launches := mapped.launches.map (fun l => { l with hold := some 5, hwdog := 1000, seglim := 100 })
  recs := [aRec 9 .parked (eventOf 5 17), aRec 10 (.kept 1)] }
theorem wit_Watchdogs : (watched).warp.entries ≠ [] ∧ (watched).warp.marked = true ∧ (watched).warp.wait = none ∧
    (setWarp (watched) fun w => { w with wait := some 3 }).warp.wait = some 3 ∧
    (watched 63999).now < (watched).warp.markedAt + 64000 ∧ (watched).warp.markedAt + 64000 ≤ (watched 64000).now ∧
    (match launchOf (watched) 0 with
      | some l => decide (l.hold = some 5 ∧ l.suspended = false ∧ 5 + 4000 * l.hwdog.toNat < (watched 4000006).now ∧
          (watched).warp.firedAt + 4000 * l.seglim.toNat < (watched 400001).now ∧
          (watched 400000).now ≤ (watched).warp.firedAt + 4000 * l.seglim.toNat) | none => false) = true := by decide +kernel
/-- A record of crew 0 that waits for instance 0 of barrier 5, which has not passed. -/
def barWait : Rec := { aRec 9 .parked (eventOf 5 5) with crew := some 0 }
def barState (n : Nat) : State :=
  { squad 0 [] with now := n, recs := [barWait], launches := (watched).launches }
theorem wit_Hwdog : (barState 0).recs.find? (fun x => decide (x.rid = 9)) = some barWait ∧
    countedSince (barState 0) barWait = some 0 ∧ firable (barState 0) 0 0 = true ∧ eventHolds (barState 0) barWait = false ∧
    (launchOf (barState 0) 0).map (·.hwdog) = some 1000 ∧
    (barState 4000000).now ≤ 0 + 4000 * 1000 ∧ 0 + 4000 * 1000 < (barState 4000001).now := by decide +kernel
/-- A record of crew 0 that waits for an accumulator, of which none is taken. -/
def accWait : Rec := { aRec 9 .parked (eventOf 10 1) with crew := some 0 }
def accFree : State := { squad 0 [] with recs := [accWait] }
theorem wit_Hwdog_met : countedSince accFree accWait = some 0 ∧ accWait.place = .parked ∧ eventHolds accFree accWait = true ∧
    accFree.recs.find? (fun x => decide (x.rid = accWait.rid)) = some accWait := by decide +kernel
theorem wit_SoftErrors : (setWarp (watched) fun w => { w with runs := 2 }).warp.runs = 2 ∧ (watched).warp.runs < 2 ∧
    (watched).warp.nonReplay = false ∧ (setWarp (watched) fun w => { w with nonReplay := true }).warp.nonReplay = true ∧
    (∀ w ∈ (watched).bench, w.uid ≠ (watched).warp.uid) ∧ (∀ k ∈ (watched).crews, k.moving = none) ∧ (watched).warp.priv = 0 ∧
    (watched).warp.held = [] ∧ ((watched).recs.map (·.rid)).Nodup ∧ (aRec 10 (.kept 1)).place = .kept (watched).warp.uid := by
  decide +kernel
/-- The watched machine with a firmware leader, at the end of a cone epoch. -/
def ledBy : State := { State.reset with fwCores := [⟨true, 0, some true, 0, 0⟩], lease := ⟨0, 0, 1000⟩, now := 400000 }
theorem wit_ConeEpoch : leaderOf ledBy ≠ none ∧ 4095 ≤ 4095 ∧ ledBy.epochAt + 400000 ≤ ledBy.now ∧ ledBy.coneOver = false ∧
    leaderOf State.reset = none := by decide +kernel
/-! Slices, controllers and links. -/

/-- A line's miss entry whose fill has come, and which the L1 of core 3 is to hold. -/
def aMiss : MissEnt := ⟨0x200, 0, none, 3, 0x0102, some 0x5A, true, [3]⟩
def filling : State := { State.reset with misses := [aMiss], live := [0] }
theorem wit_MissFill : missOf filling 0x200 = some aMiss ∧ aMiss.fill = some 0x5A ∧ mget none filling.llc 0x200 = none ∧
    filling.wbufs = [] ∧ filling.waitReqs = [] ∧ missOf filling 0x600 = none := by decide +kernel
theorem wit_MissFill_room : SetRoom filling 0x200 1 ∧ ∀ c ∈ aMiss.l1, L1Room filling c 1 :=
  ⟨setRoom_of (by decide +kernel), fun _ _ => l1Room_of (by decide +kernel)⟩
/-- A miss entry for a line, beside a dirty line of the same slice. -/
def evicting (line v : Nat) : State :=
  { State.reset with misses := [{ aMiss with line := line }], llc := [(v, some ⟨.dirty, 0x77, 0⟩)], live := [0] }
theorem slice_far (s : State) (hs : s.pkg = 0) (i : Nat) (hi : i < 8193) : sliceOf s (i * 32768) = 0 := by
  have h1 : i * 32768 * 128 / 2 ^ 46 = 0 := by omega
  have h2 : i * 32768 * 128 % 2 ^ 46 / 0x3000000000 = 0 := by omega
  have h3 : bitsOf (i * 32768 * 128) 11 7 = 0 := by simp only [bitsOf]; omega
  have h4 : bitsOf (i * 32768 * 128) 16 12 = 0 := by simp only [bitsOf]; omega
  have h5 : bitsOf (i * 32768 * 128) 21 17 = 0 := by simp only [bitsOf]; omega
  simp only [sliceOf, homeSlice, hs, h1, h2, h3, h4, h5, if_true]
  rfl
/-- Lines 4 MiB apart lie in one slice, so two of 8,193 share a set, and one may give way to the other. -/
theorem wit_Victim : ∃ line v, victimOk (evicting line v) line v = true ∧ mget none (evicting line v).llc v = some ⟨.dirty, 0x77, 0⟩ ∧
    missOf (evicting line v) line = some { aMiss with line := line } ∧ mget none (evicting line v).llc line = none ∧
    missOf (evicting line v) v = none ∧ ctrlOf 0 (v * 128) < (evicting line v).ctrls.length ∧ (∀ y ∈ (evicting line v).l1, y.line ≠ v) ∧
    lineWrites (evicting line v) v = [] ∧ SetRoom (evicting line v) line 0 := by
  obtain ⟨i, j, hij, hf⟩ := Fintype.exists_ne_map_eq_of_card_lt (fun k : Fin 8193 => Config.llcSet (k.val * 32768)) (by simp)
  have hne : j.val * 32768 ≠ i.val * 32768 := fun h => hij (Fin.ext (by omega))
  refine ⟨i.val * 32768, j.val * 32768, ?_, ?_, ?_, ?_, ?_, ?_, ?_, ?_, ?_⟩
  · have hi := slice_far (evicting (i.val * 32768) (j.val * 32768)) rfl i.val i.isLt
    have hj := slice_far (evicting (i.val * 32768) (j.val * 32768)) rfl j.val j.isLt
    simp only [victimOk, sameSet, hi, hj, hf.symm, hne, decide_true, Bool.and_true, ne_eq, not_false_eq_true]
    simp [evicting, mget]
  · simp [evicting, mget]
  · simp [evicting, missOf]
  · simp [evicting, mget, hne.symm]
  · simp [evicting, missOf, hne.symm]
  · have hp : ctrlOf 0 (j.val * 32768 * 128) = j.val * 32768 * 128 % 2 ^ 46 / 4096 % 12 := rfl
    rw [hp, show (evicting (i.val * 32768) (j.val * 32768)).ctrls.length = 12 from rfl]
    exact Nat.mod_lt _ (by decide)
  · intro y hy; simp [evicting, State.reset] at hy
  · simp [lineWrites, evicting, State.reset, Ctrl.reset]
  · exact setRoom_of (by simp [evicting])
/-- A line of another package that its slice owns, and lines in the L1 of core 0. -/
def remoteLine : Nat := 2 ^ 39
def owning : State :=
  { State.reset with domain := 2, llc := [(remoteLine, some ⟨.rown, 0x77, 0⟩)], l1 := [⟨0, 5, 0, 1, true⟩, ⟨0, 6, 0, 2, false⟩] }
theorem wit_Writeback : owning.l1.find? (fun y => decide (y.core = 0 ∧ y.line = 5)) = some ⟨0, 5, 0, 1, true⟩ ∧
    (∀ y ∈ owning.l1, y.line = 5 → y.writable = true → y.core = 0) ∧ owning.wbufs = [] ∧ owning.waitReqs = [] ∧
    owning.l1.find? (fun y => decide (y.core = 0 ∧ y.line = 6)) = some ⟨0, 6, 0, 2, false⟩ ∧
    (∀ y ∈ owning.l1, y.core = 0 → y.line = 6 → y.writable = false) ∧ missOf owning 5 = none ∧ missOf owning 6 = none ∧
    5 / 2 ^ 39 = owning.pkg ∧ remoteLine / 2 ^ 39 ≠ owning.pkg ∧ mget none owning.llc remoteLine = some ⟨.rown, 0x77, 0⟩ ∧
    missOf owning remoteLine = none ∧ (∀ y ∈ owning.l1, y.line ≠ remoteLine) ∧ lineWrites owning remoteLine = [] ∧
    (15 : BitVec 128) ≠ fullMask := by decide +kernel
theorem wit_Writeback_room : SetRoom owning 5 1 := setRoom_of (by decide +kernel)

/-- A controller with a read for a miss entry, and another with a whole line to write; line 0x300 holds an error. -/
def readReq (line : Nat) (what : CtrlFor) : CtrlReq := ⟨line, 0, none, none, 0, what, 1⟩
def controlled (line : Nat) (what : CtrlFor) : State :=
  { State.reset with ctrls := { Ctrl.reset with queue := [readReq line what], level := 2 } :: List.replicate 11 Ctrl.reset
                     misses := [{ aMiss with fill := none }], bad := [0x300], live := [0] }
theorem wit_Controllers : firstRead ((controlled 0x200 .fill).ctrls.getD 0 Ctrl.reset).queue [] = some (readReq 0x200 .fill) ∧
    lineErr (controlled 0x200 .fill) none 0x200 = none ∧ lineBad (controlled 0x200 .fill) 0x200 = false ∧
    missOf (controlled 0x200 .fill) 0x200 = some { aMiss with fill := none } ∧ (controlled 0x200 .fill).wbufs = [] ∧
    (controlled 0x200 .fill).waitReqs = [] ∧ (∀ x ∈ (controlled 0x200 .fill).misses, x.sent = true) ∧
    firstRead ((controlled 0x300 .resp).ctrls.getD 0 Ctrl.reset).queue [] = some (readReq 0x300 .resp) ∧
    lineErr (controlled 0x300 .resp) none 0x300 = some 1 ∧ lineErr (controlled 0x200 .resp) none 0x200 = none ∧
    firstWrite ((controlled 0x200 (.write fullMask 7)).ctrls.getD 0 Ctrl.reset).queue = some (readReq 0x200 (.write fullMask 7)) ∧
    lineWrites (controlled 0x200 (.write fullMask 7)) 0x200 = [readReq 0x200 (.write fullMask 7)] ∧
    firstRead ((controlled 0x200 (.write fullMask 7)).ctrls.getD 0 Ctrl.reset).queue [] = none ∧
    firstWrite ((controlled 0x200 .fill).ctrls.getD 0 Ctrl.reset).queue = none ∧
    (controlled 0x200 .fill).ctrls[0]? = some { Ctrl.reset with queue := [readReq 0x200 .fill], level := 2 } ∧ 512 ≤ 512 ∧
    0 < ((controlled 0x200 .fill).ctrls.getD 0 Ctrl.reset).queue.length := by
  decide +kernel

/-- Two links up, the first with groups to send again, the first of which the far end has; k failures of its groups. -/
def aLink (fails : Nat) : Link :=
  { Link.reset 0 with up := true, fails := fails, txBuf := [⟨2, 6, 0⟩, ⟨3, 7, 0⟩], acked := 1, asked := 3, askedRun := 8 }
def linked (fails : Nat) : State := { State.reset with domain := 2, links := [aLink fails, { Link.reset 1 with up := true }] }
theorem wit_Links : (linked 8).links[0]? = some (aLink 8) ∧ (linked 9).links[0]? = some (aLink 9) ∧ 8 < (aLink 9).fails ∧
    (aLink 8).fails ≤ 8 ∧ (aLink 8).askedRun ≤ 8 ∧ (aLink 8).txBuf.length ≤ 8 ∧ (aLink 8).txBuf[1]? = some ⟨3, 7, 0⟩ ∧
    (∀ i h, i < 1 → (aLink 8).txBuf[i]? = some h → h.seq ≠ 3) ∧
    (linked 9).links[1]? = some { Link.reset 1 with up := true } := by
  refine ⟨rfl, rfl, by decide, by decide, by decide, by decide, rfl, ?_, rfl⟩
  intro i h hi hh
  obtain rfl : i = 0 := by omega
  simp [aLink] at hh
  rw [← hh]; decide
theorem wit_Links_alone : ({ linked 9 with links := (linked 9).links.take 1 } : State).links.length = 1 ∧
    State.reset.links[0]? = some (Link.reset 0) ∧ (Link.reset 0).up = false ∧ 1 < (linked 9).domain ∧ 1 ≠ (linked 9).pkg := by decide +kernel
theorem wit_Beacons : State.reset.gtc.aligned = false ∧ State.reset.gtc.trained = false ∧
    State.reset.now < State.reset.gtc.beaconAt + 40000000 ∧
    ({ State.reset with now := 40000000 } : State).gtc.beaconAt + 40000000 ≤ ({ State.reset with now := 40000000 } : State).now := by decide +kernel

/-! Queues and packets. -/

/-- A queue at 0x10000 with its ring of 16 packets at 0x20000. -/
def aQueue (slot : Option Nat) : Queue := ⟨0x10000, 0, 0, 0x20000, 4, 0, true, 0, 0, false, false, slot, false, false⟩
/-- A packet of a kind that the queue has given, with its bytes from byte 16 on as a number. -/
def aPkt (kind x : Nat) (st : PktState := .accepted) : Packet :=
  ⟨5, some 0x10000, 0, BitVec.ofNat 512 (kind * 256 + x * 2 ^ 128), 0, 0, true, st, 0, none, [], [], [], none, 0⟩
/-- mapped with a packet of that queue, and lines in L1. -/
def withPacket (p : Packet) (l : List L1Line := []) : State :=
  { mapped with packets := [p], queues := [aQueue (some 0)], l1 := l ++ tables, domain := 2 }
/-- The test of TakesUp. -/
def mayTake (s : State) (p : Packet) (kind : Nat) : Bool :=
  decide (findPkt s p.pid = some p) && decide (pktKind p = kind) && !badKind p && (decide (p.st = .started) || (decide (p.st = .accepted) &&
    canStart s p && !headBad p))
theorem takes {s : State} {p : Packet} {kind : Nat} (h : mayTake s p kind = true) : TakesUp s p kind := by
  simp only [mayTake, Bool.and_eq_true, Bool.or_eq_true, decide_eq_true_eq, Bool.not_eq_true'] at h
  obtain ⟨⟨⟨h1, h2⟩, h0⟩, h3 | ⟨⟨h3, h4⟩, h5⟩⟩ := h
  · exact ⟨h1, h2, h0, .inr h3⟩
  · exact ⟨h1, h2, h0, .inl ⟨h3, h4, h5⟩⟩
/-- The test of Calm. -/
def quiet (s : State) : Bool := s.puts.isEmpty && s.crews.all fun k => !saveWanted s k && k.moving.isNone
theorem calm_of {s : State} (h : quiet s = true) : Calm s := by
  simp only [quiet, Bool.and_eq_true, List.isEmpty_iff, List.all_eq_true, Bool.not_eq_true', Option.isNone_iff_eq_none] at h
  exact ⟨h.1, fun k hk => ⟨(h.2 k hk).1, fun p => by simp [(h.2 k hk).2]⟩⟩

def queued (slot : Option Nat) (rd : Nat) (leaf : Nat := 0xE000000000000007) : State :=
  { mapped with queues := [aQueue slot], boot := { State.reset.boot with ready := true }
                l1 := [putAt 0x10000 (3 + rd * 2 ^ 64), putAt 0x20000 (0x80 + 9 * 256)] ++ tables leaf }
theorem wit_Queues : queueAt (queued none 0) 0 0x10000 = some (aQueue none) ∧ queueLive (queued none 0) (aQueue none) = true ∧
    queueWork (queued none 0) (aQueue none) = true ∧ (mappedQueues (queued none 0)).length < 256 ∧ (queued none 0).boot.ready = true ∧
    (queued none 0).queues.length ≤ 256 ∧ ((queued none 0).queues.map fun q => (q.vi, q.hva)).Nodup := by decide +kernel
/-- queued beside 256 queues that hold every slot from cycle 7 on, at a number of cycles. -/
def crowdedQueues (n : Nat) : State :=
  { queued none 0 with now := n, queues := aQueue none :: (List.range 256).map fun i => { aQueue (some 7) with hva := 0x30000 + 64 * i } }
theorem wit_Queues_full : 256 ≤ (mappedQueues (crowdedQueues 0)).length ∧
    oldestMapped (mappedQueues (crowdedQueues 0)) = some { aQueue (some 7) with hva := 0x30000 } ∧
    queueAt (crowdedQueues 0) 0 0x30000 = some { aQueue (some 7) with hva := 0x30000 } ∧
    queueAt (crowdedQueues 0) 0 0x10000 = some (aQueue none) ∧ queueWork (crowdedQueues 0) (aQueue none) = true ∧
    (crowdedQueues 8000006).now < 7 + 8000000 ∧ 7 + 8000000 ≤ (crowdedQueues 8000007).now := by decide +kernel
theorem wit_Accepts : queueAt (queued (some 0) 0) 0 0x10000 = some (aQueue (some 0)) ∧
    queueLive (queued (some 0) 0) (aQueue (some 0)) = true ∧
    read64 (queued (some 0) 0) (ctlSpace (aQueue (some 0))) (0x10000 + 8) = some 0 ∧
    read64 (queued (some 0) 16) (ctlSpace (aQueue (some 0))) (0x10000 + 8) = some 16 ∧
    ((readVa (queued (some 0) 0) { vi := 0, asid := 0, user := true } 0x20000 64).map fun bs => numAt bs 0 1) = some 0x80 ∧
    (writeVa { queued (some 0) 0 with fresh := 2 } (ctlSpace (aQueue (some 0))) (0x10000 + 8) (bytesOfNat 8 1)).isSome = true ∧
    quiet (queued (some 0) 0) = true := by decide +kernel
/-- INDIRECT of one packet at 0x10000, and as a packet of another's block. -/
def indirectPkt : Packet := aPkt 8 (0x10000 + 2 ^ 64)
theorem wit_Packets : mayTake (withPacket (aPkt 9 0)) (aPkt 9 0) 9 = true ∧ mayTake (withPacket (aPkt 9 1)) (aPkt 9 1) 9 = true ∧
    pktNum (aPkt 9 1) 16 48 ≠ 0 ∧ mayTake (withPacket indirectPkt) indirectPkt 8 = true ∧ indirectPkt.parent = none ∧
    mayTake (withPacket { indirectPkt with parent := some 4 }) { indirectPkt with parent := some 4 } 8 = true ∧
    pktNum indirectPkt 24 4 = 1 ∧ pktNum indirectPkt 28 36 = 0 ∧ pktNum indirectPkt 16 8 % 64 = 0 ∧
    asidOk (withPacket indirectPkt) 0 0 = true ∧ asidOk (withPacket { indirectPkt with asid := 1 }) 0 1 = false ∧
    (match engineBytes (withPacket indirectPkt [putAt 0x10000 9]) (pktSpace indirectPkt) 0x10000 64 with | .ok _ => true | _ => false)
      = true := by decide +kernel
/-- A packet done with its work that raises the word at 0x10000 to 5, and one that has failed in its queue. -/
def ending : Packet := { aPkt 9 0 .moved with raw := BitVec.ofNat 512 (9 * 256 + 0x40 * 2 ^ 16 + 5 * 2 ^ 24 + 0x10000 * 2 ^ 64) }
def broken : Packet := { aPkt 1 0 .failed with status := 3 }
theorem wit_Completes : findPkt (withPacket ending) 5 = some ending ∧ cwRaised ending = true ∧ pktSeq ending = 5 ∧ pktCw ending = 0x10000 ∧
    quiet (withPacket ending) = true ∧
    findPkt { queued (some 0) 0 with packets := [broken] } 5 = some broken ∧ cwRaised broken = false ∧
    translate { queued (some 0) 0 with packets := [broken] } (ctlSpace (aQueue (some 0))) (0x10000 + 32) true false
      = .ok { at64k with loc := .dev 0x10020 } ∧ 0x10020 % 8 = 0 ∧ quiet { queued (some 0) 0 with packets := [broken] } = true ∧
    translate { queued (some 0) 0 0xE000000000000005 with packets := [broken] } (ctlSpace (aQueue (some 0))) (0x10000 + 32) true false
      = .nores 2 := by decide +kernel
/-- The translation of an address whose leaf, of every permission, its lookup finds (R122). -/
theorem translate_of {s : State} {sp : Space} {va : Nat} {e : DWord} {w : Bool} (h52 : va < 2 ^ 52)
    (hl : lookup s sp.vi sp.asid va = .leaf e 2) (he : e.getLsbD 61 = true ∧ e.getLsbD 62 = true ∧ e.getLsbD 1 = true) :
    translate s sp va w false = .ok (leafXlat s sp.asid va e 2) := by
  unfold Machine.translate
  rw [if_neg (Nat.not_le.mpr h52), hl]
  simp only [he.1, he.2.1, he.2.2, Bool.not_true, Bool.and_false, Bool.false_and, Bool.false_eq_true, if_false, if_true]
/-- The same after a touch of the address. -/
theorem wit_Completes_word : translate (tlbTouch (withPacket ending) 0 0 0x10000) (pktSpace ending) 0x10000 true false = .ok at64k := by
  rw [translate_of (e := 0xE000000000000007) (by decide) (lookup_of (t := cachedLeaf) (e := 0xE000000000000007) (by decide +kernel)
    (by decide) (by decide +kernel) (by decide +kernel) (by decide +kernel)) (by decide)]
  exact congrArg _ (by decide +kernel)

/-- COPY of 4 bytes at the end of a line, of a pattern, and of no bytes. -/
def copyPkt : Packet := aPkt 1 (0x1007C + 0x2007C * 2 ^ 64 + 4 * 2 ^ 128)
def fillPkt : Packet := aPkt 1 (0x20000 * 2 ^ 64 + 128 * 2 ^ 128 + 2 ^ 14 * 2 ^ 192 + 0x04030201 * 2 ^ 256)
def farPkt : Packet := aPkt 1 (0x1007C + 2 ^ 40 * 2 ^ 64 + 4 * 2 ^ 128)
theorem wit_Copy : mayTake (withPacket copyPkt) copyPkt 1 = true ∧ mayTake (withPacket fillPkt) fillPkt 1 = true ∧ copyBad copyPkt = false ∧
    copyBad fillPkt = false ∧ copyCheck (withPacket copyPkt [putAt 0x10000 0]) copyPkt = .ok ∧ (copyOf fillPkt).fill = true ∧
    copyCheck (withPacket fillPkt) fillPkt = .ok ∧ (copyOf copyPkt).src % 128 + (copyOf copyPkt).len = 128 ∧
    (copyOf copyPkt).dtile = false ∧ copyBad (aPkt 1 0) = true ∧ mayTake (withPacket (aPkt 1 0)) (aPkt 1 0) 1 = true ∧
    copyBad farPkt = false ∧ mayTake (withPacket farPkt) farPkt 1 = true ∧ copyCheck (withPacket farPkt) farPkt = .status 3 := by
  decide +kernel
theorem wit_Copy_lines : translate (tlbTouch (copyBytes (withPacket fillPkt) fillPkt).1 0 0 0x20000) (pktSpace fillPkt) 0x20000 true false
      = .ok { at64k with loc := .dev 0x20000 } ∧ missOf (copyBytes (withPacket fillPkt) fillPkt).1 (0x20000 / 128) = none ∧
    translate (tlbTouch (withPacket copyPkt) 0 0 0x10000) (pktSpace copyPkt) 0x10000 false false = .ok at64k := by
  refine ⟨?_, by decide +kernel, ?_⟩
  all_goals
    rw [translate_of (e := 0xE000000000000007) (by decide) (lookup_of (t := cachedLeaf) (e := 0xE000000000000007) (by decide +kernel)
      (by decide) (by decide +kernel) (by decide +kernel) (by decide +kernel)) (by decide)]
    exact congrArg _ (by decide +kernel)
/-- A layout record at 0x4000: FP32, two rows of four, based at 0x10000 (R128); the second is encrypted. -/
def layNum (base : Nat) : Nat := base + 2 * 2 ^ 76 + (4 + 2 ^ 24) * 2 ^ 128 + (2 + 4 * 2 ^ 24) * 2 ^ 192
  + (1 + 2 ^ 12 + 2 ^ 24 + 2 ^ 36 + 4095 * 2 ^ 48) * 2 ^ 576
def layBytes (enc : Bool := false) : List Byte := bytesOfNat 132 (layNum 0x10000 + if enc then encBit else 0)
where encBit : Nat := 2 ^ 81
/-- TCOPY of the 2 by 4 panel into tile 5 of core 0 or out of it. -/
def tcopyPkt (out : Nat) (lrec : Nat := 0x4000) (tile : Option (Nat × Nat × Nat × Nat) := none) (st : PktState := .accepted)
    (enc : Bool := false) : Packet :=
  { aPkt 2 (lrec + (2 + 4 * 2 ^ 14 + 2 ^ 28 + out * 2 ^ 31 + 5 * 2 ^ 32) * 2 ^ 208) st with
    tile := tile, buf := if tile.isSome then layBytes enc else [] }
def paneled (p : Packet) : State := withPacket p [putAt 0x4000 (layNum 0x10000), putAt 0x10000 0x3F800000]
/-- The TCOPYs that hold their tile. -/
def held (out : Nat) (enc : Bool := false) : Packet := tcopyPkt out 0x4000 (some (0, 5, 0, 128)) .started enc
theorem wit_Tcopy : mayTake (paneled (tcopyPkt 0)) (tcopyPkt 0) 2 = true ∧
    (match tcopyCheck (paneled (tcopyPkt 0 0x4001)) (tcopyPkt 0 0x4001) with | .status c => decide (c = 1) | _ => false) = true ∧
    (match tcopyCheck (paneled (tcopyPkt 0)) (tcopyPkt 0) with
      | .ok x _ => decide (x.rows = 2 ∧ x.cols = 4 ∧ x.lines = [512]) | _ => false) = true ∧
    mayTake (paneled (held 0)) (held 0) 2 = true ∧ (panelAt (held 0)).lay.enc = false ∧ hasRead (held 0) (panelAt (held 0)).lines = false ∧
    (((panelAt (held 0)).lines.filter fun l => !((held 0).got.any fun e => e.1 = l)).filter
      (fun l => decide (lineCheck (paneled (held 0)) (pktSpace (held 0)) (panelAt (held 0)).lay.glz l false = .ok))) = [512] := by
  decide +kernel
theorem wit_TcopyLost : (panelAt (held 0 true)).lay.enc = true ∧ (keyFor (paneled (held 0 true)) 0 (panelAt (held 0 true)).lay.key).isNone = true ∧
    mayTake (paneled (held 0 true)) (held 0 true) 2 = true := by decide +kernel
theorem wit_TcopyOut : (tcopyOf (held 1)).out = true ∧ (held 1).done = [] ∧ mayTake (paneled (held 1)) (held 1) 2 = true ∧
    linesCheck (paneled (held 1)) (pktSpace (held 1)) (panelAt (held 1)).lay.glz true
      ((((panelAt (held 1)).cells (padBytes (paneled (held 1)) 0 5 0 16384)).map fun c => c.1 / 128).dedup) = .ok := by decide +kernel
theorem wit_TakeTile : (tileAt mapped 0 5).hold = false ∧ (tileAt mapped 0 5).thread = false ∧ (tileAt mapped 0 5).mxr = 0 ∧
    (tileAt mapped 0 5).crew = some (0, 2 ^ 32 + 1) ∧ (launchOf mapped 0).map (·.vi) = some 0 ∧ (aPkt 1 0).vi = 0 ∧
    ({ aPkt 1 0 with vi := 1 } : Packet).vi ≠ 0 := by decide +kernel
/-- A COPY of 256 bytes into a tile's last two lines, from 0x10000 or of a pattern, that has read its source lines got and written the
lines d. -/
def filler (d : List Nat) (fill : Nat := 0) (got : List (Nat × Line) := [(512, 0x0201), (513, 0x0403)]) : Packet :=
  { aPkt 1 ((1 - fill) * 0x10000 + (5 + 16128 * 2 ^ 14) * 2 ^ 64 + 256 * 2 ^ 128 + (2 ^ 12 + fill * 2 ^ 14) * 2 ^ 192
      + fill * 0x04030201 * 2 ^ 256) .started with tile := some (0, 5, 16128, 256), got := got, done := d }
theorem wit_TileLines : findPkt (withPacket (filler [126])) 5 = some (filler [126]) ∧ 127 ∈ lineSpan 16128 256 ∧ 127 ∉ (filler [126]).done ∧
    ((fillCells (filler [126]) 127).map fun cs => cs.take 2) = some [(16256, 3), (16257, 4)] ∧
    ((fillCells (filler [126] 1) 127).map fun cs => cs.take 2) = some [(16256, 1), (16257, 2)] ∧
    (copyOf (filler [126])).len = 256 ∧ hasRead (filler []) (vaLines 0x10000 256) = true ∧ (copyOf (filler [])).src = 0x10000 ∧
    quiet (withPacket (filler [126])) = true ∧ (∀ l ∈ lineSpan 16128 256, l ∈ (filler [126, 127]).done) := by decide +kernel
/-- A holder whose tile's crew is staged and stands, and one whose crew has ended. -/
def holding (here : Bool) : State :=
  { withPacket (filler [126, 127]) with crews := if here then mapped.crews.map fun k => { k with staged := true } else [] }
theorem wit_TileHolders : quiet (holding true) = true ∧ (∀ k ∈ (holding true).crews, k.staged = true) ∧
    (tileAt (holding true) 0 5).crew = some (0, 2 ^ 32 + 1) ∧ (crewAt (holding true) 0 (2 ^ 32 + 1)).isSome = true ∧
    crewAt (holding false) 0 (2 ^ 32 + 1) = none ∧ quiet (holding false) = true ∧
    findPkt (holding true) 5 = some (filler [126, 127]) := by decide +kernel
theorem wit_TileReads : mayTake (withPacket (filler [] 0 [])) (filler [] 0 []) 1 = true ∧ (copyOf (filler [] 0 [])).dtile = true ∧
    (copyOf (filler [] 0 [])).fill = false ∧
    (((vaLines 0x10000 256).filter fun l => !((filler [] 0 []).got.any fun e => e.1 = l)).filter fun l =>
      decide (lineCheck (withPacket (filler [] 0 [])) (pktSpace (filler [] 0 [])) (copyOf (filler [] 0 [])).sglz l false = .ok))
      = [512, 513] := by decide +kernel
/-- STAGE of a region, of one without bytes, and through a stream that is not loaded. -/
def stagePkt (x : Nat := 0x10000 + 128 * 2 ^ 64) : Packet := aPkt 3 x
theorem wit_Stage_packet : mayTake (withPacket (stagePkt)) (stagePkt) 3 = true ∧ mayTake (withPacket (stagePkt 0)) (stagePkt 0) 3 = true ∧
    (([16, 32, 48].map fun b => pktNum (stagePkt) b 16).filter fun x => decide (x ≠ 0)) = [0x10000 + 128 * 2 ^ 64] ∧
    regionBad (0x10000 + 128 * 2 ^ 64) = false ∧ (regionOf16 (0x10000 + 128 * 2 ^ 64)).tile = none ∧
    streamCheck mapped 0 (regionOf16 (0x10000 + 128 * 2 ^ 64)).glz false = none ∧ regionBad 0x10000 = true ∧
    mayTake (withPacket (stagePkt 0x10000)) (stagePkt 0x10000) 3 = true ∧
    streamCheck mapped 0 (regionOf16 (0x10000 + 128 * 2 ^ 64 + 5 * 2 ^ 96)).glz false ≠ none := by
  decide +kernel
def staging (glz : BitVec 6) : State :=
  { mapped with stageOps := [{ stageOp (.saggar 2) ⟨0x10000, 128, glz, none, true⟩ 0 0 0 none with id := 7 }] }
theorem wit_Stage_region : (match (staging 0).stageOps[0]? with
      | some o => decide (o.phys = none ∧ stageCheck (staging 0) o = .ok ∧ o.region.base % 128 + o.region.len ≤ 128 ∧ 0 < o.region.len)
      | none => false) = true ∧
    (match (staging 9).stageOps[0]? with | some o => decide (stageCheck (staging 9) o = .status 7) | none => false) = true ∧
    (staging 0).wbufs = [] ∧ (staging 0).waitReqs = [] ∧ missOf (staging 0) 512 = none ∧ lineBad (staging 0) 512 = false ∧
    0x10000 / 2 ^ 46 = mapped.pkg := by decide +kernel
theorem wit_Stage_line : SetRoom (staging 0) 512 1 ∧
    translate (tlbTouch (staging 0) 0 0 0x10000) { vi := 0, asid := 0, user := true } 0x10000 false false = .ok at64k := by
  refine ⟨setRoom_of (by decide +kernel), ?_⟩
  rw [translate_of (e := 0xE000000000000007) (by decide) (lookup_of (t := cachedLeaf) (e := 0xE000000000000007) (by decide +kernel)
    (by decide) (by decide +kernel) (by decide +kernel) (by decide +kernel)) (by decide)]
  exact congrArg _ (by decide +kernel)
/-- A region for the last line of tile 1 that the stage engine has read. -/
def tileStaging : State := { mapped with stageOps := [{ stageOp (.saggar 2) ⟨0x10000, 3, 0, some (1, 16256), true⟩ 0 0 0 (some 5) with
  id := 7, started := true, buf := [1, 2, 3] }] }
theorem wit_Stage_tileLine : (match tileStaging.stageOps[0]? with
      | some o => decide (o.phys = some 5 ∧ o.region.tile = some (1, 16256) ∧ o.started = true ∧ o.buf ≠ [] ∧ o.buf.length = o.region.len ∧
          127 ∈ stageLeft o) | none => false) = true ∧ 16256 % 128 = 0 ∧ quiet tileStaging = true := by decide +kernel

/-- GLZLOAD on stream 5, whose state is given, its configuration at 0x10000 (R87 to R90). -/
def glzPkt (op ava hva : Nat) : Packet := aPkt 4 (op + 20 + ava * 2 ^ 64 + hva * 2 ^ 128)
def glazed (st : StreamState) (p : Packet) (cfg : Nat := 0x101) (pending : Option (Option (BitVec 8192)) := none) : State :=
  { withPacket p with
    l1 := tables ++ putAt 0x10000 cfg :: (List.range 7).map fun i => putAt (0x10080 + 128 * i) 0
    streams := [(5, { st := st, cfg := 0, pending := pending, unbind := false, pid := none, hsat := false })] }
theorem wit_Glaze : mayTake (glazed (.bound 0) (glzPkt 0 0x10000 0)) (glzPkt 0 0x10000 0) 4 = true ∧ glzBad (glzPkt 0 0x10000 0) = false ∧
    mayTake (glazed (.loaded 0) (glzPkt 1 0 0)) (glzPkt 1 0 0) 4 = true ∧ mayTake (glazed (.loaded 0) (glzPkt 3 0x10000 0)) (glzPkt 3 0x10000 0) 4 = true ∧
    glzBad (glzPkt 1 0 0) = false ∧ glzBad (glzPkt 3 0x10000 0) = false ∧ glzStream (glzPkt 3 0 0) = 5 ∧
    (streamOf (glazed (.bound 1) (glzPkt 0 0x10000 0)) 5).st = .bound 1 ∧ (streamOf (glazed (.loaded 0) (glzPkt 1 0 0)) 5).changing = false ∧
    cfgBad (BitVec.ofNat 8192 0) = true ∧ cfgBad (BitVec.ofNat 8192 0x101) = false ∧ cfgMode (BitVec.ofNat 8192 0x101) 5 = false ∧
    cfgBad (BitVec.ofNat 8192 0x2101) = false ∧ cfgMode (BitVec.ofNat 8192 0x2101) 5 = true ∧
    checkRange (glazed (.loaded 0) (glzPkt 2 0x10000 0)) (pktSpace (glzPkt 2 0x10000 0)) 0x10000 64 true = .ok ∧
    pktNum (glzPkt 2 0x10000 0) 32 8 = 0 ∧
    (writeVa (setStream (glazed (.loaded 0) (glzPkt 2 0x10000 0)) 5 fun q => q) (pktSpace (glzPkt 2 0x10000 0)) 0x10000
      (sideRecord (glazed (.loaded 0) (glzPkt 2 0x10000 0)) 5 false)).isSome = true := by decide +kernel
theorem wit_Glaze_config : (match engineBytes (glazed (.bound 0) (glzPkt 0 0x10000 0)) (pktSpace (glzPkt 0 0x10000 0)) 0x10000 1024 with
    | .ok bs => decide (natOfBytes bs = 0x101) | _ => false) = true ∧
    (match engineBytes { glazed (.bound 0) (glzPkt 0 0x10000 0) 0x2101 with histOwner := some (.stream 9) } (pktSpace (glzPkt 0 0x10000 0)) 0x10000 1024 with
    | .ok bs => decide (natOfBytes bs = 0x2101) | _ => false) = true := by decide +kernel
theorem wit_GlazeDrain : streamBusy (glazed (.loaded 0) (glzPkt 0 0 0)) 5 = false ∧
    (streamOf (glazed (.loaded 0) (glzPkt 0 0 0) 0x101 (some (some 0x101))) 5).pending = some (some 0x101) ∧
    (streamOf (glazed (.loaded 0) (glzPkt 1 0 0) 0x101 (some none)) 5).pending = some none ∧
    streamBusy { glazed (.loaded 0) (glzPkt 0 0 0) with waitReqs := [⟨512, 0, none, none, 5, .resp, 1⟩] } 5 = true ∧
    (streamOf { glazed (.loaded 0) (glzPkt 1 0 0) with streams := [(5, ⟨.loaded 0, 0, some none, true, none, false⟩)] } 5).unbind = true := by
  decide +kernel
/-! Collectives, re-sharding and launches. -/

/-! The map of mapped, whatever a translation cache or a walk cache holds of it (R117). -/

theorem leaf_ok (s : State) (hd : 0 < s.domain) : leafBad s false 2 0xE000000000000007 = false := by
  have e1 : dbits (0xE000000000000007 : DWord) 55 16 = 0 := by decide +kernel
  have e2 : dbits (0xE000000000000007 : DWord) 57 56 = 0 := by decide +kernel
  have e3 : dbits (0xE000000000000007 : DWord) 11 4 = 0 := by decide +kernel
  have e4 : dbits (0xE000000000000007 : DWord) 59 58 = 0 := by decide +kernel
  have e5 : dbits (0xE000000000000007 : DWord) 15 14 = 0 := by decide +kernel
  unfold leafBad
  simp only [e1, e2, e3, e4, e5, hbmLimit]
  simp; omega
theorem walk_low (s : State) (h2 : readDpa64 s 0x2000 = 0xE000000000000007) (hd : 0 < s.domain) (va : Nat) (hv : va < 2 ^ 34) :
    walkFrom s false 0 va 3 0x2000 = .leaf 0xE000000000000007 2 := by
  have i2 : va / 2 ^ (16 + 9 * 2) % 512 = 0 := by rw [Nat.div_eq_of_lt (by omega)]
  have q4 : dbits (0xE000000000000007 : DWord) 3 2 = 1 := by decide +kernel
  have q9 : (0xE000000000000007 : DWord).getLsbD 0 = true := by decide +kernel
  rewrite [walkFrom]
  simp only [i2, Nat.zero_mul, Nat.zero_add, Nat.mul_zero, Nat.add_zero, h2, q9, q4, leaf_ok s hd, Bool.not_true, Bool.false_eq_true, if_false,
    if_true]
theorem walk_high (s : State) (h3 : readDpa64 s 0x1000 = 0x2001)
    (h2 : readDpa64 s 0x2000 = 0xE000000000000007) (hd : 0 < s.domain) (va : Nat) (hv : va < 2 ^ 34) :
    walkFrom s false 0 va 4 0x1000 = .leaf 0xE000000000000007 2 := by
  have i3 : va / 2 ^ (16 + 9 * 3) % 512 = 0 := by rw [Nat.div_eq_of_lt (by omega)]
  have q2 : dbits (0x2001 : DWord) 45 12 * 4096 = 0x2000 := by decide +kernel
  have q3 : dbits (0x2001 : DWord) 3 2 = 0 := by decide +kernel
  have q5 : dbits (0x2001 : DWord) 63 46 = 0 := by decide +kernel
  have q6 : dbits (0x2001 : DWord) 11 4 = 0 := by decide +kernel
  have q7 : (0x2001 : DWord).getLsbD 1 = false := by decide +kernel
  have q8 : (0x2001 : DWord).getLsbD 0 = true := by decide +kernel
  rewrite [walkFrom]
  simp only [i3, Nat.zero_mul, Nat.zero_add, Nat.mul_zero, Nat.add_zero, h3, q8, q3, q5, q6, q7, q2, walk_low s h2 hd va hv, Bool.not_true,
    Bool.false_eq_true, if_false]
  simp [hbmLimit]
/-- A doubleword of a line that an L1 holds for writing depends on the L1s alone. -/
theorem readDpa64_l1 (s t : State) (a n : Nat) (x : L1Line) (h : s.l1.find? (fun l => l.line = n && l.writable) = some x)
    (hf : t.l1.find? (fun l => l.line = n && l.writable) = some x) (ha : ∀ i, i < 8 → (a + i) / 128 = n) : readDpa64 s a = readDpa64 t a := by
  rw [readDpa64, readDpa64]
  refine congrArg (fun l => BitVec.ofNat 64 (natOfBytes l)) (List.map_congr_left fun i hi => ?_)
  rw [readDpa, readDpa, ha i (List.mem_range.mp hi), cohLine, cohLine, h, hf]
/-- A state that holds the two tables, and caches nothing of another map. -/
structure Tabled (s : State) : Prop where
  l3 : s.l1.find? (fun l => l.line = 0x20 && l.writable) = some (putAt 0x1000 0x2001)
  l2 : s.l1.find? (fun l => l.line = 0x40 && l.writable) = some (putAt 0x2000 0xE000000000000007)
  ent : asidEnt s 0 = ⟨1, 0x1000, 0⟩
  pkg : s.pkg = 0
  dom : 0 < s.domain
  tlb : ∀ t ∈ s.tlb, t.leaf = 0xE000000000000007 ∧ t.psz = 2
  ptrs : ∀ p ∈ s.ptrs, (p.level = 4 ∧ nextTable p.entry = 0x1000) ∨ (p.level = 3 ∧ nextTable p.entry = 0x2000)
theorem Tabled.lookup {s : State} (h : Tabled s) (va : Nat) (hv : va < 2 ^ 34) : lookup s 0 0 va = .leaf 0xE000000000000007 2 := by
  have r3 := (readDpa64_l1 s mapped 0x1000 0x20 (putAt 0x1000 0x2001) h.l3 (by decide +kernel) (by omega)).trans
    (by decide +kernel : readDpa64 mapped 0x1000 = 0x2001)
  have r2 := (readDpa64_l1 s mapped 0x2000 0x40 (putAt 0x2000 0xE000000000000007) h.l2 (by decide +kernel) (by omega)).trans
    (by decide +kernel : readDpa64 mapped 0x2000 = 0xE000000000000007)
  have b : (⟨1, 0x1000, 0⟩ : AsidEnt).budv = false := by decide +kernel
  have n : nextTable (0x1000 : DWord) = 0x1000 := by decide +kernel
  have hw : walk s 0 0 va = .leaf 0xE000000000000007 2 := by
    refine walk_of (fun p hp => ?_) ?_ ?_
    · rw [h.ent, h.pkg, b]
      rcases h.ptrs p hp with ⟨e1, e2⟩ | ⟨e1, e2⟩ <;> rw [e1, e2]
      · exact walk_high s r3 r2 h.dom va hv
      · exact walk_low s r2 h.dom va hv
    · rw [h.ent, h.pkg, b, n]
      exact walk_high s r3 r2 h.dom va hv
    · rw [h.ent]
      decide +kernel
  rw [Machine.lookup]
  split
  · exact hw
  · rename_i t ht
    have e := h.tlb t (List.mem_of_find?_eq_some ht)
    rw [e.1, e.2, hw, ite_self]
theorem Tabled.translate {s : State} (h : Tabled s) (user : Bool) (va : Nat) (w : Bool) (hv : va < 2 ^ 34) :
    translate s { vi := 0, asid := 0, user := user } va w false = .ok (leafXlat s 0 va 0xE000000000000007 2) :=
  translate_of (by omega) (h.lookup va hv) (by decide)
theorem Tabled.range {s : State} (h : Tabled s) (user : Bool) (va n : Nat) (w : Bool) (hv : va + n ≤ 2 ^ 34) :
    checkRange s { vi := 0, asid := 0, user := user } va n w = .ok := by
  rw [checkRange]
  split
  · rfl
  · have H : ∀ l : List Nat, (∀ j ∈ l, j < (va + n - 1) / 65536 + 1 - va / 65536) → l.foldl (fun r j => match r with
        | .ok => (match Machine.translate s { vi := 0, asid := 0, user := user } (if j = 0 then va else (va / 65536 + j) * 65536) w false with
          | .ok _ => .ok
          | .nores psz => .nores (if j = 0 then va else (va / 65536 + j) * 65536) psz
          | .malf => .status 4
          | .prot _ => .status 3)
        | r => r) RangeTr.ok = .ok := by
      intro l
      induction l with
      | nil => intro _; rfl
      | cons j l ih =>
        intro hl
        have hj := hl j (List.mem_cons_self ..)
        have e := h.translate user (if j = 0 then va else (va / 65536 + j) * 65536) w (by split <;> omega)
        rw [List.foldl_cons]
        simp only [e]
        exact ih fun i hi => hl i (List.mem_cons_of_mem _ hi)
    exact H _ fun j hj => List.mem_range.mp hj
/-- A line may be written there. -/
theorem Tabled.written {s : State} (h : Tabled s) (user : Bool) (vl : Nat) (hv : vl * 128 < 2 ^ 34) :
    linesCheck s { vi := 0, asid := 0, user := user } 0 true [vl] = .ok := by
  simp only [linesCheck, List.foldl_cons, List.foldl_nil, lineCheck, streamCheck, h.translate user (vl * 128) true hv, if_true,
    Option.isSome_none, Bool.false_eq_true, if_false, Bool.not_true, Bool.false_and]
  split <;> rfl
/-- A line in device memory read for an engine. -/
theorem Tabled.line {s : State} {vl : Nat} (h : Tabled (tlbTouch s 0 0 (vl * 128))) (user : Bool) (hv : vl * 128 < 2 ^ 34)
    (hx : leafXlat (tlbTouch s 0 0 (vl * 128)) 0 (vl * 128) 0xE000000000000007 2 = { at64k with loc := .dev (vl * 128) }) :
    readLines s { vi := 0, asid := 0, user := user } none 0 [vl] =
      (let r := streamRead (tlbTouch s 0 0 (vl * 128)) (!uncached (tlbTouch s 0 0 (vl * 128)) { at64k with loc := .dev (vl * 128) } vl) none 0
        none 0 vl
       (r.1, [(vl, r.2)])) := by
  have e := h.translate user (vl * 128) false hv
  simp only [readLines, List.foldl_cons, List.foldl_nil, readLineVa, e, hx, at64k, List.nil_append,
    Nat.mul_div_cancel vl (by omega : 0 < 128)]
/-- Every write there can be made. -/
theorem Tabled.writes {s : State} (h : Tabled s) (user : Bool) (va : Nat) (bytes : List Byte) (hn : va + bytes.length ≤ 2 ^ 34) : (writeVa s { vi := 0, asid := 0, user := user } va bytes).isSome = true := by
  suffices H : ∀ (l : List (Nat × List Byte)), (∀ c ∈ l, c.1 < 2 ^ 34) → ∀ t : State,
      (l.foldlM (fun (t : State) (c : Nat × List Byte) => match Machine.translate s { vi := 0, asid := 0, user := user } c.1 true false with
        | .ok x => some (writeX t x 0 c.1 0 c.2)
        | _ => none) t).isSome = true by
    rw [writeVa]
    refine H (vaPieces va bytes) (fun c hc => ?_) s
    simp only [vaPieces, lineSpan] at hc
    split at hc
    · simp at hc
    · simp only [List.map_map, List.mem_map, List.mem_range, Function.comp_apply] at hc
      obtain ⟨i, hi, rfl⟩ := hc
      simp only
      omega
  intro l
  induction l with
  | nil => intro _ t; rfl
  | cons c l ih =>
    intro hl t
    have hc := hl c (List.mem_cons_self ..)
    rw [List.foldlM_cons]
    simp only [h.translate user c.1 true (by omega), Option.bind_eq_bind, Option.bind_some]
    exact ih (fun d hd => hl d (List.mem_cons_of_mem _ hd)) _

/-- An all-gather of 4 bytes at rank 0 of two packages, whose list stands at 0x12000 (R298). -/
def gatherPkt (st : PktState := .accepted) (eop : Nat := 10) : Packet :=
  { aPkt 6 (0x10000 + 0x20000 * 2 ^ 64 + 4 * 2 ^ 128 + (eop + 2 ^ 14 + 2 ^ 24 + 2 ^ 32) * 2 ^ 192 + 0x12000 * 2 ^ 256 + 2 ^ 320) st with left := 1 }
def gatherSig : CollSig := ⟨1, 1, 10, 4, 2, [0, 1], []⟩
def aColl (st : CollState) (sig : CollSig) : Coll := ⟨5, 5, false, 0, st, none, sig, [], 0, false, [], [], [], [], []⟩
def gathering (p : Packet) (cs : List Coll) : State :=
  { withPacket p [putAt 0x12000 (2 ^ 16), putAt 0x10000 0x04030201, putAt 0x20000 0] with colls := cs }
theorem wit_Collectives_start : findPkt (gathering (gatherPkt) []) 5 = some (gatherPkt) ∧ pktKind (gatherPkt) = 6 ∧
    canStart (gathering (gatherPkt) []) (gatherPkt) = true ∧ collidBusy (gathering (gatherPkt) []) (gatherPkt) = false ∧
    collVar (gatherPkt) = 1 ∧
    (match collCheck (gathering (gatherPkt) []) (gatherPkt) with | .ok sig _ => decide (sig = gatherSig) | _ => false) = true ∧
    (match collCheck (gathering (gatherPkt .accepted 9) []) (gatherPkt .accepted 9) with | .status c => decide (c = 1) | _ => false) = true := by
  decide +kernel
theorem wit_Signatures : collLost (gathering (gatherPkt .started) [aColl .sign gatherSig]) (aColl .sign gatherSig) = false ∧
    collLost { gathering (gatherPkt .started) [aColl .sign gatherSig] with unreach := [1] } (aColl .sign gatherSig) = true ∧
    1 < gatherSig.npart ∧ (1 : Nat) ≠ (aColl .sign gatherSig).rank ∧ { gatherSig with count := 5 } ≠ gatherSig ∧
    findPkt (gathering (gatherPkt .started) [aColl .sign gatherSig]) 5 = some (gatherPkt .started) := by decide +kernel
/-- The source of the all-gather, read. -/
def gathered : State := gathering (gatherPkt .started) [aColl .move gatherSig]
theorem gathered_tabled : Tabled (tlbTouch gathered 0 0 (512 * 128)) :=
  ⟨by decide +kernel, by decide +kernel, by decide +kernel, by decide +kernel, by decide +kernel, by decide +kernel, by decide +kernel⟩
theorem gathered_read (user : Bool) : Tabled (readLines gathered { vi := 0, asid := 0, user := user } none 0 [512]).1 := by
  rw [Tabled.line gathered_tabled user (by decide) (by decide +kernel)]
  exact ⟨by decide +kernel, by decide +kernel, by decide +kernel, by decide +kernel, by decide +kernel, by decide +kernel, by decide +kernel⟩
theorem wit_Movement : peersReady (aColl .move gatherSig) (peerLen (collRec (gatherPkt))) [(1, [5, 6, 7, 8])] = true ∧
    ((srcSpans (collRec (gatherPkt))).flatMap fun r => vaLines r.1 r.2).dedup = [512] ∧
    linesCheck gathered (pktSpace (gatherPkt)) 0 false [512] = .ok ∧
    vaLines (collRec (gatherPkt)).dst (collSizes (collRec (gatherPkt))).2 = [1024] ∧ gatherSig.var ≠ 3 ∧
    collLost gathered (aColl .move gatherSig) = false ∧
    (collRec (gatherPkt)).npart = gatherSig.npart ∧ peerLen (collRec (gatherPkt)) = 4 ∧ (collSizes (collRec (gatherPkt))).1 = 4 := by
  decide +kernel
theorem wit_Movement_target : linesCheck (readLines gathered (pktSpace (gatherPkt)) none 0 [512]).1 (pktSpace (gatherPkt)) 0 true [1024] = .ok := by
  have e : pktSpace (gatherPkt) = { vi := 0, asid := 0, user := (gatherPkt).user } := by decide +kernel
  rw [e]
  exact (gathered_read _).written _ _ (by decide)

/-- A repartition of one item of 16 bytes at rank 0 of two packages (R302, R303). -/
def rpBlock : List Byte := bytesOfNat 128 (0x28000 + 0x21000 * 2 ^ 64 + 0x22000 * 2 ^ 128 + 0x23000 * 2 ^ 192 + 0x24000 * 2 ^ 256 +
  0x40000 * 2 ^ 320 + 2 ^ 384 + 4 * 2 ^ 448 + 3 * 2 ^ 464 + 0x3F8000003F8000003F800000 * 2 ^ 608)
def rpPkt (st : PktState := .started) : Packet :=
  { aPkt 6 (0x10000 + 0x11000 * 2 ^ 64 + 2 ^ 128 + (14 + 2 ^ 14 + 2 ^ 32) * 2 ^ 192 + 0x12000 * 2 ^ 256 + 3 * 2 ^ 320) st with
    left := 3, buf := if st = .started then rpBlock else [] }
def rpSig : CollSig := ⟨1, 3, 14, 0, 2, [0, 1], []⟩
def rpColl (st : CollState) : Coll :=
  { aColl st rpSig with splitters := [endTriple], counts := [[1, 0], [0, 0]], caps := [(1, 0), (0, 0)] }
def parting (p : Packet) (cs : List Coll) (w : Nat := 0x3F800000) : State :=
  { withPacket p with
    colls := cs
    l1 := tables ++ [putAt 0x10000 (w * 2 ^ 96), putAt 0x12000 (2 ^ 16), putAt 0x11000 (natOfBytes rpBlock), putAt 0x28000 0, putAt 0x22000 0,
      putAt 0x23000 0, putAt 0x24000 0] }
theorem wit_Rpart : (collRec (rpPkt .accepted)).dst % 64 = 0 ∧ (collRec (rpPkt .accepted)).dst = 0x11000 ∧ collVar (rpPkt .accepted) = 3 ∧
    (match engineBytes (parting (rpPkt .accepted) []) (pktSpace (rpPkt .accepted)) 0x11000 128 with
      | .ok bs => decide (bs = rpBlock) && (match rpCheck (setPkt (parting (rpPkt .accepted) []) 5 fun q => { q with buf := bs })
          { rpPkt .accepted with buf := bs } bs with | .ok sig _ => decide (sig.npart = 2) | _ => false) | _ => false) = true := by
  decide +kernel
/-- The stages of that repartition, and its source once read. -/
def parted (st : CollState) (w : Nat := 0x3F800000) : State := parting (rpPkt) [rpColl st] w
def partedRead (s : State) : State × List (Nat × Line) := readLines s (pktSpace (rpPkt)) none 0 [512]
def rpItems (s : State) : List LocalItem := localItems (partedRead s).1 (rpColl .keypass) (rpPkt) (partedRead s).2
theorem parted_tabled : ∀ s ∈ [parted .keypass, parted .keypass 0xBF800000, parted .move], Tabled (tlbTouch s 0 0 (512 * 128)) := by
  intro s hs
  simp only [List.mem_cons, List.not_mem_nil, or_false] at hs
  rcases hs with rfl | rfl | rfl <;>
    exact ⟨by decide +kernel, by decide +kernel, by decide +kernel, by decide +kernel, by decide +kernel, by decide +kernel, by decide +kernel⟩
/-- What that read answers. -/
def lineRead (s : State) : State × List (Nat × Line) :=
  let t := tlbTouch s 0 0 (512 * 128)
  let r := streamRead t (!uncached t { at64k with loc := .dev (512 * 128) } 512) none 0 none 0 512
  (r.1, [(512, r.2)])
theorem partedRead_eq : ∀ s ∈ [parted .keypass, parted .keypass 0xBF800000, parted .move], partedRead s = lineRead s := by
  intro s hs
  have e : pktSpace (rpPkt) = { vi := 0, asid := 0, user := (rpPkt).user } := by decide +kernel
  rw [partedRead, e, Tabled.line (parted_tabled s hs) _ (by decide)]
  · rfl
  · simp only [List.mem_cons, List.not_mem_nil, or_false] at hs
    rcases hs with rfl | rfl | rfl <;> decide +kernel
theorem lineRead_tabled : ∀ s ∈ [parted .keypass, parted .move], Tabled (lineRead s).1 := by
  intro s hs
  simp only [List.mem_cons, List.not_mem_nil, or_false] at hs
  rcases hs with rfl | rfl <;>
    exact ⟨by decide +kernel, by decide +kernel, by decide +kernel, by decide +kernel, by decide +kernel, by decide +kernel, by decide +kernel⟩
theorem wit_RpStages : vaLines (collRec (rpPkt)).src (pktNum (rpPkt) 32 4 * (rpBlk (rpPkt).buf).isz) = [512] ∧
    linesCheck (parted .keypass) (pktSpace (rpPkt)) 0 false [512] = .ok ∧ linesCheck (parted .move) (pktSpace (rpPkt)) 0 false [512] = .ok ∧
    collLost (parted .keypass) (rpColl .keypass) = false ∧ rpSig.var = 3 ∧ (parted .keypass).histOwner = none ∧
    moveReady { rpColl .move with items := [⟨0, 0, 0⟩] } 16 [] = true ∧ (rpBlk (rpPkt).buf).isz = 16 := by decide +kernel
theorem wit_RpStages_items : (∀ i ∈ rpItems (parted .keypass), weightOk i.weight = true) ∧
    (∃ i ∈ rpItems (parted .keypass 0xBF800000), weightOk i.weight = false) ∧
    (List.range 2).map (fun d => ((rpItems (parted .keypass)).filter fun i => destOf [endTriple] i.triple = d).length) = [1, 0] := by
  simp only [rpItems, partedRead_eq (parted .keypass) (by simp), partedRead_eq (parted .keypass 0xBF800000) (by simp)]
  decide +kernel
theorem wit_RpHist (m : SMap Word) : checkRange (partedRead (parted .keypass)).1 (pktSpace (rpPkt)) (rpBlk (rpPkt).buf).hwk 262144 true = .ok ∧
    (writeVa (partedRead (parted .keypass)).1 (pktSpace (rpPkt)) (rpBlk (rpPkt).buf).hwk (histBytes m)).isSome = true := by
  have hb : ∀ x, (bytesOfNat 4 x).length = 4 := fun _ => rfl
  have hn : (histBytes m).length = 262144 := by
    simp only [histBytes, List.length_flatMap, hb, List.map_const', List.sum_replicate, smul_eq_mul, List.length_range]
  have e : pktSpace (rpPkt) = { vi := 0, asid := 0, user := (rpPkt).user } := by decide +kernel
  have k : (rpBlk (rpPkt).buf).hwk = 0x40000 := by decide +kernel
  rw [partedRead_eq _ (by simp), e, k]
  have h := lineRead_tabled (parted .keypass) (by simp)
  exact ⟨h.range _ _ _ _ (by omega), h.writes _ _ _ (by omega)⟩
/-- The movement of the one item to its place, and the write of the record. -/
def moved : Coll := { rpColl .move with items := [⟨0, 0, 0⟩] }
def placed : List (Nat × Byte) := placeCells (rpBlk (rpPkt).buf) 0 [bytesOfNat 16 1]
theorem wit_RpMove : (placed.map fun e => e.1 / 128).dedup = [1280] ∧
    linesCheck (partedRead (parted .move)).1 (pktSpace (rpPkt)) 0 true [1280] = .ok ∧
    checkRange (partedRead (parted .move)).1 (pktSpace (rpPkt)) (rpBlk (rpPkt).buf).crec 96 true = .ok ∧
    checkRange (partedRead (parted .move)).1 (pktSpace (rpPkt)) (rpBlk (rpPkt).buf).splv (([endTriple].flatMap splitBytes).length) true = .ok ∧
    (writeVa (partedRead (parted .move)).1 (pktSpace (rpPkt)) (rpBlk (rpPkt).buf).splv ([endTriple].flatMap splitBytes)).isSome = true ∧
    (writeVa (partedRead (parted .move)).1 (pktSpace (rpPkt)) (rpBlk (rpPkt).buf).crec (crecDone moved (collRec (rpPkt)))).isSome = true := by
  have e : pktSpace (rpPkt) = { vi := 0, asid := 0, user := (rpPkt).user } := by decide +kernel
  have k : (rpBlk (rpPkt).buf).crec = 0x23000 := by decide +kernel
  have k2 : (rpBlk (rpPkt).buf).splv = 0x24000 := by decide +kernel
  have n : (crecDone moved (collRec (rpPkt))).length = 96 := by decide +kernel
  have n2 : ([endTriple].flatMap splitBytes).length = 16 := by decide +kernel
  rw [partedRead_eq _ (by simp), e, k, k2, n2]
  have h := lineRead_tabled (parted .move) (by simp)
  exact ⟨by decide +kernel, h.written _ _ (by decide), h.range _ _ _ _ (by omega), h.range _ _ _ _ (by omega), h.writes _ _ _ (by omega), h.writes _ _ _ (by omega)⟩
theorem wit_RpReduce : reduceHist [[], [(5, 0x3F800000)]] = [(5, 0x3F800000)] ∧ reduceHist [[], [(5, 0x7F800000)]] = [(5, 0x7F800000)] ∧
    (match numOf fp32 0x3F800000 with | .fin .. => true | _ => false) = true ∧
    (match numOf fp32 0x7F800000 with | .fin .. => true | _ => false) = false := by decide +kernel

/-- RSHD of a layout of two rows of four onto another (R315), whose packet is fresh or whose plan is in progress. -/
def rshdPkt (st : PktState := .accepted) (trec : Nat := 0x4080) : Packet :=
  { aPkt 5 0 st with
    raw := BitVec.ofNat 512 (5 * 256 + 0x40 * 2 ^ 16 + (0x4000 + trec * 2 ^ 64 + 0x5000 * 2 ^ 128) * 2 ^ 128)
    buf := if st = .started then bytesOfNat 128 (layNum 0x10000) ++ bytesOfNat 128 (layNum 0x20000) else [] }
def resharding (p : Packet) (r : List Rshd) : State :=
  { withPacket p with
    rshds := r, l1 := tables ++ [putAt 0x4000 (layNum 0x10000), putAt 0x4080 (layNum 0x20000), putAt 0x5000 0, putAt 0x10000 7, putAt 0x20000 0] }
def aPlan : Rshd := ⟨5, 0x5000, 0, 0, 2, [0, 1], 0⟩
theorem wit_Reshard : mayTake (resharding (rshdPkt) []) (rshdPkt) 5 = true ∧ rshdAt (resharding (rshdPkt) []) 5 = none ∧
    (viOf (resharding (rshdPkt) []) 0).switchedOut = false ∧ (viOf (resharding (rshdPkt) []) 0).outPending = none ∧
    (match rshdCheck (resharding (rshdPkt) []) (rshdPkt) with
      | .ok buf x => decide (buf = bytesOfNat 128 (layNum 0x10000) ++ bytesOfNat 128 (layNum 0x20000) ∧ x.state ≠ 2 ∧ x.cursor < x.ntrans ∧
          x.dmask.getLsbD 0 = false) | _ => false) = true ∧
    (match rshdCheck (resharding (rshdPkt .accepted 0x4081) []) (rshdPkt .accepted 0x4081) with | .status c => decide (c ≠ 0) | _ => false)
      = true := by decide +kernel
theorem wit_Transfers : rshdAt (resharding (rshdPkt .started) [aPlan]) 5 = some aPlan ∧
    (planOf (resharding (rshdPkt .started) [aPlan]) (rshdPkt .started)).transfers.length = 2 ∧
    (match (planOf (resharding (rshdPkt .started) [aPlan]) (rshdPkt .started)).transfers with
      | [_, t] => decide (transferCheck (resharding (rshdPkt .started) [aPlan]) (rshdPkt .started)
          (planOf (resharding (rshdPkt .started) [aPlan]) (rshdPkt .started)) t = .ok) &&
        decide (transferCheck { resharding (rshdPkt .started) [aPlan] with asids := [] } (rshdPkt .started)
          (planOf (resharding (rshdPkt .started) [aPlan]) (rshdPkt .started)) t = .status 3) | _ => false) = true ∧
    (match putProgress (resharding (rshdPkt .started) [aPlan]) (rshdPkt .started) aPlan 1 0 with | .ok _ => true | _ => false) = true := by
  decide +kernel
theorem wit_Progress : (aPlan.cursor ≤ 31 ∧ 31 < aPlan.cursor + 32) ∧ aPlan.dmask.getLsbD 0 = false ∧
    (let x : Progress := ⟨2 ^ 64 - 1, 2 ^ 64 - 1, 0xFFFFFFFE, 255, 255, 2 ^ 64 - 1, 2 ^ 64 - 1, 2 ^ 64 - 1, 2 ^ 32 - 1⟩
     progOf (progBytes x) = x) := by decide +kernel

/-- LAUNCH of the image at 0x3000 (R364): GRID, or NODE with an identifier. -/
def launchPkt (ctl nodeId : Nat) : Packet := aPkt 7 (0x3000 + ctl * 2 ^ 128 + nodeId * 2 ^ 224)
def launching (p : Packet) (pool : Nat := 2 ^ 30) : State :=
  setVi { withPacket p with l1 := tables ++ [putAt 0x3000 imageNum] } 0 fun v => { v with poolSize := pool }
theorem wit_Grid : mayTake (launching (launchPkt 0 0)) (launchPkt 0 0) 7 = true ∧ (launchFields (launchPkt 0 0)).node = false ∧
    launchBad (launchPkt 0 0) = false ∧ launchBad (launchPkt 4 0) = true ∧ asidOk (launching (launchPkt 0 0)) 0 0 = true ∧
    asidOk { launching (launchPkt 0 0) with asids := [] } 0 0 = false ∧
    (match readImage (launching (launchPkt 0 0)) (pktSpace (launchPkt 0 0)) 0x3000 with
      | .ok i => decide (i.frame = 0 ∧ i.tiles = 0 ∧ i.gang = 0 ∧ reservation i 1 ≤ 2 ^ 30 ∧ 2 ^ 10 < reservation i 1 ∧
          canReserve (launching (launchPkt 0 0)) 0 (reservation i 1) = true ∧ canReserve (launching (launchPkt 0 0)) 0 (reservation i 0) = true)
      | _ => false) = true ∧ (viOf (launching (launchPkt 0 0) (2 ^ 10)) 0).poolSize = 2 ^ 10 ∧
    (∀ l ∈ (launching (launchPkt 0 0)).launches, l.id ≠ nextLaunchId (launching (launchPkt 0 0))) ∧
    (let s := launching (launchPkt 0 0)
     s.launches.length + s.recs.length + s.sent.length + s.sentCrews.length + s.mirrors.length < 2 ^ 22) := by decide +kernel
def noded (closed : Bool) (va : Nat) : State := { launching (launchPkt 1 9) with
  launches := mapped.launches.map fun l => { l with mode := .node, nodeId := 9, closed := closed, imageVa := va } }
theorem wit_Node : mayTake (launching (launchPkt 1 9)) (launchPkt 1 9) 7 = true ∧ (launchFields (launchPkt 1 9)).node = true ∧
    launchBad (launchPkt 1 9) = false ∧ nodeOf (launching (launchPkt 1 9)) 0 9 = none ∧ (launchFields (launchPkt 1 9)).nodeId = 9 ∧
    (launchFields (launchPkt 1 9)).nitem = 0 ∧ (launchFields (launchPkt 1 9)).close = false ∧ (launchFields (launchPkt 1 9)).na = 0 ∧
    (nodeOf (noded false 0x3040) 0 9).map (fun l => (l.closed, l.imageVa)) = some (false, 0x3040) ∧
    (nodeOf (noded true 0x3000) 0 9).map (·.closed) = some true := by decide +kernel
/-! The host's side. -/

/-- mapped and READY, with leader 0 holding the lease, grants of ASID 0 and key slot 7, and an aperture onto VA 0 (R391, R396). -/
def leader : FwCore := ⟨true, 1, some true, 9, 9⟩
def served (f : Vi → Vi := id) : State :=
  setVi { mapped with boot := { State.reset.boot with ready := true, svn := 3 }, lease := ⟨0, 1, 10000000⟩
                      fwCores := leader :: List.replicate 3 { leader with leader := false }, domain := 2 }
    0 fun v => f { v with asids := [0], keys := [7], poolSize := 2 ^ 30, aper := [(0, 3)] }
/-- A queue header at 0x10000 whose ring of 16 packets is at 0x20000 (R152). -/
def headered (qs : List Queue) : State :=
  { served with queues := qs, l1 := tables ++ [putAt 0x10000 (0x20000 * 2 ^ 128 + 4 * 2 ^ 192), putAt 0x20000 0] }
def sixteen : Queue := { aQueue none with log2n := 4, irqen := false }
theorem wit_QueueSetup : (headered []).boot.ready = true ∧ State.reset.boot.ready = false ∧ queueAt (headered []) 0 0x10000 = none ∧
    dbits (0x10000 : DWord) 51 0 = 0x10000 ∧ ((headered []).queues.filter fun q => q.vi = 0).length < 1024 ∧
    (match tryRegister (headered []) (namedQueue 0 0x10000 0 false) with | .ok q => decide (q = sixteen) | _ => false) = true ∧
    (match tryRegister (headered []) (namedQueue 0 0x10020 0 false) with | .refuse c => decide (c = 1) | _ => false) = true ∧
    (match tryRegister { headered [] with l1 := tables 0xE000000000000005 } (namedQueue 0 0x10000 0 false) with
      | .wait .. => true | _ => false) = true ∧ queueAt (headered [sixteen]) 0 0x10000 = some sixteen ∧ sixteen.waiting = false ∧
    sixteen.unreg = false ∧ (∀ p ∈ (headered [sixteen]).packets, p.vi = 0 → p.queue = some 0x10000 → p.st = .accepted) := by decide +kernel
theorem wit_QueueFull : ∀ n, (({ headered [] with queues := List.replicate n sixteen } : State).queues.filter fun q => q.vi = 0).length = n := by
  intro n
  rewrite [List.filter_replicate_of_pos (by decide)]
  exact List.length_replicate
theorem wit_QueueFinish : (match tryRegister (headered [{ sixteen with waiting := true }]) { sixteen with waiting := true } with
      | .ok _ => true | _ => false) = true ∧ queuePkts (headered [{ sixteen with unreg := true }]) { sixteen with unreg := true } = [] ∧
    (0x10000 : Nat) < 2 ^ 52 ∧ sixteen.halted = false ∧
    read64 (headered [{ sixteen with halted := true }]) (ctlSpace sixteen) 0x10000 = some 0 ∧
    ((writeVa (headered [{ sixteen with halted := true }]) (ctlSpace sixteen) (0x10000 + 8) (bytesOfNat 8 0)).bind fun u =>
      writeVa u (ctlSpace sixteen) (0x10000 + 32) (bytesOfNat 8 0)).isSome = true ∧ (headered []).colls = [] := by decide +kernel
/-- Invalidation of one page of ASID 0, and of the whole of an ASID that the interface does not own (R119). -/
def oneInval : BitVec 256 := BitVec.ofNat 256 (0x10000 * 2 ^ 64 + 2 ^ 128 + 5 * 2 ^ 192)
def allInval : BitVec 256 := BitVec.ofNat 256 (1 + 9 * 2 ^ 16 + 6 * 2 ^ 192)
theorem wit_Invalidations : invTaken (served fun v => { v with invreq := oneInval }) 0 oneInval = true ∧ invBad (served) 0 oneInval = false ∧
    invTaken (served fun v => { v with invreq := allInval }) 0 allInval = true ∧ invBad (served) 0 allInval = true ∧
    ({ served with invals := [⟨0, 5, 0, 0x10000, some 1⟩] } : State).invals.find? (fun r => decide (r.vi = 0)) = some ⟨0, 5, 0, 0x10000, some 1⟩ ∧
    invalWaits { served with invals := [⟨0, 5, 0, 0x10000, some 1⟩] } ⟨0, 5, 0, 0x10000, some 1⟩ = false := by decide +kernel

/-- A request ring and a report ring of 16 entries at 0x10000 (R136, R394), in ASID 0's space. -/
def ringed : State := { served fun v => { v with pgring := 0x10004, repring := 0x10004 } with
  pageReqs := [⟨0, ⟨0, 9⟩, 0, true, false⟩], reports := [⟨0, 9, 0, 0, 0, 0, 0⟩], l1 := tables ++ [putAt 0x10000 (3 + 2 ^ 64), putAt 0x10080 0, putAt 0x10100 0] }
theorem wit_Rings : (served).reports = [] ∧ (served).boot.ready = true ∧ ringed.pageReqs = [⟨0, ⟨0, 9⟩, 0, true, false⟩] ∧
    0x10000 = dbits (viOf ringed 0).pgring 51 12 * 4096 ∧ dbits (viOf ringed 0).pgring 4 0 = 4 ∧ (viOf ringed 0).pgring ≠ 0 ∧
    readVaNat ringed { vi := 0, asid := 0, user := false } 0x10000 8 = some 3 ∧
    readVaNat ringed { vi := 0, asid := 0, user := false } 0x10008 8 = some 1 ∧
    (3 + 2 ^ 64 - 1) % 2 ^ 64 < 2 ^ 4 ∧ checkRange ringed { vi := 0, asid := 0, user := false } 0x10000 (64 + 16 * 2 ^ 4) true = .ok ∧
    ((writeVa ringed { vi := 0, asid := 0, user := false } (0x10000 + 64 + 16 * 3)
      (bytesOfNat 8 4096 ++ bytesOfNat 8 (9 * 65536))).bind fun u =>
        writeVa u { vi := 0, asid := 0, user := false } 0x10000 (bytesOfNat 8 4)).isSome = true ∧
    (postReport ringed ⟨0, 9, 0, 0, 0, 0, 0⟩).isSome = true ∧
    (BitVec.ofNat 128 (9 * 2 ^ 80) : BitVec 128).toNat % 2 ^ 64 = (viOf ringed 0).pgdone.toNat % 2 ^ 64 ∧
    bitsOf (BitVec.ofNat 128 (9 * 2 ^ 80) : BitVec 128).toNat 115 80 = 9 := by decide +kernel
theorem wit_Pieces : (List.replicate 8 (0 : Byte)).length = 8 ∧ 48 % 8 = 0 ∧ 48 + 8 < pieceSize .mbox ∧ 56 + 4 < pieceSize .mbox ∧
    (511 : Nat) < 512 := by decide
/-- served with a doubleword at VA 0x10000, which the window's first page gives. -/
def window : State := { served with l1 := tables ++ [putAt 0x10000 5] }
theorem window_tabled : Tabled (tlbTouch window 0 0 0x10000) :=
  ⟨by decide +kernel, by decide +kernel, by decide +kernel, by decide +kernel, by decide +kernel, by decide +kernel, by decide +kernel⟩
theorem wit_Window_write : (writeVa (touchVa window 0 0 0x10000 8) ⟨0, 0, false⟩ 0x10000 (bytesOfNat 8 6)).isSome = true := by
  have e : touchVa window 0 0 0x10000 8 = tlbTouch window 0 0 0x10000 := by
    rw [touchVa, if_neg (by decide)]
    simp only [show (0x10000 + 8 - 1) / 128 + 1 - 0x10000 / 128 = 1 from rfl, show List.range 1 = [0] from rfl, List.foldl_cons, List.foldl_nil,
      show (0x10000 / 128 + 0) * 128 = 0x10000 from rfl]
  rw [e]
  exact window_tabled.writes false 0x10000 _ (by decide)
theorem wit_Window_atomic : ∃ xl, translate (streamVa window ⟨0, 0, false⟩ 0 0x10000 8).1 ⟨0, 0, false⟩ 0x10000 true false = .ok xl := by
  have e : streamVa window ⟨0, 0, false⟩ 0 0x10000 8 = (let t := tlbTouch window 0 0 0x10000
      readThrough t (!uncached t at64k 512) none 0 none 0 0x10000 8) := by
    have h := window_tabled.translate false 0x10000 false (by decide)
    have x : leafXlat (tlbTouch window 0 0 0x10000) 0 0x10000 0xE000000000000007 2 = at64k := by decide +kernel
    rw [x] at h
    rw [streamVa, if_neg (by decide)]
    generalize hr : readThrough (tlbTouch window 0 0 0x10000) (!uncached (tlbTouch window 0 0 0x10000) at64k 512) none 0 none 0 0x10000 8 = q
    simp only [show (0x10000 + 8 - 1) / 128 + 1 - 0x10000 / 128 = 1 from rfl, show List.range 1 = [0] from rfl, List.foldl_cons, List.foldl_nil,
      show max 0x10000 ((0x10000 / 128 + 0) * 128) = 0x10000 from rfl, show min (0x10000 + 8) ((0x10000 / 128 + 0 + 1) * 128) - 0x10000 = 8 from rfl,
      show 0x10000 / 128 = 512 from rfl, h]
    simp only [at64k] at hr ⊢
    simp only [hr, List.nil_append]
  rw [e]
  have k : Tabled (let t := tlbTouch window 0 0 0x10000
      readThrough t (!uncached t at64k 512) none 0 none 0 0x10000 8).1 :=
    ⟨by decide +kernel, by decide +kernel, by decide +kernel, by decide +kernel, by decide +kernel, by decide +kernel, by decide +kernel⟩
  exact ⟨_, k.translate false 0x10000 true (by decide)⟩
theorem wit_Window : hostRequest 0 4096 = true ∧ hostRequest (2 ^ 34 - 1) 1 = true ∧ hostRequest (2 ^ 34) 1 = false ∧
    (match hostCheck (served) 0 0x10000 false with | .ok x => decide (x = (⟨0, 0, false⟩, 0x10000)) | _ => false) = true ∧
    (match hostCheck (served fun v => { v with aper := [] }) 0 0x10000 true with | .error c => decide (c = 4) | _ => false) = true ∧
    hostBad window ⟨0, 0, false⟩ 0x10000 8 = none ∧ 0x10000 % 8 = 0 ∧
    (served).fwCores.length = 4 := by decide +kernel

/-! Firmware. -/

/-- A request as the first of its interface, taken. -/
def requested (s : State) (vi : Nat) (i : Instr) : State := { s with fwReqs := [⟨vi, 1, i, false⟩] }
/-- The test of Serves for a request that has been taken. -/
def mayServe (s : State) (vi : Nat) : Bool := s.boot.ready && (leaderOf s).isSome && isNext s vi 1
theorem serves_of {s : State} {i : Instr} {vi code : Nat} (h : mayServe (requested s vi i) vi = true) : Serves (requested s vi i) i vi 1 code (requested s vi i) := by
  simp only [mayServe, Bool.and_eq_true] at h
  exact ⟨h.1.1, by simp [takeReq, requested], fun e => by rw [e] at h; simp at h, h.2⟩
theorem served_may (vi : Nat) (i : Instr) : mayServe (requested served vi i) vi = true := by
  have h1 : (served).boot.ready = true := by decide +kernel
  have h2 : (leaderOf served).isSome = true := by decide +kernel
  simp only [mayServe, Bool.and_eq_true]
  exact ⟨⟨h1, h2⟩, by simp [isNext, requested]⟩
/-- Any request of any interface can be served. -/
theorem wit_Services (vi code : Nat) (i : Instr) : Serves (requested served vi i) i vi 1 code (requested served vi i) := serves_of (served_may vi i)
theorem wit_Taken : takeReq (served fun v => { v with mbox := 1 + 2 * 2 ^ 40 }) 0 1 2 (.rackBudget 0 1 5) ≠ none ∧
    (1 : BitVec 40) ∉ (viOf (served) 0).served ∧ (∀ r ∈ (served).fwReqs, ¬(r.vi = 0 ∧ r.seq = 1 ∧ r.op = .rackBudget 0 1 5)) := by decide +kernel
theorem wit_Grants : grantBusy (served) 5 [0] [] = true ∧ grantBusy (served) 0 [0] [7] = false ∧ (63 : Nat) < 64 ∧ (1023 : Nat) < 1024 ∧
    (4095 : Nat) < 4096 ∧ 0 ∈ (viOf (served) 0).asids ∧ 1 ∉ (viOf (served) 0).asids ∧ entryBad (served) 0 (1 + 0x1000 * 2 ^ 64) = false ∧
    7 ∈ (viOf (served) 0).keys ∧ 8 ∉ (viOf (served) 0).keys := by decide +kernel
def streamIs (st : StreamState) : State :=
  { served with streams := [(63, { st := st, cfg := 0, pending := none, unbind := false, pid := none, hsat := false })] }
theorem wit_Binds : (streamOf (served) 63).st = .free ∧ (streamOf (streamIs (.bound 3)) 63).st = .bound 3 ∧
    (streamOf (streamIs (.loaded 3)) 63).st = .loaded 3 ∧ (streamOf (streamIs (.loaded 3)) 63).pid = none ∧ 0 < 63 ∧ 63 < 64 := by decide +kernel
def handling : State := { served with l1 := tables ++ [putAt 0x3000 imageNum] }
theorem wit_Handler : (match readImage handling { vi := 0, asid := 0, user := false } 0x3000 with
    | .ok i => decide (i.tiles = 0 ∧ i.gang = 0 ∧ i.frame = 0 ∧ 4 ≤ i.nreg ∧ canReserve handling 0 (reservation i 0) = true) | _ => false) = true ∧
    (viOf handling 0).handler = none ∧ (∀ l ∈ handling.launches, l.id ≠ nextLaunchId handling) ∧ 0x3000 % 64 = 0 := by decide +kernel
theorem wit_Settings : ([0, 1] : List Nat) ≠ [] ∧ ([0, 1] : List Nat).Nodup ∧ (∀ p ∈ [0, 1], p < (served).domain) ∧ (255 : Nat) < 256 ∧
    (4 : Nat) < 5 ∧ ((served).launches.filter fun l => l.vi = 0).foldl (fun n l => n + max l.reserved l.charged) 0 ≤ 2 ^ 20 ∧
    0 < ((served).launches.filter fun l => l.vi = 0).foldl (fun n l => n + max l.reserved l.charged) 0 ∧
    (2 ^ 20 : Nat) + (2 ^ 52 - 2 ^ 20) ≤ 2 ^ 52 ∧ (∀ r ∈ (served).recs, r.vi ≠ 0) ∧
    (1 ≤ 255 ∧ 255 ≤ 255 ∧ 1000 ≤ 60000000 ∧ 100 ≤ 1000000) ∧ ¬(1 ≤ 256 ∧ 256 ≤ 255) := by decide +kernel
theorem wit_Life : (∀ l ∈ ({ served with launches := [] } : State).launches, l.vi ≠ 0) ∧ ownStreams (served) 0 = [] ∧
    (2 : Nat) < (served).boot.svn.toNat ∧ (served).boot.svn.toNat ≤ 3 ∧ (launchOf (served) 0).map (·.vi) = some 0 ∧
    (∃ w ∈ residents (served), w.launch = 0 ∧ w.entries ≠ []) ∧
    (∀ w ∈ residents (setWarp (served) fun w => { w with entries := [] }), w.launch = 0 → w.entries = []) ∧
    (viOf (served) 0).switchedOut = false ∧ (viOf (served) 0).outPending = none ∧ ({ served with crews := [] } : State).crews = [] ∧
    (viOf (served fun v => { v with outPending := some 1 }) 0).outPending = some 1 ∧ leaderOf (served) ≠ none ∧
    (0 : Nat) = (served).pkg ∧ (1 : Nat) ≠ (served).pkg ∧ 1 < (served).domain := by decide +kernel
theorem wit_Adopts : ({ served with mirrors := [⟨1, aRec 9 .parked, (mapped.launches.getD 0 (newLaunch mapped 0 0 (imageOf 0) 0 .grid false)), none⟩] } :
    State).mirrors.map (·.pkg) = [1] := by decide +kernel
theorem wit_Information : checkRange (served) { vi := 0, asid := 0, user := false } 0x10000 4096 true = .ok ∧ 0x10000 % 64 = 0 ∧
    (served).links.length = 20 ∧ (served).boot.fuse.length = 4 := by decide +kernel

/-- The information block written to host memory. -/
theorem wit_Information_block : (writeVa (requested served 0 (.deviceInformation 0 1 0 0x40000))
    { vi := 0, asid := 0, user := false } 0x40000 (infoBlock (requested served 0 (.deviceInformation 0 1 0 0x40000)))).isSome
      = true := by
  refine Tabled.writes ⟨by decide +kernel, by decide +kernel, by decide +kernel, by decide +kernel, by decide +kernel, by decide +kernel,
    by decide +kernel⟩ false 0x40000 _ ?_
  exact Nat.le_trans (m := 0x40000 + 4096) (Nat.le_of_eq (by decide +kernel)) (by omega)

/-! Election and bring-up. -/

/-- Step one of bring-up done, sector 3 following, with GTC at a value. -/
def electing (now : Nat) : State := { State.reset with
  boot := { State.reset.boot with linksTrained := true, imagesDone := true }, gtc := { State.reset.gtc with value := BitVec.ofNat 64 now, trained := true }
  fwCores := List.replicate 4 { leader with leader := false, epoch := 0 } }
theorem wit_Election : stepOneDone (electing 4000000) = true ∧
    (electing 4000000).fwCores[3]? = some { leader with leader := false, epoch := 0 } ∧
    (electing 4000000).lease.expiry.toNat + 1000000 * (1 + 3) ≤ (electing 4000000).gtc.value.toNat ∧
    (electing 3999999).gtc.value.toNat < (electing 3999999).lease.expiry.toNat + 1000000 * (1 + 3) ∧
    (served).fwCores[0]? = some leader ∧ (served).lease.holder = 0 ∧ (served).lease.epoch = leader.epoch ∧
    (served).gtc.value < (served).lease.expiry ∧
    ¬(served).lease.expiry.toNat ≤ (served).gtc.value.toNat + 8000000 ∧
    ({ served with lease := ⟨0, 1, 8000000⟩ } : State).lease.expiry.toNat ≤ (served).gtc.value.toNat + 8000000 ∧
    ({ served with lease := ⟨0, 1, 0⟩ } : State).lease.expiry ≤ (served).gtc.value ∧ leaderOf (served) = some 0 := by decide +kernel
theorem wit_BringUp : State.reset.fwCores[3]? = some FwCore.reset ∧ FwCore.reset.image = none ∧ State.reset.boot.linksTrained = false ∧
    ({ served with fwCores := [leader, { leader with leader := false, image := some false }] } : State).fwCores[1]?
      = some { leader with leader := false, image := some false } ∧
    (served).boot.hbmTrained = false ∧ (∀ c ∈ (served).fwCores, c.image = some true) := by decide +kernel

/-! The machine as a whole. -/

/-- A next state is reached from a state whose memories are in their form. -/
theorem wit_MemoryForm : MemForm State.reset ∧ MemForm ready ∧ isNextState (step State.reset) = true ∧ isNextState (step ready) = true := by
  refine ⟨⟨?_, ?_, ?_⟩, ⟨?_, ?_, ?_⟩, ?_, ?_⟩ <;> decide +kernel

end Sys2Proof.Tests
end

section
/-! SUPPORT. What a step comes to, case by case: a due event, a stalled warp, a buffered word, a word read from code memory (R25 to R27,
R41, R48, R342); and what a cycle of time does to GTC (R297). -/

namespace Sys2Proof.Machine

/-! Host writes land first (R282). -/

@[simp] theorem landHost_hostWrites (s : State) : (landHost s).hostWrites = [] := rfl

/-- With no write waiting, landing changes nothing. -/
theorem landHost_of_noWrites {s : State} (h : s.hostWrites = []) : landHost s = s := by
  cases s
  cases h
  rfl

/-- Host writes land before anything else is done, so that landing them beforehand changes no step. -/
theorem act_landHost (s : State) : act (landHost s) = act s := by
  by_cases h : s.hostWrites = []
  · rw [landHost_of_noWrites h]
  · simp only [act, landHost_hostWrites, if_true, if_neg h]

/-! Time. -/

@[simp] theorem passCycle_now (s : State) : (passCycle s).now = s.now + 1 := rfl
@[simp] theorem passCycle_mem (s : State) : (passCycle s).mem = s.mem := rfl
@[simp] theorem passCycle_warp (s : State) : (passCycle s).warp = s.warp := rfl

/-- Between two ticks GTC stands (R4). -/
theorem passCycle_gtc_between {s : State} (h : (s.now + 1) % 4 ≠ 0) : (passCycle s).gtc = s.gtc := if_neg h

/-- At every fourth cycle GTC ticks (R4). -/
theorem passCycle_gtc_tick {s : State} (h : (s.now + 1) % 4 = 0) : (passCycle s).gtc = gtcTick s.gtc ((s.now + 1) / 4) := if_pos h

/-- A tick away from the 10,000th nanosecond, or with nothing to make up, counts one. -/
theorem gtcTick_nominal {g : Gtc} {ns : Nat} (h : ns % 10000 ≠ 0 ∨ g.slew = 0) : gtcTick g ns = { g with value := g.value + 1 } := if_pos h

/-- A 10,000th nanosecond behind the beacons counts two (R297). -/
theorem gtcTick_behind {g : Gtc} {ns : Nat} (hn : ns % 10000 = 0) (h : 0 < g.slew) :
    gtcTick g ns = { g with value := g.value + 2, slew := g.slew - 1 } := by
  rw [gtcTick, if_neg (by omega), if_pos h]

/-- A 10,000th nanosecond ahead of the beacons counts none (R297). -/
theorem gtcTick_ahead {g : Gtc} {ns : Nat} (hn : ns % 10000 = 0) (h : g.slew < 0) : gtcTick g ns = { g with slew := g.slew + 1 } := by
  rw [gtcTick, if_neg (by omega), if_neg (by omega)]

/-! The parts of a step. -/

/-- A cycle of time passes at each step that acts. -/
theorem step_of_act {s t : State} (h : act s = .next t) : step s = .next (passCycle t) := by rw [step, h]

theorem step_landHost (s : State) : step (landHost s) = step s := by rw [step, act_landHost, ← step]

/-- An event of the agenda, which has no word, is what is done. -/
theorem act_event {s : State} {i : Instr} {l : List Instr} (hw : s.hostWrites = []) (ha : s.agenda = i :: l) (he : encode i = none) :
    act s = exec i { s with agenda := l } := by
  simp only [act, if_pos hw, ha, he, Option.isNone_none, if_true]

theorem step_event {s t : State} {i : Instr} {l : List Instr} (ha : s.agenda = i :: l) (hw : s.hostWrites = [])
    (he : encode i = none) (hx : exec i { s with agenda := l } = .next t) : step s = .next (passCycle t) :=
  step_of_act ((act_event hw ha he).trans hx)

/-- With no event due and no choice of the environment, the warp at issue fetches. -/
theorem act_issue {s : State} (hw : s.hostWrites = []) (ha : s.agenda = []) (hp : s.pick = []) (he : s.warp.entries ≠ []) :
    act s = fetchIssue s := by
  simp only [act, if_pos hw, ha, takePick, hp, if_neg he]

/-- What the fetch of the warp at issue comes to is what the step comes to, but for time. -/
theorem step_issue {s t : State} (ha : s.agenda = []) (hp : s.pick = []) (hw : s.hostWrites = []) (he : s.warp.entries ≠ [])
    (h : fetchIssue s = .next t) : step s = .next (passCycle t) := step_of_act ((act_issue hw ha hp he).trans h)

/-- A warp whose stall is not over issues nothing (R41). -/
theorem fetchIssue_stalled {s : State} (h : s.now < s.warp.nextAt) : fetchIssue s = .next s := if_pos h

/-- A word that the core's instruction buffer holds is run (R342). -/
theorem fetchIssue_buffered {s : State} {w : CodeWord} (hn : s.warp.nextAt ≤ s.now) (hr : s.warp.retire = false)
    (hb : buffered s s.warp.core s.warp.asid (curIp s.warp) = some w) : fetchIssue s = runWord s w := by
  simp only [fetchIssue, if_neg (Nat.not_lt.2 hn), hr, Bool.false_eq_true, if_false, hb]

/-- A word that the core's instruction buffer does not hold is fetched from code memory (R26). -/
theorem fetchIssue_unbuffered {s : State} (hn : s.warp.nextAt ≤ s.now) (hr : s.warp.retire = false)
    (hb : buffered s s.warp.core s.warp.asid (curIp s.warp) = none) : fetchIssue s = fetchWord s := by
  simp only [fetchIssue, if_neg (Nat.not_lt.2 hn), hr, Bool.false_eq_true, if_false, hb]

/-- The state in which a word read from code memory is run: its line is buffered and its pages count as translated (R118, R342). -/
def lineFetched (s : State) : State :=
  touchVa (bufferLine s s.warp.core s.warp.space (curIp s.warp)) s.warp.vi s.warp.asid (lineVa (curIp s.warp)) 192

/-- A word read with no walk to wait for is run once its line is buffered (R26, R116). -/
theorem fetchWord_read {s : State} {w : CodeWord}
    (hv : walksWanted s [lineVa (curIp s.warp), lineVa (curIp s.warp) + 191] = [])
    (hc : readCode s s.warp.space (curIp s.warp) = .ok w) : fetchWord s = runWord (lineFetched s) w := by
  simp only [fetchWord, hv, hc, lineFetched]

/-- A word that decodes, to an instruction whose registers the launch has, runs as that instruction (R48, R49). -/
theorem runWord_instr {s : State} {w : CodeWord} {i : Instr} (hd : decode w = .ok i) (hi : i.operandsOk s.warp.nreg = true) :
    runWord s w = exec i s := by
  simp only [runWord, hd, hi, if_true]

/-! Fetching changes the buffer and the translation caches, and not the warp. -/

@[simp] theorem evictCode_warp (s : State) (p : IbufWord → Bool) : (evictCode s p).warp = s.warp := by
  simp only [evictCode]
  split <;> rfl

@[simp] theorem codeRoom_warp (s : State) (core : Nat) : (codeRoom s core).warp = s.warp := by
  simp only [codeRoom]
  split
  · rfl
  · exact evictCode_warp ..

@[simp] theorem bufferLine_warp (s : State) (core : Nat) (sp : Space) (ip : BitVec 48) : (bufferLine s core sp ip).warp = s.warp := by
  refine foldl_holds (fun t : State => t.warp = s.warp) _ _ (fun t j ht => ?_) _ (codeRoom_warp s core)
  dsimp only
  split <;> exact ht

@[simp] theorem ptrFill_warp (s : State) (vi asid va : Nat) : (ptrFill s vi asid va).warp = s.warp := by
  simp only [ptrFill]
  split <;> rfl

@[simp] theorem tlbTouch_warp (s : State) (vi asid va : Nat) : (tlbTouch s vi asid va).warp = s.warp := by
  simp only [tlbTouch]
  split
  · rfl
  · split
    · split <;> exact ptrFill_warp ..
    · rfl

@[simp] theorem touchVa_warp (s : State) (vi asid va n : Nat) : (touchVa s vi asid va n).warp = s.warp := by
  rw [touchVa]
  split
  · rfl
  · exact foldl_holds (fun t : State => t.warp = s.warp) _ _ (fun t _ ht => (tlbTouch_warp t ..).trans ht) s rfl

@[simp] theorem lineFetched_warp (s : State) : (lineFetched s).warp = s.warp := by simp only [lineFetched, touchVa_warp, bufferLine_warp]

/-! The word in code memory (R26). -/

/-- No line is read for no bytes, so none fails. -/
theorem codeErr_noBytes (s : State) (x : Xlat) : codeErr s x 0 = none := by
  rw [codeErr]
  split <;> rfl

theorem codePage_ok {s : State} {sp : Space} {va : Nat} {x : Xlat} (h : translate s sp va false true = .ok x) :
    codePage s sp va = .ok x := by rw [codePage, h]

/-- A word on one page is the 12 bytes from where its address is translated to. -/
theorem readCode_onePage {s : State} {sp : Space} {ip : BitVec 48} {x : Xlat}
    (ht : translate s sp (12 * ip.toNat) false true = .ok x) (hp : 12 * ip.toNat / 65536 = (12 * ip.toNat + 11) / 65536)
    (he : codeErr s x 12 = none) : readCode s sp ip = .ok (wordOfBytes (readLocs s x.swz x.loc 12)) := by
  have samePage : 12 * ip.toNat / 65536 = (12 * ip.toNat + 11) / 65536 * 65536 / 65536 := by
    rw [Nat.mul_div_cancel _ (by decide), hp]
  have noMore : readLocs s x.swz x.loc (12 - 12) = [] := rfl
  simp only [readCode, codePage_ok ht, if_pos samePage, if_true, he, codeErr_noBytes, Nat.sub_self, noMore, List.append_nil]

end Sys2Proof.Machine
end

section
/-! PROOFS. What a step runs. -/

namespace Sys2Proof.Proofs
open Sys2Proof Sys2Proof.Machine

/-- A buffered word's instruction is what a fetch runs (R342). -/
theorem fetchIssue_runs_buffered {s t : State} {w : CodeWord} {i : Instr} (hn : s.warp.nextAt ≤ s.now) (hr : s.warp.retire = false)
    (hd : decode w = .ok i) (hi : i.operandsOk s.warp.nreg = true)
    (hb : buffered s s.warp.core s.warp.asid (curIp s.warp) = some w) (hx : exec i s = .next t) : fetchIssue s = .next t :=
  calc
    fetchIssue s = runWord s w := fetchIssue_buffered hn hr hb
    _ = exec i s := runWord_instr hd hi
    _ = .next t := hx

/-- The instruction of a word read from code memory is what a fetch runs, in the state that holds its line; the register count is still
that of the launch, since fetching leaves the warp alone (R26, R49). -/
theorem fetchIssue_runs_read {s t : State} {w : CodeWord} {i : Instr} (hn : s.warp.nextAt ≤ s.now) (hr : s.warp.retire = false)
    (hd : decode w = .ok i) (hi : i.operandsOk s.warp.nreg = true)
    (hb : buffered s s.warp.core s.warp.asid (curIp s.warp) = none)
    (hv : walksWanted s [lineVa (curIp s.warp), lineVa (curIp s.warp) + 191] = [])
    (hc : readCode s s.warp.space (curIp s.warp) = .ok w) (hx : exec i (lineFetched s) = .next t) : fetchIssue s = .next t :=
  have hi' : i.operandsOk (lineFetched s).warp.nreg = true := by rwa [lineFetched_warp]
  calc
    fetchIssue s = fetchWord s := fetchIssue_unbuffered hn hr hb
    _ = runWord (lineFetched s) w := fetchWord_read hv hc
    _ = exec i (lineFetched s) := runWord_instr hd hi'
    _ = .next t := hx

/-- Settles O16: each case of a step from the lemma that says what its fetch, its event or its cycle of time comes to. -/
theorem stepRunsDecoded : Obligations.StepRunsDecoded := by
  unfold Obligations.StepRunsDecoded
  refine ⟨fun s w i t ha hp hw he hn hr hd hi => ⟨?buffered, ?fetched, ?memory⟩, ?stalled, ?landed, ?event, ?time⟩
  case buffered => exact fun hb hx => step_issue ha hp hw he (fetchIssue_runs_buffered hn hr hd hi hb hx)
  case fetched => exact fun hb hv hc hx => step_issue ha hp hw he (fetchIssue_runs_read hn hr hd hi hb hv hc hx)
  case memory => exact fun x => readCode_onePage
  case stalled => exact fun s ha hp hw he hn => step_issue ha hp hw he (fetchIssue_stalled hn)
  case landed => exact fun s => ⟨(step_landHost s).symm, landHost_hostWrites s⟩
  case event => exact fun s i l t => step_event
  case time =>
    intro t
    refine ⟨passCycle_now t, passCycle_mem t, passCycle_warp t, passCycle_gtc_between, fun h4 hs => ?_, fun hn hs => ?_, fun hn hs => ?_⟩
    · exact (passCycle_gtc_tick h4).trans (gtcTick_nominal (by omega))
    · exact (passCycle_gtc_tick (by omega)).trans (gtcTick_behind (by omega) hs)
    · exact (passCycle_gtc_tick (by omega)).trans (gtcTick_ahead (by omega) hs)

end Sys2Proof.Proofs
end

section
/-! SUPPORT. The issue that every instruction shares, with an empty active set; words that are refused (R39, R48, R49). -/

namespace Sys2Proof.Machine

/-- A meaning is the issue of an instruction, with some part of its own (R39 to R49). -/
def Issues (i : Instr) (c : Ctl) (f : State → Host.Outcome State Fault Refusal) : Prop := ∃ run, ∀ s, f s = issue i c run s

section
variable (i : Instr) (c : Ctl) (t : Fmt) (d a b : Opnd)

theorem laneOp_issues (n : Nat) (f : State → Mask → Nat → Nat) : Issues i c (laneOp i c d n f) := ⟨_, fun _ => rfl⟩

theorem intOp2_issues (f : Int → Int → Nat) : Issues i c (intOp2 i c t d a b f) := laneOp_issues i c d _ _

theorem logicOp_issues (notb : Bool) (f : DWord → DWord → DWord) : Issues i c (logicOp i c t notb d a b f) := laneOp_issues i c d _ _

theorem fsumOp_issues (rm : RMode) (ts : State → Mask → Nat → List Machine.Num) : Issues i c (fsumOp i c t rm d ts) :=
  laneOp_issues i c d _ _

theorem zOp_issues (rm : RMode) (ts : State → Mask → Nat → List (List Machine.Num)) (n : Nat) :
    Issues i c (zOp i c t rm d ts n) := ⟨_, fun _ => rfl⟩

theorem collBody_issues (var : BitVec 2) : Issues i c (collBody i c a var) := ⟨_, fun _ => rfl⟩

end

/-- Every instruction is issued, BRA.all with an empty active set too; but EXIT and REFILL then have gangs to dissolve (R39, R248). -/
theorem exec_issues {i : Instr} {c : Ctl} (h : i.ctl = some c) (ha : ∀ x p o, i ≠ .braAll x p o) (he : ∀ x, i ≠ .exit x)
    (hr : ∀ x sc d a b p, i ≠ .refill x sc d a b p) : Issues i c fun s => exec i s := by
  cases i with
  | braAll x p o => exact absurd rfl (ha x p o)
  | exit x => exact absurd rfl (he x)
  | refill x sc d a b p => exact absurd rfl (hr x sc d a b p)
  | iadd | isub | imul | imulh | imin | imax => cases h; simp only [exec]; exact intOp2_issues ..
  | and | or | xor => cases h; simp only [exec]; exact logicOp_issues ..
  | fadd | fsub | fmul | ffma | fscl | fdt2 => cases h; simp only [exec]; exact fsumOp_issues ..
  | cmul | cfma | bfly | bfl4 => cases h; simp only [exec]; exact zOp_issues ..
  | collRs | collAg | collA2a | collRpart => cases h; simp only [exec]; exact collBody_issues ..
  | imad | iabs | shl | shr | rot | popc | clz | brev | bfx | bfi | icmp | sel | lea | plop | fmin | fmax | fcmp | frcp | frsq | fsqrt
  | fex2 | flg2 | fsin | fcos | fcls | frnd | fdiv | mov | moviLo | moviHi | cvt | pack | unpk | qswp | qred | vote | pmovTomask
  | pmovTopred | lred | prfx | bcst | mtch => cases h; simp only [exec]; exact laneOp_issues ..
  | _ => cases h <;> (simp only [exec]; exact ⟨_, fun s => rfl⟩)

/-- With no gang formed none is dissolved. -/
theorem dissolveDead_noGangs {s : State} (h : s.gangs = []) : dissolveDead s = s := by
  rw [dissolveDead, h, List.foldl_nil]

theorem issued_gangs (s : State) (c : Ctl) : (issued s c).gangs = s.gangs := by
  obtain ⟨D, L, he, -, -⟩ := issued_eq s c
  rw [he]

/-- Where no lane is active, what an issue comes to is that the instruction moves on (R39). -/
theorem Issues.empty {i : Instr} {c : Ctl} {s : State} {f : State → Host.Outcome State Fault Refusal} (h : Issues i c f)
    (hc : CanIssue s c) (ha : acting s c = 0) : f s = .next (advance (issued s c) c) := by
  obtain ⟨run, hrun⟩ := h
  rw [hrun, issue_empty run hc ha]

/-- Where the guard leaves no lane active and no gang has formed, an instruction only moves on (R39). -/
theorem exec_empty {i : Instr} {c : Ctl} {s : State} (h : i.ctl = some c) (hb : ∀ x p o, i ≠ .braAll x p o) (hc : CanIssue s c)
    (ha : acting s c = 0) (hg : s.gangs = []) : exec i s = .next (advance (issued s c) c) := by
  have none : dissolveDead (advance (issued s c) c) = advance (issued s c) c := dissolveDead_noGangs ((issued_gangs s c).trans hg)
  by_cases he : ∃ x, i = .exit x
  · obtain ⟨x, rfl⟩ := he
    cases h
    simp only [exec, execExit, issue_empty _ hc ha, none]
  by_cases hr : ∃ x sc d a b p, i = .refill x sc d a b p
  · obtain ⟨x, sc, d, a, b, p, rfl⟩ := hr
    cases h
    simp only [exec, execRefill, issue_empty _ hc ha, none]
  push Not at he hr
  exact (exec_issues h hb he hr).empty hc ha

/-- What a buffered word comes to, where it is not an instruction to run, the step comes to (R48, R342). -/
theorem step_buffered {s t : State} {w : CodeWord} (ha : s.agenda = []) (hp : s.pick = []) (hw : s.hostWrites = [])
    (he : s.warp.entries ≠ []) (hn : s.warp.nextAt ≤ s.now) (hr : s.warp.retire = false)
    (hb : buffered s s.warp.core s.warp.asid (curIp s.warp) = some w) (h : runWord s w = .next t) :
    step s = .next (passCycle t) :=
  step_issue ha hp hw he ((fetchIssue_buffered hn hr hb).trans h)

/-- A word that is no instruction traps (R48). -/
theorem runWord_error {s : State} {w : CodeWord} {e : DecodeFault} (h : decode w = .error e) :
    runWord s w = .next (decodeTrap s w e) := by simp only [runWord, h]

/-- An instruction that names a register past the launch's traps BADOPND, and with it those that wait for it at its latch (R49, R246). -/
theorem runWord_badReg {s : State} {w : CodeWord} {i : Instr} (h : decode w = .ok i) (hi : i.operandsOk s.warp.nreg = false) :
    runWord s w = .next (takeTrap (breakFor s i) 3 0 none (curIp s.warp)) := by
  simp only [runWord, h, hi, Bool.false_eq_true, if_false]

/-- ILL traps ILLOP with detail 1 (R346). -/
theorem exec_ill {s : State} (he : s.warp.entries ≠ []) (hr : s.warp.retire = false) :
    exec .ill s = .next (takeTrap s 1 1 none (curIp s.warp)) := by
  simp only [exec, execIll, if_neg he, hr, Bool.false_eq_true, if_false]

/-- The state in which a word that is no instruction traps: the members that wait at the latch for a joint one have trapped (R246). -/
theorem decodeTrap_eq (s : State) (w : CodeWord) (e : DecodeFault) :
    let u := if jointWord w = true then (latchWith s s.warp).elim s fun l => breakLatch s l 1 else s
    decodeTrap s w e = match e with
      | .illop d => takeTrap u 1 d none (curIp u.warp)
      | .rsvd => takeTrap u 2 0 none (curIp u.warp)
      | .badopnd => takeTrap u 3 0 none (curIp u.warp) := by
  unfold decodeTrap
  cases latchWith s s.warp <;> rfl

/-- A retired warp ends its segment without fetching (R21). -/
theorem fetchIssue_retired {s : State} (hn : s.warp.nextAt ≤ s.now) (hr : s.warp.retire = true) :
    fetchIssue s = .next (endSegment s (.at evLine (curIp s.warp))) := by
  simp only [fetchIssue, if_neg (Nat.not_lt.2 hn), hr, if_true]

end Sys2Proof.Machine
end

section
/-! PROOFS. Refused words and empty active sets. -/

namespace Sys2Proof.Proofs
open Sys2Proof Sys2Proof.Machine

/-- Settles O18: each refused word by what runWord comes to for it, an empty active set by the issue that every instruction shares. -/
theorem badWordsAndEmptySets : Obligations.BadWordsAndEmptySets := by
  unfold Obligations.BadWordsAndEmptySets
  refine ⟨fun s w ha hp hw he hn hr hb => ?words, fun i c s hc hi h0 hg hne => exec_empty hc hne hi h0 hg,
    fun s ha hp hw he hn hr => step_issue ha hp hw he (fetchIssue_retired hn hr)⟩
  have runs {t : State} := step_buffered (t := t) ha hp hw he hn hr hb
  refine ⟨fun d hd => ?_, fun hd => ?_, fun hd => ?_, fun i hd hi => runs (runWord_badReg hd hi), fun hd => ?_⟩
  · exact runs ((runWord_error hd).trans (congrArg _ (decodeTrap_eq s w _)))
  · exact runs ((runWord_error hd).trans (congrArg _ (decodeTrap_eq s w _)))
  · exact runs ((runWord_error hd).trans (congrArg _ (decodeTrap_eq s w _)))
  · exact runs ((runWord_instr hd rfl).trans (exec_ill he hr))

end Sys2Proof.Proofs
end

section
/-! SUPPORT. What an access to memory changes beside memory: the controllers' side outputs, the list of stale replicas and firmware's
reports, and nothing of warps, records, crews, launches, packets and tables (R93, R113, R394). -/

namespace Sys2Proof.Machine

/-- Nothing changes but device and host memory with what stands before them, the side outputs of the glaze streams, the list of stale
replicas, and the reports with the mark that one was lost. -/
structure Beside (s t : State) : Prop where
  rest : { t with mem := s.mem, live := s.live, placed := s.placed, weak := s.weak, bad := s.bad, llc := s.llc, misses := s.misses,
                  wbufs := s.wbufs, l1 := s.l1, dir := s.dir, ctrls := s.ctrls, waitReqs := s.waitReqs, resps := s.resps,
                  links := s.links, free := s.free, host := s.host, hostWrites := s.hostWrites, stale := s.stale,
                  reports := s.reports, vis := s.vis, streams := s.streams, digests := s.digests, hist := s.hist } = s
  vis : ∀ vi, ∃ b, viOf t vi = { viOf s vi with lostr := b }

theorem Beside.refl (s : State) : Beside s s := ⟨rfl, fun _ => ⟨_, rfl⟩⟩

theorem Beside.trans {s t u : State} (h : Beside s t) (g : Beside t u) : Beside s u := by
  refine ⟨?_, fun vi => ?_⟩
  · have h := h.rest
    have g := g.rest
    rw [← h, ← g]
  · obtain ⟨a, ha⟩ := h.vis vi
    obtain ⟨b, hb⟩ := g.vis vi
    exact ⟨b, by rw [hb, ha]⟩

/-- A state that differs in what is beside memory alone. -/
theorem Beside.of_rest {s t : State} (h : { t with
    mem := s.mem, live := s.live, placed := s.placed, weak := s.weak, bad := s.bad, llc := s.llc, misses := s.misses, wbufs := s.wbufs,
    l1 := s.l1, dir := s.dir, ctrls := s.ctrls, waitReqs := s.waitReqs, resps := s.resps, links := s.links, free := s.free,
    host := s.host, hostWrites := s.hostWrites, stale := s.stale, reports := s.reports, streams := s.streams, digests := s.digests,
    hist := s.hist } = s) : Beside s t := by
  have hv : t.vis = s.vis := have g := congrArg State.vis h; g
  refine ⟨?_, fun vi => ⟨(viOf s vi).lostr, ?_⟩⟩
  · rw [← hv]; exact h
  · simp only [viOf, hv]

theorem Homeward.beside {s t : State} (h : Homeward s t) : Beside s t := by
  refine .of_rest ?_
  have h := h.1
  rw [← h]

/-! What stands as it was. -/

section
variable {s t : State} (h : Beside s t)
include h

theorem Beside.warp : t.warp = s.warp := have g := congrArg State.warp h.rest; g
theorem Beside.now : t.now = s.now := have g := congrArg State.now h.rest; g
theorem Beside.crews : t.crews = s.crews := have g := congrArg State.crews h.rest; g
theorem Beside.launches : t.launches = s.launches := have g := congrArg State.launches h.rest; g
theorem Beside.packets : t.packets = s.packets := have g := congrArg State.packets h.rest; g
theorem Beside.pageReqs : t.pageReqs = s.pageReqs := have g := congrArg State.pageReqs h.rest; g
theorem Beside.pad : t.pad = s.pad := have g := congrArg State.pad h.rest; g

end

theorem Beside.ite {s t u : State} {p : Prop} [Decidable p] (ht : Beside s t) (hu : Beside s u) : Beside s (if p then t else u) := by
  split
  · exact ht
  · exact hu

/-! The operations over memory. -/

theorem writeLoc_beside (s : State) (ord : Ord) (swz : BitVec 4) (l : Loc) (bytes : List Byte) :
    Beside s (writeLoc s ord swz l bytes) := by
  cases l with
  | dev a => exact (writeDpa_home s ord swz a bytes).beside
  | host a => exact .of_rest rfl

/-- A report changes the reports, and of the interface the mark that one was lost (R394). -/
theorem report_beside (s : State) (vi kind launch asid addr data : Nat) : Beside s (report s vi kind launch asid addr data) := by
  rw [report]
  split
  · refine ⟨rfl, fun v => ?_⟩
    by_cases hv : v = vi
    · subst hv
      exact ⟨true, mget_mset_same ..⟩
    · exact ⟨(viOf s v).lostr, mget_mset_other _ _ _ _ _ hv⟩
  · exact .of_rest rfl

theorem markStale_beside (s : State) (asid va b a : Nat) : Beside s (markStale s asid va b a) := by
  rw [markStale]
  split
  · exact .refl s
  · exact .trans (t := { s with stale := { page := a / 65536, asid := asid, vpn := va / 65536, cleared := false } :: s.stale })
      (.of_rest rfl) (report_beside ..)

theorem writeBuddy_beside (s : State) (x : Option Nat) (swz : BitVec 4) (asid va a : Nat) (bytes : List Byte) :
    Beside s (writeBuddy s x swz asid va a bytes) := by
  unfold writeBuddy
  split
  · exact .refl s
  · split
    · exact markStale_beside ..
    · exact (writeFar_home ..).beside

theorem writeX_beside (s : State) (x : Xlat) (asid va i : Nat) (bytes : List Byte) : Beside s (writeX s x asid va i bytes) := by
  have loc := writeLoc_beside s x.ord x.swz (x.loc.add i) bytes
  rw [writeX]
  split
  · exact loc.trans (writeBuddy_beside ..)
  · exact loc

theorem foldlM_keeps {α β : Type} (R : α → α → Prop) (refl : ∀ a, R a a) (trans : ∀ {a b c}, R a b → R b c → R a c) (f : α → β → Option α)
    (l : List β) (h : ∀ a b c, f a b = some c → R a c) (a c : α) (hc : l.foldlM f a = some c) : R a c :=
  foldlM_holds (R a) f l (fun _ _ _ hb hf => trans hb (h _ _ _ hf)) a c (refl a) hc

theorem writeVa_beside {s t : State} {sp : Space} {va : Nat} {bytes : List Byte} (h : writeVa s sp va bytes = some t) : Beside s t := by
  refine foldlM_keeps Beside .refl .trans _ _ (fun a b c hc => ?_) s t h
  split at hc
  · cases hc
    exact writeX_beside ..
  · cases hc

theorem storeRec_beside (s : State) (r : Rec) : Beside s (storeRec s r) := by
  rw [storeRec]
  split
  · exact .refl s
  · next sp _ =>
    cases hw : writeVa s sp r.addr (recBytes r) with
    | none => exact .refl s
    | some t => exact writeVa_beside hw

/-- Steps that stay beside memory, repeated. -/
theorem foldl_beside {β : Type} (f : State → β → State) (l : List β) (h : ∀ t b, Beside t (f t b)) (s : State) : Beside s (l.foldl f s) :=
  foldl_keeps Beside .refl .trans f l h s

/-! Through the glaze streams (R93). -/

theorem histBeat_beside (s : State) (ctrl : Nat) (k : BitVec 6) (c : BitVec 8192) (out : List Word) :
    Beside s (histBeat s ctrl k c out) :=
  foldl_beside _ _ (fun t j => by
    have bin : ∀ x, Beside t { t with hist := x } := fun x => .of_rest rfl
    have sat : ∀ x f, Beside t (setStream { t with hist := x } k f) := fun x f => .of_rest rfl
    exact .ite (sat _ _) (bin _)) s

theorem glazeLine_beside (s : State) (ctrl : Nat) (k : BitVec 6) (inp old : Line) : Beside s (glazeLine s ctrl k inp old).1 := by
  rw [glazeLine]
  split
  · exact .refl s
  · have digest : ∀ c w, Beside s (digestLine s ctrl k c w) := fun c w => .of_rest rfl
    dsimp only
    split
    · exact ((digest _ _).trans (histBeat_beside ..)).trans (histBeat_beside ..)
    · exact digest _ _

theorem keepSides_beside {s t : State} (h : Beside s t) : Beside s (keepSides s t) := h.trans (.of_rest rfl)

theorem glazeAt_beside (s : State) (swz : BitVec 4) (k : BitVec 6) (line : Nat) (inp old : Line) :
    Beside s (glazeAt s swz k line inp old).1 := by
  have through := glazeLine_beside s (ctrlOf swz (line * 128)) k inp old
  rw [glazeAt]
  dsimp only
  split
  · exact keepSides_beside through
  · exact through

theorem countFix_beside (s : State) (swz : BitVec 4) (line : Nat) : Beside s (countFix s swz line) := by
  rw [countFix]
  split
  · exact .of_rest rfl
  · exact .refl s

theorem dirWrite_beside (s : State) (line : Nat) (keep : Bool) : Beside s (dirWrite s line keep) := .of_rest rfl

theorem streamWrite_beside (s : State) (ord : Ord) (rep : Option Nat) (swz : BitVec 4) (key : Option (BitVec 512)) (k : BitVec 6)
    (line : Nat) (mask : BitVec 128) (data : Line) : Beside s (streamWrite s ord rep swz key k line mask data) := by
  have past : Beside s (dirWrite (passHome s line) line false) := (passHome_home s line).beside.trans (dirWrite_beside ..)
  have fixed : ∀ b : Bool, Beside s (if b = true then countFix (dirWrite (passHome s line) line false) swz line
      else dirWrite (passHome s line) line false) := fun b => by
    cases b
    · exact past
    · exact past.trans (countFix_beside ..)
  rw [streamWrite]
  split
  · exact (storeLine_home ..).beside
  · dsimp only
    split
    · exact past.trans (report_beside ..)
    · split <;> exact ((fixed _).trans (glazeAt_beside ..)).trans (dramPast_home ..).beside

theorem lineThrough_beside (s : State) (ord : Ord) (rep : Option Nat) (swz : BitVec 4) (key : Option (BitVec 512)) (k : BitVec 6)
    (line : Nat) (mask : BitVec 128) (data : Line) : Beside s (lineThrough s ord rep swz key k line mask data) := by
  have own := streamWrite_beside s ord rep swz key k line mask data
  unfold lineThrough
  dsimp only
  split
  · exact own
  · split
    · exact own
    · split
      · exact own.trans (farStore_home ..).beside
      · exact own.trans (keepSides_beside (streamWrite_beside ..))

/-! Stores of a warp (R191). -/

theorem performReq_beside (s : State) (core : Nat) (r : LineReq) : Beside s (performReq s core r) := by
  have buddy : ∀ (b : Nat) (t : State) (line : Nat), Beside t (if b ∈ t.unreach then markStale t r.ent.asid r.ent.va b (line * 128)
      else farStore t r.ent.swz (buddyLine b line) r.mask r.data) := fun b t line => by
    split
    · exact markStale_beside ..
    · exact (farStore_home ..).beside
  have atRep : ∀ (t : State) (line : Nat), Beside t (match r.ent.rep with
      | none => t
      | some b => if b ∈ t.unreach then markStale t r.ent.asid r.ent.va b (line * 128)
        else farStore t r.ent.swz (buddyLine b line) r.mask r.data) := fun t line => by
    split
    · exact .refl t
    · exact buddy _ t line
  rw [performReq]
  dsimp only
  split
  · split
    · exact (storeLine_home ..).beside.trans (atRep ..)
    · split
      · split
        · exact (lineThrough_beside ..).trans (markStale_beside ..)
        · exact lineThrough_beside ..
      · exact lineThrough_beside ..
  · refine .trans ?_ (foldl_beside _ _ (fun t p => ?_) _)
    · split
      · exact (crossFabric_home ..).beside
      · exact .refl s
    · refine .trans ?_ (atRep ..)
      split
      · exact .refl t
      · split
        · exact (storeLine_home ..).beside
        · exact (farPut_home ..).beside

theorem performStores_beside (s : State) (core : Nat) (es : List StoreEnt) : Beside s (performStores s core es) := by
  refine .trans (foldl_beside _ _ (fun t e => ?_) s) (foldl_beside _ _ (fun t r => performReq_beside t core r) _)
  split
  · exact writeLoc_beside ..
  · exact .refl t

/-- A drain empties the warp's store buffer and marks its segment as one that is not run again (R280). -/
theorem drain_warp (s : State) : (drain s).warp = { s.warp with sb := [], nonReplay := true, kept := [] } := by
  have h := performStores_beside (setWarp s fun w => { w with sb := [] }) s.warp.core s.warp.sb
  simp only [drain, noReplay, setWarp_warp, h.warp]

theorem drain_crews (s : State) : (drain s).crews = s.crews :=
  (performStores_beside (setWarp s fun w => { w with sb := [] }) s.warp.core s.warp.sb).crews

theorem drain_now (s : State) : (drain s).now = s.now :=
  (performStores_beside (setWarp s fun w => { w with sb := [] }) s.warp.core s.warp.sb).now

end Sys2Proof.Machine
end

section
/-! SUPPORT. The translation caches after accesses (R118), what follows an instruction's own part (R41), page requests (R135, R136) and
records of a crew (R132, R133). -/

namespace Sys2Proof.Machine

/-! Translation caches. -/

/-- Nothing has changed but the translation caches. -/
def Touched (s t : State) : Prop := ∃ tlb ptrs, t = { s with tlb := tlb, ptrs := ptrs }

theorem Touched.refl (s : State) : Touched s s := ⟨_, _, rfl⟩

theorem Touched.trans {s t u : State} (h : Touched s t) (g : Touched t u) : Touched s u := by
  obtain ⟨a, b, rfl⟩ := h
  obtain ⟨c, d, rfl⟩ := g
  exact ⟨c, d, rfl⟩

theorem Touched.warp {s t : State} (h : Touched s t) : t.warp = s.warp := by obtain ⟨a, b, rfl⟩ := h; rfl
theorem Touched.crews {s t : State} (h : Touched s t) : t.crews = s.crews := by obtain ⟨a, b, rfl⟩ := h; rfl
theorem Touched.now {s t : State} (h : Touched s t) : t.now = s.now := by obtain ⟨a, b, rfl⟩ := h; rfl
theorem Touched.bytes {s t : State} (h : Touched s t) : BytesKept s t := by
  obtain ⟨a, b, rfl⟩ := h
  exact ⟨fun _ _ => rfl, fun _ => rfl, fun _ => rfl⟩

theorem ptrFill_touched (s : State) (vi asid va : Nat) : Touched s (ptrFill s vi asid va) := by
  rw [ptrFill]
  dsimp only
  split
  · exact ⟨_, _, rfl⟩
  · exact .refl s

theorem tlbTouch_touched (s : State) (vi asid va : Nat) : Touched s (tlbTouch s vi asid va) := by
  rw [tlbTouch]
  dsimp only
  split
  · exact ⟨_, _, rfl⟩
  · split
    · split
      · exact (ptrFill_touched ..).trans ⟨_, _, rfl⟩
      · exact ptrFill_touched ..
    · exact .refl s

theorem touchVa_touched (s : State) (vi asid va n : Nat) : Touched s (touchVa s vi asid va n) := by
  rw [touchVa]
  split
  · exact .refl s
  · exact foldl_keeps Touched .refl .trans _ _ (fun t _ => tlbTouch_touched t ..) s

theorem touchLanes_touched (s : State) (l : List (Nat × LaneAcc)) : Touched s (touchLanes s l) :=
  foldl_keeps Touched .refl .trans _ _ (fun t _ => tlbTouch_touched t ..) s

/-! What follows an instruction's own part. -/

theorem WarpKept.refl (w : Warp) : WarpKept w w := by constructor <;> rfl

theorem WarpKept.trans {w x y : Warp} (h : WarpKept w x) (g : WarpKept x y) : WarpKept w y := by
  cases h
  cases g
  constructor <;> exact Eq.trans ‹_› ‹_›

theorem BytesKept.refl (s : State) : BytesKept s s := ⟨fun _ _ => rfl, fun _ => rfl, fun _ => rfl⟩

theorem BytesKept.trans {s t u : State} (h : BytesKept s t) (g : BytesKept t u) : BytesKept s u := by
  obtain ⟨hd, hh, hp⟩ := h
  obtain ⟨gd, gh, gp⟩ := g
  exact ⟨fun z a => (gd z a).trans (hd z a), fun a => (gh a).trans (hh a), fun a => (gp a).trans (hp a)⟩

theorem issued_bytes (s : State) (c : Ctl) : BytesKept s (issued s c) := by
  obtain ⟨D, L, he, -, -⟩ := issued_eq s c
  rw [he]
  exact ⟨fun _ _ => rfl, fun _ => rfl, fun _ => rfl⟩

theorem issued_warpKept (s : State) (c : Ctl) : WarpKept s.warp (issued s c).warp := by
  obtain ⟨D, L, he, -, -⟩ := issued_eq s c
  rw [he]
  constructor <;> rfl

/-- Before an instruction's own part, all stands but the lists of results due and of sources still to be read. -/
theorem issued_frame (s : State) (c : Ctl) : (issued s c).warp.entries = s.warp.entries ∧ (issued s c).warp.v = s.warp.v ∧
    (issued s c).warp.sr = s.warp.sr ∧ (issued s c).warp.p = s.warp.p ∧ (issued s c).warp.uid = s.warp.uid ∧
    (issued s c).warp.asid = s.warp.asid ∧ (issued s c).warp.helpers = s.warp.helpers ∧ (issued s c).warp.vi = s.warp.vi ∧
    (issued s c).crews = s.crews ∧ (issued s c).now = s.now := by
  obtain ⟨D, L, he, -, -⟩ := issued_eq s c
  rw [he]
  exact ⟨rfl, rfl, rfl, rfl, rfl, rfl, rfl, rfl, rfl, rfl⟩

/-- What an instruction that is done leaves, from the state that its own part left: nothing changes but the warp's place, its list of
results due and what it waited for (R41). -/
structure Followed (s t u : State) (c : Ctl) : Prop where
  outside : { u with warp := t.warp, free := t.free } = t
  v : u.warp.v = t.warp.v
  sr : u.warp.sr = t.warp.sr
  p : u.warp.p = t.warp.p
  kept : WarpKept t.warp u.warp
  moved : t.warp.entries = s.warp.entries → t.warp.helpers = s.warp.helpers → t.now = s.now → MovedOn s u c

theorem finish_followed {s : State} {i : Instr} {c : Ctl} (h : Clear s i) (t : State) :
    Followed s t (finish (issued s c) i c (acting s c) (.done t)) c := by
  obtain ⟨due, hdue⟩ := recordDue_clear (c := c) h (acting s c) t
  simp only [finish, hdue]
  refine ⟨rfl, rfl, rfl, rfl, by constructor <;> rfl, fun he hh hn => ⟨?_, ?_, rfl⟩⟩
  · simp only [advance, passTime, setWarp, he, hh]
  · simp only [advance, passTime, setWarp, hn]

theorem Followed.bytes {s t u : State} {c : Ctl} (h : Followed s t u c) : BytesKept t u := by
  have h := h.outside
  rw [← h]
  exact .refl _

theorem Followed.crews {s t u : State} {c : Ctl} (h : Followed s t u c) : u.crews = t.crews := by
  have h := h.outside
  rw [← h]

/-- An instruction whose own part writes no register keeps them all. -/
theorem RegsKept.of_eq {s t : State} {m : Mask} {codes : List Nat} (hv : t.warp.v = s.warp.v) (hs : t.warp.sr = s.warp.sr)
    (hp : t.warp.p = s.warp.p) : RegsKept s t m codes :=
  ⟨fun _ _ _ _ => by rw [hv], fun _ _ => by rw [hs], fun _ _ _ => by rw [hp]⟩

/-! Page requests. -/

/-- The page that a page request names. -/
def pageOf (asid va psz : Nat) : Page := ⟨asid, va / 65536 / pszUnits psz * pszUnits psz⟩

/-- A page is among those requested. -/
def Requested (s : State) (pg : Page) : Prop := s.pageReqs.any (fun x => x.page = pg) = true

/-- A request is entered unless its page is requested already (R135). -/
theorem requestPage_eq (s : State) (vi asid va psz : Nat) (eng : Bool) : requestPage s vi asid va psz eng =
    if s.pageReqs.any (fun r => r.page = pageOf asid va psz) then s
    else { s with pageReqs := s.pageReqs ++ [⟨vi, pageOf asid va psz, psz, eng, false⟩] } := by
  have small : (if psz = 0 then (⟨asid, va / 65536⟩ : Page) else ⟨asid, va / 65536 / pszUnits psz * pszUnits psz⟩)
      = pageOf asid va psz := by
    split
    · next h => simp only [h, pageOf, pszUnits, Nat.div_one, Nat.mul_one]
    · rfl
  simp only [requestPage, small]

theorem requestPage_requested (s : State) (vi asid va psz : Nat) (eng : Bool) :
    Requested (requestPage s vi asid va psz eng) (pageOf asid va psz) := by
  rw [requestPage_eq]
  split
  · assumption
  · simp [Requested]

theorem requestPage_keeps (s : State) (vi asid va psz : Nat) (eng : Bool) {pg : Page} (h : Requested s pg) :
    Requested (requestPage s vi asid va psz eng) pg := by
  rw [requestPage_eq]
  split
  · exact h
  · simp only [Requested] at h ⊢
    rw [List.any_append, h, Bool.true_or]

/-- Marking requests as posted leaves the pages requested. -/
theorem requested_posted {s : State} {pg : Page} (h : Requested s pg) (p : PageReq → Prop) [DecidablePred p] :
    Requested { s with pageReqs := s.pageReqs.map fun q => if p q then { q with posted := true } else q } pg := by
  have same : ∀ q : PageReq, (if p q then { q with posted := true } else q).page = q.page := fun q => by split <;> rfl
  simp only [Requested, List.any_map, Function.comp_def, same]
  exact h

/-- Writing memory leaves the pages requested. -/
theorem Requested.beside {s t : State} {pg : Page} (h : Requested s pg) (g : Beside s t) : Requested t pg := by
  rw [Requested, g.pageReqs]
  exact h

/-- Putting requests into the ring of an interface only marks them as posted (R136). -/
theorem postPageReqs_keeps (s : State) (vi : Nat) {pg : Page} (h : Requested s pg) : Requested (postPageReqs s vi) pg := by
  refine foldl_holds (fun t => Requested t pg) _ _ (fun t r ht => ?_) s h
  split
  · exact ht
  · dsimp only
    split
    · exact ht
    · split
      · split
        · split
          · exact ht
          · next t1 h1 =>
            split
            · exact ht
            · next t2 h2 =>
              exact requested_posted (ht.beside ((writeVa_beside h1).trans (writeVa_beside h2))) _
        · exact ht
      · exact ht

theorem askPage_requested (s : State) (vi asid va psz : Nat) (eng : Bool) :
    Requested (askPage s vi asid va psz eng) (pageOf asid va psz) :=
  postPageReqs_keeps _ _ (requestPage_requested ..)

theorem askPage_keeps (s : State) (vi asid va psz : Nat) (eng : Bool) {pg : Page} (h : Requested s pg) :
    Requested (askPage s vi asid va psz eng) pg :=
  postPageReqs_keeps _ _ (requestPage_keeps _ _ _ _ _ _ h)

/-- Every page of a list asked for is requested. -/
theorem askPages_requested {α : Type} (f : α → Nat × Nat) (asid : Nat) (l : List α) (s : State) {x : α} (hx : x ∈ l) :
    Requested (l.foldl (fun t e => askPage t t.warp.vi asid (f e).1 (f e).2 false) s) (pageOf asid (f x).1 (f x).2) := by
  induction l generalizing s with
  | nil => cases hx
  | cons y l ih =>
    rcases List.mem_cons.mp hx with rfl | h
    · rw [List.foldl_cons]
      exact foldl_holds (fun t => Requested t _) _ _ (fun t e ht => askPage_keeps _ _ _ _ _ _ ht) _ (askPage_requested ..)
    · exact ih _ h

/-! What PGRQ reads of its lanes. -/

/-- The addresses that PGRQ translates: those of the lanes that are in bounds (R135). -/
def pgrqVas (u : State) (act : Mask) (br : Fin 64) (b : Opnd) : List Nat :=
  (lanesOf act).filterMap fun k =>
    if inBounds (slotRec u br) (elemIndex u act b k) 0 (slotRec u br).es then
      some ((slotRec u br).base + elemIndex u act b k * (slotRec u br).stride)
    else none

/-- What PGRQ finds in each lane. -/
def pgrqLanes (u : State) (act : Mask) (br : Fin 64) (b : Opnd) : List (Nat × LaneAcc) :=
  (lanesOf act).map fun k => (k, pgrqLane u (slotRec u br) (elemIndex u act b k))

/-- The pages that PGRQ requests, with the lanes that want them: helper lanes want none. -/
def pgrqWants (helpers : Mask) (l : List (Nat × LaneAcc)) : List (Nat × Nat × Nat) :=
  l.filterMap fun e => match e.2 with
    | .nores va psz => if helpers.getLsbD e.1 then none else some (e.1, va, psz)
    | _ => none

/-- The end of a segment that waits for the pages of PGRQ (R135). -/
def pgrqEnd (asid : Nat) (pred : Nat) (ip : BitVec 48) (want : List (Nat × Nat × Nat)) : SegEnd :=
  let pages := (want.map fun e => pageOf asid e.2.1 e.2.2).dedup
  { SegEnd.at (evPage asid (pages.foldl (fun m p => min m p.vpn) (2 ^ 36))) (ipAdd ip 1) with
    pages := pages, pgrq := want.map fun e => ⟨pred, e.1, ⟨asid, e.2.1 / 65536⟩⟩ }

theorem mem_pgrqLanes {u : State} {act : Mask} {br : Fin 64} {b : Opnd} {k : Nat} {a : LaneAcc} :
    (k, a) ∈ pgrqLanes u act br b ↔ HasLane act k ∧ a = pgrqLane u (slotRec u br) (elemIndex u act b k) := by
  simp only [pgrqLanes, List.mem_map, Prod.mk.injEq, mem_lanesOf]
  constructor
  · rintro ⟨j, hj, rfl, rfl⟩
    exact ⟨hj, rfl⟩
  · rintro ⟨hk, rfl⟩
    exact ⟨k, hk, rfl, rfl⟩

theorem pgrqWants_nil {helpers : Mask} {l : List (Nat × LaneAcc)}
    (h : ∀ k va p, (k, LaneAcc.nores va p) ∈ l → HasLane helpers k) : pgrqWants helpers l = [] := by
  refine List.filterMap_eq_nil_iff.mpr fun e he => ?_
  obtain ⟨k, a⟩ := e
  cases a with
  | nores va p => exact if_pos (h k va p he)
  | clamped => rfl
  | fail c d => rfl
  | ok ws => rfl

theorem mem_pgrqWants {helpers : Mask} {l : List (Nat × LaneAcc)} {k va p : Nat} (h : (k, LaneAcc.nores va p) ∈ l)
    (hk : ¬HasLane helpers k) : (k, va, p) ∈ pgrqWants helpers l :=
  List.mem_filterMap.mpr ⟨_, h, if_neg hk⟩

theorem laneBit_lane {k : Nat} (hk : k < 32) (j : Nat) : (laneBit k).getLsbD j = decide (j = k) := by
  rw [laneBit, BitVec.getLsbD_ofNat, Nat.testBit_two_pow]
  by_cases h : j = k
  · subst h; simp [hk]
  · simp [h, Ne.symm h]

theorem servedMask_snoc_ok (l : List (Nat × LaneAcc)) (k : Nat) (ws : List (Nat × Nat × Xlat)) :
    servedMask (l ++ [(k, .ok ws)]) = servedMask l ||| laneBit k := List.foldl_append ..

theorem servedMask_snoc (l : List (Nat × LaneAcc)) (k : Nat) {a : LaneAcc} (h : ∀ ws, a ≠ .ok ws) :
    servedMask (l ++ [(k, a)]) = servedMask l := by
  refine (List.foldl_append ..).trans ?_
  cases a with
  | ok ws => exact absurd rfl (h ws)
  | nores | clamped | fail => rfl

/-- The lanes served are those that come to words of memory (R123). -/
theorem servedMask_lane (l : List (Nat × LaneAcc)) (hl : ∀ e ∈ l, e.1 < 32) (j : Nat) :
    (servedMask l).getLsbD j = true ↔ ∃ ws, (j, LaneAcc.ok ws) ∈ l := by
  induction l using List.reverseRecOn with
  | nil => simp [servedMask]
  | append_singleton l e ih =>
    obtain ⟨k, a⟩ := e
    have hk : k < 32 := hl _ (List.mem_append_right _ (List.mem_singleton.mpr rfl))
    have ih := ih fun e he => hl e (List.mem_append_left _ he)
    by_cases h : ∃ ws, a = .ok ws
    · obtain ⟨ws, rfl⟩ := h
      rw [servedMask_snoc_ok, BitVec.getLsbD_or, Bool.or_eq_true, ih, laneBit_lane hk, decide_eq_true_eq]
      constructor
      · rintro (⟨x, hx⟩ | rfl)
        · exact ⟨x, List.mem_append_left _ hx⟩
        · exact ⟨ws, List.mem_append_right _ (List.mem_singleton.mpr rfl)⟩
      · rintro ⟨x, hx⟩
        rcases List.mem_append.mp hx with h | h
        · exact .inl ⟨x, h⟩
        · cases List.mem_singleton.mp h
          exact .inr rfl
    · have h : ∀ ws, a ≠ .ok ws := fun ws hw => h ⟨ws, hw⟩
      rw [servedMask_snoc l k h, ih]
      refine exists_congr fun x => ⟨fun hx => List.mem_append_left _ hx, fun hx => ?_⟩
      rcases List.mem_append.mp hx with g | g
      · exact g
      · cases List.mem_singleton.mp g
        exact absurd rfl (h x)

theorem withWalks_none {s : State} {vas : List Nat} (h : walksWanted s vas = []) (f : Step) : withWalks s vas f = f := by
  simp only [withWalks, h]

/-- An event of PAGE names its kind (R334). -/
theorem evPage_kind (asid vpn : Nat) : dbits (evPage asid vpn) 63 60 = 7 := by
  simp only [dbits, bitsOf, evPage, eventOf, BitVec.toNat_ofNat]
  omega

/-! Responses outstanding, and the loads of records (R101, R133). -/

theorem sendMisses_resps (s : State) : (sendMisses s).resps = s.resps := by
  refine foldl_holds (fun t : State => t.resps = s.resps) _ _ (fun t m ht => ?_) s rfl
  dsimp only
  split <;> exact ht

theorem sendAll_resps (s : State) : (sendAll s).resps = s.resps := by
  have writes : ∀ (l : List CtrlReq) (t : State), (l.foldl (fun t q => if ctrlRoom t (ctrlOf q.swz (q.line * 128)) then
      pushReq { t with wbufs := t.wbufs.erase q } q else t) t).resps = t.resps := fun l t =>
    foldl_holds (fun u : State => u.resps = t.resps) _ _ (fun u q hu => by split <;> exact hu) t rfl
  refine foldl_holds (fun u : State => u.resps = s.resps) _ _ (fun u q hu => by split <;> exact hu) _ ?_
  exact (sendMisses_resps _).trans (writes _ s)

theorem openMiss_resps (s : State) (swz : BitVec 4) (line : Nat) (rep : Option Nat) (l1 : List Nat) :
    (openMiss s swz line rep l1).resps = s.resps := by
  rw [openMiss]
  split
  · rfl
  · exact sendMisses_resps _

/-- A response for a line is outstanding for a warp. -/
def Awaited (s : State) (uid line : Nat) : Prop := ∃ y ∈ s.resps, y.uid = uid ∧ y.line = line

theorem askLine_warp (s : State) (x : Xlat) (k : BitVec 6) (line : Nat) (into : List Nat) (pieces : List Piece) :
    (askLine s x k line into pieces).warp = s.warp := by
  simp only [askLine]
  split
  · exact (sendAll_home _).beside.warp
  · exact (openMiss_home ..).beside.warp

theorem askLine_resps (s : State) (x : Xlat) (k : BitVec 6) (line : Nat) (into : List Nat) (pieces : List Piece) :
    ∃ r : Resp, r.uid = s.warp.uid ∧ r.line = line ∧ (askLine s x k line into pieces).resps = s.resps ++ [r] := by
  refine ⟨⟨s.warp.uid, curIp s.warp, line, decide (k ≠ 0) || uncached s x line, k, none, none, pieces⟩, rfl, rfl, ?_⟩
  simp only [askLine]
  split
  · exact sendAll_resps _
  · exact openMiss_resps ..

theorem askOnce_warp (s : State) (x : Nat × Xlat) : (askOnce s x).warp = s.warp := by
  rw [askOnce]
  split
  · rfl
  · exact askLine_warp ..

theorem askOnce_awaited (s : State) (x : Nat × Xlat) : Awaited (askOnce s x) s.warp.uid x.1 := by
  rw [askOnce]
  split
  · next h =>
    simp only [List.any_eq_true, Bool.and_eq_true, decide_eq_true_eq] at h
    obtain ⟨y, hy, ⟨hu, hl⟩, -⟩ := h
    exact ⟨y, hy, hu, hl⟩
  · obtain ⟨r, hu, hl, he⟩ := askLine_resps s x.2 0 x.1 (if x.2.ord = .so then [] else [s.warp.core]) []
    exact ⟨r, by rw [he]; exact List.mem_append_right _ (List.mem_singleton.mpr rfl), hu, hl⟩

theorem askOnce_keeps (s : State) (x : Nat × Xlat) {uid line : Nat} (h : Awaited s uid line) : Awaited (askOnce s x) uid line := by
  rw [askOnce]
  split
  · exact h
  · obtain ⟨y, hy, hu, hl⟩ := h
    obtain ⟨r, -, -, he⟩ := askLine_resps s x.2 0 x.1 (if x.2.ord = .so then [] else [s.warp.core]) []
    exact ⟨y, by rw [he]; exact List.mem_append_left _ hy, hu, hl⟩

/-- Every line of a list is asked for. -/
theorem askOnces_awaited (l : List (Nat × Xlat)) (s : State) {x : Nat × Xlat} (hx : x ∈ l) :
    Awaited (l.foldl askOnce s) s.warp.uid x.1 := by
  induction l generalizing s with
  | nil => cases hx
  | cons y l ih =>
    rw [List.foldl_cons]
    rcases List.mem_cons.mp hx with rfl | h
    · exact foldl_holds (fun t => Awaited t _ _) _ _ (fun t e ht => askOnce_keeps _ _ ht) _ (askOnce_awaited ..)
    · rw [← askOnce_warp s y]
      exact ih _ h

/-- A record load at an address that is not aligned traps ALIGN (R133). -/
theorem recLoad_misaligned {va al : Nat} (h : va % al ≠ 0) (s : State) (n : Nat) (w : Bool) (f : State → List Byte → Step) :
    recLoad s va n al w f = .trap 7 0 none := by simp only [recLoad, h, ne_eq, not_false_eq_true, ↓reduceIte]

/-- A record load that is answered changes of warp, crews and time the warp's store buffer and standing to be run again alone. -/
theorem LoadsAs.frame {s v : State} {va n al : Nat} {bs : List Byte} (h : LoadsAs s va n al bs v) :
    v.crews = s.crews ∧ v.now = s.now ∧ ∃ sb nr kept, v.warp = { s.warp with sb := sb, nonReplay := nr, kept := kept } := by
  have h := h fun t _ => .hold t
  have touched := touchVa_touched s s.warp.vi s.warp.asid va n
  rw [recLoad] at h
  dsimp only at h
  split at h
  · cases h
  · cases hw : walksWanted s ((List.range (n / 4)).map fun j => va + 4 * j) with
    | cons a b => rw [withWalks, hw] at h; cases h
    | nil =>
      rw [withWalks_none hw] at h
      split at h
      · cases h
      · cases h
      · cases h; exact ⟨rfl, rfl, _, _, _, rfl⟩
      · split at h
        · cases h
          split
          · rw [drain_crews, drain_now, drain_warp, touched.crews, touched.now, touched.warp]
            exact ⟨rfl, rfl, _, _, _, rfl⟩
          · rw [touched.crews, touched.now, touched.warp]
            exact ⟨rfl, rfl, _, _, _, rfl⟩
        · cases h

/-- A change of a crew that keeps its name, seen from the crew. -/
theorem crewAt_setCrewAt {s : State} {launch crew : Nat} {k : Crew} {f : Crew → Crew} (hk : crewAt s launch crew = some k)
    (hf : ∀ x, (f x).launch = x.launch ∧ (f x).crew = x.crew) : crewAt (setCrewAt s launch crew f) launch crew = some (f k) := by
  have named := List.find?_some hk
  have same : (fun c : Crew => decide (c.launch = launch) && decide (c.crew = crew)) ∘
      (fun c => if (decide (c.launch = launch) && decide (c.crew = crew)) = true then f c else c)
      = fun c => decide (c.launch = launch) && decide (c.crew = crew) := by
    funext c
    simp only [Function.comp]
    split
    · rw [(hf c).1, (hf c).2]
    · rfl
  simp only [crewAt] at hk
  simp only [crewAt, setCrewAt, List.find?_map, same, hk, Option.map_some, named, if_true]

/-- What a record load or setting leaves, that puts a record into the warp's crew from a state in which all stands but memory, the
translation caches and the warp's store buffer (R133). -/
theorem finish_setCrew {s v : State} {i : Instr} {c : Ctl} {k : Crew} {f : Crew → Crew} (hr : Runs s i c)
    (hk : crewAt s s.warp.launch (crewKey s.warp) = some k) (hf : ∀ x, (f x).launch = x.launch ∧ (f x).crew = x.crew)
    (hv : v.crews = (issued s c).crews ∧ v.now = (issued s c).now ∧
      ∃ sb nr kept, v.warp = { (issued s c).warp with sb := sb, nonReplay := nr, kept := kept }) :
    ∃ t, finish (issued s c) i c (acting s c) (.done (setCrew v f)) = t ∧ crewAt t s.warp.launch (crewKey s.warp) = some (f k) ∧
      BytesKept v t ∧ WarpKept v.warp t.warp ∧ RegsKept s t (acting s c) [] ∧ MovedOn s t c := by
  obtain ⟨hc, hn, sb, nr, kept, hw⟩ := hv
  obtain ⟨D, L, he, -, -⟩ := issued_eq s c
  have hw : v.warp = { s.warp with due := D, late := L, sb := sb, nonReplay := nr, kept := kept } := by rw [hw, he]
  have hc : v.crews = s.crews := by rw [hc, he]
  have hn : v.now = s.now := by rw [hn, he]
  have g := finish_followed hr.clear (c := c) (setCrew v f)
  refine ⟨_, rfl, ?_, g.bytes, g.kept, .of_eq ?_ ?_ ?_, g.moved ?_ ?_ ?_⟩
  · have at_ : crewAt v s.warp.launch (crewKey s.warp) = some k := by rw [crewAt, hc]; exact hk
    have put := crewAt_setCrewAt at_ hf
    have named : setCrew v f = setCrewAt v s.warp.launch (crewKey s.warp) f := by rw [setCrew, hw]; rfl
    rw [crewAt, g.crews, named]
    exact put
  · rw [g.v, setCrew_warp, hw]
  · rw [g.sr, setCrew_warp, hw]
  · rw [g.p, setCrew_warp, hw]
  · rw [setCrew_warp, hw]
  · rw [setCrew_warp, hw]
  · rw [setCrew_now, hn]

/-- Bytes make a number of as many digits of 256. -/
theorem natOfBytes_lt (bs : List Byte) : natOfBytes bs < 256 ^ bs.length := by
  induction bs with
  | nil => exact Nat.one_pos
  | cons b t ih =>
    have hb := b.isLt
    simp only [natOfBytes, List.length_cons, Nat.pow_succ]
    omega

/-- Bytes read as a record of as many bits. -/
theorem toNat_ofBytes {bs : List Byte} {n w : Nat} (h : bs.length = n) (hw : w = 8 * n) :
    (BitVec.ofNat w (natOfBytes bs)).toNat = natOfBytes bs := by
  have := natOfBytes_lt bs
  rw [h, show 256 = 2 ^ 8 from rfl, ← Nat.pow_mul, ← hw] at this
  rw [BitVec.toNat_ofNat, Nat.mod_eq_of_lt this]

end Sys2Proof.Machine
end

section
/-! PROOFS. PGRQ, BREC.ld, BREC.set and LREC.ld. -/

namespace Sys2Proof.Proofs
open Sys2Proof Sys2Proof.Machine

theorem curIp_issued (s : State) (c : Ctl) : curIp (issued s c).warp = curIp s.warp := by
  rw [curIp, curIp, (issued_frame s c).1]

/-- The trap of an instruction's own part, taken before it has any effect. -/
theorem finish_trap (s : State) (i : Instr) (c : Ctl) (act : Mask) (code detail : Nat) (lane : Option Nat) :
    finish (issued s c) i c act (.trap code detail lane) = takeTrap (issued s c) code detail lane (curIp s.warp) := by
  rw [finish, curIp_issued]

/-- A record put into a slot of the crew's records of buffers, and the checks before it (R127, R133). -/
theorem brec_put {s v : State} {i : Instr} {c : Ctl} {k : Crew} (br : Fin 64) (x : BitVec 256) (hr : Runs s i c)
    (hk : crewAt s s.warp.launch (crewKey s.warp) = some k)
    (hv : v.crews = (issued s c).crews ∧ v.now = (issued s c).now ∧
      ∃ sb nr kept, v.warp = { (issued s c).warp with sb := sb, nonReplay := nr, kept := kept })
    (he : exec i s = .next (finish (issued s c) i c (acting s c) (if bufBad x then .trap 0xA 0 none else .done (setBrec v br x)))) :
    (bufBad x = true → exec i s = .next (takeTrap (issued s c) 0xA 0 none (curIp s.warp))) ∧
    (bufBad x = false → ∃ t, exec i s = .next t ∧ ∃ m, crewAt t s.warp.launch (crewKey s.warp) = some m ∧
      (mget 0 m.brec br.val).toNat = x.toNat ∧ (∀ j, j ≠ br.val → (mget 0 m.brec j).toNat = (mget 0 k.brec j).toNat) ∧
      m.tiles = k.tiles ∧ m.tags = k.tags ∧ m.gang = k.gang ∧ m.bars = k.bars ∧
      BytesKept v t ∧ WarpKept v.warp t.warp ∧ RegsKept s t (acting s c) [] ∧ MovedOn s t c) := by
  refine ⟨fun hb => ?_, fun hb => ?_⟩
  · rw [he, if_pos hb, finish_trap]
  · obtain ⟨t, ht, hm, kept⟩ := finish_setCrew (f := fun c => { c with brec := mset 0 c.brec br.val x }) hr hk
      (fun _ => ⟨rfl, rfl⟩) hv
    refine ⟨t, ?_, _, hm, ?_, fun j hj => ?_, rfl, rfl, rfl, rfl, kept⟩
    · rw [he, hb, if_neg (by decide), setBrec, ht]
    · rw [mget_mset_same]
    · rw [mget_mset_other _ _ _ _ _ hj]

theorem lrec_put {s v : State} {c : Ctl} {k : Crew} (lr : Fin 16) (a : Opnd) (x : BitVec 1024) (hr : Runs s (.lrecLd c lr a) c)
    (hk : crewAt s s.warp.launch (crewKey s.warp) = some k)
    (hv : v.crews = (issued s c).crews ∧ v.now = (issued s c).now ∧
      ∃ sb nr kept, v.warp = { (issued s c).warp with sb := sb, nonReplay := nr, kept := kept })
    (he : exec (.lrecLd c lr a) s = .next (finish (issued s c) (.lrecLd c lr a) c (acting s c)
      (if layBad x then .trap 0xA 0 none else .done (setCrew v fun c => { c with lrec := mset 0 c.lrec lr.val x })))) :
    (layBad x = true → exec (.lrecLd c lr a) s = .next (takeTrap (issued s c) 0xA 0 none (curIp s.warp))) ∧
    (layBad x = false → ∃ t, exec (.lrecLd c lr a) s = .next t ∧ ∃ m, crewAt t s.warp.launch (crewKey s.warp) = some m ∧
      (mget 0 m.lrec lr.val).toNat = x.toNat ∧ (∀ j, j ≠ lr.val → (mget 0 m.lrec j).toNat = (mget 0 k.lrec j).toNat) ∧
      m.tiles = k.tiles ∧ m.tags = k.tags ∧ m.gang = k.gang ∧ m.bars = k.bars ∧
      BytesKept v t ∧ WarpKept v.warp t.warp ∧ RegsKept s t (acting s c) [] ∧ MovedOn s t c) := by
  refine ⟨fun hb => ?_, fun hb => ?_⟩
  · rw [he, if_pos hb, finish_trap]
  · obtain ⟨t, ht, hm, kept⟩ := finish_setCrew (f := fun c => { c with lrec := mset 0 c.lrec lr.val x }) hr hk
      (fun _ => ⟨rfl, rfl⟩) hv
    refine ⟨t, ?_, _, hm, ?_, fun j hj => ?_, rfl, rfl, rfl, rfl, kept⟩
    · rw [he, hb, if_neg (by decide), ht]
    · rw [mget_mset_same]
    · rw [mget_mset_other _ _ _ _ _ hj]

/-- What a record load at an aligned address reads at once: it waits for the lines that are not at hand (R21, R133). -/
theorem recLoad_lines (s : State) (va n al : Nat) (ws : List (Nat × Nat × Xlat)) (ha : va % al = 0)
    (hw : walksWanted s ((List.range (n / 4)).map fun j => va + 4 * j) = [])
    (hj : joinWords (((List.range (n / 4)).map fun j => va + 4 * j).map fun a => (a, 4, translate s s.warp.space a false false)) = .ok ws)
    (ho : ∀ x ∈ ws, x.2.2.ord ≠ .so) (f : State → List Byte → Step) :
    let v := touchVa s s.warp.vi s.warp.asid va n
    (missingLines v ws = [] → recLoad s va n al false f = f v (ws.flatMap fun x => recBytesAt v x.2.2 x.2.1)) ∧
    (missingLines v ws ≠ [] → recLoad s va n al false f = .wait evLine none ((missingLines v ws).foldl askOnce v)) := by
  have plain : (ws.any fun x => decide (x.2.2.ord = .so)) = false := by
    simp only [List.any_eq_false, decide_eq_true_eq]
    exact ho
  simp only [recLoad, ha, ne_eq, not_true_eq_false, if_false, withWalks_none hw, hj, plain, Bool.false_and, Bool.false_eq_true]
  split
  · next h => exact ⟨fun _ => rfl, fun g => absurd h g⟩
  · next h => exact ⟨fun g => absurd g h, fun _ => rfl⟩

/-! What each instruction comes to where it runs. -/

section
variable {s : State} {c : Ctl} {a : Opnd}

theorem exec_brecLd {br : Fin 64} (h : Runs s (.brecLd c br a) c) : exec (.brecLd c br a) s = .next (finish (issued s c)
    (.brecLd c br a) c (acting s c) (recLoad (issued s c) (pairS (issued s c) a) 32 32 false fun t bs =>
      if bufBad (BitVec.ofNat 256 (natOfBytes bs)) then .trap 0xA 0 none
      else .done (setBrec t br (BitVec.ofNat 256 (natOfBytes bs))))) := by
  simp only [exec, execBrecLd, issue_runs _ h rfl]

theorem exec_lrecLd {lr : Fin 16} (h : Runs s (.lrecLd c lr a) c) : exec (.lrecLd c lr a) s = .next (finish (issued s c)
    (.lrecLd c lr a) c (acting s c) (recLoad (issued s c) (pairS (issued s c) a) 128 64 false fun t bs =>
      if layBad (BitVec.ofNat 1024 (natOfBytes bs)) then .trap 0xA 0 none
      else .done (setCrew t fun c => { c with lrec := mset 0 c.lrec lr.val (BitVec.ofNat 1024 (natOfBytes bs)) }))) := by
  simp only [exec, execLrecLd, issue_runs _ h rfl]

/-- The record that BREC.set reads from eight registers (R133). -/
def setRecord (s : State) (act : Mask) (a : Opnd) : BitVec 256 :=
  BitVec.ofNat 256 ((List.range 8).foldl (fun n i => n + srcBits s act (Opnd.plus a i) 1 0 * 2 ^ (32 * i)) 0)

theorem exec_brecSet {br : Fin 64} (h : Runs s (.brecSet c br a) c) : exec (.brecSet c br a) s = .next (finish (issued s c)
    (.brecSet c br a) c (acting s c) (if bufBad (setRecord (issued s c) (acting s c) a) then .trap 0xA 0 none
      else .done (setBrec (issued s c) br (setRecord (issued s c) (acting s c) a)))) := by
  simp only [exec, execBrecSet, issue_runs _ h rfl]
  rfl

section
variable {br : Fin 64} {d : Opnd} (h : Runs s (.pgrq c d br a) c)
  (hw : walksWanted (issued s c) (pgrqVas (issued s c) (acting s c) br a) = [])
include h hw

/-- A lane that fails stops PGRQ with its trap (R135). -/
theorem exec_pgrq_fault {x y k : Nat}
    (hf : faultOf (issued s c).warp.helpers (pgrqLanes (issued s c) (acting s c) br a) = some (x, y, k)) :
    exec (.pgrq c d br a) s = .next (finish (issued s c) (.pgrq c d br a) c (acting s c) (.trap x y (some k))) := by
  simp only [pgrqLanes] at hf
  simp only [exec, execPgrq, issue_runs _ h rfl]
  refine congrArg (fun r => Host.Outcome.next (finish (issued s c) (.pgrq c d br a) c (acting s c) r))
    ((withWalks_none hw _).trans ?_)
  rw [hf]

/-- PGRQ writes which lanes' pages are resident, and goes on when none is to be requested (R135). -/
theorem exec_pgrq_resident
    (hf : faultOf (issued s c).warp.helpers (pgrqLanes (issued s c) (acting s c) br a) = none)
    (hn : pgrqWants (issued s c).warp.helpers (pgrqLanes (issued s c) (acting s c) br a) = []) :
    exec (.pgrq c d br a) s = .next (finish (issued s c) (.pgrq c d br a) c (acting s c)
      (.done (writeStatus (touchLanes (issued s c) (pgrqLanes (issued s c) (acting s c) br a)) (acting s c) d
        (servedMask (pgrqLanes (issued s c) (acting s c) br a))))) := by
  simp only [pgrqLanes] at hf
  simp only [exec, execPgrq, issue_runs _ h rfl]
  refine congrArg (fun r => Host.Outcome.next (finish (issued s c) (.pgrq c d br a) c (acting s c) r))
    ((withWalks_none hw _).trans ?_)
  rw [hf]
  exact if_pos (List.isEmpty_iff.mpr hn)

/-- With pages to request PGRQ ends its segment (R135). -/
theorem exec_pgrq_wants
    (hf : faultOf (issued s c).warp.helpers (pgrqLanes (issued s c) (acting s c) br a) = none)
    (hn : pgrqWants (issued s c).warp.helpers (pgrqLanes (issued s c) (acting s c) br a) ≠ []) :
    let l := pgrqLanes (issued s c) (acting s c) br a
    let want := pgrqWants (issued s c).warp.helpers l
    exec (.pgrq c d br a) s = .next (finish (issued s c) (.pgrq c d br a) c (acting s c)
      (.ends (pgrqEnd (issued s c).warp.asid (predNum d) (curIp (issued s c).warp) want)
        (want.foldl (fun t e => askPage t t.warp.vi (issued s c).warp.asid e.2.1 e.2.2 false)
          (writeStatus (touchLanes (issued s c) l) (acting s c) d (servedMask l))))) := by
  simp only [pgrqLanes] at hf
  simp only [exec, execPgrq, issue_runs _ h rfl]
  refine congrArg (fun r => Host.Outcome.next (finish (issued s c) (.pgrq c d br a) c (acting s c) r))
    ((withWalks_none hw _).trans ?_)
  rw [hf]
  exact if_neg fun g => hn (List.isEmpty_iff.mp g)

end

end

/-- What PGRQ leaves where it requests no page: the lanes that are served in its predicate, and all else as it was (R135). -/
theorem pgrq_resident {s : State} {c : Ctl} {q : Fin 16} {br : Fin 64} {b : Opnd} (hr : Runs s (.pgrq c (.p q) br b) c)
    (hw : walksWanted (issued s c) (pgrqVas (issued s c) (acting s c) br b) = [])
    (hf : faultOf s.warp.helpers (pgrqLanes (issued s c) (acting s c) br b) = none)
    (hn : ∀ k va p, (k, LaneAcc.nores va p) ∈ pgrqLanes (issued s c) (acting s c) br b → HasLane s.warp.helpers k) :
    ∃ v, exec (.pgrq c (.p q) br b) s = .next v ∧
      (q.val ≠ 15 → ∀ k a, (k, a) ∈ pgrqLanes (issued s c) (acting s c) br b →
        ((mget 0 v.warp.p q.val).getLsbD k = true ↔ ∃ ws, a = .ok ws)) ∧
      BytesKept s v ∧ WarpKept s.warp v.warp ∧ RegsKept s v (acting s c) (Instr.pgrq c (.p q) br b).writes ∧ MovedOn s v c := by
  rw [← (issued_warpKept s c).helpers] at hf hn
  have run := exec_pgrq_resident hr hw hf (pgrqWants_nil hn)
  have lanes := @mem_pgrqLanes (issued s c) (acting s c) br b
  generalize pgrqLanes (issued s c) (acting s c) br b = l at run lanes ⊢
  have below : ∀ e ∈ l, e.1 < 32 := fun ⟨k, a⟩ h => lt_of_mem_lanesOf (mem_lanesOf.mpr (lanes.mp h).1)
  obtain ⟨tlb, ptrs, ht⟩ := touchLanes_touched (issued s c) l
  obtain ⟨D, L, he, -, -⟩ := issued_eq s c
  obtain ⟨v, sr, p, hd⟩ := writeDst_eq (touchLanes (issued s c) l) (acting s c) (.p q) 1 fun k => if (servedMask l).getLsbD k then 1 else 0
  have wrote := writeDst_wrote (touchLanes (issued s c) l) (acting s c) (.p q) 1
    (fun k => if (servedMask l).getLsbD k then 1 else 0) (.inl rfl)
  have regs := writeDst_regs (touchLanes (issued s c) l) (acting s c) (.p q) 1 (fun k => if (servedMask l).getLsbD k then 1 else 0)
    (.inl rfl) (Instr.pgrq c (.p q) br b).writes fun x hx => by
      simp only [Instr.writes, Instr.uses, List.mem_flatMap]
      exact ⟨Use.dst (.p q) 1 .pred, by simp [Use.dst, Use.src], hx⟩
  have after := finish_followed hr.clear (c := c) (writeStatus (touchLanes (issued s c) l) (acting s c) (.p q) (servedMask l))
  simp only [writeStatus] at after run
  refine ⟨_, run, fun hq k a hk => ?_, ?_, ?_, ?_, ?_⟩
  · rw [after.p, wrote hq k (lanes.mp hk).1]
    have one : ((if (servedMask l).getLsbD k = true then 1 else 0) % 2 = 1) ↔ (servedMask l).getLsbD k = true := by
      split <;> simp [*]
    rw [decide_eq_true_eq, one, servedMask_lane l below]
    exact ⟨fun ⟨ws, hws⟩ => ⟨ws, (lanes.mp hk).2.trans (lanes.mp hws).2.symm⟩, fun ⟨ws, hws⟩ => ⟨ws, hws ▸ hk⟩⟩
  · refine (issued_bytes s c).trans ((touchLanes_touched (issued s c) l).bytes.trans (.trans ?_ after.bytes))
    rw [hd]
    exact .refl _
  · refine .trans ?_ after.kept
    rw [hd, ht, he]
    constructor <;> rfl
  · refine ⟨fun r k hk h => ?_, fun r h => ?_, fun r k h => ?_⟩
    · rw [after.v, regs.vec r k hk h, ht, he]
    · rw [after.sr, regs.scal r h, ht, he]
    · rw [after.p, regs.pred r k h, ht, he]
  · refine after.moved ?_ ?_ ?_ <;> rw [hd, ht, he]

/-- The end of PGRQ's segment with a page to request (R135). -/
theorem pgrq_wants {s : State} {c : Ctl} {q : Fin 16} {br : Fin 64} {b : Opnd} (hr : Runs s (.pgrq c (.p q) br b) c)
    (hw : walksWanted (issued s c) (pgrqVas (issued s c) (acting s c) br b) = [])
    (hf : faultOf s.warp.helpers (pgrqLanes (issued s c) (acting s c) br b) = none) {k va p : Nat}
    (hk : (k, LaneAcc.nores va p) ∈ pgrqLanes (issued s c) (acting s c) br b) (hh : ¬HasLane s.warp.helpers k) :
    ∃ v e, exec (.pgrq c (.p q) br b) s = .next (if segReady v e then endSegment v e else stayHeld v (issued s c) e) ∧
      e.ip = nextIp s ∧ e.kind = .normal ∧ dbits e.event 63 60 = 7 ∧ pageOf s.warp.asid va p ∈ e.pages ∧
      (⟨q.val, k, ⟨s.warp.asid, va / 65536⟩⟩ : PgrqWait) ∈ e.pgrq ∧ Requested v (pageOf s.warp.asid va p) := by
  rw [← (issued_warpKept s c).helpers] at hf hh
  have want := mem_pgrqWants hk hh
  have run := exec_pgrq_wants hr hw hf (List.ne_nil_of_mem want)
  have asked := askPages_requested Prod.snd (issued s c).warp.asid _ (writeStatus (touchLanes (issued s c)
    (pgrqLanes (issued s c) (acting s c) br b)) (acting s c) (.p q) (servedMask (pgrqLanes (issued s c) (acting s c) br b))) want
  rw [(issued_warpKept s c).asid] at asked run
  refine ⟨_, _, run, ?_, rfl, evPage_kind .., ?_, ?_, asked⟩
  · rw [curIp_issued]; rfl
  · exact List.mem_dedup.mpr (List.mem_map.mpr ⟨_, want, rfl⟩)
  · exact List.mem_map.mpr ⟨_, want, rfl⟩

/-- Settles O33: PGRQ's three outcomes lane by lane, the lines that a record load waits for, and the slot of the crew that a record is
put into. -/
theorem pageRequestsAndRecordLoads : Obligations.PageRequestsAndRecordLoads := by
  unfold Obligations.PageRequestsAndRecordLoads
  refine ⟨fun c q br b s hr hw => ?_, fun s va n al ws ha hw hj ho => ?_, fun c s k hk => ⟨fun br a hr => ?_, fun br a hr => ?_, fun lr a hr => ?_⟩⟩
  · refine ⟨fun x y k hf => ?_, fun hf => ⟨pgrq_resident hr hw hf, fun k va p => pgrq_wants hr hw hf⟩⟩
    rw [exec_pgrq_fault hr hw (by rw [(issued_warpKept s c).helpers]; exact hf), finish_trap]
  · refine ⟨fun hm f => (recLoad_lines s va n al ws ha hw hj ho f).1 hm, fun x hx f => ?_⟩
    have some : missingLines (touchVa s s.warp.vi s.warp.asid va n) ws ≠ [] := fun h => by rw [h] at hx; cases hx
    obtain ⟨y, hy, hu, hl⟩ := askOnces_awaited _ _ hx
    rw [touchVa_warp] at hu
    exact ⟨_, (recLoad_lines s va n al ws ha hw hj ho f).2 some, y, hy, hu, hl⟩
  · refine ⟨fun hm => ?_, fun bs v hl hn => ?_⟩
    · rw [exec_brecLd hr, recLoad_misaligned hm, finish_trap]
    · have h := brec_put br (BitVec.ofNat 256 (natOfBytes bs)) hr hk hl.frame (by rw [exec_brecLd hr, hl])
      rw [toNat_ofBytes hn rfl] at h
      exact h
  · obtain ⟨bad, good⟩ := brec_put (v := issued s c) br _ hr hk ⟨rfl, rfl, _, _, _, rfl⟩ (exec_brecSet hr)
    refine ⟨bad, fun hb => ?_⟩
    obtain ⟨t, ht, m, hm, slot, others, tiles, tags, gang, bars, bytes, warp, kept⟩ := good hb
    refine ⟨t, ht, m, hm, slot, others, tiles, tags, gang, bars, (issued_bytes s c).trans bytes,
      (issued_warpKept s c).trans warp, kept⟩
  · refine ⟨fun hm => ?_, fun bs v hl hn => ?_⟩
    · rw [exec_lrecLd hr, recLoad_misaligned hm, finish_trap]
    · have h := lrec_put lr a (BitVec.ofNat 1024 (natOfBytes bs)) hr hk hl.frame (by rw [exec_lrecLd hr, hl])
      rw [toNat_ofBytes hn rfl] at h
      exact h

end Sys2Proof.Proofs
end

section
/-! SUPPORT. What the filing of records in saggars changes: the records' places, the saggars, and what the regions staged for them take
up (R171, R330, R336, R337). -/

namespace Sys2Proof.Machine

/-! Lists whose members have each been changed in part. -/

/-- One list is the other with each member changed, as a relation says. -/
def Alike {α : Type} (R : α → α → Prop) (l m : List α) : Prop := ∃ f : α → α, m = l.map f ∧ ∀ x, R x (f x)

theorem Alike.refl {α : Type} {R : α → α → Prop} (h : ∀ x, R x x) (l : List α) : Alike R l l := ⟨id, l.map_id.symm, h⟩

theorem Alike.trans {α : Type} {R : α → α → Prop} (h : ∀ {x y z}, R x y → R y z → R x z) {l m n : List α} (a : Alike R l m)
    (b : Alike R m n) : Alike R l n := by
  obtain ⟨f, rfl, hf⟩ := a
  obtain ⟨g, rfl, hg⟩ := b
  exact ⟨g ∘ f, List.map_map, fun x => h (hf x) (hg _)⟩

theorem Alike.imp {α : Type} {R S : α → α → Prop} (h : ∀ {x y}, R x y → S x y) {l m : List α} (a : Alike R l m) : Alike S l m := by
  obtain ⟨f, hm, hf⟩ := a
  exact ⟨f, hm, fun x => h (hf x)⟩

theorem Alike.mem {α : Type} {R : α → α → Prop} {l m : List α} (a : Alike R l m) {x : α} (h : x ∈ l) : ∃ y ∈ m, R x y := by
  obtain ⟨f, rfl, hf⟩ := a
  exact ⟨f x, List.mem_map.mpr ⟨x, h, rfl⟩, hf x⟩

/-- What is found by what does not change is found changed. -/
theorem Alike.find {α : Type} {R : α → α → Prop} {l m : List α} (a : Alike R l m) {p : α → Bool} (hp : ∀ {x y}, R x y → p y = p x)
    {x : α} (h : l.find? p = some x) : ∃ y, m.find? p = some y ∧ R x y := by
  obtain ⟨f, rfl, hf⟩ := a
  have same : p ∘ f = p := funext fun x => hp (hf x)
  exact ⟨f x, by rw [List.find?_map, same, h]; rfl, hf x⟩

theorem Alike.find_none {α : Type} {R : α → α → Prop} {l m : List α} (a : Alike R l m) {p : α → Bool}
    (hp : ∀ {x y}, R x y → p y = p x) (h : l.find? p = none) : m.find? p = none := by
  obtain ⟨f, rfl, hf⟩ := a
  have same : p ∘ f = p := funext fun x => hp (hf x)
  rw [List.find?_map, same, h]
  rfl

/-! Records, launches and crews. -/

/-- A record with its place changed, or the answers of its pages taken (R135, R336). -/
def SameRec (r q : Rec) : Prop := { q with place := r.place, since := r.since, p := r.p, pgrq := r.pgrq, pages := r.pages } = r

/-- A launch with its charge or the regions still to be staged changed (R171, R343). -/
def SameLaunch (l m : Launch) : Prop := { m with charged := l.charged, image := { m.image with regions := l.image.regions } } = l

/-- A crew with its regions staged or not (R171). -/
def SameCrew (k m : Crew) : Prop := { m with staged := k.staged } = k

theorem SameRec.refl (r : Rec) : SameRec r r := rfl
theorem SameLaunch.refl (l : Launch) : SameLaunch l l := rfl
theorem SameCrew.refl (k : Crew) : SameCrew k k := rfl

theorem SameRec.trans {r q x : Rec} (h : SameRec r q) (g : SameRec q x) : SameRec r x := by
  unfold SameRec at *
  rw [← h, ← g]

theorem SameLaunch.trans {l m n : Launch} (h : SameLaunch l m) (g : SameLaunch m n) : SameLaunch l n := by
  unfold SameLaunch at *
  rw [← h, ← g]

theorem SameCrew.trans {k m n : Crew} (h : SameCrew k m) (g : SameCrew m n) : SameCrew k n := by
  unfold SameCrew at *
  rw [← h, ← g]

theorem SameCrew.launch {k m : Crew} (h : SameCrew k m) : m.launch = k.launch := have g := congrArg Crew.launch h; g
theorem SameCrew.crew {k m : Crew} (h : SameCrew k m) : m.crew = k.crew := have g := congrArg Crew.crew h; g

theorem SameCrew.eq {k m : Crew} (h : SameCrew k m) : ∃ b, m = { k with staged := b } := ⟨m.staged, by rw [← h]⟩

/-- A crew among crews of which only the staging has changed. -/
theorem crewAt_alike {s t : State} (h : Alike SameCrew s.crews t.crews) {launch crew : Nat} {k : Crew}
    (hk : crewAt s launch crew = some k) : ∃ m, crewAt t launch crew = some m ∧ SameCrew k m :=
  h.find (fun g => by rw [g.launch, g.crew]) hk

/-- A saggar with more regions staged for it (R171). -/
def SameSag (g h : Saggar) : Prop := { h with staging := g.staging, stagedLen := g.stagedLen } = g

theorem SameSag.refl (g : Saggar) : SameSag g g := rfl

theorem SameSag.trans {g h k : Saggar} (a : SameSag g h) (b : SameSag h k) : SameSag g k := by
  unfold SameSag at *
  rw [← a, ← b]

/-- Regions are staged for a saggar: nothing changes but what counts them and what they take up (R171). -/
structure Attached (s t : State) : Prop where
  rest : { t with saggars := s.saggars, fresh := s.fresh, launches := s.launches, crews := s.crews, stageOps := s.stageOps,
                  tiles := s.tiles } = s
  saggars : Alike SameSag s.saggars t.saggars
  launches : Alike SameLaunch s.launches t.launches
  crews : Alike SameCrew s.crews t.crews

theorem Attached.refl (s : State) : Attached s s := ⟨rfl, .refl .refl _, .refl .refl _, .refl .refl _⟩

theorem Attached.trans {s t u : State} (h : Attached s t) (g : Attached t u) : Attached s u := by
  obtain ⟨hr, h1, h2, h3⟩ := h
  obtain ⟨gr, g1, g2, g3⟩ := g
  exact ⟨by rw [← hr, ← gr], h1.trans .trans g1, h2.trans .trans g2, h3.trans .trans g3⟩

/-- A state that differs in numbers given, staging and tiles alone. -/
theorem Attached.of_rest {s t : State} (h : { t with fresh := s.fresh, stageOps := s.stageOps, tiles := s.tiles } = s) :
    Attached s t := by
  have hg : t.saggars = s.saggars := have g := congrArg State.saggars h; g
  have hl : t.launches = s.launches := have g := congrArg State.launches h; g
  have hc : t.crews = s.crews := have g := congrArg State.crews h; g
  refine ⟨?_, hg ▸ .refl .refl _, hl ▸ .refl .refl _, hc ▸ .refl .refl _⟩
  rw [← hg, ← hl, ← hc]
  exact h

theorem Attached.recs {s t : State} (h : Attached s t) : t.recs = s.recs := have g := congrArg State.recs h.rest; g

/-- Records are filed: nothing changes but their places, what the answers of their pages set, the saggars, and what the regions staged
for these take up. -/
structure Filed (s t : State) : Prop where
  rest : { t with recs := s.recs, saggars := s.saggars, fresh := s.fresh, launches := s.launches, crews := s.crews,
                  stageOps := s.stageOps, tiles := s.tiles } = s
  recs : Alike SameRec s.recs t.recs
  launches : Alike SameLaunch s.launches t.launches
  crews : Alike SameCrew s.crews t.crews

theorem Filed.refl (s : State) : Filed s s := ⟨rfl, .refl .refl _, .refl .refl _, .refl .refl _⟩

theorem Filed.trans {s t u : State} (h : Filed s t) (g : Filed t u) : Filed s u := by
  obtain ⟨hr, h1, h2, h3⟩ := h
  obtain ⟨gr, g1, g2, g3⟩ := g
  exact ⟨by rw [← hr, ← gr], h1.trans .trans g1, h2.trans .trans g2, h3.trans .trans g3⟩

theorem Attached.filed {s t : State} (h : Attached s t) : Filed s t := by
  have hr := h.recs
  refine ⟨?_, hr ▸ .refl .refl _, h.launches, h.crews⟩
  rw [← hr]
  exact h.rest

/-- A state that differs in its saggars and the numbers given alone. -/
theorem Filed.of_rest {s t : State} (h : { t with saggars := s.saggars, fresh := s.fresh } = s) : Filed s t := by
  have hr : t.recs = s.recs := have g := congrArg State.recs h; g
  have hl : t.launches = s.launches := have g := congrArg State.launches h; g
  have hc : t.crews = s.crews := have g := congrArg State.crews h; g
  have hs : t.stageOps = s.stageOps := have g := congrArg State.stageOps h; g
  have ht : t.tiles = s.tiles := have g := congrArg State.tiles h; g
  refine ⟨?_, hr ▸ .refl .refl _, hl ▸ .refl .refl _, hc ▸ .refl .refl _⟩
  rw [← hr, ← hl, ← hc, ← hs, ← ht]
  exact h

section
variable {s t : State} (h : Filed s t)
include h

theorem Filed.warp : t.warp = s.warp := have g := congrArg State.warp h.rest; g
theorem Filed.bench : t.bench = s.bench := have g := congrArg State.bench h.rest; g
theorem Filed.packets : t.packets = s.packets := have g := congrArg State.packets h.rest; g
theorem Filed.pad : t.pad = s.pad := have g := congrArg State.pad h.rest; g

theorem Filed.bytes : BytesKept s t := by
  rw [← h.rest]
  exact ⟨fun _ _ => rfl, fun _ => rfl, fun _ => rfl⟩

end

/-! The operations. -/

theorem setPlace_filed (s : State) (rid : Nat) (p : RecPlace) : Filed s (setPlace s rid p) :=
  ⟨rfl, ⟨_, rfl, fun r => by split <;> rfl⟩, .refl .refl _, .refl .refl _⟩

theorem startStage_attached (s : State) (o : StageOp) : Attached s (startStage s o).1 := by
  rw [startStage]
  split
  · split
    · exact .of_rest rfl
    · exact .refl s
  · exact .refl s

theorem addStages_attached (s : State) (os : List StageOp) : Attached s (addStages s os) := by
  refine foldl_keeps Attached .refl .trans _ _ (fun t o => ?_) s
  have numbered : Attached t { t with fresh := t.fresh + 1 } := .of_rest rfl
  exact (numbered.trans (startStage_attached ..)).trans (.of_rest rfl)

theorem attachRegions_attached (s : State) (sid : Nat) (rs : List StageOp) : Attached s (attachRegions s sid rs) := by
  have counted : ∀ n m, Attached s { s with saggars := s.saggars.map fun g =>
      if g.sid = sid then { g with staging := g.staging + n, stagedLen := g.stagedLen + m } else g } := fun n m =>
    ⟨rfl, ⟨_, rfl, fun g => by split <;> rfl⟩, .refl .refl _, .refl .refl _⟩
  exact (counted _ _).trans (addStages_attached ..)

theorem attachLlc_attached (s : State) (g : Saggar) : Attached s (attachLlc s g) := by
  have taken : ∀ id, Attached s (setLaunch s id fun l =>
      { l with image := { l.image with regions := l.image.regions.filter fun r => r.tile.isSome } }) := fun id =>
    ⟨rfl, .refl .refl _, ⟨_, rfl, fun l => by split <;> rfl⟩, .refl .refl _⟩
  rw [attachLlc]
  split
  · exact .refl s
  · dsimp only
    split
    · exact .refl s
    · exact (taken _).trans (attachRegions_attached ..)

theorem attachTiles_attached (s : State) (g : Saggar) : Attached s (attachTiles s g) := by
  have taken : ∀ c, Attached s (setCrewAt s g.launch c fun k => { k with staged := true }) := fun c =>
    ⟨rfl, .refl .refl _, .refl .refl _, ⟨_, rfl, fun k => by split <;> rfl⟩⟩
  rw [attachTiles]
  split
  · split
    · split
      · exact .refl s
      · exact (taken _).trans (attachRegions_attached ..)
    · exact .refl s
  · exact .refl s

theorem joinSaggarAt_filed (s : State) (core : Nat) (r : Rec) : Filed s (joinSaggarAt s core r) := by
  have numbered : Filed s { s with fresh := s.fresh + 1 } := .of_rest rfl
  rw [joinSaggarAt]
  split
  · exact (setPlace_filed ..).trans (.of_rest rfl)
  · split
    · exact setPlace_filed ..
    · refine .trans ?_ (attachTiles_attached ..).filed
      refine .trans ?_ (attachLlc_attached ..).filed
      exact (numbered.trans (setPlace_filed ..)).trans (.of_rest rfl)

theorem releaseRec_filed (s : State) (rid : Nat) : Filed s (releaseRec s rid) := by
  rw [releaseRec]
  split
  · exact .refl s
  · split
    · exact joinSaggarAt_filed ..
    · exact setPlace_filed ..

theorem pgrqApply_filed (s : State) (r : Rec) : Filed s (pgrqApply s r) :=
  ⟨rfl, ⟨_, rfl, fun q => by split <;> rfl⟩, .refl .refl _, .refl .refl _⟩

theorem wakeRec_filed (s : State) (r : Rec) : Filed s (wakeRec s r) := by
  have answered : Filed s (if r.pgrq.isEmpty then s else pgrqApply s r) := by
    split
    · exact .refl s
    · exact pgrqApply_filed s r
  rw [wakeRec]
  split
  · exact answered.trans (joinSaggarAt_filed ..)
  · exact answered

theorem wakeAll_filed (s : State) (which : Rec → Bool) : Filed s (wakeAll s which) :=
  foldl_keeps Filed .refl .trans _ _ wakeRec_filed s

end Sys2Proof.Machine
end

section
/-! SUPPORT. Packets taken up (R154, R157), launches admitted with their seeds (R22, R365), and launch identifiers (R367). -/

namespace Sys2Proof.Machine

/-! Packets. -/

/-- A packet changed is found changed. -/
theorem findPkt_setPkt {s : State} {pid : Nat} {p : Packet} {f : Packet → Packet} (h : findPkt s pid = some p)
    (hf : ∀ q, q.pid = pid → (f q).pid = pid) : findPkt (setPkt s pid f) pid = some (f p) := by
  have found := List.find?_some h
  have same : (fun q : Packet => decide (q.pid = pid)) ∘ (fun q => if q.pid = pid then f q else q) = fun q => decide (q.pid = pid) := by
    funext q
    simp only [Function.comp]
    split
    · next g => rw [hf q g, g]
    · rfl
  simp only [findPkt] at h
  simp only [findPkt, setPkt, List.find?_map, same, h, Option.map_some, if_pos (of_decide_eq_true found)]

/-- A packet without a status that fails has the status it fails with (R155). -/
theorem failPkt_is {s : State} {p : Packet} (h : findPkt s p.pid = some p) (hs : p.status = 0) (c : Byte) :
    PktIs (failPkt s p.pid c) p.pid .failed c :=
  ⟨_, findPkt_setPkt h fun _ hq => hq, rfl, if_pos hs⟩

/-- A packet that is accepted and taken up is run (R157, R160). -/
theorem withPkt_accepted {s : State} {p : Packet} {kind : Nat} (h : TakesUp s p kind) (ha : p.st = .accepted)
    (run : Packet → State → State) : withPkt s p.pid kind run = .next (run p s) := by
  obtain ⟨-, hc, hb⟩ := h.turn.resolve_right (by rw [ha]; decide)
  simp only [withPkt, h.found, h.kind, h.runnable, ha, hc, hb, ne_eq, not_true_eq_false, Bool.false_eq_true, or_self, if_false,
    Bool.not_true]

theorem withLaunch_accepted {s : State} {p : Packet} {node : Bool} (h : TakesUp s p 7) (ha : p.st = .accepted)
    (hn : (launchFields p).node = node) : withLaunch s p.pid node = .next
      (if launchBad p then failPkt s p.pid 1 else if node then startNode s p else startGrid s p) := by
  rw [withLaunch, withPkt_accepted h ha]
  simp only [hn, ne_eq, not_true_eq_false, if_false, ha]

/-! A new launch. -/

section
variable {s : State} {p : Packet} {ncrew : Nat} {bad : Image → Bool} {go : State → Image → State}

theorem openLaunch_noAsid (ha : asidOk s p.vi p.asid = false) : openLaunch s p ncrew bad go = failPkt s p.pid 0x12 := by
  simp only [openLaunch, ha, Bool.not_false, if_true]

/-- A frame region that is given where the image wants none, or the other way round, or that does not lie as it must (R364). -/
theorem frameBad_iff (x : Nat) (i : Image) : ((x = 0) ≠ (i.frame = 0) ∨ 2 ^ 52 ≤ x ∨ x % 64 ≠ 0) ↔
    ¬((x = 0 ↔ i.frame = 0) ∧ x < 2 ^ 52 ∧ x % 64 = 0) := by
  rw [ne_eq, eq_iff_iff]
  omega

variable {i : Image} (ha : asidOk s p.vi p.asid = true) (hi : readImage s (pktSpace p) (launchFields p).image = .ok i)
include ha hi

theorem openLaunch_bad (h : bad i = true ∨ ¬(((launchFields p).frameVa = 0 ↔ i.frame = 0) ∧ (launchFields p).frameVa < 2 ^ 52 ∧
    (launchFields p).frameVa % 64 = 0)) : openLaunch s p ncrew bad go = failPkt s p.pid 1 := by
  rw [← frameBad_iff] at h
  simp only [openLaunch, ha, hi, Bool.not_true, Bool.false_eq_true, if_false, Bool.or_eq_true, decide_eq_true_eq, if_pos h]

variable (hb : bad i = false) (hf : ((launchFields p).frameVa = 0 ↔ i.frame = 0) ∧ (launchFields p).frameVa < 2 ^ 52 ∧
    (launchFields p).frameVa % 64 = 0)
include hb hf

theorem openLaunch_small (hp : (viOf s p.vi).poolSize < reservation i ncrew) :
    openLaunch s p ncrew bad go = failPkt s p.pid 0x11 := by
  have good := fun h => (frameBad_iff (launchFields p).frameVa i).mp h hf
  simp only [openLaunch, ha, hi, hb, Bool.not_true, Bool.false_eq_true, if_false, Bool.false_or, decide_eq_true_eq, if_neg good, if_pos hp]

theorem openLaunch_goes (hp : reservation i ncrew ≤ (viOf s p.vi).poolSize) (hr : canReserve s p.vi (reservation i ncrew) = true) :
    openLaunch s p ncrew bad go = go (touchVa s p.vi p.asid (launchFields p).image 64) i := by
  have good := fun h => (frameBad_iff (launchFields p).frameVa i).mp h hf
  simp only [openLaunch, ha, hi, hb, hr, Bool.not_true, Bool.false_eq_true, if_false, Bool.false_or, decide_eq_true_eq, if_neg good,
    if_neg (Nat.not_lt.mpr hp)]

end

/-! Seeds. -/

/-- A launch with its charge, its regions, its seeds or its wait for room changed (R343, R365). -/
def SeededLaunch (l m : Launch) : Prop :=
  { m with charged := l.charged, seeds := l.seeds, hold := l.hold, image := { m.image with regions := l.image.regions } } = l

theorem SeededLaunch.refl (l : Launch) : SeededLaunch l l := rfl

theorem SeededLaunch.trans {l m n : Launch} (h : SeededLaunch l m) (g : SeededLaunch m n) : SeededLaunch l n := by
  unfold SeededLaunch at *
  rw [← h, ← g]

theorem SameLaunch.seeded {l m : Launch} (h : SameLaunch l m) : SeededLaunch l m := by
  unfold SameLaunch at h
  unfold SeededLaunch
  rw [← h]

theorem SeededLaunch.id {l m : Launch} (h : SeededLaunch l m) : m.id = l.id := have g := congrArg Launch.id h; g

theorem SeededLaunch.eq {l m : Launch} (h : SeededLaunch l m) : ∃ charged seeds hold regions,
    m = { l with charged := charged, seeds := seeds, hold := hold, image := { l.image with regions := regions } } :=
  ⟨m.charged, m.seeds, m.hold, m.image.regions, by rw [← h]⟩

/-- Seeds are written: no packet changes, and of the launches no more than their charges, regions, seeds and waits. -/
structure Seeded (s t : State) : Prop where
  packets : t.packets = s.packets
  launches : Alike SeededLaunch s.launches t.launches

theorem Seeded.refl (s : State) : Seeded s s := ⟨rfl, .refl SeededLaunch.refl _⟩

theorem Seeded.trans {s t u : State} (h : Seeded s t) (g : Seeded t u) : Seeded s u :=
  ⟨g.packets.trans h.packets, h.launches.trans .trans g.launches⟩

theorem Filed.seeded {s t : State} (h : Filed s t) : Seeded s t := ⟨h.packets, h.launches.imp SameLaunch.seeded⟩

theorem Beside.seeded {s t : State} (h : Beside s t) : Seeded s t := ⟨h.packets, h.launches ▸ .refl SeededLaunch.refl _⟩

theorem setLaunch_seeded (s : State) (id : Nat) (f : Launch → Launch) (hf : ∀ l, SeededLaunch l (f l)) : Seeded s (setLaunch s id f) :=
  ⟨rfl, _, rfl, fun l => by
    split
    · exact hf l
    · rfl⟩

theorem charge_seeded (s : State) (id bytes : Nat) : Seeded s (charge s id bytes) := setLaunch_seeded _ _ _ fun _ => rfl

theorem addRec_seeded (s : State) (r : Rec) : Seeded s (addRec s r) := by
  have entered : ∀ n rs, Seeded s { s with fresh := n, recs := rs } := fun _ _ => ⟨rfl, .refl SeededLaunch.refl _⟩
  exact ((entered _ _).trans (charge_seeded ..)).trans (storeRec_beside ..).seeded

theorem addReleased_seeded (s : State) (core : Nat) (r : Rec) : Seeded s (addReleased s core r) :=
  (addRec_seeded ..).trans (releaseRec_filed ..).seeded

theorem writeSeeds_seeded (s : State) (id : Nat) : Seeded s (writeSeeds s id) := by
  have waits : ∀ (t : State) (f : Launch → Option Nat), Seeded t (setLaunch t id fun l => { l with hold := f l }) := fun t f =>
    setLaunch_seeded _ _ _ fun _ => rfl
  have taken : ∀ t : State, Seeded t (setLaunch t id fun l => { l with seeds := l.seeds.drop 1, hold := none }) := fun t =>
    setLaunch_seeded _ _ _ fun _ => rfl
  rw [writeSeeds]
  split
  · exact .refl s
  · refine .trans ?_ (waits _ _)
    refine foldl_holds (fun a : State × Bool => Seeded s a.1) _ _ (fun a q h => ?_) _ (.refl s)
    dsimp only
    split
    · exact h
    · split
      · exact (h.trans (taken _)).trans (addReleased_seeded ..)
      · exact h

/-! Launch identifiers. -/

/-- The identifiers that are held: by launches, and by records here, on their way to another package or mirrored (R367). -/
def heldIds (s : State) : List Nat :=
  s.launches.map (·.id) ++ s.recs.map (·.launch) ++ s.sent.map (·.2.launch) ++ s.sentCrews.map (·.2.launch)
    ++ s.mirrors.map (·.record.launch)

/-- The identifier some way on from the running count. -/
def idAt (s : State) (j : Nat) : Nat := s.pkg * 2 ^ 22 + (s.launchCount + j) % 2 ^ 22

theorem idAt_pkg (s : State) (j : Nat) : idAt s j / 2 ^ 22 = s.pkg := by
  rw [idAt]
  omega

/-- More identifiers are tried than are held, so that one of them is free. -/
theorem exists_idAt_free {s : State} (h : (heldIds s).length < 2 ^ 22) : ∃ j ∈ List.range ((heldIds s).length + 1), idAt s j ∉ heldIds s := by
  by_contra hn
  push Not at hn
  have distinct : ((List.range ((heldIds s).length + 1)).map (idAt s)).Nodup := by
    refine List.Nodup.map_on (fun i hi j hj he => ?_) List.nodup_range
    rw [List.mem_range] at hi hj
    simp only [idAt] at he
    omega
  have within : (List.range ((heldIds s).length + 1)).map (idAt s) ⊆ heldIds s := fun x hx => by
    obtain ⟨j, hj, rfl⟩ := List.mem_map.mp hx
    exact hn j hj
  have := (distinct.subperm within).length_le
  rw [List.length_map, List.length_range] at this
  omega

/-- The next launch identifier is one of this package, and none that is held (R367). -/
theorem nextLaunchId_free {s : State} (h : (heldIds s).length < 2 ^ 22) : nextLaunchId s / 2 ^ 22 = s.pkg ∧ nextLaunchId s ∉ heldIds s := by
  obtain ⟨j, hj, hf⟩ := exists_idAt_free h
  have eq : nextLaunchId s = match (List.range ((heldIds s).length + 1)).find? fun j => !(heldIds s).contains (idAt s j) with
    | some j => idAt s j
    | none => idAt s 0 := rfl
  cases hs : (List.range ((heldIds s).length + 1)).find? fun j => !(heldIds s).contains (idAt s j) with
  | none => exact absurd (List.find?_eq_none.mp hs j hj) (by simp [hf])
  | some k =>
    have found := List.find?_some hs
    rw [hs] at eq
    rw [eq]
    exact ⟨idAt_pkg s k, by simpa using found⟩

/-- Accesses do not change which launch identifier is the next. -/
theorem Touched.nextLaunchId {s t : State} (h : Touched s t) : nextLaunchId t = nextLaunchId s := by
  obtain ⟨a, b, rfl⟩ := h
  rfl

/-! A GRID launch. -/

/-- The launch that a GRID packet admits (R365). -/
def gridLaunch (s : State) (p : Packet) (i : Image) : Launch :=
  let x := launchFields p
  { newLaunch s p.vi p.asid i x.image .grid x.chk with
    far := x.far, cpc := x.cpc, wpc := x.wpc, ncrew := x.ncrew, frameVa := BitVec.ofNat 64 x.frameVa,
    threads := 32 * x.wpc * x.ncrew, reserved := reservation i x.ncrew, arg := x.arg, closed := true, durable := pktDurable s p
    packets := [p.pid]
    seeds := (List.range x.ncrew).flatMap fun c => (List.range x.wpc).map fun w => (c, w) }

/-- The admission of a GRID packet, once its image has been read and the pool has room (R365). -/
def admitGrid (p : Packet) (s : State) (i : Image) : State :=
  writeSeeds (setPkt (admitLaunch s (gridLaunch s p i)) p.pid fun q => { q with st := .started }) (gridLaunch s p i).id

theorem startGrid_eq (s : State) (p : Packet) : startGrid s p = openLaunch s p (launchFields p).ncrew (fun _ => false) (admitGrid p) := rfl

/-- What the admission of a GRID packet leaves: the packet started, and its launch under the next identifier, but for its charge, its
regions, its seeds and its wait for room (R365). -/
theorem startGrid_admits {s : State} {p : Packet} {i : Image} (hp : findPkt s p.pid = some p)
    (ha : asidOk s p.vi p.asid = true) (hi : readImage s (pktSpace p) (launchFields p).image = .ok i)
    (hf : ((launchFields p).frameVa = 0 ↔ i.frame = 0) ∧ (launchFields p).frameVa < 2 ^ 52 ∧ (launchFields p).frameVa % 64 = 0)
    (hl : reservation i (launchFields p).ncrew ≤ (viOf s p.vi).poolSize)
    (hr : canReserve s p.vi (reservation i (launchFields p).ncrew) = true) (hn : ∀ l ∈ s.launches, l.id ≠ nextLaunchId s) :
    findPkt (startGrid s p) p.pid = some { p with st := .started } ∧
      ∃ t l, Touched s t ∧ launchOf (startGrid s p) (nextLaunchId s) = some l ∧ SeededLaunch (gridLaunch t p i) l := by
  have touched := touchVa_touched s p.vi p.asid (launchFields p).image 64
  rw [startGrid_eq, openLaunch_goes ha hi rfl hf hl hr]
  unfold admitGrid
  generalize touchVa s p.vi p.asid (launchFields p).image 64 = t at touched
  have next : (gridLaunch t p i).id = nextLaunchId s := touched.nextLaunchId
  have kept := writeSeeds_seeded (setPkt (admitLaunch t (gridLaunch t p i)) p.pid fun q => { q with st := .started }) (gridLaunch t p i).id
  have hp' : findPkt (admitLaunch t (gridLaunch t p i)) p.pid = some p := by
    obtain ⟨a, b, rfl⟩ := touched
    exact hp
  have started := findPkt_setPkt (f := fun q => { q with st := .started }) hp' fun _ h => h
  have same : t.launches = s.launches := by obtain ⟨a, b, rfl⟩ := touched; rfl
  have admitted : launchOf (setPkt (admitLaunch t (gridLaunch t p i)) p.pid fun q => { q with st := .started }) (nextLaunchId s)
      = some (gridLaunch t p i) := by
    have others : t.launches.find? (fun l => decide (l.id = nextLaunchId s)) = none := by
      rw [same, List.find?_eq_none]
      exact fun l h => by simpa using hn l h
    simp only [launchOf, setPkt, admitLaunch, List.find?_append, others, Option.none_or, List.find?_cons, next, decide_true]
  obtain ⟨l, hfound, hsame⟩ := kept.launches.find (fun g => by rw [g.id]) admitted
  refine ⟨?_, t, l, touched, hfound, hsame⟩
  rw [findPkt] at started ⊢
  rw [← started]
  exact congrArg _ kept.packets

/-! A NODE launch. -/

/-- A change of a launch that keeps what names its node, seen from the node. -/
theorem nodeOf_setLaunch {s : State} {vi n id : Nat} {l : Launch} {f : Launch → Launch} (h : nodeOf s vi n = some l)
    (hf : ∀ k, (f k).vi = k.vi ∧ (f k).mode = k.mode ∧ (f k).nodeId = k.nodeId) :
    nodeOf (setLaunch s id f) vi n = some (if l.id = id then f l else l) := by
  have same : (fun k : Launch => decide (k.vi = vi) && decide (k.mode = .node) && decide (k.nodeId = n)) ∘
      (fun k => if k.id = id then f k else k)
      = fun k => decide (k.vi = vi) && decide (k.mode = .node) && decide (k.nodeId = n) := by
    funext k
    simp only [Function.comp]
    split
    · rw [(hf k).1, (hf k).2.1, (hf k).2.2]
    · rfl
  simp only [nodeOf] at h
  simp only [nodeOf, setLaunch, List.find?_map, same, h, Option.map_some]

/-- The launch that a NODE packet opens (R366). -/
def nodeLaunch (s : State) (p : Packet) (i : Image) : Launch :=
  let x := launchFields p
  { newLaunch s p.vi p.asid i x.image .node x.chk with
    na := x.na, frameVa := BitVec.ofNat 64 x.frameVa, nodeId := x.nodeId, arg := x.arg, durable := pktDurable s p }

/-- No items are listed anywhere. -/
theorem listed_none (s : State) (l : Launch) (base : Nat) : listed s l base 0 = false := by
  have outside : ∀ r : Rec, ((lanesOf r.mask).any fun k => decide (base ≤ (mget 0 r.tid k).toNat ∧ (mget 0 r.tid k).toNat < base + 0))
      = false := fun r => by
    rw [List.any_eq_false]
    intro k _
    rw [decide_eq_true_eq]
    omega
  simp only [listed, outside, Bool.and_false, List.any_eq_false, Bool.false_eq_true, not_false_eq_true, implies_true]

/-- A packet that brings no items and does not close its node is done (R366). -/
theorem seedItems_none {s : State} {p : Packet} {l : Launch} {base : Nat} (hl : nodeOf s p.vi (launchFields p).nodeId = some l)
    (hd : p.done = [base]) (hp : p.left = 0) (hi : (launchFields p).nitem = 0) (hc : (launchFields p).close = false) :
    seedItems s p = donePkt (setLaunch (setPkt s p.pid fun q => { q with left := 0 }) l.id fun k => { k with hold := none }) p.pid := by
  have none : addNodeItems p l base p.buf 0 0 s = (s, 0) := rfl
  simp only [seedItems, hl, hd, hi, hp, hc, Nat.sub_zero, none, Nat.le_refl, if_true, Nat.lt_irrefl, listed_none, Bool.false_eq_true,
    or_self, if_false]

/-- A packet of a node that brings no items is done at once, and its node stays as it is but for its wait for room (R366). -/
theorem joinNode_noItems {s : State} {p : Packet} {l : Launch} (hp : findPkt s p.pid = some p)
    (hl : nodeOf s p.vi (launchFields p).nodeId = some l) (hi : (launchFields p).nitem = 0) (hc : (launchFields p).close = false) :
    PktIs (joinNode s p l) p.pid .moved p.status ∧ nodeOf (joinNode s p l) p.vi (launchFields p).nodeId = some { l with hold := none } := by
  let q : Packet := { p with st := .started, buf := [], done := [l.threads], left := 0 }
  let u := setPkt (setLaunch s l.id fun l => { l with threads := l.threads + 0, closed := l.closed || false }) p.pid fun _ => q
  have joins : joinNode s p l = seedItems u q := by
    simp only [joinNode, hi, hc, Nat.zero_mul, Nat.mul_zero, if_true, touchVa, Bool.false_eq_true, if_false]
    rfl
  have node : nodeOf u q.vi (launchFields q).nodeId = some l := by
    have h := nodeOf_setLaunch (id := l.id) (f := fun l => { l with threads := l.threads + 0, closed := l.closed || false }) hl
      fun _ => ⟨rfl, rfl, rfl⟩
    rw [if_pos rfl, Bool.or_false] at h
    exact h
  have done : joinNode s p l = donePkt (setLaunch (setPkt u q.pid fun q => { q with left := 0 }) l.id fun k => { k with hold := none })
      q.pid := joins.trans (seedItems_none node rfl rfl hi hc)
  have found : findPkt u p.pid = some q := findPkt_setPkt (f := fun _ => q) (p := p) hp fun _ _ => rfl
  have cleared := findPkt_setPkt (f := fun q => { q with left := 0 }) found fun _ h => h
  have moved := findPkt_setPkt (f := fun q => { q with st := .moved }) (s := setLaunch (setPkt u q.pid fun q => { q with left := 0 }) l.id
    fun k => { k with hold := none }) cleared fun _ h => h
  have kept := nodeOf_setLaunch (s := setPkt u q.pid fun q => { q with left := 0 }) (id := l.id) (f := fun k => { k with hold := none })
    node fun _ => ⟨rfl, rfl, rfl⟩
  rw [if_pos rfl] at kept
  rw [done]
  exact ⟨⟨_, moved, rfl, rfl⟩, kept⟩

/-- A node opened by a packet that brings no items, and joined by it (R366). -/
theorem startNode_opens {s : State} {p : Packet} {i : Image} (hnone : nodeOf s p.vi (launchFields p).nodeId = none)
    (ha : asidOk s p.vi p.asid = true) (hi : readImage s (pktSpace p) (launchFields p).image = .ok i)
    (hb : ¬(i.tiles ≠ 0 ∨ i.gang ≠ 0 ∨ i.nreg < (launchFields p).na))
    (hf : ((launchFields p).frameVa = 0 ↔ i.frame = 0) ∧ (launchFields p).frameVa < 2 ^ 52 ∧ (launchFields p).frameVa % 64 = 0)
    (hl : reservation i 0 ≤ (viOf s p.vi).poolSize) (hr : canReserve s p.vi (reservation i 0) = true)
    (hitem : (launchFields p).nitem = 0) :
    ∃ t, Touched s t ∧ startNode s p = joinNode (admitLaunch t (nodeLaunch t p i)) p (nodeLaunch t p i) := by
  refine ⟨_, touchVa_touched s p.vi p.asid (launchFields p).image 64, ?_⟩
  have items : (launchFields p).nitem * (launchFields p).na = 0 := by rw [hitem, Nat.zero_mul]
  simp only [startNode, hnone]
  rw [openLaunch_goes (bad := fun i => decide (i.tiles ≠ 0 ∨ i.gang ≠ 0 ∨ i.nreg < (launchFields p).na)) ha hi (decide_eq_false hb) hf hl hr]
  simp only [items, if_true]
  rfl

/-- The node that a packet opens is the one found by its identifier. -/
theorem nodeOf_admitted {s : State} {p : Packet} {i : Image} (hnone : nodeOf s p.vi (launchFields p).nodeId = none) :
    nodeOf (admitLaunch s (nodeLaunch s p i)) p.vi (launchFields p).nodeId = some (nodeLaunch s p i) := by
  simp only [nodeOf] at hnone
  simp only [nodeOf, admitLaunch, List.find?_append, hnone, Option.none_or, List.find?_cons, nodeLaunch, newLaunch, decide_true,
    Bool.and_self]

end Sys2Proof.Machine
end

section
/-! PROOFS. Launches. -/

namespace Sys2Proof.Proofs
open Sys2Proof Sys2Proof.Machine

/-- LAUNCH taken up again does what its mode does (R22, R370). -/
theorem exec_launchAdmit {s : State} {p : Packet} (hp : findPkt s p.pid = some p) (ha : p.st = .accepted) :
    exec (.launchAdmit p.pid) s = exec (if (launchFields p).node then .launchNode p.pid else .launchGrid p.pid) s := by
  have admits : exec (.launchAdmit p.pid) s = withLaunch s p.pid (launchFields p).node := by
    simp only [exec, execLaunchAdmit, hp, ha, if_true]
  rw [admits]
  cases (launchFields p).node <;> rfl

/-- Settles O53: a GRID packet and a NODE packet by what its fields, its image and the pool allow; and by a count of the identifiers
held, one more than which are tried. -/
theorem launches : Obligations.Launches := by
  unfold Obligations.Launches
  refine ⟨fun s p i h ha hn hs => ?_, fun s p h ha hn hs hb => ?_, fun s p hp ha => exec_launchAdmit hp ha, fun s hlen => ?_⟩
  · have run : exec (.launchGrid p.pid) s = .next (if launchBad p then failPkt s p.pid 1 else startGrid s p) := by
      simp only [exec, execLaunchGrid, withLaunch_accepted h ha hn, Bool.false_eq_true, if_false]
    refine ⟨fun hb => ?_, fun hb hasid => ?_, fun hb hasid hi => ?_⟩
    · rw [run, if_pos hb]
      exact ⟨_, rfl, failPkt_is h.found hs 1⟩
    · rw [run, hb, if_neg (by decide), startGrid_eq, openLaunch_noAsid hasid]
      exact ⟨_, rfl, failPkt_is h.found hs _⟩
    · rw [hb, if_neg (by decide)] at run
      refine ⟨fun hf => ?_, fun h1 h2 h3 => ⟨fun hl => ?_, fun hl hr hid op hop => ?_⟩⟩
      · rw [run, startGrid_eq, openLaunch_bad hasid hi (.inr hf)]
        exact ⟨_, rfl, failPkt_is h.found hs 1⟩
      · rw [run, startGrid_eq, openLaunch_small hasid hi rfl ⟨h1, h2, h3⟩ hl]
        exact ⟨_, rfl, failPkt_is h.found hs _⟩
      · have same : exec op s = exec (.launchGrid p.pid) s := by
          simp only [List.mem_cons, List.not_mem_nil, or_false] at hop
          obtain rfl | rfl := hop
          · rfl
          · rw [exec_launchAdmit h.found ha, hn]; rfl
        obtain ⟨started, t, l, -, hfound, hsame⟩ := startGrid_admits h.found hasid hi ⟨h1, h2, h3⟩ hl hr hid
        rw [same, run]
        obtain ⟨charged, seeds, hold, regions, rfl⟩ := hsame.eq
        exact ⟨_, rfl, ⟨_, started, rfl, hs⟩, _, hfound, rfl, rfl, rfl, rfl, rfl, rfl, rfl, rfl, rfl, rfl, rfl, rfl, rfl, rfl⟩
  · have run : exec (.launchNode p.pid) s = .next (startNode s p) := by
      simp only [exec, execLaunchNode, withLaunch_accepted h ha hn, hb, Bool.false_eq_true, if_false, if_true]
    refine ⟨fun l hl hopen hdiff => ?_, fun l hl hclosed => ?_, fun i hnone hasid hi h1 h2 h3 htiles hgang hna hpool hr hitem hclose hid op hop => ?_⟩
    · rw [run]
      simp only [startNode, hl, hopen, Bool.false_eq_true, if_false, if_pos hdiff]
      exact ⟨_, rfl, failPkt_is h.found hs _⟩
    · rw [run]
      simp only [startNode, hl, hclosed, if_true]
    · have same : exec op s = exec (.launchNode p.pid) s := by
        simp only [List.mem_cons, List.not_mem_nil, or_false] at hop
        obtain rfl | rfl := hop
        · rfl
        · rw [exec_launchAdmit h.found ha, hn]; rfl
      obtain ⟨t, touched, opens⟩ := startNode_opens hnone hasid hi (by omega) ⟨h1, h2, h3⟩ hpool hr hitem
      have next := touched.nextLaunchId
      have found : findPkt t p.pid = some p := by obtain ⟨a, b, rfl⟩ := touched; exact h.found
      have fresh : nodeOf t p.vi (launchFields p).nodeId = none := by obtain ⟨a, b, rfl⟩ := touched; exact hnone
      obtain ⟨moved, node⟩ := joinNode_noItems (s := admitLaunch t (nodeLaunch t p i)) found (nodeOf_admitted fresh) hitem hclose
      rw [hs] at moved
      rw [same, run, opens]
      exact ⟨_, rfl, moved, _, node, next, rfl, rfl, rfl, rfl⟩
  · have len : (heldIds s).length < 2 ^ 22 := by
      simp only [heldIds, List.length_append, List.length_map]
      exact hlen
    obtain ⟨pkg, free⟩ := nextLaunchId_free len
    simp only [heldIds, List.mem_append, List.mem_map, not_or, not_exists, not_and] at free
    obtain ⟨⟨⟨⟨hl, hr⟩, hs⟩, hc⟩, hm⟩ := free
    exact ⟨pkg, hl, hr, hs, hc, hm⟩

end Sys2Proof.Proofs
end

section
/-! SUPPORT. What a settling changes: puts that waited for room, crews that are saved, records that leave, and records that wake
(R174, R176, R336, R351). -/

namespace Sys2Proof.Machine

/-! Puts tried. -/

/-- Puts are tried: nothing changes but the list of puts and what is beside memory. -/
def PutsRun (s t : State) : Prop := Beside { s with puts := t.puts } t

theorem PutsRun.refl (s : State) : PutsRun s s := Beside.refl s

theorem Beside.withPuts {s t : State} (h : Beside s t) (ps : List PutOp) : Beside { s with puts := ps } { t with puts := ps } :=
  ⟨congrArg (fun u : State => { u with puts := ps }) h.rest, h.vis⟩

theorem PutsRun.trans {s t u : State} (h : PutsRun s t) (g : PutsRun t u) : PutsRun s u := (h.withPuts u.puts).trans g

section
variable {s t : State} (h : PutsRun s t)
include h

theorem PutsRun.beside : Beside { s with puts := t.puts } t := h

theorem PutsRun.crews : t.crews = s.crews := have g := h.beside.crews; g
theorem PutsRun.launches : t.launches = s.launches := have g := h.beside.launches; g
theorem PutsRun.pad : t.pad = s.pad := have g := h.beside.pad; g
theorem PutsRun.vis (vi : Nat) : ∃ b, viOf t vi = { viOf s vi with lostr := b } := have g := h.beside.vis vi; g

end

theorem putPackets_beside (p : PutOp) (l : List (BitVec 512)) (n : Nat) (s : State) : Beside s (putPackets p l n s).1 := by
  induction l generalizing n s with
  | nil => exact .refl s
  | cons k l ih =>
    rw [putPackets]
    dsimp only
    split
    · exact (writeX_beside ..).trans (ih ..)
    · exact .refl s

theorem runPuts_putsRun (s : State) : PutsRun s (runPuts s) := by
  refine foldl_keeps PutsRun .refl .trans _ _ (fun t p => ?_) s
  exact (putPackets_beside p p.packets p.next t).withPuts _

/-! Crews saved and sent. -/

/-- Tiles, gangs and accumulators are moved, with what is in flight for them: nothing else changes (R174, R266). -/
def TilesMoved (s t : State) : Prop :=
  { t with accs := s.accs, pad := s.pad, tiles := s.tiles, packets := s.packets, stageOps := s.stageOps, acpys := s.acpys,
           gangs := s.gangs } = s

theorem TilesMoved.refl (s : State) : TilesMoved s s := rfl

theorem TilesMoved.trans {s t u : State} (h : TilesMoved s t) (g : TilesMoved t u) : TilesMoved s u := by
  unfold TilesMoved at *
  rw [← h, ← g]

/-- One tile moved with its table entry and bytes (R174). -/
def moveTile (s : State) (c0 p c1 q : Nat) (left : Tile) : State :=
  setTile (padWrite (setTile s c1 q fun _ => tileAt s c0 p) c1 q 0 (padBytes s c0 p 0 16384)) c0 p fun _ => left

/-- Tiles are moved one after the other, and then what is in flight for them follows. -/
theorem moveTiles_eq (s : State) (c0 : Nat) (from_ : List Nat) (c1 : Nat) (dst : List Nat) (left : Tile) :
    ∃ packets stageOps acpys, moveTiles s c0 from_ c1 dst left = { (List.range from_.length).foldl (fun t i =>
      moveTile t c0 (from_.getD i 0) c1 (dst.getD i 0) left) s with packets := packets, stageOps := stageOps, acpys := acpys } :=
  ⟨_, _, _, rfl⟩

theorem setTile_moved (s : State) (core p : Nat) (f : Tile → Tile) : TilesMoved s (setTile s core p f) := rfl

theorem padWrite_moved (s : State) (core p off : Nat) (bytes : List Byte) : TilesMoved s (padWrite s core p off bytes) := rfl

theorem moveTile_moved (s : State) (c0 p c1 q : Nat) (left : Tile) : TilesMoved s (moveTile s c0 p c1 q left) :=
  ((setTile_moved ..).trans (padWrite_moved ..)).trans (setTile_moved ..)

theorem moveTiles_moved (s : State) (c0 : Nat) (from_ : List Nat) (c1 : Nat) (dst : List Nat) (left : Tile) :
    TilesMoved s (moveTiles s c0 from_ c1 dst left) := by
  obtain ⟨packets, stageOps, acpys, h⟩ := moveTiles_eq s c0 from_ c1 dst left
  rw [h]
  exact (foldl_keeps TilesMoved .refl .trans _ _ (fun t i => moveTile_moved ..) s).trans rfl

/-- One tile of a save area emptied. -/
def zeroTile (s : State) (core p : Nat) : State :=
  setTile (padWrite s core p 0 (List.replicate 16384 0)) core p fun _ => Tile.reset

theorem dropImage_eq (s : State) (c : Crew) : dropImage s c = (List.range c.tiles.length).foldl (fun t i => zeroTile t c.image i) s := rfl

theorem zeroTile_moved (s : State) (core p : Nat) : TilesMoved s (zeroTile s core p) :=
  (padWrite_moved ..).trans (setTile_moved ..)

theorem dropImage_moved (s : State) (c : Crew) : TilesMoved s (dropImage s c) := by
  rw [dropImage_eq]
  exact foldl_keeps TilesMoved .refl .trans _ _ (fun t i => zeroTile_moved ..) s



/-- A step that keeps a property at each member of a list, repeated, keeps it. -/
theorem foldl_holds_mem {α β : Type} (P : α → Prop) (f : α → β → α) (l : List β) (h : ∀ a, ∀ b ∈ l, P a → P (f a b)) (a : α) (ha : P a) :
    P (l.foldl f a) := by
  induction l generalizing a with
  | nil => exact ha
  | cons b l ih => exact ih (fun a c hc => h a c (List.mem_cons_of_mem _ hc)) _ (h a b (List.mem_cons_self ..) ha)

/-- Steps that each leave a state as it is, one after the other. -/
theorem foldl_fixed {α β : Type} (f : α → β → α) (l : List β) (a : α) (h : ∀ b ∈ l, f a b = a) : l.foldl f a = a := by
  induction l with
  | nil => rfl
  | cons b l ih =>
    rw [List.foldl_cons, h b (List.mem_cons_self ..)]
    exact ih fun c hc => h c (List.mem_cons_of_mem _ hc)

/-- With no crew to be saved or sent nothing changes. -/
theorem saveCrews_none {s : State} (h : ∀ k ∈ s.crews, saveWanted s k = false ∧ ∀ p, k.moving ≠ some (2, p)) : saveCrews s = s := by
  refine foldl_fixed _ _ _ fun k hk => ?_
  obtain ⟨hw, hm⟩ := h k hk
  rw [hw, Bool.false_and, Bool.false_and, if_neg (by decide)]
  split
  · next p hp => exact absurd hp (hm p)
  · rfl

/-! Records that leave. -/

/-- Records leave: nothing changes but the records that stand here and those on their way, the charges of launches, which do not rise,
and the count of free values (R351). -/
structure SentOff (s t : State) : Prop where
  rest : { t with free := s.free, launches := s.launches, recs := s.recs, sent := s.sent } = s
  launches : Alike (fun l m : Launch => { m with charged := l.charged } = l ∧ m.charged ≤ l.charged) s.launches t.launches
  recs : ∃ p : Rec → Bool, t.recs = s.recs.filter p

theorem SentOff.refl (s : State) : SentOff s s :=
  ⟨rfl, .refl (fun _ => ⟨rfl, Nat.le_refl _⟩) _, fun _ => true, (List.filter_true _).symm⟩

theorem SentOff.trans {s t u : State} (h : SentOff s t) (g : SentOff t u) : SentOff s u := by
  obtain ⟨hr, hl, p, hp⟩ := h
  obtain ⟨gr, gl, q, gq⟩ := g
  refine ⟨by rw [← hr, ← gr], hl.trans (fun {x y z} a b => ⟨?_, Nat.le_trans b.2 a.2⟩) gl, _, by rw [gq, hp, List.filter_filter]⟩
  obtain ⟨a, -⟩ := a
  obtain ⟨b, -⟩ := b
  rw [← a, ← b]

theorem sendRec_sentOff (s : State) (r : Rec) : SentOff s (sendRec s r) := by
  rw [sendRec]
  split
  · split
    · exact .refl s
    · dsimp only
      split
      · exact ⟨rfl, ⟨_, rfl, fun l => by split <;> exact ⟨rfl, by simp⟩⟩, _, rfl⟩
      · exact ⟨rfl, .refl (fun _ => ⟨rfl, Nat.le_refl _⟩) _, fun _ => true, (List.filter_true _).symm⟩
  · exact .refl s

/-- Every record that is to leave tried. -/
theorem sendRecs_sentOff (s : State) (l : List Rec) : SentOff s (l.foldl sendRec s) := foldl_keeps SentOff .refl .trans _ l sendRec_sentOff s

/-- A record that does not leave, and with whose number none does, stays. -/
theorem mem_sendRecs {l : List Rec} {q : Rec} (hl : ∀ r ∈ l, ∀ p, r.place = .leaving p → r.rid ≠ q.rid) {s : State} (h : q ∈ s.recs) :
    q ∈ (l.foldl sendRec s).recs := by
  induction l generalizing s with
  | nil => exact h
  | cons r l ih =>
    refine ih (fun r hr => hl r (List.mem_cons_of_mem _ hr)) ?_
    rw [sendRec]
    split
    · next p hp =>
      split
      · exact h
      · dsimp only
        split
        · exact List.mem_filter.mpr ⟨h, decide_eq_true (hl r (List.mem_cons_self ..) p hp).symm⟩
        · exact h
    · exact h

/-! Settling where no crew is to be saved or sent. -/

/-- Whether a crew is to be saved is not changed by puts (R174). -/
theorem PutsRun.saveWanted {s t : State} (h : PutsRun s t) (k : Crew) : saveWanted t k = saveWanted s k := by
  have launches : t.launches = s.launches := h.launches
  have out : ∀ vi, (viOf t vi).switchedOut = (viOf s vi).switchedOut := fun vi => by
    obtain ⟨b, hb⟩ := h.vis vi
    rw [hb]
  simp only [Machine.saveWanted, launchOf, launches, out]

/-- Where no crew is to be saved or sent, a settling leaves the scratchpads, and of the crews all but whether their regions are staged. -/
theorem settle_quiet {s : State} (h : ∀ k ∈ s.crews, saveWanted s k = false ∧ ∀ p, k.moving ≠ some (2, p)) :
    (settle s).pad = s.pad ∧ Alike SameCrew s.crews (settle s).crews := by
  have puts := runPuts_putsRun s
  have crews : (runPuts s).crews = s.crews := puts.crews
  have quiet : saveCrews (runPuts s) = runPuts s := saveCrews_none fun k hk => by
    rw [puts.saveWanted]
    exact h k (crews ▸ hk)
  have sent := sendRecs_sentOff (runPuts s) (runPuts s).recs
  have woken := wakeAll_filed ((runPuts s).recs.foldl sendRec (runPuts s)) fun r => !wordKind r
  have pad : ((runPuts s).recs.foldl sendRec (runPuts s)).pad = (runPuts s).pad := have g := congrArg State.pad sent.rest; g
  have same : ((runPuts s).recs.foldl sendRec (runPuts s)).crews = (runPuts s).crews := have g := congrArg State.crews sent.rest; g
  rw [settle, quiet]
  exact ⟨(woken.pad.trans pad).trans puts.pad, crews ▸ same ▸ woken.crews⟩

end Sys2Proof.Machine
end

section
/-! SUPPORT. Which records wake (R336), and where a record that is filed comes to lie (R337). -/

namespace Sys2Proof.Machine

/-! Records in order. -/

theorem mem_sortPut {x r : Rec} {l : List Rec} : x ∈ sortRecs.put r l ↔ x = r ∨ x ∈ l := by
  induction l with
  | nil => simp [sortRecs.put]
  | cons h t ih =>
    rw [sortRecs.put]
    split
    · exact List.mem_cons
    · rw [List.mem_cons, ih, List.mem_cons]
      tauto

/-- Sorting loses and adds no record. -/
theorem mem_sortRecs {x : Rec} {l : List Rec} : x ∈ sortRecs l ↔ x ∈ l := by
  have from_ : ∀ a : List Rec, x ∈ l.foldl (fun a r => sortRecs.put r a) a ↔ x ∈ a ∨ x ∈ l := by
    induction l with
    | nil => simp
    | cons r l ih =>
      intro a
      rw [List.foldl_cons, ih, mem_sortPut, List.mem_cons]
      tauto
  exact (from_ []).trans (by simp)

/-! Events that hold. -/

/-- Records that leave lower charges, and so leave at least as much room in the pool (R343). -/
theorem SentOff.poolFree {s t : State} (h : SentOff s t) (vi : Nat) : poolFree s vi ≤ poolFree t vi := by
  have size : (viOf t vi).poolSize = (viOf s vi).poolSize := have g := congrArg (fun u : State => (viOf u vi).poolSize) h.rest; g
  obtain ⟨f, hf, hl⟩ := h.launches
  have sum : ∀ (l : List Launch) (m n : Nat), m ≤ n →
      (l.map f).foldl (fun n l => if l.vi = vi then n + max l.reserved l.charged else n) m
        ≤ l.foldl (fun n l => if l.vi = vi then n + max l.reserved l.charged else n) n := by
    intro l
    induction l with
    | nil => exact fun m n h => h
    | cons a l ih =>
      intro m n hmn
      rw [List.map_cons, List.foldl_cons, List.foldl_cons]
      refine ih _ _ ?_
      obtain ⟨ha, hc⟩ := hl a
      have hv : (f a).vi = a.vi := have g := congrArg Launch.vi ha; g
      have hr : (f a).reserved = a.reserved := have g := congrArg Launch.reserved ha; g
      rw [hv, hr]
      split
      · omega
      · exact hmn
  have := sum s.launches 0 0 (Nat.le_refl 0)
  simp only [Machine.poolFree, size, hf]
  omega

/-- The condition of an event does not name what records that leave change, but for the pool's room (R334). -/
theorem eventCond_sentOff {t : State} {r : Rec} {free : Nat} {launches : List Launch} {recs : List Rec} {sent : List (Nat × Rec)}
    (room : poolFree { t with free := free, launches := launches, recs := recs, sent := sent } r.vi ≤ poolFree t r.vi)
    (h : eventCond { t with free := free, launches := launches, recs := recs, sent := sent } r = true) : eventCond t r = true := by
  revert h
  unfold eventCond
  dsimp only
  split
  case h_12 => exact fun h => decide_eq_true (lt_of_lt_of_le (of_decide_eq_true h) room)
  all_goals exact id

/-- An event that holds still holds when records have left. -/
theorem SentOff.eventHolds {s t : State} (h : SentOff s t) {r : Rec} (hr : eventHolds s r = true) : Machine.eventHolds t r = true := by
  have room := h.poolFree r.vi
  obtain ⟨rest, -, -⟩ := h
  rw [← rest] at hr room
  simp only [Machine.eventHolds, Bool.and_eq_true] at hr ⊢
  obtain ⟨outstanding, cond⟩ := hr
  exact ⟨outstanding, eventCond_sentOff room cond⟩

theorem SentOff.firable {s t : State} (h : SentOff s t) (launch vi : Nat) : firable t launch vi = firable s launch vi := by
  have out : (viOf t vi).switchedOut = (viOf s vi).switchedOut := have g := congrArg (fun u : State => (viOf u vi).switchedOut) h.rest; g
  have named : ∀ {l m : Launch}, ({ m with charged := l.charged } = l ∧ m.charged ≤ l.charged) →
      decide (m.id = launch) = decide (l.id = launch) := fun {l m} g => by
    have e := congrArg Launch.id g.1
    exact congrArg (fun n => decide (n = launch)) e
  cases hl : launchOf s launch with
  | none =>
    have none : launchOf t launch = none := h.launches.find_none named hl
    simp only [Machine.firable, out, hl, none]
  | some l =>
    obtain ⟨m, hm, g, -⟩ := h.launches.find named hl
    have found : launchOf t launch = some m := hm
    have same : m.suspended = l.suspended := have e := congrArg Launch.suspended g; e
    simp only [Machine.firable, out, hl, found, same]

/-! Where a record comes to lie. -/

/-- A record that joins a saggar changes its own place alone (R337). -/
theorem joinSaggarAt_recs (s : State) (core : Nat) (r : Rec) :
    ∃ p, p ≠ .parked ∧ (joinSaggarAt s core r).recs = (setPlace s r.rid p).recs := by
  rw [joinSaggarAt]
  split
  · exact ⟨_, by simp, rfl⟩
  · split
    · exact ⟨_, by simp, rfl⟩
    · exact ⟨.saggar s.fresh, by simp, ((attachTiles_attached ..).recs.trans (attachLlc_attached ..).recs)⟩

/-- A record that wakes changes itself alone, and is parked no longer (R336). -/
theorem wakeRec_recs (s : State) (r : Rec) : ∃ f : Rec → Rec, (wakeRec s r).recs = s.recs.map f ∧ (∀ q, (f q).rid = q.rid) ∧
    (∀ q, q.rid ≠ r.rid → f q = q) ∧ ∀ q ∈ s.recs, q.rid = r.rid → (f q).place ≠ .parked := by
  have answered : ∃ g : Rec → Rec, (if r.pgrq.isEmpty then s else pgrqApply s r).recs = s.recs.map g ∧ (∀ q, (g q).rid = q.rid) ∧
      ∀ q, q.rid ≠ r.rid → g q = q := by
    split
    · exact ⟨id, s.recs.map_id.symm, fun _ => rfl, fun _ _ => rfl⟩
    · exact ⟨_, rfl, fun q => by split <;> rfl, fun q hq => if_neg hq⟩
  obtain ⟨g, hg, grid, gsame⟩ := answered
  rw [wakeRec]
  generalize (if r.pgrq.isEmpty then s else pgrqApply s r) = t at hg ⊢
  split
  · next x hx =>
    obtain ⟨p, hp, hj⟩ := joinSaggarAt_recs t (homeCore t x) x
    have hxr : x.rid = r.rid := by simpa using List.find?_some hx
    refine ⟨fun q => if q.rid = x.rid then { g q with place := p, since := t.now } else g q, ?_, fun q => ?_, fun q hq => ?_, fun q _ hq => ?_⟩
    · rw [hj, setPlace, hg, List.map_map]
      refine List.map_congr_left fun q _ => ?_
      simp only [Function.comp, grid]
    · dsimp only
      split <;> exact grid q
    · exact (if_neg (hxr ▸ hq)).trans (gsame q hq)
    · simp only [hq.trans hxr.symm, if_true]
      exact hp
  · next hx =>
    refine ⟨g, hg, grid, gsame, fun q hq hr => ?_⟩
    have := List.find?_eq_none.mp hx (g q) (by rw [hg]; exact List.mem_map.mpr ⟨q, hq, rfl⟩)
    exact absurd (by rw [grid, hr]; exact decide_eq_true rfl) this

/-- Records that wake one after the other: those that are not named stay as they are. -/
theorem mem_wakeRecs {l : List Rec} {q : Rec} (hl : ∀ r ∈ l, q.rid ≠ r.rid) {s : State} (h : q ∈ s.recs) : q ∈ (l.foldl wakeRec s).recs := by
  refine foldl_holds_mem (fun t : State => q ∈ t.recs) _ _ (fun t r hr ht => ?_) s h
  obtain ⟨f, hf, -, same, -⟩ := wakeRec_recs t r
  rw [hf]
  exact List.mem_map.mpr ⟨q, ht, same q (hl r hr)⟩

/-- A record that does not stand parked, or wakes, does not stand parked thereafter. -/
theorem wakeRecs_woken {l : List Rec} {rid : Nat} {s : State} (h : RecNow s rid fun q => q.place ≠ .parked ∨ ∃ r ∈ l, r.rid = rid) :
    RecNow (l.foldl wakeRec s) rid fun q => q.place ≠ .parked := by
  induction l generalizing s with
  | nil =>
    obtain ⟨q, hq, hr, hp⟩ := h
    exact ⟨q, hq, hr, hp.resolve_right (by simp)⟩
  | cons r l ih =>
    obtain ⟨q, hq, hr, hp⟩ := h
    obtain ⟨f, hf, rid, same, woken⟩ := wakeRec_recs s r
    refine ih ⟨f q, by rw [hf]; exact List.mem_map.mpr ⟨q, hq, rfl⟩, (rid q).trans hr, ?_⟩
    by_cases he : q.rid = r.rid
    · exact .inl (woken q hq he)
    · rw [same q he]
      refine hp.imp id fun ⟨x, hx, hxr⟩ => ?_
      rcases List.mem_cons.mp hx with rfl | hx
      · exact absurd (hr.trans hxr.symm) he
      · exact ⟨x, hx, hxr⟩

/-! The overflow list. -/

/-- Of two records, the one that came first: the earlier in the list where both came at one moment (R339). -/
def earlier (b : Option Rec) (r : Rec) : Option Rec :=
  match b with
  | none => some r
  | some h => if r.since < h.since then some r else some h

theorem oldestOverflow_eq (s : State) (core : Nat) :
    oldestOverflow s core = (sortRecs (s.recs.filter fun r => r.place = .overflow core)).foldl earlier none := rfl

/-- The record found among a list and one at hand is one of them, and none of them came before it. -/
theorem foldl_earlier {l : List Rec} {b : Option Rec} {r : Rec} (h : l.foldl earlier b = some r) :
    (r ∈ l ∨ b = some r) ∧ (∀ q ∈ l, r.since ≤ q.since) ∧ ∀ x, b = some x → r.since ≤ x.since := by
  induction l generalizing b with
  | nil =>
    rw [List.foldl_nil] at h
    exact ⟨.inr h, fun q hq => absurd hq (List.not_mem_nil), fun x hx => by rw [h] at hx; cases hx; exact Nat.le_refl _⟩
  | cons a l ih =>
    obtain ⟨mem, least, head⟩ := ih h
    cases b with
    | none =>
      have := head a rfl
      refine ⟨.inl ?_, fun q hq => ?_, fun x hx => by cases hx⟩
      · exact mem.elim (List.mem_cons_of_mem _) fun e => by cases e; exact List.mem_cons_self ..
      · exact (List.mem_cons.mp hq).elim (fun e => e ▸ this) (least q)
    | some x =>
      by_cases hx : a.since < x.since
      · rw [earlier, if_pos hx] at mem head
        have := head a rfl
        refine ⟨.inl ?_, fun q hq => ?_, fun y hy => by cases hy; omega⟩
        · exact mem.elim (List.mem_cons_of_mem _) fun e => by cases e; exact List.mem_cons_self ..
        · exact (List.mem_cons.mp hq).elim (fun e => e ▸ this) (least q)
      · rw [earlier, if_neg hx] at mem head
        have := head x rfl
        refine ⟨mem.imp (List.mem_cons_of_mem _) (fun e => e), fun q hq => ?_, fun y hy => by cases hy; exact this⟩
        exact (List.mem_cons.mp hq).elim (fun e => by subst e; omega) (least q)

/-- The oldest record of an overflow list lies there, and none of the list came before it (R337). -/
theorem oldestOverflow_first {s : State} {core : Nat} {r : Rec} (h : oldestOverflow s core = some r) :
    r ∈ s.recs ∧ ∀ q ∈ s.recs, q.place = .overflow core → r.since ≤ q.since := by
  rw [oldestOverflow_eq] at h
  obtain ⟨mem, least, -⟩ := foldl_earlier h
  have mem := mem.resolve_right (by simp)
  rw [mem_sortRecs, List.mem_filter] at mem
  refine ⟨mem.1, fun q hq hp => least q ?_⟩
  rw [mem_sortRecs, List.mem_filter]
  exact ⟨hq, decide_eq_true hp⟩

/-- What is asked of a saggar that a record lies in: its number, and its key (R337). -/
def LiesIn (g : Saggar) (r : Rec) : Prop :=
  r.rid ∈ g.rids ∧ g.launch = r.launch ∧ (r.kind ≠ .trap → g.trap = false ∧ g.code = r.code ∧ g.crew = r.crew) ∧
    (r.kind = .trap → g.trap = true)

theorem SameSag.liesIn {g h : Saggar} {r : Rec} (k : SameSag g h) (hg : LiesIn g r) : LiesIn h r := by
  unfold SameSag at k
  rw [← k] at hg
  exact hg

theorem SameSag.sid {g h : Saggar} (k : SameSag g h) : h.sid = g.sid := have e := congrArg Saggar.sid k; e

theorem recNow_setPlace {s : State} {r : Rec} (hr : r ∈ s.recs) (p : RecPlace) : RecNow (setPlace s r.rid p) r.rid fun q => q.place = p :=
  ⟨_, List.mem_map.mpr ⟨r, hr, if_pos rfl⟩, rfl, rfl⟩

/-- A saggar that a record matches has its key (R247, R337, R351). -/
theorem sagMatch_key {s : State} {core : Nat} {r : Rec} {g : Saggar} (h : sagMatch s core r (decide (r.kind = .trap)) g = true) :
    g.launch = r.launch ∧ (r.kind ≠ .trap → g.trap = false ∧ g.code = r.code ∧ g.crew = r.crew) ∧ (r.kind = .trap → g.trap = true) := by
  simp only [sagMatch, Bool.and_eq_true, decide_eq_true_eq] at h
  obtain ⟨⟨⟨hl, ht, -, hk, -⟩, -⟩, -⟩ := h
  refine ⟨hl, fun hn => ?_, fun hy => by rw [ht, decide_eq_true hy]⟩
  rw [decide_eq_false hn] at ht
  exact ⟨ht, hk.resolve_left (by simpa using hn)⟩

/-- A record put into its saggar, one that matches or a new one, lies there under its key (R337). -/
theorem joinSaggarAt_joins {s : State} {core : Nat} {r : Rec} (hr : r ∈ s.recs) (hs : (slotCore s core r).isSome = true) :
    ∃ g ∈ (joinSaggarAt s core r).saggars, LiesIn g r ∧ RecNow (joinSaggarAt s core r) r.rid fun q => q.place = .saggar g.sid := by
  rw [joinSaggarAt]
  split
  · next g hg =>
    obtain ⟨key, plain, trap⟩ := sagMatch_key (List.find?_some hg)
    exact ⟨_, List.mem_map.mpr ⟨g, List.mem_of_find?_eq_some hg, if_pos rfl⟩,
      ⟨List.mem_append_right _ (List.mem_singleton.mpr rfl), key, plain, trap⟩, recNow_setPlace hr _⟩
  · split
    · next hn => rw [hn] at hs; cases hs
    · next at_ _ =>
      let g : Saggar := ⟨s.fresh, at_, r.launch, r.code, r.crew, decide (r.kind = .trap), r.pin,
        if decide (32 ≤ recLanes r ∨ r.kind = .gang) then .due else .gather, [r.rid], s.now, s.now, 0, none, 0⟩
      let t : State := { setPlace { s with fresh := s.fresh + 1 } r.rid (.saggar s.fresh) with saggars := s.saggars ++ [g] }
      have attached : Attached t (attachTiles (attachLlc t g) g) := (attachLlc_attached t g).trans (attachTiles_attached _ g)
      have key : LiesIn g r := ⟨List.mem_singleton.mpr rfl, rfl, fun hn => ⟨decide_eq_false hn, rfl, rfl⟩, fun hy => decide_eq_true hy⟩
      have mem : g ∈ t.saggars := List.mem_append_right _ (List.mem_singleton.mpr rfl)
      obtain ⟨h, hh, same⟩ := attached.saggars.mem mem
      obtain ⟨q, hq, hrid, hp⟩ := recNow_setPlace (s := { s with fresh := s.fresh + 1 }) hr (.saggar s.fresh)
      refine ⟨h, hh, same.liesIn key, q, ?_, hrid, hp.trans (congrArg RecPlace.saggar same.sid.symm)⟩
      exact (attached.recs.symm ▸ hq : q ∈ (attachTiles (attachLlc t g) g).recs)

/-! Crews restored. -/

theorem padBytes_length (s : State) (core phys off n : Nat) : (padBytes s core phys off n).length = n := by
  rw [padBytes, mgetRange, List.length_map, List.length_range]

/-- What the scratchpads hold after one tile has moved: its bytes where it goes, and all else (R174). -/
theorem moveTile_pad (s : State) (c0 p c1 q : Nat) (left : Tile) (a : Nat) :
    mget 0 (moveTile s c0 p c1 q left).pad a =
      if tileBase c1 q ≤ a ∧ a < tileBase c1 q + 16384 then mget 0 s.pad (tileBase c0 p + (a - tileBase c1 q)) else mget 0 s.pad a := by
  rw [moveTile, setTile_pad, padWrite_pad, padBytes_length, setTile_pad, Nat.add_zero]
  split
  · next h =>
    have inside : a - (c1 * 2 ^ 21 + q * 16384) < 16384 := by
      simp only [tileBase] at h
      omega
    simp only [padBytes, mgetRange, Nat.add_zero, List.getD_eq_getElem?_getD, List.getElem?_map, List.getElem?_range inside, Option.map_some,
      Option.getD_some, tileBase]
  · rfl

theorem zeroTile_pad (s : State) (core p a : Nat) (h : a < tileBase core p) : mget 0 (zeroTile s core p).pad a = mget 0 s.pad a := by
  rw [zeroTile, setTile_pad, padWrite_pad, Nat.add_zero, if_neg fun k => Nat.not_le.mpr h k.1]

/-- Tiles moved to places of their own on another core: the bytes go with them, and those of no other core change (R174). -/
theorem moved_pad {img core : Nat} {src dst : List Nat} (left : Tile) (hc : core < img) (hd : dst.Nodup) (hq : ∀ q ∈ dst, q < 128)
    (s : State) (n : Nat) (hn : n ≤ dst.length) :
    let t := (List.range n).foldl (fun t i => moveTile t img (src.getD i 0) core (dst.getD i 0) left) s
    (∀ a, tileBase (core + 1) 0 ≤ a → mget 0 t.pad a = mget 0 s.pad a) ∧
      ∀ i, i < n → ∀ j, j < 16384 → mget 0 t.pad (tileBase core (dst.getD i 0) + j) = mget 0 s.pad (tileBase img (src.getD i 0) + j) := by
  induction n with
  | zero => exact ⟨fun _ _ => rfl, fun i hi => absurd hi (Nat.not_lt_zero i)⟩
  | succ n ih =>
    obtain ⟨beyond, moved⟩ := ih (by omega)
    have at_ : ∀ i, (h : i < dst.length) → dst.getD i 0 = dst[i] := fun i h => by
      rw [List.getD_eq_getElem?_getD, List.getElem?_eq_getElem h, Option.getD_some]
    have small : ∀ i, i < dst.length → dst.getD i 0 < 128 := fun i h => by
      rw [at_ i h]
      exact hq _ (List.getElem_mem h)
    have apart : ∀ i, i < n → dst.getD i 0 ≠ dst.getD n 0 := fun i hi => by
      rw [at_ i (by omega), at_ n (by omega)]
      exact fun e => absurd ((hd.getElem_inj_iff).mp e) (by omega)
    have qn := small n (by omega)
    simp only [List.range_succ, List.foldl_append, List.foldl_cons, List.foldl_nil, moveTile_pad]
    refine ⟨fun a ha => ?_, fun i hi j hj => ?_⟩
    · rw [if_neg (by simp only [tileBase] at ha ⊢; omega)]
      exact beyond a ha
    · rcases Nat.lt_succ_iff_lt_or_eq.mp hi with hi | rfl
      · have ne := apart i hi
        rw [if_neg (by simp only [tileBase]; omega)]
        exact moved i hi j hj
      · rw [if_pos (by omega), Nat.add_sub_cancel_left]
        exact beyond _ (by simp only [tileBase]; omega)

/-- Gangs take accumulators: nothing else changes (R266). -/
def GangsPut (s t : State) : Prop := { t with accs := s.accs, gangs := s.gangs } = s

theorem GangsPut.refl (s : State) : GangsPut s s := rfl

theorem GangsPut.trans {s t u : State} (h : GangsPut s t) (g : GangsPut t u) : GangsPut s u := by
  unfold GangsPut at *
  rw [← h, ← g]

theorem GangsPut.of_accs (s : State) (accs : SMap Word) : GangsPut s { s with accs := accs } := rfl
theorem GangsPut.of_gangs (s : State) (gangs : List Gang) : GangsPut s { s with gangs := gangs } := rfl

theorem GangsPut.pad {s t : State} (h : GangsPut s t) : t.pad = s.pad := have g := congrArg State.pad h; g
theorem GangsPut.crews {s t : State} (h : GangsPut s t) : t.crews = s.crews := have g := congrArg State.crews h; g
theorem GangsPut.launches {s t : State} (h : GangsPut s t) : t.launches = s.launches := have g := congrArg State.launches h; g
theorem GangsPut.vis {s t : State} (h : GangsPut s t) : t.vis = s.vis := have g := congrArg State.vis h; g

theorem restoreGangs_put (s : State) (c : Crew) (core : Nat) : GangsPut s (restoreGangs s c core) := by
  refine foldl_keeps GangsPut .refl .trans _ _ (fun t a => ?_) s
  refine .trans ?_ (.of_gangs _ _)
  refine foldl_keeps GangsPut .refl .trans _ _ (fun u z => ?_) t
  exact .of_accs _ _

/-- The tiles that a saved crew takes on a core (R351). -/
def backTiles (s : State) (c : Crew) (core : Nat) : List Nat := (freeTiles s core).take c.tiles.length

/-- A saved crew's tiles, and the accumulators of its gangs, brought back to a core (R174, R266). -/
def movedBack (s : State) (c : Crew) (core : Nat) : State :=
  restoreGangs (dropImage (moveTiles s c.image (List.range (backTiles s c core).length) core (backTiles s c core) Tile.reset) c) c core

/-- A crew that is saved no longer (R351). -/
def restoredCrew (core : Nat) (tiles : List Nat) (c : Crew) : Crew :=
  { c with core := core, tiles := tiles, saved := false, image := 0, moving := none, savedTiles := [], savedAccs := [] }

theorem movedBack_frame (s : State) (c : Crew) (core : Nat) :
    (movedBack s c core).crews = s.crews ∧ (movedBack s c core).launches = s.launches ∧ (movedBack s c core).vis = s.vis := by
  have gangs := restoreGangs_put
    (dropImage (moveTiles s c.image (List.range (backTiles s c core).length) core (backTiles s c core) Tile.reset) c) c core
  have tiles := (moveTiles_moved s c.image (List.range (backTiles s c core).length) core (backTiles s c core) Tile.reset).trans
    (dropImage_moved _ c)
  exact ⟨gangs.crews.trans (have g := congrArg State.crews tiles; g), gangs.launches.trans (have g := congrArg State.launches tiles; g),
    gangs.vis.trans (have g := congrArg State.vis tiles; g)⟩

theorem freeTiles_nodup (s : State) (core : Nat) : (freeTiles s core).Nodup := List.nodup_range.filter _

theorem mem_freeTiles_lt {s : State} {core q : Nat} (h : q ∈ freeTiles s core) : q < 128 :=
  List.mem_range.mp (List.mem_of_mem_filter h)

/-- The bytes of a saved crew's tiles lie in the tiles that it takes (R174). -/
theorem movedBack_pad {s : State} {c : Crew} {core : Nat} (hc : core < 96) (himg : 128 ≤ c.image)
    (hlen : c.tiles.length ≤ (freeTiles s core).length) {i j : Nat} (hi : i < c.tiles.length) (hj : j < 16384) :
    mget 0 (movedBack s c core).pad (tileBase core ((freeTiles s core).getD i 0) + j) = mget 0 s.pad (tileBase c.image i + j) := by
  have len : (backTiles s c core).length = c.tiles.length := by rw [backTiles, List.length_take, Nat.min_eq_left hlen]
  have same : (freeTiles s core).getD i 0 = (backTiles s c core).getD i 0 := by
    rw [backTiles, List.getD_eq_getElem?_getD, List.getD_eq_getElem?_getD, List.getElem?_take_of_lt hi]
  have small : (backTiles s c core).getD i 0 < 128 := by
    rw [← same, List.getD_eq_getElem?_getD, List.getElem?_eq_getElem (by omega), Option.getD_some]
    exact mem_freeTiles_lt (List.getElem_mem _)
  obtain ⟨packets, stageOps, acpys, heq⟩ :=
    moveTiles_eq s c.image (List.range (backTiles s c core).length) core (backTiles s c core) Tile.reset
  obtain ⟨-, moved⟩ := moved_pad (src := List.range (backTiles s c core).length) Tile.reset (by omega : core < c.image)
    ((freeTiles_nodup s core).sublist (List.take_sublist ..)) (fun q hq => mem_freeTiles_lt (List.mem_of_mem_take hq)) s
    (backTiles s c core).length (Nat.le_refl _)
  have moved := moved i (by omega) j hj
  rw [List.getD_eq_getElem?_getD, List.getD_eq_getElem?_getD, List.getElem?_range (by omega), Option.getD_some,
    ← List.getD_eq_getElem?_getD] at moved
  have kept : ∀ u : State, mget 0 (dropImage u c).pad (tileBase core ((backTiles s c core).getD i 0) + j)
      = mget 0 u.pad (tileBase core ((backTiles s c core).getD i 0) + j) := fun u => by
    rw [dropImage_eq]
    refine foldl_holds (fun t : State => mget 0 t.pad _ = mget 0 u.pad _) _ _ (fun t k ht => ?_) u rfl
    rw [zeroTile_pad _ _ _ _ (by simp only [tileBase]; omega)]
    exact ht
  rw [same, movedBack, (restoreGangs_put _ c core).pad, kept, heq, ← moved, List.length_range]
  rfl

end Sys2Proof.Machine
end

section
/-! PROOFS. Events, saggars and saved crews. -/

namespace Sys2Proof.Proofs
open Sys2Proof Sys2Proof.Machine

/-- An event source that fires wakes the records parked on it whose condition holds, and leaves those parked on another (R336). -/
theorem recordEventFire_wakes {s : State} {ev : DWord} (hev : dbits ev 63 60 ∉ [3, 4]) (hrid : (s.recs.map (·.rid)).Nodup) :
    Answers (exec (.recordEventFire ev) s) fun t =>
      (∀ r ∈ s.recs, r.place = .parked → r.event = ev → eventHolds s r = true → firable s r.launch r.vi = true →
        RecNow t r.rid fun q => q.place ≠ .parked) ∧
      (∀ r ∈ s.recs, r.place = .parked → r.event ≠ ev → r ∈ t.recs) ∧ t.warp = s.warp ∧ t.bench = s.bench ∧ BytesKept s t := by
  have sent := sendRecs_sentOff s s.recs
  have unsent : ∀ r ∈ s.recs, r.place = .parked → r ∈ (s.recs.foldl sendRec s).recs := fun r hr hp => by
    refine mem_sendRecs (fun q hq p hl he => ?_) hr
    rw [List.inj_on_of_nodup_map hrid hq hr he, hp] at hl
    cases hl
  refine ⟨_, rfl, ?_⟩
  generalize s.recs.foldl sendRec s = t at sent unsent
  have filed := wakeAll_filed t fun r => decide (r.event = ev) && !wordKind r
  have warp : t.warp = s.warp := have g := congrArg State.warp sent.rest; g
  have bench : t.bench = s.bench := have g := congrArg State.bench sent.rest; g
  have bytes : BytesKept s t := by
    rw [← sent.rest]
    exact ⟨fun _ _ => rfl, fun _ => rfl, fun _ => rfl⟩
  refine ⟨fun r hr hp he hh hf => ?_, fun r hr hp he => ?_, filed.warp.trans warp, filed.bench.trans bench, bytes.trans filed.bytes⟩
  · have noWord : wordKind r = false := by
      simp only [List.mem_cons, List.not_mem_nil, or_false] at hev
      rw [wordKind, he, decide_eq_false hev]
    refine wakeRecs_woken ⟨r, unsent r hr hp, rfl, .inr ⟨r, ?_, rfl⟩⟩
    rw [mem_sortRecs, List.mem_filter]
    simp only [hp, he, noWord, sent.eventHolds hh, sent.firable, hf, decide_true, Bool.not_false, Bool.and_self, and_true]
    exact unsent r hr hp
  · refine mem_wakeRecs (fun q hq hrid' => ?_) (unsent r hr hp)
    rw [mem_sortRecs, List.mem_filter] at hq
    obtain ⟨hq, hw⟩ := hq
    simp only [Bool.and_eq_true, decide_eq_true_eq] at hw
    obtain ⟨⟨⟨-, hqe, -⟩, -⟩, -⟩ := hw
    obtain ⟨p, hfilter⟩ := sent.recs
    have there : q ∈ s.recs := List.mem_of_mem_filter (hfilter ▸ hq)
    have same : q = r := List.inj_on_of_nodup_map hrid there hr hrid'.symm
    exact he (same ▸ hqe)

/-- The timer of a saggar, once it has run its launch's time, makes it DUE while it gathers, and changes nothing else (R20, R338). -/
theorem saggarTimerLapse_due (s : State) (sid : Nat) : Answers (exec (.saggarTimerLapse sid) s) fun t =>
    t = { s with saggars := t.saggars } ∧ ∀ g ∈ s.saggars,
      (g.sid ≠ sid ∨ g.st = .due → g ∈ t.saggars) ∧
      ∀ l, launchOf s g.launch = some l → g.sid = sid → g.st = .gather →
        (g.since + 400 * l.image.timer ≤ s.now → { g with st := .due, dueSince := s.now } ∈ t.saggars) ∧
        (s.now < g.since + 400 * l.image.timer → g ∈ t.saggars) := by
  refine ⟨_, rfl, rfl, fun g hg => ⟨fun h => ?_, fun l hl hs hst => ?_⟩⟩
  · refine List.mem_map.mpr ⟨g, hg, if_neg fun ⟨h1, h2, _⟩ => ?_⟩
    rcases h with h | h
    · exact h h1
    · rw [h2] at h; cases h
  · have time : saggarTimer s g = 400 * l.image.timer := by rw [saggarTimer, hl]
    rw [← time]
    exact ⟨fun h => List.mem_map.mpr ⟨g, hg, if_pos ⟨hs, hst, h⟩⟩,
      fun h => List.mem_map.mpr ⟨g, hg, if_neg fun k => absurd k.2.2 (Nat.not_le.mpr h)⟩⟩

/-- With no record in the overflow list of a core a freed slot goes to none (R337). -/
theorem oldestOverflow_none {s : State} {core : Nat} (h : ∀ r ∈ s.recs, r.place ≠ .overflow core) : oldestOverflow s core = none := by
  have empty : s.recs.filter (fun r => r.place = .overflow core) = [] := by
    rw [List.filter_eq_nil_iff]
    exact fun r hr => by simpa using h r hr
  rw [oldestOverflow, empty]
  rfl

/-- A saved crew restored: its tiles and accumulators brought back, the crew on its core, and what waits tried (R174, R266, R351). -/
theorem exec_crewRestore {s : State} {c : Crew} {l : Launch} {core : Nat} (hk : crewAt s c.launch c.crew = some c)
    (hl : launchOf s c.launch = some l) (hs : c.saved = true)
    (hm : c.moving = none ∧ core = c.core ∨ c.moving = some (0, core) ∨ c.moving = some (1, core / 24))
    (hf : firable s c.launch l.vi = true) (hc : core < 96) (hfl : crewInFlight s c = false)
    (hlen : c.tiles.length ≤ (freeTiles s core).length) (hb : barSets s core < 64) (ha : savedNeed c ≤ (freeAccs s core).length) :
    ∃ recs saggars, exec (.crewRestore c.launch c.crew core) s = .next (settle
      { setCrewAt (movedBack s c core) c.launch c.crew (restoredCrew core (backTiles s c core)) with recs := recs, saggars := saggars }) := by
  have place : restoreOn c core = true := by
    rcases hm with ⟨h, rfl⟩ | h | h <;> simp only [restoreOn, h, decide_true]
  have sets : barSets s core < (if core = c.core then 65 else 64) := by split <;> omega
  simp only [exec, execCrewRestore, hk, hl, hs, place, hf, hc, hfl, hlen, sets, ha, decide_true, Bool.not_false, Bool.and_self,
    Bool.not_true, Bool.false_eq_true, if_false]
  exact ⟨_, _, rfl⟩

/-- A saved crew is restored with its tiles, its records and what else it has (R174, R266, R351). -/
theorem crewRestore_restores {s : State} {c : Crew} {l : Launch} {core : Nat} (hk : crewAt s c.launch c.crew = some c)
    (hl : launchOf s c.launch = some l) (hs : c.saved = true)
    (hm : c.moving = none ∧ core = c.core ∨ c.moving = some (0, core) ∨ c.moving = some (1, core / 24))
    (hf : firable s c.launch l.vi = true) (hc : core < 96) (himg : 128 ≤ c.image) (hfl : crewInFlight s c = false)
    (hlen : c.tiles.length ≤ (freeTiles s core).length) (hb : barSets s core < 64) (ha : savedNeed c ≤ (freeAccs s core).length)
    (hq : ∀ k ∈ s.crews, saveWanted s k = false ∧ ∀ p, k.moving ≠ some (2, p)) :
    Answers (exec (.crewRestore c.launch c.crew core) s) fun t =>
      (∃ k, crewAt t c.launch c.crew = some k ∧ k.saved = false ∧ k.core = core ∧ k.moving = none ∧ k.brec = c.brec ∧ k.lrec = c.lrec ∧
        k.tags = c.tags ∧ k.gang = c.gang ∧ k.tiles = (freeTiles s core).take c.tiles.length) ∧
      ∀ i, i < c.tiles.length → ∀ j, j < 16384 →
        mget 0 t.pad (tileBase core ((freeTiles s core).getD i 0) + j) = mget 0 s.pad (tileBase c.image i + j) := by
  obtain ⟨recs, saggars, run⟩ := exec_crewRestore hk hl hs hm hf hc hfl hlen hb ha
  obtain ⟨crews, launches, vis⟩ := movedBack_frame s c core
  have pads := fun i hi j hj => movedBack_pad (s := s) (c := c) (core := core) (i := i) (j := j) hc himg hlen hi hj
  generalize movedBack s c core = m at run crews launches vis pads
  have restored := crewAt_setCrewAt (s := m) (f := restoredCrew core (backTiles s c core)) (by rw [crewAt, crews]; exact hk)
    fun _ => ⟨rfl, rfl⟩
  obtain ⟨u, hu⟩ : ∃ u : State, u = { setCrewAt m c.launch c.crew (restoredCrew core (backTiles s c core)) with
    recs := recs, saggars := saggars } := ⟨_, rfl⟩
  rw [← hu] at run
  have same : ∀ k, saveWanted u k = saveWanted s k := fun k => by
    have hul : u.launches = s.launches := by rw [hu]; exact launches
    have huv : u.vis = s.vis := by rw [hu]; exact vis
    simp only [saveWanted, launchOf, viOf, hul, huv]
  have quiet : ∀ k ∈ u.crews, saveWanted u k = false ∧ ∀ p, k.moving ≠ some (2, p) := fun k hku => by
    rw [same]
    rw [hu] at hku
    obtain ⟨x, hx, rfl⟩ := List.mem_map.mp hku
    rw [crews] at hx
    split
    · next hn =>
      simp only [Bool.and_eq_true, decide_eq_true_eq] at hn
      refine ⟨?_, fun p hp => by cases hp⟩
      simp only [firable, hl, Bool.and_eq_true, Bool.not_eq_true'] at hf
      simp only [saveWanted, restoredCrew, hn.1, hl, hf.1, hf.2, Bool.not_false, Option.isSome_none, Bool.or_self, Bool.and_false]
    · exact hq x hx
  obtain ⟨pad, alike⟩ := settle_quiet quiet
  obtain ⟨k, hfound, hsame⟩ := crewAt_alike alike (by rw [hu]; exact restored)
  obtain ⟨staged, rfl⟩ := hsame.eq
  refine ⟨_, run, ⟨_, hfound, rfl, rfl, rfl, rfl, rfl, rfl, rfl, rfl⟩, fun i hi j hj => ?_⟩
  rw [pad, hu]
  exact pads i hi j hj

/-- Settles O41: which records an event source, a timer, a freed slot and a restored crew change, and that they are filed under their key. -/
theorem recordsAndSaggars : Obligations.RecordsAndSaggars := by
  unfold Obligations.RecordsAndSaggars
  refine ⟨fun s ev hev hrid => recordEventFire_wakes hev hrid, saggarTimerLapse_due, fun s core h => ?_, fun s core r h => ?_, ?_⟩
  · simp only [exec, execSaggarSlotFree, oldestOverflow_none h]
  · obtain ⟨mem, least⟩ := oldestOverflow_first h
    refine ⟨least, fun hs => ?_⟩
    have joins : exec (.saggarSlotFree core) s = .next (joinSaggarAt s core r) := by
      simp only [exec, execSaggarSlotFree, h, Option.isNone_eq_false_iff.mpr hs, Bool.false_and, Bool.false_eq_true, if_false]
    obtain ⟨g, hg, ⟨hrid, hl, plain, trap⟩, hp⟩ := joinSaggarAt_joins mem hs
    exact ⟨_, joins, g, hg, hrid, hl, plain, trap, hp⟩
  · exact fun s c l core hk hl hs hm hf hc himg hfl hlen hb ha hq => crewRestore_restores hk hl hs hm hf hc himg hfl hlen hb ha hq

end Sys2Proof.Proofs
end

section
/-! PROOFS. A response that lands answers another that waits for a line of its record. -/

namespace Sys2Proof.Proofs
open Sys2Proof Sys2Proof.Machine

/-- A line at a device address that begins with a number, as core 0's L1 holds it. -/
def heldLine (dpa x : Nat) : L1Line := ⟨0, dpa / 128, 0, BitVec.ofNat 1024 x, true⟩

/-- The handler of interface 0, whose address space 0 maps its pool. -/
def poolHandler : Launch :=
  newLaunch State.reset 0 0
    { entry := 0, nreg := 1, tiles := 0, mx := false, cls := 0, gang := 0, frame := 0, waitwin := 512, timer := 1, recs := 1,
      livetab := 0, brecs := [], lrecs := [], regions := [] } 0 .handler false

/-- A parked record of warp 1, whose 1,152 bytes lie in the pool from 0x8000 on: nine whole lines. -/
def pooledRec : Rec := { itemRec poolHandler 0 0 0 [] 0 .normal with rid := 1, addr := 0x8000, src := 1, place := .parked }

/-- A response that has come for warp 1, which loads nothing more of it. -/
def comeResp : Resp := ⟨1, 0, 0, false, 0, some 0, none, []⟩

/-- A response for warp 2, which waits for the first line of the record of warp 1. -/
def awaitedResp : Resp := ⟨2, 0, 0x8000 / 128, false, 0, none, none, []⟩

/-- A state in which VAs are DPAs for address space 0, and both responses are outstanding. -/
def twoResps : State :=
  setVi { State.reset with
    asids := [(0, ⟨1, 0x1000, 0⟩)]
    l1 := [heldLine 0x1000 0x2001, heldLine 0x2000 0xE000000000000007]
    launches := [poolHandler]
    recs := [pooledRec]
    resps := [comeResp, awaitedResp] } 0 fun v => { v with handler := some poolHandler.id }

/-- The responses outstanding after an outcome that still wait for their data. -/
def waitingResps : Host.Outcome State Fault Refusal → List Nat
  | .next t => (t.resps.filter fun r => r.data.isNone).map (·.uid)
  | _ => []

/-- The record of warp 1 is laid into the pool again with what has come, and its whole line answers the response of warp 2 (R103, R332). -/
theorem awaitedResp_answered : waitingResps (exec (.responseLand 0) twoResps) = [] := by decide +kernel

/-- Refutes O40: a response that lands for a warp that has become a record has the record laid into the pool again, and the whole lines
so written answer another response that waits for one of them; so not all responses but the one that landed stay as they were. -/
theorem not_waitsAndResponses : ¬ Obligations.WaitsAndResponses := by
  unfold Obligations.WaitsAndResponses
  rintro ⟨-, lands, -⟩
  obtain ⟨t, ht, hr, -⟩ := lands twoResps 0 comeResp 0 rfl rfl rfl (fun _ hp => absurd hp List.not_mem_nil) List.nodup_nil
  have stays : waitingResps (exec (.responseLand 0) twoResps) = [2] := by
    rw [ht, waitingResps, hr]
    rfl
  rw [awaitedResp_answered] at stays
  cases stays

end Sys2Proof.Proofs
end

section
/-! SUPPORT. What the decoder reads from each code of an instruction word, said once per reader: an element is read exactly from its own
code (R28, R30, R31, R34, R35, R37 and the entries' variants). A table's last row also takes the codes above it, hence the min. -/

namespace Sys2Proof.Proofs
open Sys2Proof Sys2Proof.Laws.FieldsFit

/-- If every element is read back from its code and the code of what n reads as is v, then n reads as k just when v is the code of k. -/
theorem reads_iff {E : Type} {dec : Nat → E} {enc : E → Nat} (left : ∀ k, dec (enc k) = k) {n v : Nat} (right : enc (dec n) = v)
    {k : E} : dec n = k ↔ v = enc k := by
  rw [← right]
  exact (Function.LeftInverse.injective left).eq_iff.symm

@[simp] theorem fmtOf_eq_iff {n : Nat} (h : n < 16) {k : Fmt} : fmtOf n = k ↔ n = k.code :=
  reads_iff (fun k => by cases k <;> rfl) (by revert n; decide)
@[simp] theorem selOf_eq_iff {n : Nat} {k : Sel} : selOf n = k ↔ min n 15 = k.code :=
  reads_iff (fun k => by cases k <;> rfl) (by unfold selOf; split <;> (simp_all [Sel.code]; try omega))
@[simp] theorem rmOf_eq_iff {n : Nat} {k : RMode} : rmOf n = k ↔ n % 4 = k.code :=
  reads_iff (fun k => by cases k <;> rfl) (by unfold rmOf; split <;> (simp_all [RMode.code]; try omega))
theorem code_scopeOf (n : Nat) : (scopeOf n).code = min (n / 32) 6 := by
  unfold scopeOf
  split <;> (simp_all [Scope.code]; try omega)
@[simp] theorem scopeOf_eq_iff {n : Nat} {k : Scope} : scopeOf n = k ↔ min (n / 32) 6 = k.code := by
  rw [← code_scopeOf]
  cases k <;> cases scopeOf n <;> decide
@[simp] theorem icmpOf_eq_iff {n : Nat} {k : ICmpKind} : icmpOf n = k ↔ min n 5 = k.code :=
  reads_iff (fun k => by cases k <;> rfl) (by unfold icmpOf; split <;> (simp_all [ICmpKind.code]; try omega))
@[simp] theorem fcmpOf_eq_iff {n : Nat} {k : FCmpKind} : fcmpOf n = k ↔ min n 7 = k.code :=
  reads_iff (fun k => by cases k <;> rfl) (by unfold fcmpOf; split <;> (simp_all [FCmpKind.code]; try omega))
@[simp] theorem leaOf_eq_iff {n : Nat} {k : LeaScale} : leaOf n = k ↔ min n 4 = k.code :=
  reads_iff (fun k => by cases k <;> rfl) (by unfold leaOf; split <;> (simp_all [LeaScale.code]; try omega))
@[simp] theorem shflOf_eq_iff {n : Nat} {k : ShflKind} : shflOf n = k ↔ min n 3 = k.code :=
  reads_iff (fun k => by cases k <;> rfl) (by unfold shflOf; split <;> (simp_all [ShflKind.code]; try omega))
@[simp] theorem segOf_eq_iff {n : Nat} {k : ShflSeg} : segOf n = k ↔ min n 4 = k.code :=
  reads_iff (fun k => by cases k <;> rfl) (by unfold segOf; split <;> (simp_all [ShflSeg.code]; try omega))
@[simp] theorem qswpOf_eq_iff {n : Nat} {k : QswpKind} : qswpOf n = k ↔ min n 2 = k.code :=
  reads_iff (fun k => by cases k <;> rfl) (by unfold qswpOf; split <;> (simp_all [QswpKind.code]; try omega))
@[simp] theorem qredOf_eq_iff {n : Nat} {k : QredOp} : qredOf n = k ↔ min n 2 = k.code :=
  reads_iff (fun k => by cases k <;> rfl) (by unfold qredOf; split <;> (simp_all [QredOp.code]; try omega))
@[simp] theorem lredOf_eq_iff {n : Nat} {k : LredOp} : lredOf n = k ↔ min n 5 = k.code :=
  reads_iff (fun k => by cases k <;> rfl) (by unfold lredOf; split <;> (simp_all [LredOp.code]; try omega))
@[simp] theorem voteOf_eq_iff {n : Nat} {k : VoteKind} : voteOf n = k ↔ min n 3 = k.code :=
  reads_iff (fun k => by cases k <;> rfl) (by unfold voteOf; split <;> (simp_all [VoteKind.code]; try omega))
@[simp] theorem atomOf_eq_iff {n : Nat} {k : AtomOp} : atomOf n = k ↔ min n 7 = k.code :=
  reads_iff (fun k => by cases k <;> rfl) (by unfold atomOf; split <;> (simp_all [AtomOp.code]; try omega))
@[simp] theorem ordOf_eq_iff {n : Nat} {k : AtomOrd} : ordOf n = k ↔ n % 4 = k.code :=
  reads_iff (fun k => by cases k <;> rfl) (by unfold ordOf; split <;> (simp_all [AtomOrd.code]; try omega))
@[simp] theorem countOf_eq_iff {n : Nat} {k : Count} : countOf n = k ↔ min n 2 = k.code :=
  reads_iff (fun k => by cases k <;> rfl) (by unfold countOf; split <;> (simp_all [Count.code]; try omega))
@[simp] theorem fnceOf_eq_iff {n : Nat} {k : FnceKind} : fnceOf n = k ↔ min n 3 = k.code :=
  reads_iff (fun k => by cases k <;> rfl) (by unfold fnceOf; split <;> (simp_all [FnceKind.code]; try omega))
@[simp] theorem condOf_eq_iff {n : Nat} {k : WordCond} : condOf n = k ↔ min n 5 = k.code :=
  reads_iff (fun k => by cases k <;> rfl) (by unfold condOf; split <;> (simp_all [WordCond.code]; try omega))
@[simp] theorem rowsOf_eq_iff {n : Nat} {k : RowCount} : rowsOf n = k ↔ n % 4 = k.code :=
  reads_iff (fun k => by cases k <;> rfl) (by unfold rowsOf; split <;> (simp_all [RowCount.code]; try omega))
@[simp] theorem tswzOf_eq_iff {n : Nat} {k : Tswz} : tswzOf n = k ↔ min (n % 4) 2 = k.code :=
  reads_iff (fun k => by cases k <;> rfl) (by unfold tswzOf; split <;> (simp_all [Tswz.code]; try omega))
@[simp] theorem acpyOf_eq_iff {n : Nat} {k : AcpySize} : acpyOf n = k ↔ n % 4 = k.code :=
  reads_iff (fun k => by cases k <;> rfl) (by unfold acpyOf; split <;> (simp_all [AcpySize.code]; try omega))

@[simp] theorem code_fmtOf {n : Nat} (h : n < 16) : (fmtOf n).code = n := ((fmtOf_eq_iff h).1 rfl).symm

/-! Codes of single elements, for the clauses of a form that name them. -/

theorem Fmt_eq_iff_code (t : Fmt) :
    (t = .i32 ↔ t.code = 0) ∧ (t = .n32 ↔ t.code = 1) ∧ (t = .i64 ↔ t.code = 2) ∧ (t = .n64 ↔ t.code = 3) ∧
    (t = .i16 ↔ t.code = 4) ∧ (t = .n16 ↔ t.code = 5) ∧ (t = .i8 ↔ t.code = 6) ∧ (t = .n8 ↔ t.code = 7) ∧
    (t = .f32 ↔ t.code = 8) ∧ (t = .f64 ↔ t.code = 9) ∧ (t = .f16 ↔ t.code = 10) ∧ (t = .bf16 ↔ t.code = 11) ∧
    (t = .k8e4 ↔ t.code = 12) ∧ (t = .k8e5 ↔ t.code = 13) ∧ (t = .w8 ↔ t.code = 14) ∧ (t = .untyped ↔ t.code = 15) := by
  cases t <;> decide
theorem Scope_eq_iff_code (k : Scope) :
    (k = .wp ↔ k.code = 0) ∧ (k = .cw ↔ k.code = 1) ∧ (k = .cl ↔ k.code = 3) ∧ (k = .pk ↔ k.code = 4) ∧ (k = .dm ↔ k.code = 5) ∧
    (k = .sy ↔ k.code = 6) := by
  cases k <;> decide
theorem RMode_eq_rne_iff (k : RMode) : k = .rne ↔ k.code = 0 := by cases k <;> decide
theorem Tswz_eq_sw0_iff (k : Tswz) : k = .sw0 ↔ k.code = 0 := by cases k <;> decide
theorem QredOp_eq_add_iff (k : QredOp) : k = .add ↔ k.code = 0 := by cases k <;> decide
theorem LredOp_eq_iff_code (k : LredOp) : (k = .add ↔ k.code = 0) ∧ (k = .min ↔ k.code = 1) ∧ (k = .max ↔ k.code = 2) := by
  cases k <;> decide
theorem AtomOp_eq_iff_code (k : AtomOp) : (k = .add ↔ k.code = 0) ∧ (k = .min ↔ k.code = 1) ∧ (k = .max ↔ k.code = 2) := by
  cases k <;> decide

/-! What the forms ask of a type, by its code. -/

theorem isFloat_eq (t : Fmt) : t.isFloat = decide (8 ≤ t.code ∧ t.code < 14) := by cases t <;> decide
theorem width_eq_eight_iff (t : Fmt) : t.width = 8 ↔ t.code = 6 ∨ t.code = 7 ∨ t.code = 12 ∨ t.code = 13 ∨ t.code = 14 := by
  cases t <;> decide
theorem mmaTypes_iff (ta tb : Fmt) : mmaTypes ta tb = true ↔
    10 ≤ ta.code ∧ ta.code < 14 ∧ tb.code < 15 ∧ (ta.code = 10 → tb.code = 10) ∧ (ta.code = 11 → tb.code = 11) ∧
    (12 ≤ ta.code → 12 ≤ tb.code) := by
  cases ta <;> cases tb <;> decide
theorem le_maxLogc_dense {n : Nat} (ta : Fmt) : n ≤ maxLogc ta false false ↔ n ≤ 3 ∧ (ta.code = 12 ∨ ta.code = 13 → n ≤ 1) := by
  cases ta <;> simp [maxLogc, Fmt.code] <;> omega
theorem le_maxLogc_sparse {n : Nat} (ta : Fmt) (hdr : Bool) :
    n ≤ maxLogc ta true hdr ↔ n ≤ 2 ∧ (ta.code = 12 ∨ ta.code = 13 → n ≤ 1 ∧ (hdr = true → n = 0)) := by
  cases ta <;> cases hdr <;> simp [maxLogc, Fmt.code] <;> omega
theorem barScope_cases (cl : Bool) : barScope cl = 0x20 ∧ bit01 cl = 0 ∨ barScope cl = 0x60 ∧ bit01 cl = 1 := by cases cl <;> decide

/-! Bits and numbers. -/

@[simp] theorem bit01_true : bit01 true = 1 := rfl
@[simp] theorem bit01_false : bit01 false = 0 := rfl
theorem decide_eq_iff_bit01 {p : Prop} [Decidable p] {b : Bool} : decide p = b ↔ (p ↔ bit01 b = 1) := by cases b <;> simp
theorem ofNat_eq_iff_toNat {w n : Nat} {x : BitVec w} : BitVec.ofNat w n = x ↔ n % 2 ^ w = x.toNat := by simp [BitVec.toNat_eq]
theorem finOfNat_eq_iff_val {m n : Nat} [NeZero m] {x : Fin m} : Fin.ofNat m n = x ↔ n % m = x.val := by
  rw [Fin.ext_iff, Fin.val_ofNat]

/-! Operand codes and indices. -/

/-- A code beyond the 12 bits of an operand field reads as the immediate of its low bits. -/
theorem opndOf_eq_ok {n : Nat} {o : Opnd} : opndOf n = .ok o ↔ n = o.code ∨ 4096 ≤ n ∧ o.code = 2048 + n % 2048 := by
  unfold opndOf
  cases o with
  | sel k =>
    have := Sel_code_lt k
    split_ifs <;> simp [Opnd.code, -Fin.ofNat_eq_cast] <;> omega
  | _ => split_ifs <;> simp [Opnd.code, ofNat_eq_iff_toNat, Fin.ext_iff, -Fin.ofNat_eq_cast] <;> omega

@[simp] theorem opndOf_eq_ok_of_lt {n : Nat} (h : n < 4096) {o : Opnd} : opndOf n = .ok o ↔ n = o.code := by
  rw [opndOf_eq_ok]
  omega

/-- Only X, where C leaves X[79:76] free, can hold a wider code. -/
@[simp] theorem opndOf_x_eq_ok {x : Nat} (_ : x < 65536) {o : Opnd} :
    opndOf x = .ok o ↔ x = o.code ∨ 4096 ≤ x ∧ o.code = 2048 + x % 2048 := opndOf_eq_ok

@[simp] theorem idxOf_eq_ok {m n : Nat} {k : Fin (m + 1)} : idxOf m n = .ok k ↔ n = 2048 + k.val := by
  unfold idxOf
  split_ifs with h
  · have := Nat.mod_eq_of_lt (a := n - 2048) (b := m + 1) (by omega)
    rw [Except.ok.injEq, finOfNat_eq_iff_val]
    omega
  · simp only [false_iff]
    omega

@[simp] theorem tileOf_eq_ok {n : Nat} {k : TileOp} : tileOf n = .ok k ↔ n = k.code := by
  unfold tileOf
  cases k <;> split_ifs <;> simp [TileOp.code, finOfNat_eq_iff_val, -Fin.ofNat_eq_cast] <;> omega

theorem longImm_eq_ok {r : Raw} (hb : r.b < 4096) (hx : r.x < 65536) {i : BitVec 27} :
    longImm r = .ok i ↔ r.b = longB i ∧ r.x = longX i := by
  unfold longImm longB longX
  split_ifs <;> simp [ofNat_eq_iff_toNat] <;> omega

/-! The decoder's steps. -/

@[simp] theorem bind_eq_ok {α β : Type} {x : Except DecodeFault α} {f : α → Except DecodeFault β} {b : β} :
    (x >>= f) = .ok b ↔ ∃ a, x = .ok a ∧ f a = .ok b := by
  cases x <;> simp [bind, Except.bind]
@[simp] theorem map_some_eq_ok {α : Type} {x : Except DecodeFault α} {o : Option α} :
    (some <$> x) = .ok o ↔ ∃ a, x = .ok a ∧ some a = o := by
  cases x <;> simp [Functor.map, Except.map]
theorem ite_eq_ok {α : Type} {p : Prop} [Decidable p] {x y : Except DecodeFault α} {b : α} :
    (if p then x else y) = .ok b ↔ p ∧ x = .ok b ∨ ¬p ∧ y = .ok b := ite_eq_iff

end Sys2Proof.Proofs
end

section
/-! SUPPORT. The words that rows 3 to 6 of R48 let through, and the head that a decoded instruction shares with its word. -/

namespace Sys2Proof.Proofs
open Sys2Proof Sys2Proof.Laws.FieldsFit

/-- What rows 3 to 6 of R48 leave of the fields of a form, apart from the reserved guard. -/
def Passes (f : Form) (r : Raw) : Prop :=
  r.fmt ∈ f.fmts ∧ r.fn ∈ f.fns ∧ modBad r.op r.fmt r.fn r.mod = false ∧ r.mod &&& f.mods = r.mod ∧
  (f.d = false → r.d = 0) ∧ (f.a = false → r.a = 0) ∧ (f.b = false → r.b = 0) ∧
  (xUse r.op r.mod f.x = .none → r.x = 0) ∧ (xUse r.op r.mod f.x = .c → r.x < 4096)

theorem rawFault_eq_none_iff {g : Nat} {r : Raw} :
    rawFault g r = none ↔ g ≠ 31 ∧ Passes (formOf r.op r.fmt r.fn) r := by
  simp only [rawFault, Passes]
  generalize formOf r.op r.fmt r.fn = f
  split_ifs <;> cases hx : xUse r.op r.mod f.x <;> simp_all <;> tauto

/-- A MOD byte has bits of a mask alone (R29): the masks of the forms, as arithmetic. -/
theorem and_mask_eq {m : Nat} (h : m < 256) :
    (m &&& 1 = m ↔ m < 2) ∧ (m &&& 3 = m ↔ m < 4) ∧ (m &&& 7 = m ↔ m < 8) ∧ (m &&& 15 = m ↔ m < 16) ∧ (m &&& 31 = m ↔ m < 32) ∧
    (m &&& 63 = m ↔ m < 64) ∧ (m &&& 127 = m ↔ m < 128) ∧ (m &&& 255 = m) ∧ (m &&& 12 = m ↔ m % 4 = 0 ∧ m < 16) ∧
    (m &&& 0xE0 = m ↔ m % 32 = 0) ∧ (m &&& 0xE1 = m ↔ m % 32 < 2) ∧ (m &&& 0xEC = m ↔ m % 4 = 0 ∧ m / 16 % 2 = 0) ∧
    (m &&& 0xEF = m ↔ m / 16 % 2 = 0) ∧ (m &&& 0xFC = m ↔ m % 4 = 0) := by
  revert m
  decide +kernel

theorem and_ite_eq {p : Prop} [Decidable p] {m a b : Nat} :
    m &&& (if p then a else b) = m ↔ (p → m &&& a = m) ∧ (¬p → m &&& b = m) := by
  split_ifs <;> simp [*]

theorem mem_floatFns {fmt n m k : Nat} :
    k ∈ floatFns fmt n m ↔ 8 ≤ fmt ∧ fmt < 14 ∧ k < m ∨ ¬(8 ≤ fmt ∧ fmt < 14) ∧ k < n := by
  unfold floatFns
  split_ifs <;> simp only [List.mem_range] <;> tauto

/-- The opcodes whose FN picks among instructions, not among variants of one (the entries' encoding tables). -/
abbrev FnNames (op : Nat) : Prop :=
  op = 0x02 ∨ op = 0x03 ∨ op = 0x04 ∨ op = 0x09 ∨ op = 0x0A ∨ op = 0x0C ∨ op = 0x0D ∨ op = 0x44 ∨ op = 0x50 ∨ op = 0x5F ∨ op = 0x6E

/-- FN of such an opcode is one that names an instruction. -/
structure FnDefined (op fn : Nat) : Prop where
  two : op = 0x03 ∨ op = 0x04 ∨ op = 0x0A ∨ op = 0x0D ∨ op = 0x44 ∨ op = 0x50 ∨ op = 0x5F → fn < 2
  three : op = 0x02 → fn < 3
  four : op = 0x0C ∨ op = 0x6E → fn < 4
  eight : op = 0x09 → fn < 8

theorem Passes.fnDefined {r : Raw} (h : Passes (formOf r.op r.fmt r.fn) r) : FnDefined r.op r.fn := by
  obtain ⟨-, hfn, -⟩ := h
  constructor
  case two =>
    rintro (h | h | h | h | h | h | h)
    all_goals
      simp only [h, formOf, apply_ite Form.fns, ite_self, List.mem_cons, List.not_mem_nil, or_false] at hfn
      omega
  case three =>
    intro h
    simp only [h, formOf, List.mem_cons, List.not_mem_nil, or_false] at hfn
    omega
  case four =>
    rintro (h | h)
    all_goals
      simp only [h, formOf, List.mem_cons, List.not_mem_nil, or_false] at hfn
      omega
  case eight =>
    intro h
    simp only [h, formOf] at hfn
    split at hfn <;> exact List.mem_range.1 hfn

/-- Fields that name the same constructor of Instr, under the same guard and hints. -/
structure SameHead (r r' : Raw) : Prop where
  op : r'.op = r.op
  ctl : r'.ctl = r.ctl
  fn : FnNames r.op → r'.fn = r.fn

/-- Whatever instruction an outcome of the decoder holds has fields, with the head of r. -/
def Heads (r : Raw) (x : Except DecodeFault Instr) : Prop := ∀ i, x = .ok i → ∃ r', i.raw = some r' ∧ SameHead r r'

theorem Heads.ok {r r' : Raw} {i : Instr} (hi : i.raw = some r') (h : SameHead r r') : Heads r (.ok i) := by
  intro j hj
  rw [Except.ok.injEq] at hj
  exact hj ▸ ⟨r', hi, h⟩

theorem Heads.error {r : Raw} {e : DecodeFault} : Heads r (.error e) := by
  intro i hi
  simp at hi

theorem Heads.bind {r : Raw} {α : Type} {x : Except DecodeFault α} {f : α → Except DecodeFault Instr} (h : ∀ a, Heads r (f a)) :
    Heads r (x >>= f) := by
  intro i hi
  obtain ⟨a, -, ha⟩ := bind_eq_ok.1 hi
  exact h a i ha

/-- An instruction that is built has the opcode, the guard and the hints of its fields, and their FN where that names it. -/
theorem build_heads {r : Raw} (h : FnDefined r.op r.fn) : Heads r (build r) := by
  obtain ⟨h2, h3, h4, h8⟩ := h
  unfold build
  extract_lets
  split
  case h_112 => exact Heads.error
  all_goals try split
  all_goals repeat refine Heads.bind fun _ => ?_
  all_goals try split
  all_goals repeat refine Heads.bind fun _ => ?_
  case h_105.isFalse.isFalse => exact Heads.error
  all_goals exact Heads.ok rfl ⟨by simp only [*], rfl, by simp only [imp_false] at *; omega⟩

/-- The fields of i are in the ranges of R23, and among all fields of their head they alone pass and are built to i, just when the type,
variant and modifiers of i are ones that its entry defines. -/
structure Encodes (i : Instr) : Prop where
  fits : Statement i
  iff : ∀ r', i.raw = some r' → ∀ r, Fits r → SameHead r r' →
    (Passes (formOf r.op r.fmt r.fn) r ∧ build r = .ok i ↔ r' = r ∧ i.formOk = true)

/-- It is enough to compare field by field, over all fields under the head of i's own. -/
theorem Encodes.of_fields {i : Instr} {op fmt₀ fn₀ mod₀ d₀ a₀ b₀ x₀ : Nat} {c : Ctl} (fits : Statement i)
    (raw : i.raw = some ⟨op, fmt₀, fn₀, mod₀, d₀, a₀, b₀, x₀, c⟩)
    (fields : ∀ fmt fn mod d a b x, fmt < 16 → fn < 16 → mod < 256 → d < 4096 → a < 4096 → b < 4096 → x < 65536 →
      (FnNames op → fn₀ = fn) →
      (Passes (formOf op fmt fn) ⟨op, fmt, fn, mod, d, a, b, x, c⟩ ∧ build ⟨op, fmt, fn, mod, d, a, b, x, c⟩ = .ok i ↔
        (fmt₀ = fmt ∧ fn₀ = fn ∧ mod₀ = mod ∧ d₀ = d ∧ a₀ = a ∧ b₀ = b ∧ x₀ = x) ∧ i.formOk = true)) : Encodes i := by
  refine ⟨fits, fun r' hr' r hr hs => ?_⟩
  obtain rfl := Option.some.inj (raw.symm.trans hr')
  obtain ⟨op', fmt, fn, mod, d, a, b, x, c'⟩ := r
  obtain ⟨rfl, rfl, hfn⟩ := hs
  obtain ⟨-, h2, h3, h4, h5, h6, h7, h8⟩ := hr
  rw [fields fmt fn mod d a b x h2 h3 h4 h5 h6 h7 h8 hfn, Raw.mk.injEq]
  simp only [true_and, and_true]

end Sys2Proof.Proofs
end

section
/-! PROOFS. Instructions of one pattern of operands at a time: the fields of an instruction alone pass and are built to it. A literal opcode
picks the row of the form table and the step of the decoder (whnf, since simp walks down the tables row by row); what they ask of the fields
and what the instruction's own fields are is then arithmetic over codes. -/

namespace Sys2Proof.Proofs
open Sys2Proof Sys2Proof.Laws Sys2Proof.Laws.FieldsFit

set_option Elab.async false

/-! Control (R344). -/

theorem encodes_bare (c : Ctl) :
    ∀ i ∈ [Instr.nop c, Instr.split c, Instr.exit c, Instr.yield c, Instr.joinc c, Instr.mfnc c, Instr.bcls c], Encodes i := by
  simp only [List.forall_mem_cons, List.not_mem_nil, false_imp_iff, implies_true, and_true]
  refine ⟨.of_fields (FieldsFit.nop c) rfl ?_, .of_fields (FieldsFit.split c) rfl ?_, .of_fields (FieldsFit.exit c) rfl ?_,
    .of_fields (FieldsFit.yield c) rfl ?_, .of_fields (FieldsFit.joinc c) rfl ?_, .of_fields (FieldsFit.mfnc c) rfl ?_,
    .of_fields (FieldsFit.bcls c) rfl ?_⟩
  all_goals
    intro _ _ _ _ _ _ _ hfmt hfn hmod hd ha hb hx hsel
    conv in formOf _ _ _ => whnf
    conv in build _ => whnf
    simp [Passes, modBad, xUse, Instr.formOk]
    constructor <;> intro h <;> omega

theorem encodes_trap (c : Ctl) (n : Byte) : Encodes (.trap c n) := by
  refine .of_fields (FieldsFit.trap c n) rfl fun _ _ _ _ _ _ _ hfmt hfn hmod hd ha hb hx hsel => ?_
  conv in formOf _ _ _ => whnf
  conv in build _ => whnf
  simp [Passes, modBad, xUse, Instr.formOk, ofNat_eq_iff_toNat, and_mask_eq hmod]
  constructor <;> intro h <;> omega

theorem encodes_fnce (c : Ctl) (k : FnceKind) (sc : Scope) : Encodes (.fnce c k sc) := by
  refine .of_fields (FieldsFit.fnce c k sc) rfl fun _ _ _ _ _ _ _ hfmt hfn hmod hd ha hb hx hsel => ?_
  conv in formOf _ _ _ => whnf
  conv in build _ => whnf
  simp [Passes, modBad, xUse, Instr.formOk, decide_eq_iff_bit01, and_mask_eq hmod]
  have := FnceKind_code_lt k
  have := Scope_code_lt sc
  constructor <;> intro h <;> omega

theorem encodes_barWait (c : Ctl) (bar : BitVec 4) (cl : Bool) : Encodes (.barWait c bar cl) := by
  refine .of_fields (FieldsFit.barWait c bar cl) rfl fun _ _ _ _ _ _ _ hfmt hfn hmod hd ha hb hx hsel => ?_
  obtain rfl := hsel (by decide)
  conv in formOf _ _ _ => whnf
  conv in build _ => whnf
  simp [Passes, modBad, xUse, Instr.formOk, decide_eq_iff_bit01, ofNat_eq_iff_toNat, and_mask_eq hmod]
  have := barScope_cases cl
  constructor <;> intro h <;> omega

theorem encodes_fwdAny (c : Ctl) : Encodes (.fwd c .any) := by
  refine .of_fields (FieldsFit.fwd c _) rfl fun _ _ _ _ _ _ _ hfmt hfn hmod hd ha hb hx hsel => ?_
  obtain rfl := hsel (by decide)
  conv in formOf _ _ _ => whnf
  conv in build _ => whnf
  simp [Passes, modBad, xUse, Instr.formOk]
  constructor <;> intro h <;> omega

theorem encodes_branches (c : Ctl) (p : BitVec 4) (off : BitVec 27) :
    ∀ i ∈ [Instr.braRel c p off, Instr.braAny c p off, Instr.braAll c p off], Encodes i := by
  simp only [List.forall_mem_cons, List.not_mem_nil, false_imp_iff, implies_true, and_true]
  refine ⟨.of_fields (FieldsFit.braRel c p off) rfl ?_, .of_fields (FieldsFit.braAny c p off) rfl ?_,
    .of_fields (FieldsFit.braAll c p off) rfl ?_⟩
  all_goals
    intro _ _ _ _ _ _ _ hfmt hfn hmod hd ha hb hx hsel
    obtain rfl := hsel (by decide)
    conv in formOf _ _ _ => whnf
    conv in build _ => whnf; change _ >>= _
    simp [Passes, modBad, xUse, Instr.formOk, ofNat_eq_iff_toNat, and_mask_eq hmod, longImm_eq_ok, hb, hx, longB, longX]
    constructor <;> intro h <;> omega

theorem encodes_transfers (c : Ctl) (p : BitVec 4) (d a b : Opnd) (off : BitVec 27) :
    ∀ i ∈ [Instr.jumpLane c p a, Instr.jumpWarp c p a, Instr.callRel c p d off, Instr.callS c p d a, Instr.spawnNode c p d a b], Encodes i := by
  simp only [List.forall_mem_cons, List.not_mem_nil, false_imp_iff, implies_true, and_true]
  refine ⟨.of_fields (FieldsFit.jumpLane c p a) rfl ?_, .of_fields (FieldsFit.jumpWarp c p a) rfl ?_,
    .of_fields (FieldsFit.callRel c p d off) rfl ?_, .of_fields (FieldsFit.callS c p d a) rfl ?_,
    .of_fields (FieldsFit.spawnNode c p d a b) rfl ?_⟩
  all_goals
    intro _ _ _ _ _ _ _ hfmt hfn hmod hd ha hb hx hsel
    obtain rfl := hsel (by decide)
    conv in formOf _ _ _ => whnf
    conv in build _ => whnf; change _ >>= _
    simp [Passes, modBad, xUse, Instr.formOk, ofNat_eq_iff_toNat, and_mask_eq hmod, longImm_eq_ok, hd, ha, hb, hx, longB, longX]
    constructor <;> intro h <;> omega

theorem encodes_ret (c : Ctl) (p : BitVec 4) (a : Opnd) : Encodes (.ret c p a) := by
  refine .of_fields (FieldsFit.ret c p a) rfl fun _ _ _ _ _ _ _ hfmt hfn hmod hd ha hb hx hsel => ?_
  conv in formOf _ _ _ => whnf
  conv in build _ => whnf; change _ >>= _
  simp [Passes, modBad, xUse, Instr.formOk, ofNat_eq_iff_toNat, and_mask_eq hmod, ha]
  constructor <;> intro h <;> omega

theorem encodes_oneSource (c : Ctl) (a : Opnd) :
    ∀ i ∈ [Instr.tret c a, Instr.tretKill c a, Instr.stgr c a, Instr.waitb c a], Encodes i := by
  simp only [List.forall_mem_cons, List.not_mem_nil, false_imp_iff, implies_true, and_true]
  refine ⟨.of_fields (FieldsFit.tret c a) rfl ?_, .of_fields (FieldsFit.tretKill c a) rfl ?_, .of_fields (FieldsFit.stgr c a) rfl ?_,
    .of_fields (FieldsFit.waitb c a) rfl ?_⟩
  all_goals
    intro _ _ _ _ _ _ _ hfmt hfn hmod hd ha hb hx hsel
    conv in formOf _ _ _ => whnf
    conv in build _ => whnf; change _ >>= _
    simp [Passes, modBad, xUse, Instr.formOk, ite_eq_ok, ha, hb]
    constructor <;> intro h <;> omega

theorem encodes_waits (c : Ctl) (t : TileOp) (br : Fin 64) (a : Opnd) :
    ∀ i ∈ [Instr.waiteTile c t, Instr.waiteBatch c a, Instr.waiteJoin c a, Instr.waiteGtc c a, Instr.waitePage c br a,
      Instr.waiteColl c a], Encodes i := by
  simp only [List.forall_mem_cons, List.not_mem_nil, false_imp_iff, implies_true, and_true]
  refine ⟨.of_fields (FieldsFit.waiteTile c t) rfl ?_, .of_fields (FieldsFit.waiteBatch c a) rfl ?_,
    .of_fields (FieldsFit.waiteJoin c a) rfl ?_, .of_fields (FieldsFit.waiteGtc c a) rfl ?_,
    .of_fields (FieldsFit.waitePage c br a) rfl ?_, .of_fields (FieldsFit.waiteColl c a) rfl ?_⟩
  all_goals
    intro _ _ _ _ _ _ _ hfmt hfn hmod hd ha hb hx hsel
    obtain rfl := hsel (by decide)
    conv in formOf _ _ _ => whnf
    conv in build _ => whnf; change _ >>= _
    simp [Passes, modBad, xUse, Instr.formOk, ha, hb]
    constructor <;> intro h <;> omega

theorem encodes_waiteWord (c : Ctl) (k : WordCond) (w : Bool) (br : Fin 64) (b r : Opnd) : Encodes (.waiteWord c k w br b r) := by
  refine .of_fields (FieldsFit.waiteWord c k w br b r) rfl fun _ _ _ _ _ _ _ hfmt hfn hmod hd ha hb hx hsel => ?_
  obtain rfl := hsel (by decide)
  conv in formOf _ _ _ => whnf
  conv in build _ => whnf; change _ >>= _
  simp [Passes, modBad, xUse, Instr.formOk, decide_eq_iff_bit01, and_mask_eq hmod, hb, hx]
  have := WordCond_code_lt k
  have := bit01_lt w
  have := opnd_code_lt r
  constructor <;> intro h <;> omega

theorem encodes_barriers (c : Ctl) (bar : BitVec 4) (cl : Bool) (d : Opnd) :
    ∀ i ∈ [Instr.waiteBar c bar cl d, Instr.barPost c bar cl d], Encodes i := by
  simp only [List.forall_mem_cons, List.not_mem_nil, false_imp_iff, implies_true, and_true]
  refine ⟨.of_fields (FieldsFit.waiteBar c bar cl d) rfl ?_, .of_fields (FieldsFit.barPost c bar cl d) rfl ?_⟩
  all_goals
    intro _ _ _ _ _ _ _ hfmt hfn hmod hd ha hb hx hsel
    obtain rfl := hsel (by decide)
    conv in formOf _ _ _ => whnf
    conv in build _ => whnf; change _ >>= _
    simp [Passes, modBad, xUse, Instr.formOk, decide_eq_iff_bit01, ofNat_eq_iff_toNat, and_mask_eq hmod, hd, ha]
    have := barScope_cases cl
    constructor <;> intro h <;> omega

theorem encodes_spawnStage (c : Ctl) (na : BitVec 4) (k : BitVec 3) (d a b r : Opnd) : Encodes (.spawnStage c na k d a b r) := by
  refine .of_fields (FieldsFit.spawnStage c na k d a b r) rfl fun _ _ _ _ _ _ _ hfmt hfn hmod hd ha hb hx hsel => ?_
  obtain rfl := hsel (by decide)
  conv in formOf _ _ _ => whnf
  conv in build _ => whnf; change _ >>= _
  simp [Passes, modBad, xUse, Instr.formOk, ofNat_eq_iff_toNat, and_mask_eq hmod, hd, ha, hb, hx]
  have := opnd_code_lt r
  constructor <;> intro h <;> omega

theorem encodes_fwd (c : Ctl) (a : Opnd) :
    ∀ i ∈ [Instr.fwd c (.core a), Instr.fwd c (.sect a), Instr.fwd c (.pkg a)], Encodes i := by
  simp only [List.forall_mem_cons, List.not_mem_nil, false_imp_iff, implies_true, and_true]
  refine ⟨.of_fields (FieldsFit.fwd c _) rfl ?_, .of_fields (FieldsFit.fwd c _) rfl ?_, .of_fields (FieldsFit.fwd c _) rfl ?_⟩
  all_goals
    intro _ _ _ _ _ _ _ hfmt hfn hmod hd ha hb hx hsel
    obtain rfl := hsel (by decide)
    conv in formOf _ _ _ => whnf
    conv in build _ => whnf; change _ >>= _
    simp [Passes, modBad, xUse, Instr.formOk, ha]
    constructor <;> intro h <;> omega

theorem encodes_scoped (c : Ctl) (sc : Scope) (now : Bool) (d a b p : Opnd) :
    ∀ i ∈ [Instr.refill c sc d a b p, Instr.qput c sc now a b], Encodes i := by
  simp only [List.forall_mem_cons, List.not_mem_nil, false_imp_iff, implies_true, and_true]
  refine ⟨.of_fields (FieldsFit.refill c sc d a b p) rfl ?_, .of_fields (FieldsFit.qput c sc now a b) rfl ?_⟩
  all_goals
    intro _ _ _ _ _ _ _ hfmt hfn hmod hd ha hb hx hsel
    conv in formOf _ _ _ => whnf
    conv in build _ => whnf; change _ >>= _
    simp [Passes, modBad, xUse, Instr.formOk, decide_eq_iff_bit01, and_mask_eq hmod, hd, ha, hb, hx, Scope_eq_iff_code]
    have := Scope_code_lt sc
    have := bit01_lt now
    have := opnd_code_lt p
    constructor <;> intro h <;> omega

theorem encodes_specials (c : Ctl) (n : Byte) (d a : Opnd) :
    ∀ i ∈ [Instr.srd c false n d, Instr.srd c true n d, Instr.swr c false n a, Instr.swr c true n a], Encodes i := by
  simp only [List.forall_mem_cons, List.not_mem_nil, false_imp_iff, implies_true, and_true]
  refine ⟨.of_fields (FieldsFit.srd c false n d) rfl ?_, .of_fields (FieldsFit.srd c true n d) rfl ?_,
    .of_fields (FieldsFit.swr c false n a) rfl ?_, .of_fields (FieldsFit.swr c true n a) rfl ?_⟩
  all_goals
    intro _ _ _ _ _ _ _ hfmt hfn hmod hd ha hb hx hsel
    conv in formOf _ _ _ => whnf
    conv in build _ => whnf; change _ >>= _
    simp [Passes, modBad, xUse, Instr.formOk, decide_eq_iff_bit01, ofNat_eq_iff_toNat, and_mask_eq hmod, hd, ha]
    constructor <;> intro h <;> omega

/-! Integer and logic, moves (R210, R218). -/

theorem encodes_typedThree (c : Ctl) (t : Fmt) (d a b : Opnd) :
    ∀ i ∈ [Instr.imul c t d a b, Instr.imulh c t d a b, Instr.imin c t d a b, Instr.imax c t d a b, Instr.shl c t d a b,
      Instr.shr c t d a b, Instr.fcls c t d a b, Instr.unpk c t d a b, Instr.bcst c t d a b], Encodes i := by
  simp only [List.forall_mem_cons, List.not_mem_nil, false_imp_iff, implies_true, and_true]
  refine ⟨.of_fields (FieldsFit.imul c t d a b) rfl ?_, .of_fields (FieldsFit.imulh c t d a b) rfl ?_,
    .of_fields (FieldsFit.imin c t d a b) rfl ?_, .of_fields (FieldsFit.imax c t d a b) rfl ?_,
    .of_fields (FieldsFit.shl c t d a b) rfl ?_, .of_fields (FieldsFit.shr c t d a b) rfl ?_,
    .of_fields (FieldsFit.fcls c t d a b) rfl ?_, .of_fields (FieldsFit.unpk c t d a b) rfl ?_,
    .of_fields (FieldsFit.bcst c t d a b) rfl ?_⟩
  all_goals
    intro _ _ _ _ _ _ _ hfmt hfn hmod hd ha hb hx hsel
    conv in formOf _ _ _ => whnf
    conv in build _ => whnf; change _ >>= _
    simp [Passes, modBad, xUse, Instr.formOk, decide_eq_iff_bit01, Fmt_eq_iff_code, hfmt, hd, ha, hb, i4, n2, f4, packTypes]
    constructor <;> intro h <;> omega

theorem encodes_typedBitThree (c : Ctl) (t : Fmt) (x : Bool) (d a b : Opnd) :
    ∀ i ∈ [Instr.iadd c t x d a b, Instr.isub c t x d a b, Instr.and c t x d a b, Instr.or c t x d a b, Instr.xor c t x d a b,
      Instr.rot c t x d a b, Instr.fmin c t x d a b, Instr.fmax c t x d a b], Encodes i := by
  simp only [List.forall_mem_cons, List.not_mem_nil, false_imp_iff, implies_true, and_true]
  refine ⟨.of_fields (FieldsFit.iadd c t x d a b) rfl ?_, .of_fields (FieldsFit.isub c t x d a b) rfl ?_,
    .of_fields (FieldsFit.and c t x d a b) rfl ?_, .of_fields (FieldsFit.or c t x d a b) rfl ?_,
    .of_fields (FieldsFit.xor c t x d a b) rfl ?_, .of_fields (FieldsFit.rot c t x d a b) rfl ?_,
    .of_fields (FieldsFit.fmin c t x d a b) rfl ?_, .of_fields (FieldsFit.fmax c t x d a b) rfl ?_⟩
  all_goals
    intro _ _ _ _ _ _ _ hfmt hfn hmod hd ha hb hx hsel
    conv in formOf _ _ _ => whnf
    conv in build _ => whnf; change _ >>= _
    simp [Passes, modBad, xUse, Instr.formOk, decide_eq_iff_bit01, Fmt_eq_iff_code, hfmt, hd, ha, hb, i4, n2, f4]
    have := bit01_lt x
    constructor <;> intro h <;> omega

theorem encodes_typedTwo (c : Ctl) (t : Fmt) (d a : Opnd) :
    ∀ i ∈ [Instr.popc c t d a, Instr.clz c t d a, Instr.brev c t d a, Instr.mov c t d a, Instr.fex2 c t d a, Instr.flg2 c t d a,
      Instr.fsin c t d a, Instr.fcos c t d a], Encodes i := by
  simp only [List.forall_mem_cons, List.not_mem_nil, false_imp_iff, implies_true, and_true]
  refine ⟨.of_fields (FieldsFit.popc c t d a) rfl ?_, .of_fields (FieldsFit.clz c t d a) rfl ?_,
    .of_fields (FieldsFit.brev c t d a) rfl ?_, .of_fields (FieldsFit.mov c t d a) rfl ?_, .of_fields (FieldsFit.fex2 c t d a) rfl ?_,
    .of_fields (FieldsFit.flg2 c t d a) rfl ?_, .of_fields (FieldsFit.fsin c t d a) rfl ?_, .of_fields (FieldsFit.fcos c t d a) rfl ?_⟩
  all_goals
    intro _ _ _ _ _ _ _ hfmt hfn hmod hd ha hb hx hsel
    conv in formOf _ _ _ => whnf
    conv in build _ => whnf; change _ >>= _
    simp [Passes, modBad, xUse, Instr.formOk, decide_eq_iff_bit01, Fmt_eq_iff_code, hfmt, hd, ha, n2]
    constructor <;> intro h <;> omega

theorem encodes_typedBitTwo (c : Ctl) (t : Fmt) (x : Bool) (d a : Opnd) :
    ∀ i ∈ [Instr.iabs c t x d a, Instr.mtch c t x d a], Encodes i := by
  simp only [List.forall_mem_cons, List.not_mem_nil, false_imp_iff, implies_true, and_true]
  refine ⟨.of_fields (FieldsFit.iabs c t x d a) rfl ?_, .of_fields (FieldsFit.mtch c t x d a) rfl ?_⟩
  all_goals
    intro _ _ _ _ _ _ _ hfmt hfn hmod hd ha hb hx hsel
    conv in formOf _ _ _ => whnf
    conv in build _ => whnf; change _ >>= _
    simp [Passes, modBad, xUse, Instr.formOk, decide_eq_iff_bit01, Fmt_eq_iff_code, hfmt, hd, ha, n2]
    have := bit01_lt x
    constructor <;> intro h <;> omega

theorem encodes_tests (c : Ctl) (t : Fmt) (k : ICmpKind) (f : FCmpKind) (m : LeaScale) (d a b : Opnd) :
    ∀ i ∈ [Instr.icmp c t k d a b, Instr.fcmp c t f d a b, Instr.lea c m d a b], Encodes i := by
  simp only [List.forall_mem_cons, List.not_mem_nil, false_imp_iff, implies_true, and_true]
  refine ⟨.of_fields (FieldsFit.icmp c t k d a b) rfl ?_, .of_fields (FieldsFit.fcmp c t f d a b) rfl ?_,
    .of_fields (FieldsFit.lea c m d a b) rfl ?_⟩
  all_goals
    intro _ _ _ _ _ _ _ hfmt hfn hmod hd ha hb hx hsel
    conv in formOf _ _ _ => whnf
    conv in build _ => whnf; change _ >>= _
    simp [Passes, modBad, xUse, Instr.formOk, decide_eq_iff_bit01, Fmt_eq_iff_code, hfmt, hd, ha, hb, i4, f4]
    have := ICmpKind_code_lt k
    have := FCmpKind_code_lt f
    have := LeaScale_code_lt m
    constructor <;> intro h <;> omega

theorem encodes_fourOperands (c : Ctl) (t : Fmt) (x : Bool) (cp : Fin 16) (tt : Byte) (d a b e : Opnd) :
    ∀ i ∈ [Instr.addc c t x cp d a b e, Instr.imad c t false d a b e, Instr.imad c t true d a b e, Instr.bfi c t d a b e,
      Instr.sel c t d a b e, Instr.plop c tt d a b e], Encodes i := by
  simp only [List.forall_mem_cons, List.not_mem_nil, false_imp_iff, implies_true, and_true]
  refine ⟨.of_fields (FieldsFit.addc c t x cp d a b e) rfl ?_, .of_fields (FieldsFit.imad c t false d a b e) rfl ?_,
    .of_fields (FieldsFit.imad c t true d a b e) rfl ?_, .of_fields (FieldsFit.bfi c t d a b e) rfl ?_,
    .of_fields (FieldsFit.sel c t d a b e) rfl ?_, .of_fields (FieldsFit.plop c tt d a b e) rfl ?_⟩
  all_goals
    intro _ _ _ _ _ _ _ hfmt hfn hmod hd ha hb hx hsel
    conv in formOf _ _ _ => whnf
    conv in build _ => whnf; change _ >>= _
    simp [Passes, modBad, xUse, Instr.formOk, decide_eq_iff_bit01, ofNat_eq_iff_toNat, finOfNat_eq_iff_val, -Fin.ofNat_eq_cast,
      Fmt_eq_iff_code, and_mask_eq hmod, mem_ite, hfmt, hd, ha, hb, hx, i4, n2]
    have := opnd_code_lt e
    have := bit01_lt x
    constructor <;> intro h <;> omega

theorem encodes_bfx (c : Ctl) (t : Fmt) (x : BitVec 16) (d a b : Opnd) : Encodes (.bfx c t x d a b) := by
  refine .of_fields (FieldsFit.bfx c t x d a b) rfl fun _ _ _ _ _ _ _ hfmt hfn hmod hd ha hb hx hsel => ?_
  conv in formOf _ _ _ => whnf
  conv in build _ => whnf; change _ >>= _
  simp [Passes, modBad, xUse, Instr.formOk, decide_eq_iff_bit01, ofNat_eq_iff_toNat, Fmt_eq_iff_code, hfmt, hd, ha, hb, i4]
  constructor <;> intro h <;> omega

theorem encodes_movi (c : Ctl) (t : Fmt) (h : BitVec 2) (off : BitVec 27) (d : Opnd) :
    ∀ i ∈ [Instr.moviLo c t d off, Instr.moviHi c t h d off], Encodes i := by
  simp only [List.forall_mem_cons, List.not_mem_nil, false_imp_iff, implies_true, and_true]
  refine ⟨.of_fields (FieldsFit.moviLo c t d off) rfl ?_, .of_fields (FieldsFit.moviHi c t h d off) rfl ?_⟩
  all_goals
    intro _ _ _ _ _ _ _ hfmt hfn hmod hd ha hb hx hsel
    obtain rfl := hsel (by decide)
    conv in formOf _ _ _ => whnf
    conv in build _ => whnf; change _ >>= _
    simp [Passes, modBad, xUse, Instr.formOk, decide_eq_iff_bit01, ofNat_eq_iff_toNat, Fmt_eq_iff_code, and_mask_eq hmod, longImm_eq_ok,
      hfmt, hd, hb, hx, n2, longB, longX]
    constructor <;> intro h <;> omega

/-! Floating point, conversion (R230). -/

theorem encodes_rounded (c : Ctl) (t : Fmt) (rm : RMode) (d a b : Opnd) :
    ∀ i ∈ [Instr.fadd c t rm d a b, Instr.fsub c t rm d a b, Instr.fmul c t rm d a b, Instr.fscl c t rm d a b, Instr.fdiv c t rm d a b,
      Instr.twid c t rm d a b, Instr.frcp c t rm d a, Instr.frsq c t rm d a, Instr.fsqrt c t rm d a, Instr.frnd c t rm d a], Encodes i := by
  simp only [List.forall_mem_cons, List.not_mem_nil, false_imp_iff, implies_true, and_true]
  refine ⟨.of_fields (FieldsFit.fadd c t rm d a b) rfl ?_, .of_fields (FieldsFit.fsub c t rm d a b) rfl ?_,
    .of_fields (FieldsFit.fmul c t rm d a b) rfl ?_, .of_fields (FieldsFit.fscl c t rm d a b) rfl ?_,
    .of_fields (FieldsFit.fdiv c t rm d a b) rfl ?_, .of_fields (FieldsFit.twid c t rm d a b) rfl ?_,
    .of_fields (FieldsFit.frcp c t rm d a) rfl ?_, .of_fields (FieldsFit.frsq c t rm d a) rfl ?_,
    .of_fields (FieldsFit.fsqrt c t rm d a) rfl ?_, .of_fields (FieldsFit.frnd c t rm d a) rfl ?_⟩
  all_goals
    intro _ _ _ _ _ _ _ hfmt hfn hmod hd ha hb hx hsel
    conv in formOf _ _ _ => whnf
    conv in build _ => whnf; change _ >>= _
    simp [Passes, modBad, xUse, Instr.formOk, decide_eq_iff_bit01, Fmt_eq_iff_code, and_mask_eq hmod, hfmt, hd, ha, hb, f4]
    have := RMode_code_lt rm
    constructor <;> intro h <;> omega

theorem encodes_complex (c : Ctl) (t : Fmt) (rm : RMode) (x : Bool) (d a b e : Opnd) :
    ∀ i ∈ [Instr.cmul c t rm x d a b, Instr.bfl4 c t rm x d a b, Instr.fdt2 c t rm x d a b, Instr.ffma c t rm d a b e,
      Instr.cfma c t rm x d a b e, Instr.bfly c t rm d a b e], Encodes i := by
  simp only [List.forall_mem_cons, List.not_mem_nil, false_imp_iff, implies_true, and_true]
  refine ⟨.of_fields (FieldsFit.cmul c t rm x d a b) rfl ?_, .of_fields (FieldsFit.bfl4 c t rm x d a b) rfl ?_,
    .of_fields (FieldsFit.fdt2 c t rm x d a b) rfl ?_, .of_fields (FieldsFit.ffma c t rm d a b e) rfl ?_,
    .of_fields (FieldsFit.cfma c t rm x d a b e) rfl ?_, .of_fields (FieldsFit.bfly c t rm d a b e) rfl ?_⟩
  all_goals
    intro _ _ _ _ _ _ _ hfmt hfn hmod hd ha hb hx hsel
    conv in formOf _ _ _ => whnf
    conv in build _ => whnf; change _ >>= _
    simp [Passes, modBad, xUse, Instr.formOk, decide_eq_iff_bit01, Fmt_eq_iff_code, and_mask_eq hmod, hfmt, hd, ha, hb, hx, f4]
    have := opnd_code_lt e
    have := bit01_lt x
    have := RMode_code_lt rm
    constructor <;> intro h <;> omega

theorem encodes_cvt (c : Ctl) (t src : Fmt) (rm : RMode) (sat : Bool) (d a e : Opnd) :
    ∀ i ∈ [Instr.cvt c t src rm sat d a none, Instr.cvt c t src rm sat d a (some e), Instr.cvtBlk c t src rm d a none,
      Instr.cvtBlk c t src rm d a (some e)], Encodes i := by
  simp only [List.forall_mem_cons, List.not_mem_nil, false_imp_iff, implies_true, and_true]
  refine ⟨.of_fields (FieldsFit.cvt c t src rm sat d a none) rfl ?_, .of_fields (FieldsFit.cvt c t src rm sat d a (some e)) rfl ?_,
    .of_fields (FieldsFit.cvtBlk c t src rm d a none) rfl ?_, .of_fields (FieldsFit.cvtBlk c t src rm d a (some e)) rfl ?_⟩
  all_goals
    intro _ _ _ _ _ _ _ hfmt hfn hmod hd ha hb hx hsel
    conv in formOf _ _ _ => whnf
    conv in build _ => whnf; change _ >>= _
    simp [Passes, modBad, xUse, Instr.formOk, decide_eq_iff_bit01, Fmt_eq_iff_code, and_mask_eq hmod, ite_eq_ok, hfmt, hfn, hd, ha, hx,
      codeOr0, RMode_eq_rne_iff, isFloat_eq]
    have := bit01_lt sat
    have := RMode_code_lt rm
    have := opnd_code_lt e
    constructor <;> intro h <;> omega

theorem encodes_pack (c : Ctl) (t : Fmt) (d a b e : Opnd) :
    ∀ i ∈ [Instr.pack c t d a b none, Instr.pack c t d a b (some e)], Encodes i := by
  simp only [List.forall_mem_cons, List.not_mem_nil, false_imp_iff, implies_true, and_true]
  refine ⟨.of_fields (FieldsFit.pack c t d a b none) rfl ?_, .of_fields (FieldsFit.pack c t d a b (some e)) rfl ?_⟩
  all_goals
    intro _ _ _ _ _ _ _ hfmt hfn hmod hd ha hb hx hsel
    conv in formOf _ _ _ => whnf
    conv in build _ => whnf; change ite _ _ _
    simp [Passes, modBad, xUse, Instr.formOk, decide_eq_iff_bit01, Fmt_eq_iff_code, ite_eq_ok, hfmt, hd, ha, hb, hx, packTypes, codeOr0,
      width_eq_eight_iff]
    have := opnd_code_lt e
    constructor <;> intro h <;> omega

/-! Lane exchange (R220). -/

theorem encodes_lanes (c : Ctl) (t : Fmt) (k : ShflKind) (g : ShflSeg) (q : QswpKind) (v : VoteKind) (d a b p : Opnd) :
    ∀ i ∈ [Instr.shfl c t k g d a b p, Instr.qswp c t q d a, Instr.vote c v d a], Encodes i := by
  simp only [List.forall_mem_cons, List.not_mem_nil, false_imp_iff, implies_true, and_true]
  refine ⟨.of_fields (FieldsFit.shfl c t k g d a b p) rfl ?_, .of_fields (FieldsFit.qswp c t q d a) rfl ?_,
    .of_fields (FieldsFit.vote c v d a) rfl ?_⟩
  all_goals
    intro _ _ _ _ _ _ _ hfmt hfn hmod hd ha hb hx hsel
    conv in formOf _ _ _ => whnf
    conv in build _ => whnf; change _ >>= _
    simp [Passes, modBad, xUse, Instr.formOk, decide_eq_iff_bit01, Fmt_eq_iff_code, and_mask_eq hmod, hfmt, hd, ha, hb, hx, n2]
    have := opnd_code_lt p
    have := ShflKind_code_lt k
    have := ShflSeg_code_lt g
    have := QswpKind_code_lt q
    have := VoteKind_code_lt v
    constructor <;> intro h <;> omega

theorem encodes_pmov (c : Ctl) (d a : Opnd) :
    ∀ i ∈ [Instr.pmovTomask c d a, Instr.pmovTopred c d a], Encodes i := by
  simp only [List.forall_mem_cons, List.not_mem_nil, false_imp_iff, implies_true, and_true]
  refine ⟨.of_fields (FieldsFit.pmovTomask c d a) rfl ?_, .of_fields (FieldsFit.pmovTopred c d a) rfl ?_⟩
  all_goals
    intro _ _ _ _ _ _ _ hfmt hfn hmod hd ha hb hx hsel
    obtain rfl := hsel (by decide)
    conv in formOf _ _ _ => whnf
    conv in build _ => whnf; change _ >>= _
    simp [Passes, modBad, xUse, Instr.formOk, hd, ha]
    constructor <;> intro h <;> omega

theorem encodes_reductions (c : Ctl) (t : Fmt) (q : QredOp) (l : LredOp) (x : Bool) (rm : RMode) (d a : Opnd) :
    ∀ i ∈ [Instr.qred c t q rm d a, Instr.lred c t l rm d a, Instr.prfx c t x rm d a], Encodes i := by
  simp only [List.forall_mem_cons, List.not_mem_nil, false_imp_iff, implies_true, and_true]
  refine ⟨.of_fields (FieldsFit.qred c t q rm d a) rfl ?_, .of_fields (FieldsFit.lred c t l rm d a) rfl ?_,
    .of_fields (FieldsFit.prfx c t x rm d a) rfl ?_⟩
  all_goals
    intro _ _ _ _ _ _ _ hfmt hfn hmod hd ha hb hx hsel
    conv in formOf _ _ _ => whnf
    conv in build _ => whnf; change _ >>= _
    simp [Passes, modBad, xUse, Instr.formOk, decide_eq_iff_bit01, Fmt_eq_iff_code, and_mask_eq hmod, and_ite_eq, mem_floatFns, hfmt, hd,
      ha, QredOp_eq_add_iff, LredOp_eq_iff_code, RMode_eq_rne_iff, isFloat_eq, rndOnly]
    have := bit01_lt x
    have := RMode_code_lt rm
    have := QredOp_code_lt q
    have := LredOp_code_lt l
    constructor <;> intro h <;> omega

/-! Memory, tiles and records (R195, R198, R202, R203, R133, R134, R293, R295). -/

theorem encodes_loads (c : Ctl) (t : Fmt) (n : Count) (disp : BitVec 5) (d : Opnd) (br : Fin 64) (b p : Opnd) :
    ∀ i ∈ [Instr.ld c t n disp d br b p, Instr.st c t n disp d br b p], Encodes i := by
  simp only [List.forall_mem_cons, List.not_mem_nil, false_imp_iff, implies_true, and_true]
  refine ⟨.of_fields (FieldsFit.ld c t n disp d br b p) rfl ?_, .of_fields (FieldsFit.st c t n disp d br b p) rfl ?_⟩
  all_goals
    intro _ _ _ _ _ _ _ hfmt hfn hmod hd ha hb hx hsel
    conv in formOf _ _ _ => whnf
    conv in build _ => whnf; change _ >>= _
    simp [Passes, modBad, xUse, Instr.formOk, decide_eq_iff_bit01, ofNat_eq_iff_toNat, Fmt_eq_iff_code, and_mask_eq hmod, hfmt, hd, hb,
      hx, ldTypes, stTypes]
    have := opnd_code_lt p
    have := Count_code_lt n
    constructor <;> intro h <;> omega

theorem encodes_tileLoads (c : Ctl) (t : Fmt) (n : Count) (d : Opnd) (tile : TileOp) (b e : Opnd) :
    ∀ i ∈ [Instr.lds c t n d tile b none, Instr.lds c t n d tile b (some e), Instr.sts c t n d tile b none,
      Instr.sts c t n d tile b (some e)], Encodes i := by
  simp only [List.forall_mem_cons, List.not_mem_nil, false_imp_iff, implies_true, and_true]
  refine ⟨.of_fields (FieldsFit.lds c t n d tile b none) rfl ?_, .of_fields (FieldsFit.lds c t n d tile b (some e)) rfl ?_,
    .of_fields (FieldsFit.sts c t n d tile b none) rfl ?_, .of_fields (FieldsFit.sts c t n d tile b (some e)) rfl ?_⟩
  all_goals
    intro _ _ _ _ _ _ _ hfmt hfn hmod hd ha hb hx hsel
    conv in formOf _ _ _ => whnf
    conv in build _ => whnf; change _ >>= _
    simp [Passes, modBad, xUse, Instr.formOk, decide_eq_iff_bit01, Fmt_eq_iff_code, ite_eq_ok, hfmt, hd, hb, hx, codeOr0, ldTypes,
      stTypes]
    have := opnd_code_lt e
    have := Count_code_lt n
    constructor <;> intro h <;> omega

theorem encodes_atom (c : Ctl) (t : Fmt) (op : AtomOp) (rm : RMode) (o : AtomOrd) (sc : Scope) (d : Opnd) (br : Fin 64) (b p : Opnd) : Encodes (.atom c t op rm o sc d br b p) := by
  refine .of_fields (FieldsFit.atom c t op rm o sc d br b p) rfl fun _ _ _ _ _ _ _ hfmt hfn hmod hd ha hb hx hsel => ?_
  conv in formOf _ _ _ => whnf
  conv in build _ => whnf; change _ >>= _
  simp [Passes, modBad, xUse, Instr.formOk, decide_eq_iff_bit01, Fmt_eq_iff_code, and_mask_eq hmod, and_ite_eq, mem_floatFns, hfmt, hd,
    hb, hx, AtomOp_eq_iff_code, RMode_eq_rne_iff, isFloat_eq, rndOnly, atomTypes]
  have := opnd_code_lt p
  have := AtomOp_code_lt op
  have := AtomOrd_code_lt o
  have := RMode_code_lt rm
  have := Scope_code_lt sc
  constructor <;> intro h <;> omega

theorem encodes_atms (c : Ctl) (t : Fmt) (op : AtomOp) (rm : RMode) (o : AtomOrd) (sc : Scope) (d : Opnd) (tile : TileOp) (b e : Opnd) :
    ∀ i ∈ [Instr.atms c t op rm o sc d tile b none, Instr.atms c t op rm o sc d tile b (some e)], Encodes i := by
  simp only [List.forall_mem_cons, List.not_mem_nil, false_imp_iff, implies_true, and_true]
  refine ⟨.of_fields (FieldsFit.atms c t op rm o sc d tile b none) rfl ?_,
    .of_fields (FieldsFit.atms c t op rm o sc d tile b (some e)) rfl ?_⟩
  all_goals
    intro _ _ _ _ _ _ _ hfmt hfn hmod hd ha hb hx hsel
    conv in formOf _ _ _ => whnf
    conv in build _ => whnf; change _ >>= _
    simp [Passes, modBad, xUse, Instr.formOk, decide_eq_iff_bit01, Fmt_eq_iff_code, and_mask_eq hmod, and_ite_eq, mem_floatFns,
      ite_eq_ok, hfmt, hd, hb, hx, codeOr0, AtomOp_eq_iff_code, RMode_eq_rne_iff, isFloat_eq, rndOnly, atomTypes, Scope_eq_iff_code]
    have := opnd_code_lt e
    have := AtomOp_code_lt op
    have := AtomOrd_code_lt o
    have := RMode_code_lt rm
    have := Scope_code_lt sc
    constructor <;> intro h <;> omega

theorem encodes_pages (c : Ctl) (x : Bool) (br : Fin 64) (lr : Fin 16) (d a b e : Opnd) :
    ∀ i ∈ [Instr.pref c x br b, Instr.pgrq c d br b, Instr.dscd c d br b e, Instr.lrecLd c lr a], Encodes i := by
  simp only [List.forall_mem_cons, List.not_mem_nil, false_imp_iff, implies_true, and_true]
  refine ⟨.of_fields (FieldsFit.pref c x br b) rfl ?_, .of_fields (FieldsFit.pgrq c d br b) rfl ?_,
    .of_fields (FieldsFit.dscd c d br b e) rfl ?_, .of_fields (FieldsFit.lrecLd c lr a) rfl ?_⟩
  all_goals
    intro _ _ _ _ _ _ _ hfmt hfn hmod hd ha hb hx hsel
    conv in formOf _ _ _ => whnf
    conv in build _ => whnf; change _ >>= _
    simp [Passes, modBad, xUse, Instr.formOk, decide_eq_iff_bit01, hd, ha, hb, hx]
    have := bit01_lt x
    have := opnd_code_lt e
    constructor <;> intro h <;> omega

theorem encodes_tiles (c : Ctl) (t : TileOp) (d : Opnd) :
    ∀ i ∈ [Instr.tgiv c t, Instr.ttak c t, Instr.tsta c d t], Encodes i := by
  simp only [List.forall_mem_cons, List.not_mem_nil, false_imp_iff, implies_true, and_true]
  refine ⟨.of_fields (FieldsFit.tgiv c t) rfl ?_, .of_fields (FieldsFit.ttak c t) rfl ?_, .of_fields (FieldsFit.tsta c d t) rfl ?_⟩
  all_goals
    intro _ _ _ _ _ _ _ hfmt hfn hmod hd ha hb hx hsel
    conv in formOf _ _ _ => whnf
    conv in build _ => whnf; change _ >>= _
    simp [Passes, modBad, xUse, Instr.formOk, hd]
    constructor <;> intro h <;> omega

theorem encodes_brec (c : Ctl) (br : Fin 64) (a : Opnd) :
    ∀ i ∈ [Instr.brecLd c br a, Instr.brecSet c br a], Encodes i := by
  simp only [List.forall_mem_cons, List.not_mem_nil, false_imp_iff, implies_true, and_true]
  refine ⟨.of_fields (FieldsFit.brecLd c br a) rfl ?_, .of_fields (FieldsFit.brecSet c br a) rfl ?_⟩
  all_goals
    intro _ _ _ _ _ _ _ hfmt hfn hmod hd ha hb hx hsel
    obtain rfl := hsel (by decide)
    conv in formOf _ _ _ => whnf
    conv in build _ => whnf; change _ >>= _
    simp [Passes, modBad, xUse, Instr.formOk, ha]
    constructor <;> intro h <;> omega

theorem encodes_wakes (c : Ctl) (g : Byte) (sc : Scope) (d : Opnd) (br : Fin 64) (b p : Opnd) :
    ∀ i ∈ [Instr.mcst c false g d br b p, Instr.mcst c true g d br b p, Instr.wake c false sc d br b p, Instr.wake c true sc d br b p], Encodes i := by
  simp only [List.forall_mem_cons, List.not_mem_nil, false_imp_iff, implies_true, and_true]
  refine ⟨.of_fields (FieldsFit.mcst c false g d br b p) rfl ?_, .of_fields (FieldsFit.mcst c true g d br b p) rfl ?_,
    .of_fields (FieldsFit.wake c false sc d br b p) rfl ?_, .of_fields (FieldsFit.wake c true sc d br b p) rfl ?_⟩
  all_goals
    intro _ _ _ _ _ _ _ hfmt hfn hmod hd ha hb hx hsel
    conv in formOf _ _ _ => whnf
    conv in build _ => whnf; change _ >>= _
    simp [Passes, modBad, xUse, Instr.formOk, decide_eq_iff_bit01, ofNat_eq_iff_toNat, and_mask_eq hmod, hd, hb, hx, Scope_eq_iff_code]
    have := opnd_code_lt p
    have := Scope_code_lt sc
    constructor <;> intro h <;> omega

/-! Matrix and engines (R257, R259, R175, R301). -/

theorem encodes_mma (c : Ctl) (ta tb : Fmt) (l : BitVec 3) (sw : Tswz) (z : Fin 16) (t : TileOp) (b kb : Opnd) : Encodes (.mma c ta tb l sw z t b kb) := by
  refine .of_fields (FieldsFit.mma c ta tb l sw z t b kb) rfl fun _ _ _ _ _ _ _ hfmt hfn hmod hd ha hb hx hsel => ?_
  conv in formOf _ _ _ => whnf
  conv in build _ => whnf; change _ >>= _
  simp [Passes, modBad, xUse, Instr.formOk, decide_eq_iff_bit01, ofNat_eq_iff_toNat, and_mask_eq hmod, mem_ite, hfmt, hfn, hb, hx,
    mmaTypes_iff, le_maxLogc_dense]
  have := opnd_code_lt kb
  have := Tswz_code_lt sw
  constructor <;> intro h <;> omega

theorem encodes_mmsp (c : Ctl) (ta tb : Fmt) (l : BitVec 3) (sw : Tswz) (z : Fin 16) (t : TileOp) (b kb : Opnd) :
    ∀ i ∈ [Instr.mmsp c ta tb l sw false z t b kb, Instr.mmsp c ta tb l sw true z t b kb], Encodes i := by
  simp only [List.forall_mem_cons, List.not_mem_nil, false_imp_iff, implies_true, and_true]
  refine ⟨.of_fields (FieldsFit.mmsp c ta tb l sw false z t b kb) rfl ?_, .of_fields (FieldsFit.mmsp c ta tb l sw true z t b kb) rfl ?_⟩
  all_goals
    intro _ _ _ _ _ _ _ hfmt hfn hmod hd ha hb hx hsel
    conv in formOf _ _ _ => whnf
    conv in build _ => whnf; change _ >>= _
    simp [Passes, modBad, xUse, Instr.formOk, decide_eq_iff_bit01, ofNat_eq_iff_toNat, and_mask_eq hmod, mem_ite, hfmt, hfn, hb, hx,
      mmaTypes_iff, le_maxLogc_sparse, Tswz_eq_sw0_iff]
    have := opnd_code_lt kb
    have := Tswz_code_lt sw
    constructor <;> intro h <;> omega

theorem encodes_accumulators (c : Ctl) (t : Fmt) (rm : RMode) (n : RowCount) (z : Fin 16) (d row : Opnd) :
    ∀ i ∈ [Instr.mzro c z, Instr.mrda c t rm n d z row, Instr.mwra c t rm n z d row], Encodes i := by
  simp only [List.forall_mem_cons, List.not_mem_nil, false_imp_iff, implies_true, and_true]
  refine ⟨.of_fields (FieldsFit.mzro c z) rfl ?_, .of_fields (FieldsFit.mrda c t rm n d z row) rfl ?_,
    .of_fields (FieldsFit.mwra c t rm n z d row) rfl ?_⟩
  all_goals
    intro _ _ _ _ _ _ _ hfmt hfn hmod hd ha hb hx hsel
    conv in formOf _ _ _ => whnf
    conv in build _ => whnf; change _ >>= _
    simp [Passes, modBad, xUse, Instr.formOk, decide_eq_iff_bit01, Fmt_eq_iff_code, and_mask_eq hmod, and_ite_eq, hfmt, hd, ha, hb,
      rndOnly, RMode_eq_rne_iff]
    have := RMode_code_lt rm
    have := RowCount_code_lt n
    constructor <;> intro h <;> omega

theorem encodes_gang (c : Ctl) (a : Fin 256) :
    ∀ i ∈ [Instr.gangForm c a, Instr.gangDissolve c], Encodes i := by
  simp only [List.forall_mem_cons, List.not_mem_nil, false_imp_iff, implies_true, and_true]
  refine ⟨.of_fields (FieldsFit.gangForm c a) rfl ?_, .of_fields (FieldsFit.gangDissolve c) rfl ?_⟩
  all_goals
    intro _ _ _ _ _ _ _ hfmt hfn hmod hd ha hb hx hsel
    conv in formOf _ _ _ => whnf
    conv in build _ => whnf; change ite _ _ _
    simp [Passes, modBad, xUse, Instr.formOk, finOfNat_eq_iff_val, -Fin.ofNat_eq_cast, ite_eq_ok]
    constructor <;> intro h <;> omega

theorem encodes_engines (c : Ctl) (sz : AcpySize) (t : TileOp) (br : Fin 64) (d b e : Opnd) :
    ∀ i ∈ [Instr.acpy c sz t br b e, Instr.qsta c d b], Encodes i := by
  simp only [List.forall_mem_cons, List.not_mem_nil, false_imp_iff, implies_true, and_true]
  refine ⟨.of_fields (FieldsFit.acpy c sz t br b e) rfl ?_, .of_fields (FieldsFit.qsta c d b) rfl ?_⟩
  all_goals
    intro _ _ _ _ _ _ _ hfmt hfn hmod hd ha hb hx hsel
    conv in formOf _ _ _ => whnf
    conv in build _ => whnf; change _ >>= _
    simp [Passes, modBad, xUse, Instr.formOk, and_mask_eq hmod, hd, hb, hx]
    have := opnd_code_lt e
    have := AcpySize_code_lt sz
    constructor <;> intro h <;> omega

theorem encodes_coll (c : Ctl) (a : Opnd) :
    ∀ i ∈ [Instr.collRs c a, Instr.collAg c a, Instr.collA2a c a, Instr.collRpart c a], Encodes i := by
  simp only [List.forall_mem_cons, List.not_mem_nil, false_imp_iff, implies_true, and_true]
  refine ⟨.of_fields (FieldsFit.collRs c a) rfl ?_, .of_fields (FieldsFit.collAg c a) rfl ?_, .of_fields (FieldsFit.collA2a c a) rfl ?_,
    .of_fields (FieldsFit.collRpart c a) rfl ?_⟩
  all_goals
    intro _ _ _ _ _ _ _ hfmt hfn hmod hd ha hb hx hsel
    obtain rfl := hsel (by decide)
    conv in formOf _ _ _ => whnf
    conv in build _ => whnf; change _ >>= _
    simp [Passes, modBad, xUse, Instr.formOk, ha]
    constructor <;> intro h <;> omega

end Sys2Proof.Proofs
end

section
/-! PROOFS. Decoding and encoding instruction words (R23, R24, R48). -/

namespace Sys2Proof.Proofs
open Sys2Proof Sys2Proof.Laws Sys2Proof.Laws.FieldsFit

/-- An event has no fields. -/
theorem Encodes.of_raw_none {i : Instr} (h : i.raw = none) : Encodes i := by
  refine ⟨fun r hr => ?_, fun r hr => ?_⟩ <;> simp [h] at hr

/-- Every instruction's own fields alone pass and are built to it. Where a lemma covers several patterns, the operands that an instruction
lacks are any. -/
theorem encodes (i : Instr) : Encodes i := by
  cases i
  case nop c | split c | exit c | yield c | joinc c | mfnc c | bcls c => exact encodes_bare c _ (by simp)
  case trap c n => exact encodes_trap c n
  case fnce c k sc => exact encodes_fnce c k sc
  case barWait c bar cl => exact encodes_barWait c bar cl
  case braRel c p off | braAny c p off | braAll c p off => exact encodes_branches c p off _ (by simp)
  case jumpLane c p a | jumpWarp c p a => exact encodes_transfers c p a a a 0 _ (by simp)
  case callRel c p d off => exact encodes_transfers c p d d d off _ (by simp)
  case callS c p d a => exact encodes_transfers c p d a d 0 _ (by simp)
  case spawnNode c p d a b => exact encodes_transfers c p d a b 0 _ (by simp)
  case ret c p a => exact encodes_ret c p a
  case tret c a | tretKill c a | stgr c a | waitb c a => exact encodes_oneSource c a _ (by simp)
  case waiteTile c t => exact encodes_waits c t 0 (.p 0) _ (by simp)
  case waiteBatch c a | waiteJoin c a | waiteGtc c a | waiteColl c a => exact encodes_waits c (.idx 0) 0 a _ (by simp)
  case waitePage c br a => exact encodes_waits c (.idx 0) br a _ (by simp)
  case waiteWord c k w br b r => exact encodes_waiteWord c k w br b r
  case waiteBar c bar cl d | barPost c bar cl d => exact encodes_barriers c bar cl d _ (by simp)
  case spawnStage c na k d a b r => exact encodes_spawnStage c na k d a b r
  case refill c sc d a b p => exact encodes_scoped c sc false d a b p _ (by simp)
  case qput c sc now a b => exact encodes_scoped c sc now a a b a _ (by simp)
  case imul c t d a b | imulh c t d a b | imin c t d a b | imax c t d a b | shl c t d a b | shr c t d a b | fcls c t d a b |
      unpk c t d a b | bcst c t d a b =>
    exact encodes_typedThree c t d a b _ (by simp)
  case iadd c t x d a b | isub c t x d a b | and c t x d a b | or c t x d a b | xor c t x d a b | rot c t x d a b | fmin c t x d a b |
      fmax c t x d a b =>
    exact encodes_typedBitThree c t x d a b _ (by simp)
  case popc c t d a | clz c t d a | brev c t d a | mov c t d a | fex2 c t d a | flg2 c t d a | fsin c t d a | fcos c t d a =>
    exact encodes_typedTwo c t d a _ (by simp)
  case iabs c t x d a | mtch c t x d a => exact encodes_typedBitTwo c t x d a _ (by simp)
  case icmp c t k d a b => exact encodes_tests c t k .eq .x1 d a b _ (by simp)
  case fcmp c t f d a b => exact encodes_tests c t .eq f .x1 d a b _ (by simp)
  case lea c m d a b => exact encodes_tests c .i32 .eq .eq m d a b _ (by simp)
  case addc c t x cp d a b e => exact encodes_fourOperands c t x cp 0 d a b e _ (by simp)
  case bfi c t d a b e | sel c t d a b e => exact encodes_fourOperands c t false 0 0 d a b e _ (by simp)
  case plop c tt d a b e => exact encodes_fourOperands c .i32 false 0 tt d a b e _ (by simp)
  case bfx c t x d a b => exact encodes_bfx c t x d a b
  case moviLo c t d off => exact encodes_movi c t 0 off d _ (by simp)
  case moviHi c t h d off => exact encodes_movi c t h off d _ (by simp)
  case fadd c t rm d a b | fsub c t rm d a b | fmul c t rm d a b | fscl c t rm d a b | fdiv c t rm d a b | twid c t rm d a b =>
    exact encodes_rounded c t rm d a b _ (by simp)
  case frcp c t rm d a | frsq c t rm d a | fsqrt c t rm d a | frnd c t rm d a => exact encodes_rounded c t rm d a d _ (by simp)
  case cmul c t rm x d a b | bfl4 c t rm x d a b | fdt2 c t rm x d a b => exact encodes_complex c t rm x d a b d _ (by simp)
  case ffma c t rm d a b e | bfly c t rm d a b e => exact encodes_complex c t rm false d a b e _ (by simp)
  case cfma c t rm x d a b e => exact encodes_complex c t rm x d a b e _ (by simp)
  case shfl c t k g d a b p => exact encodes_lanes c t k g .h .some d a b p _ (by simp)
  case qswp c t q d a => exact encodes_lanes c t .idx .w32 q .some d a d d _ (by simp)
  case vote c v d a => exact encodes_lanes c .i32 .idx .w32 .h v d a d d _ (by simp)
  case pmovTomask c d a | pmovTopred c d a => exact encodes_pmov c d a _ (by simp)
  case qred c t q rm d a => exact encodes_reductions c t q .add false rm d a _ (by simp)
  case lred c t l rm d a => exact encodes_reductions c t .add l false rm d a _ (by simp)
  case prfx c t x rm d a => exact encodes_reductions c t .add .add x rm d a _ (by simp)
  case ld c t n disp d br b p | st c t n disp d br b p => exact encodes_loads c t n disp d br b p _ (by simp)
  case atom c t op rm o sc d br b p => exact encodes_atom c t op rm o sc d br b p
  case pref c x br b => exact encodes_pages c x br 0 b b b b _ (by simp)
  case pgrq c d br b => exact encodes_pages c false br 0 d d b d _ (by simp)
  case dscd c d br b e => exact encodes_pages c false br 0 d d b e _ (by simp)
  case lrecLd c lr a => exact encodes_pages c false 0 lr a a a a _ (by simp)
  case tgiv c t | ttak c t => exact encodes_tiles c t (.p 0) _ (by simp)
  case tsta c d t => exact encodes_tiles c t d _ (by simp)
  case brecLd c br a | brecSet c br a => exact encodes_brec c br a _ (by simp)
  case mma c ta tb l sw z t b kb => exact encodes_mma c ta tb l sw z t b kb
  case mzro c z => exact encodes_accumulators c .i32 .rne .x1 z (.p 0) (.p 0) _ (by simp)
  case mrda c t rm n d z row | mwra c t rm n z d row => exact encodes_accumulators c t rm n z d row _ (by simp)
  case gangForm c a => exact encodes_gang c a _ (by simp)
  case gangDissolve c => exact encodes_gang c 0 _ (by simp)
  case acpy c sz t br b e => exact encodes_engines c sz t br b b e _ (by simp)
  case qsta c d b => exact encodes_engines c .sz4 (.idx 0) 0 d b d _ (by simp)
  case collRs c a | collAg c a | collA2a c a | collRpart c a => exact encodes_coll c a _ (by simp)
  case fwd c t =>
    cases t with
    | any => exact encodes_fwdAny c
    | core a => exact encodes_fwd c a _ (by simp)
    | sect a => exact encodes_fwd c a _ (by simp)
    | pkg a => exact encodes_fwd c a _ (by simp)
  case srd c w n d => cases w <;> exact encodes_specials c n d d _ (by simp)
  case swr c w n a => cases w <;> exact encodes_specials c n a a _ (by simp)
  case imad c t w d a b e => cases w <;> exact encodes_fourOperands c t false 0 0 d a b e _ (by simp)
  case cvt c t src rm sat d a r =>
    cases r with
    | none => exact encodes_cvt c t src rm sat d a d _ (by simp)
    | some e => exact encodes_cvt c t src rm sat d a e _ (by simp)
  case cvtBlk c t src rm d a r =>
    cases r with
    | none => exact encodes_cvt c t src rm false d a d _ (by simp)
    | some e => exact encodes_cvt c t src rm false d a e _ (by simp)
  case pack c t d a b r =>
    cases r with
    | none => exact encodes_pack c t d a b d _ (by simp)
    | some e => exact encodes_pack c t d a b e _ (by simp)
  case lds c t n d tile b r =>
    cases r with
    | none => exact encodes_tileLoads c t n d tile b d _ (by simp)
    | some e => exact encodes_tileLoads c t n d tile b e _ (by simp)
  case sts c t n d tile b r =>
    cases r with
    | none => exact encodes_tileLoads c t n d tile b d _ (by simp)
    | some e => exact encodes_tileLoads c t n d tile b e _ (by simp)
  case atms c t op rm o sc d tile b r =>
    cases r with
    | none => exact encodes_atms c t op rm o sc d tile b d _ (by simp)
    | some e => exact encodes_atms c t op rm o sc d tile b e _ (by simp)
  case mcst c w g d br b p => cases w <;> exact encodes_wakes c g .wp d br b p _ (by simp)
  case wake c w sc d br b p => cases w <;> exact encodes_wakes c 0 sc d br b p _ (by simp)
  case mmsp c ta tb l sw w z t b kb => cases w <;> exact encodes_mmsp c ta tb l sw z t b kb _ (by simp)
  all_goals exact .of_raw_none rfl

/-- Fields that pass and are built to an instruction are its own, and its type, variant and modifiers are defined. -/
theorem raw_of_build {r : Raw} {i : Instr} (hr : Fits r) (hp : Passes (formOf r.op r.fmt r.fn) r) (hb : build r = .ok i) :
    i.raw = some r ∧ i.formOk = true := by
  obtain ⟨r', hi, hs⟩ := build_heads hp.fnDefined i hb
  obtain ⟨rfl, hok⟩ := ((encodes i).iff r' hi r hr hs).1 ⟨hp, hb⟩
  exact ⟨hi, hok⟩

/-- The fields of an instruction of defined type, variant and modifiers pass and are built to it. -/
theorem build_of_raw {r : Raw} {i : Instr} (hi : i.raw = some r) (hok : i.formOk = true) :
    Passes (formOf r.op r.fmt r.fn) r ∧ build r = .ok i :=
  ((encodes i).iff r hi r ((encodes i).fits r hi) ⟨rfl, rfl, fun _ => rfl⟩).2 ⟨rfl, hok⟩

/-! Words and fields. -/

/-- Only opcodes of the fixed map have a form (R28, R48). -/
theorem Passes.op_range {r : Raw} (h : Passes (formOf r.op r.fmt r.fn) r) : 0 < r.op ∧ r.op < 0x70 := by
  obtain ⟨hfmt, -⟩ := h
  unfold formOf at hfmt
  split at hfmt
  case h_112 => simp at hfmt
  all_goals omega

theorem fits_rawOf (w : CodeWord) : Fits (rawOf w) := by
  constructor <;> exact Nat.mod_lt _ (by decide)

/-- The guard and hints of any G and H are laid out in them again (R39, R40). -/
theorem g_ctlOf {g h : Nat} (hg : g < 32) : (ctlOf g h).g = g := by
  simp only [Ctl.g, ctlOf, Fin.val_ofNat, bit01, decide_eq_true_eq]
  split_ifs <;> omega
theorem h_ctlOf {g h : Nat} (hh : h < 65536) : (ctlOf g h).h = h := by
  simp only [Ctl.h, ctlOf, BitVec.toNat_ofNat, bit01, decide_eq_true_eq]
  split_ifs <;> omega

/-- A word is the word of its fields: R23's table leaves out no bit. -/
theorem word_rawOf (w : CodeWord) : (rawOf w).word = w := by
  have hw := w.isLt
  apply BitVec.eq_of_toNat_eq
  simp only [Raw.word, rawOf, BitVec.toNat_ofNat]
  rw [g_ctlOf (by omega), h_ctlOf (by omega)]
  omega

theorem rawOf_g (w : CodeWord) : (rawOf w).ctl.g = w.toNat / 2 ^ 59 % 32 := g_ctlOf (Nat.mod_lt _ (by decide))

/-- A word other than 0 decodes just when its guard is not the reserved one, its fields pass, and the instruction is built of them. -/
theorem decode_eq_ok_iff {w : CodeWord} (hw : w ≠ 0) {i : Instr} : decode w = .ok i ↔
    w.toNat / 2 ^ 59 % 32 ≠ 31 ∧ Passes (formOf (rawOf w).op (rawOf w).fmt (rawOf w).fn) (rawOf w) ∧ build (rawOf w) = .ok i := by
  simp only [decode, if_neg hw]
  constructor
  · intro h
    split_ifs at h
    split at h
    case h_1 => cases h
    case h_2 hf => exact ⟨(rawFault_eq_none_iff.1 hf).1, (rawFault_eq_none_iff.1 hf).2, h⟩
  · rintro ⟨hg, hp, hb⟩
    have hop := hp.op_range
    rw [if_neg (by omega), rawFault_eq_none_iff.2 ⟨hg, hp⟩]
    exact hb

theorem decode_zero : decode 0 = .ok .ill := by simp [decode]

/-! Instructions and fields. -/

theorem ctl_eq (i : Instr) : i.ctl = i.raw.map Raw.ctl := by
  cases i
  case fwd c t => cases t <;> rfl
  all_goals rfl

theorem encode_of_raw {i : Instr} {r : Raw} (h : i.raw = some r) : encode i = some r.word := by
  cases i
  case ill => cases h
  all_goals exact congrArg (Option.map Raw.word) h

/-- An instruction that a word encodes is ILL, or its word is that of its fields. -/
theorem encode_eq_some {i : Instr} {w : CodeWord} (h : encode i = some w) : i = .ill ∧ w = 0 ∨ ∃ r, i.raw = some r ∧ w = r.word := by
  cases hr : i.raw with
  | some r => exact .inr ⟨r, rfl, Option.some.inj (h.symm.trans (encode_of_raw hr))⟩
  | none =>
    left
    unfold encode at h
    split at h
    · exact ⟨rfl, (Option.some.inj h).symm⟩
    · simp [hr] at h

/-- The guard of an instruction is allowed just when G is not 0b11111 (R39). -/
theorem guardOk_iff {i : Instr} {r : Raw} (h : i.raw = some r) : i.guardOk = true ↔ r.ctl.g ≠ 31 := by
  have hp := r.ctl.gpred.isLt
  simp only [Instr.guardOk, ctl_eq, h, Option.map_some, Ctl.g]
  cases r.ctl.gneg with
  | false =>
    simp [bit01]
    omega
  | true => simp [bit01]

/-- What a word that decodes to an instruction other than ILL is: the word of the instruction's fields, which are its own. -/
theorem raw_of_decode {w : CodeWord} (hw : w ≠ 0) {i : Instr} (h : decode w = .ok i) :
    i.raw = some (rawOf w) ∧ i.guardOk = true ∧ i.formOk = true := by
  obtain ⟨hg, hp, hb⟩ := (decode_eq_ok_iff hw).1 h
  obtain ⟨hi, hok⟩ := raw_of_build (fits_rawOf w) hp hb
  exact ⟨hi, (guardOk_iff hi).2 (by rwa [rawOf_g]), hok⟩

/-- The word of the fields of an instruction with an allowed guard and a defined form decodes to it. -/
theorem decode_word {i : Instr} {r : Raw} (hi : i.raw = some r) (hg : i.guardOk = true) (hok : i.formOk = true) :
    decode r.word = .ok i := by
  obtain ⟨hp, hb⟩ := build_of_raw hi hok
  have hr : rawOf r.word = r := rawOf_word r ((encodes i).fits r hi)
  have hw : r.word ≠ 0 := by
    intro h0
    have hop := hp.op_range.1
    rw [← hr, h0] at hop
    exact absurd hop (by decide)
  rw [decode_eq_ok_iff hw, ← rawOf_g, hr]
  exact ⟨(guardOk_iff hi).1 hg, hp, hb⟩

/-! The obligations. -/

/-- Settles O14: an instruction with a guard and hints has fields; the fields alone pass and are built to it, and its word gives them back. -/
theorem decodeEncode : Obligations.DecodeEncode := by
  unfold Obligations.DecodeEncode
  intro i hwf
  have hok : i.guardOk = true ∧ i.formOk = true := by
    simp only [Instr.wf, Bool.and_eq_true] at hwf
    exact hwf.1
  refine ⟨fun hctl => ?_, fun w hw => ?_⟩
  · rw [ctl_eq] at hctl
    obtain ⟨r, hr⟩ := Option.ne_none_iff_exists'.1 fun h : i.raw = none => hctl (by rw [h]; rfl)
    exact ⟨r.word, encode_of_raw hr⟩
  · obtain ⟨rfl, rfl⟩ | ⟨r, hr, rfl⟩ := encode_eq_some hw
    · exact decode_zero
    · exact decode_word hr hok.1 hok.2

/-- Settles O15: a word that decodes is the word of its fields, which are its instruction's own; the reserved words break the first row of R48
that they meet. -/
theorem encodeDecodeAndReservedWords : Obligations.EncodeDecodeAndReservedWords := by
  unfold Obligations.EncodeDecodeAndReservedWords
  refine ⟨fun w i h => ?word, fun w hop => ?undefined, fun w i h hw => ?guard, fun w hw hop => ?noForm, fun w i h => ?form⟩
  case word =>
    obtain rfl | hw := eq_or_ne w 0
    · cases decode_zero.symm.trans h
      rfl
    · rw [encode_of_raw (raw_of_decode hw h).1, word_rawOf]
  case undefined =>
    have hw : w ≠ 0 := by
      rintro rfl
      simp at hop
    simp only [decode, if_neg hw]
    exact if_pos hop
  case guard => exact ((decode_eq_ok_iff hw).1 h).1
  case noForm =>
    have hop' : (rawOf w).op = 0 := hop
    simp only [decode, if_neg hw]
    simp [rawFault, formOf, hop']
  case form =>
    obtain rfl | hw := eq_or_ne w 0
    · cases decode_zero.symm.trans h
      exact ⟨rfl, rfl⟩
    · exact (raw_of_decode hw h).2

/-- Settles O13, by running the decoder on each word. -/
theorem wordsDecode : Obligations.WordsDecode := by
  unfold Obligations.WordsDecode
  decide +kernel

end Sys2Proof.Proofs
end

section
/-! SUPPORT. The choice of a kiln (R337, R338, R356), and the lanes of a firing (R339). -/

namespace Sys2Proof.Machine

/-! The choice. -/

theorem mem_of_mem_candidates {s : State} {core : Nat} {g : Saggar} (h : g ∈ candidates s core) :
    g ∈ s.saggars ∧ g.st = .due ∧ held s core g = false := by
  unfold candidates at h
  dsimp only at h
  split_ifs at h
  all_goals
    simp only [List.mem_filter, Bool.and_eq_true, Bool.not_eq_true', decide_eq_true_eq] at h
    obtain ⟨⟨mem, due⟩, -, free⟩ := h
    exact ⟨mem, due, free⟩

/-- Shortage of cones leaves candidates out and adds none (R359). -/
theorem mem_of_mem_coneOrder {s : State} {l : List Saggar} {g : Saggar} (h : g ∈ coneOrder s l) : g ∈ l := by
  unfold coneOrder at h
  dsimp only at h
  split_ifs at h
  · exact h
  · exact List.mem_of_mem_filter (List.mem_of_mem_filter h)
  · exact List.mem_of_mem_filter h
  · exact List.mem_of_mem_filter h
  · exact h

theorem mem_of_oldest {l : List Saggar} {g : Saggar} (h : oldest l = some g) : g ∈ l := by
  refine foldl_holds_mem (fun b : Option Saggar => ∀ x, b = some x → x ∈ l) _ l (fun b a ha hb x hx => ?_) none (fun x hx => by cases hx) g h
  split at hx
  · cases hx
    exact ha
  · split_ifs at hx
    · cases hx
      exact ha
    · exact hb x hx

/-- A running maximum is no less than where it starts, nor than any number on its way. -/
theorem le_foldl_max {α : Type} (f : α → Nat) (l : List α) (n : Nat) :
    n ≤ l.foldl (fun n x => max n (f x)) n ∧ ∀ x ∈ l, f x ≤ l.foldl (fun n x => max n (f x)) n := by
  induction l generalizing n with
  | nil => exact ⟨Nat.le_refl n, fun x hx => absurd hx List.not_mem_nil⟩
  | cons a l ih =>
    obtain ⟨start, rest⟩ := ih (max n (f a))
    rw [List.foldl_cons]
    refine ⟨by omega, fun x hx => ?_⟩
    rcases List.mem_cons.mp hx with rfl | hx
    · omega
    · exact rest x hx

/-- A chosen saggar is a candidate of the highest effective class that is left once shortage of cones is considered (R356, R359). -/
theorem choose_some {s : State} {core : Nat} {g : Saggar} {d : SMap Nat} (h : choose s core = (some g, d)) :
    g ∈ candidates s core ∧ ∀ x ∈ coneOrder s (candidates s core), effClass s x ≤ effClass s g := by
  unfold choose at h
  dsimp only at h
  obtain ⟨found, -⟩ := Prod.mk.inj h
  split at found
  · have mem := List.mem_of_mem_filter (mem_of_oldest found)
    rw [List.mem_filter, decide_eq_true_eq] at mem
    obtain ⟨left, top⟩ := mem
    refine ⟨mem_of_mem_coneOrder left, fun x hx => ?_⟩
    rw [top]
    exact (le_foldl_max (effClass s) _ 0).2 x hx
  · cases found

/-! Whole records. -/

/-- From a number of lanes taken, whole records are taken in order while they fit in 32 lanes (R338, R339). -/
theorem takeLanes_fits {n : Nat} (hn : n ≤ 32) (rs : List Rec) :
    (takeLanes n rs).1 ++ (takeLanes n rs).2 = rs ∧ (takeLanes n rs).1.foldl (fun n r => n + recLanes r) n ≤ 32 ∧
      ∀ r l, (takeLanes n rs).2 = r :: l → 32 < (takeLanes n rs).1.foldl (fun n r => n + recLanes r) n + recLanes r := by
  induction rs generalizing n with
  | nil => exact ⟨rfl, hn, fun r l h => by cases h⟩
  | cons a rs ih =>
    by_cases fits : n + recLanes a ≤ 32
    · obtain ⟨all, few, full⟩ := ih fits
      rw [takeLanes, if_pos fits]
      exact ⟨congrArg (a :: ·) all, few, full⟩
    · rw [takeLanes, if_neg fits]
      refine ⟨rfl, hn, fun r l h => ?_⟩
      cases h
      exact Nat.lt_of_not_le fits

/-! Records restored. -/

theorem restored_of_noEntry {s : State} {l : Launch} {r : Rec} (h : namesEntry r = false) : restored s l r = r := by
  have same : liveRegs s l r = r.regs := by simp only [liveRegs, h, Bool.not_false, if_true]
  rw [restored, same, if_pos rfl]

theorem restored_regs (s : State) (l : Launch) (r : Rec) : (restored s l r).regs = liveRegs s l r := by
  unfold restored
  dsimp only
  split
  · next same => exact same.symm
  · rfl

theorem liveRegs_of_entry {s : State} {l : Launch} {r : Rec} {bs : List Byte} (hn : namesEntry r = true)
    (hb : readVa s (liveSpace l) (entryVa l r + 8) 192 = some bs) :
    liveRegs s l r = (List.range r.nreg).filter fun k => (bs.getD (k / 8) 0).getLsbD (k % 8) := by
  simp only [liveRegs, hn, Bool.not_true, Bool.false_eq_true, if_false, hb]

/-- A record restored is the record itself but for its registers and predicates (R61). -/
theorem restored_eq (s : State) (l : Launch) (r : Rec) :
    ∃ regs v sr p, restored s l r = { r with regs := regs, v := v, sr := sr, p := p } := by
  unfold restored
  dsimp only
  split
  · exact ⟨_, _, _, _, rfl⟩
  · exact ⟨_, _, _, _, rfl⟩

/-! The counters of a kiln bear on no address, and so on no record that is restored (R61, R361). -/

theorem walkFrom_deficits (s : State) (d : SMap Nat) (budv : Bool) (home va n table : Nat) :
    walkFrom { s with deficits := d } budv home va n table = walkFrom s budv home va n table := by
  induction n generalizing table with
  | zero => rfl
  | succ n ih =>
    rw [walkFrom, walkFrom, ih]
    rfl

theorem walk_deficits (s : State) (d : SMap Nat) (vi asid va : Nat) : walk { s with deficits := d } vi asid va = walk s vi asid va := by
  simp only [walk, walkFrom_deficits]
  rfl

theorem translate_deficits (s : State) (d : SMap Nat) (sp : Space) (va : Nat) (w x : Bool) :
    translate { s with deficits := d } sp va w x = translate s sp va w x := by
  simp only [translate, lookup, walk_deficits]
  rfl

theorem liveCheck_deficits (s : State) (d : SMap Nat) (l : Launch) (r : Rec) :
    liveCheck { s with deficits := d } l r = liveCheck s l r := by
  simp only [liveCheck, checkRange, translate_deficits]

theorem restored_deficits (s : State) (d : SMap Nat) (l : Launch) (r : Rec) :
    restored { s with deficits := d } l r = restored s l r := by
  simp only [restored, liveRegs, readVa, translate_deficits]
  rfl

/-! Registers of a firing's lanes. -/

/-- Of the steps of a fold by number, one alone bears on what is read of the result. -/
theorem foldl_range_step {α β : Type} (f : α → Nat → α) (read : α → β) {n k : Nat} (hk : k < n)
    (others : ∀ a i, i < n → i ≠ k → read (f a i) = read a) (a : α) :
    ∃ b, read b = read a ∧ read ((List.range n).foldl f a) = read (f b k) := by
  induction n with
  | zero => omega
  | succ n ih =>
    rw [List.range_succ, List.foldl_append, List.foldl_cons, List.foldl_nil]
    rcases Nat.lt_succ_iff_lt_or_eq.mp hk with hk | rfl
    · obtain ⟨b, hb, h⟩ := ih hk fun a i hi => others a i (by omega)
      exact ⟨b, hb, (others _ n (by omega) (by omega)).trans h⟩
    · refine ⟨_, ?_, rfl⟩
      exact foldl_holds_mem (fun c => read c = read a) f _
        (fun c i hi hc => (others c i (by have := List.mem_range.mp hi; omega) (by have := List.mem_range.mp hi; omega)).trans hc) a rfl

theorem mget_seatMap {α : Type} [DecidableEq α] (d : α) (l : List (Rec × Nat)) (f : Rec → Nat → α) {k : Nat} {x : Rec × Nat}
    (hx : l[k]? = some x) : mget d (seatMap d l f) k = f x.1 x.2 := by
  have hk : k < l.length := (List.getElem?_eq_some_iff.mp hx).1
  obtain ⟨m, -, h⟩ := foldl_range_step
    (fun m k => match l[k]? with | some (r, p) => mset d m k (f r p) | none => m) (fun m => mget d m k) hk
    (fun m i _ hne => by
      split
      · exact mget_mset_other d m i k _ hne.symm
      · rfl) []
  refine h.trans ?_
  simp only [hx, mget_mset_same]

theorem mget_seatPreds (l : List (Rec × Nat)) {n k : Nat} {x : Rec × Nat} (hn : n < 15) (hk : k < 32) (hx : l[k]? = some x) :
    (mget 0 (seatPreds l) n).getLsbD k = (mget 0 x.1.p n).getLsbD x.2 := by
  obtain ⟨m, -, h⟩ := foldl_range_step
    (fun m q => mset 0 m q (maskOf fun k => match l[k]? with | some (r, p) => (mget 0 r.p q).getLsbD p | none => false))
    (fun m : SMap Word => mget 0 m n) hn (fun m i _ hne => mget_mset_other 0 m i n _ hne.symm) []
  refine (congrArg (BitVec.getLsbD · k) h).trans ?_
  simp only [mget_mset_same]
  rw [getLsbD_maskOf _ k hk, hx]

/-- The registers of one position of a record written as those of a lane. -/
def laneFrom (v : SMap Word) (p k : Nat) (m : SMap Word) : SMap Word :=
  (v.filter fun e => decide (e.1 % 32 = p)).foldl (fun m e => mset 0 m (e.1 / 32 * 32 + k) e.2) m

theorem seatRegs_eq (l : List (Rec × Nat)) : seatRegs l =
    (List.range l.length).foldl (fun m k => match l[k]? with | none => m | some (r, p) => laneFrom r.v p k m) [] := rfl

theorem mget_laneFrom_other (v : SMap Word) (p : Nat) {k : Nat} (hk : k < 32) (m : SMap Word) {a : Nat} (ha : a % 32 ≠ k) :
    mget 0 (laneFrom v p k m) a = mget 0 m a :=
  foldl_holds (fun t => mget 0 t a = mget 0 m a) _ _ (fun t e ht => by rwa [mget_mset_other 0 t _ a _ (by omega)]) m rfl

/-- No key below the bound of a form is listed. -/
theorem mget_below {α : Type} [DecidableEq α] (d : α) {m : SMap α} {lo a : Nat} (h : mwfFrom d lo m = true) (ha : a < lo) : mget d m a = d := by
  induction m generalizing lo with
  | nil => rfl
  | cons e t ih =>
    simp only [mwfFrom, Bool.and_eq_true, decide_eq_true_eq] at h
    obtain ⟨⟨hlo, -⟩, ht⟩ := h
    rw [mget, if_neg (by omega), ih ht (by omega)]

/-- A lane reads the registers that its position of the record holds, and keeps its own where that one holds none. -/
theorem mget_laneFrom {v : SMap Word} {lo : Nat} (hv : mwfFrom 0 lo v = true) {p k : Nat} (hp : p < 32) (m : SMap Word) (n : Nat) :
    mget 0 (laneFrom v p k m) (n * 32 + k) = if mget 0 v (n * 32 + p) = 0 then mget 0 m (n * 32 + k) else mget 0 v (n * 32 + p) := by
  induction v generalizing lo m with
  | nil => rfl
  | cons e t ih =>
    simp only [mwfFrom, Bool.and_eq_true, decide_eq_true_eq] at hv
    obtain ⟨⟨-, hne⟩, ht⟩ := hv
    have tail := ih ht
    unfold laneFrom at tail ⊢
    by_cases at_ : n * 32 + p = e.1
    · have beyond : mget 0 t (n * 32 + p) = 0 := mget_below 0 ht (by omega)
      have key : e.1 / 32 * 32 + k = n * 32 + k := by omega
      rw [List.filter_cons_of_pos (by rw [decide_eq_true_eq]; omega), List.foldl_cons, tail, if_pos beyond, mget, if_pos at_, if_neg hne, key,
        mget_mset_same]
    · rw [mget, if_neg at_]
      by_cases pos : e.1 % 32 = p
      · rw [List.filter_cons_of_pos (by rw [decide_eq_true_eq]; exact pos), List.foldl_cons, tail,
          mget_mset_other 0 m _ _ _ (by omega)]
      · rw [List.filter_cons_of_neg (by rw [decide_eq_true_eq]; exact pos), tail]

theorem mget_seatRegs {l : List (Rec × Nat)} (hl : l.length ≤ 32) {k : Nat} {x : Rec × Nat} (hx : l[k]? = some x) (hp : x.2 < 32)
    (hv : mwf 0 x.1.v = true) (n : Nat) : mget 0 (seatRegs l) (n * 32 + k) = mget 0 x.1.v (n * 32 + x.2) := by
  have hk : k < l.length := (List.getElem?_eq_some_iff.mp hx).1
  obtain ⟨m, hm, h⟩ := foldl_range_step
    (fun m k => match l[k]? with | none => m | some (r, p) => laneFrom r.v p k m) (fun m => mget 0 m (n * 32 + k)) hk
    (fun m i hi hne => by
      split
      · rfl
      · exact mget_laneFrom_other _ _ (by omega) m (by omega)) []
  rw [seatRegs_eq]
  refine h.trans ?_
  simp only [hx]
  rw [mget_laneFrom hv hp, hm]
  split
  · next none => exact none.symm
  · rfl

end Sys2Proof.Machine
end

section
/-! SUPPORT. A firing of one NORMAL record of a whole warp (R61, R328, R339). -/

namespace Sys2Proof.Machine

/-- The lanes of a whole record: every position at its own lane (R339). -/
def wholeSeats (r : Rec) : List (Rec × Nat) := (List.range 32).map fun p => (r, p)

theorem wholeSeats_at (r : Rec) {k : Nat} (hk : k < 32) : (wholeSeats r)[k]? = some (r, k) := by
  rw [wholeSeats, List.getElem?_map, List.getElem?_range hk, Option.map_some]

theorem wholeSeats_length (r : Rec) : (wholeSeats r).length = 32 := by rw [wholeSeats, List.length_map, List.length_range]

/-- A warp of a crew-free launch just fired on a core from one whole record, with the record's registers (R61, R328, R339). -/
structure FiredWhole (now core : Nat) (l : Launch) (r : Rec) (w : Warp) : Prop where
  core : w.core = core
  launch : w.launch = l.id
  vi : w.vi = l.vi
  asid : w.asid = l.asid
  crew : w.crew = none
  entries : w.entries = [⟨r.code, r.mask, r.prio⟩]
  helpers : w.helpers = 0
  exited : w.exited = 0
  v : w.v = seatRegs (wholeSeats r)
  sr : w.sr = r.sr
  p : w.p = seatPreds (wholeSeats r)
  tid : w.tid = seatMap 0 (wholeSeats r) fun r p => mget 0 r.tid p
  join : w.join = seatMap 0 (wholeSeats r) fun r _ => r.join
  frame : w.frame = r.frame
  nreg : w.nreg = r.nreg
  cls : w.cls = r.cls
  slots : w.slots = [0, 0, 0, 0, 0, 0, 0]
  sb : w.sb = []
  held : w.held = []
  priv : w.priv = if l.mode = .handler then 1 else 0
  nextAt : w.nextAt = now
  firedAt : w.firedAt = now
  kept : w.kept = [r.rid]

/-- The lanes of a warp fired from a whole record hold the record's registers, predicates, thread ids and join words. -/
theorem FiredWhole.lanes {now core : Nat} {l : Launch} {r : Rec} {w : Warp} (h : FiredWhole now core l r w) (hv : mwf 0 r.v = true) :
    (∀ n k, k < 32 → mget 0 w.v (n * 32 + k) = mget 0 r.v (n * 32 + k) ∧ mget 0 w.tid k = mget 0 r.tid k ∧ mget 0 w.join k = r.join) ∧
      ∀ n k, n < 15 → k < 32 → (mget 0 w.p n).getLsbD k = (mget 0 r.p n).getLsbD k := by
  rw [h.v, h.tid, h.join, h.p]
  refine ⟨fun n k hk => ⟨?_, ?_, ?_⟩, fun n k hn hk => mget_seatPreds _ hn hk (wholeSeats_at r hk)⟩
  · exact mget_seatRegs (Nat.le_of_eq (wholeSeats_length r)) (wholeSeats_at r hk) hk hv n
  · exact mget_seatMap 0 _ _ (wholeSeats_at r hk)
  · exact mget_seatMap 0 _ _ (wholeSeats_at r hk)

/-- A warp that is seated is resident, and no saggar and no byte changes. -/
theorem mem_residents_seatWarp (s : State) (w : Warp) : w ∈ residents (seatWarp s w) := by
  unfold seatWarp residents
  split
  · exact List.mem_cons_self ..
  · exact List.mem_cons_of_mem _ (List.mem_append_right _ (List.mem_singleton.mpr rfl))

theorem seatWarp_saggars (s : State) (w : Warp) : (seatWarp s w).saggars = s.saggars := by
  unfold seatWarp
  split <;> rfl

theorem seatWarp_bytes (s : State) (w : Warp) : BytesKept s (seatWarp s w) := by
  unfold seatWarp
  split <;> exact ⟨fun _ _ => rfl, fun _ => rfl, fun _ => rfl⟩

/-- One crew-free record of a whole warp, fired: a resident warp has its lanes, and no saggar and no byte changes. -/
theorem fireRecs_whole (s : State) (core : Nat) (l : Launch) {r : Rec} (heavy : Bool) (hm : laneCount r.mask = 32) (hc : r.crew = none) :
    (∃ w ∈ residents (fireRecs s core l [r] false heavy), FiredWhole s.now core l r w) ∧
      (fireRecs s core l [r] false heavy).saggars = s.saggars ∧ BytesKept s (fireRecs s core l [r] false heavy) := by
  have run : ∃ t w, fireRecs s core l [r] false heavy = seatWarp t w ∧ FiredWhole s.now core l r w ∧ t.saggars = s.saggars ∧ BytesKept s t := by
    simp only [fireRecs, hm, hc, List.length_singleton, or_true, and_self, decide_true, Bool.not_false, Bool.and_self, if_true,
      Bool.false_eq_true, if_false, Option.isNone_none, Bool.false_or, decide_eq_true_eq, List.map_cons, List.map_nil, List.foldl_cons,
      List.foldl_nil]
    refine ⟨_, _, rfl, ?_, rfl, ⟨fun _ _ => rfl, fun _ => rfl, fun _ => rfl⟩⟩
    constructor <;> rfl
  obtain ⟨t, w, eq, fired, saggars, bytes⟩ := run
  rw [eq]
  exact ⟨⟨w, mem_residents_seatWarp t w, fired⟩, (seatWarp_saggars t w).trans saggars, bytes.trans (seatWarp_bytes t w)⟩

/-- A saggar of one NORMAL record of a whole warp, whose live-map entry can be read, is fired as that record restored, and keeps none (R61,
R338). -/
theorem fireSaggar_whole {s : State} {core : Nat} {g : Saggar} {l : Launch} {r : Rec} (ht : g.trap = false) (hf : g.fail = none)
    (hl : launchOf s g.launch = some l) (hr : saggarRecs s g = [r]) (hk : r.kind = .normal) (hm : laneCount r.mask = 32)
    (hlive : liveCheck s l r = .ok) : ∃ heavy, fireSaggar s core g =
      fireRecs (afterFire { s with free := s.free + 1 } g.sid []) core l [restored s l r] false heavy := by
  have lanes : recLanes r = 32 := by rw [recLanes, if_neg (by rw [hk]; decide), hm]
  have taken : takeLanes 0 [r] = ([r], []) := by simp [takeLanes, lanes]
  have live : liveFail s l g r = none := by simp only [liveFail, hlive]
  refine ⟨decide (262144 < g.stagedLen), ?_⟩
  simp only [fireSaggar, hr, taken, ht, hl, hf, List.findSome?_cons, List.findSome?_nil, live, List.map_cons, List.map_nil,
    Bool.false_eq_true, if_false, failFired]

/-- A saggar whose records have all been fired is gone, and no byte changes (R338). -/
theorem afterFire_none (s : State) (sid : Nat) : (∀ h ∈ (afterFire s sid []).saggars, h.sid ≠ sid) ∧ BytesKept s (afterFire s sid []) :=
  ⟨fun _ hh => of_decide_eq_true (List.mem_filter.mp hh).2, fun _ _ => rfl, fun _ => rfl, fun _ => rfl⟩

/-- No gang waits for a saggar whose records are NORMAL. -/
theorem coldGang_of_normal {s : State} {g : Saggar} {r : Rec} (hr : saggarRecs s g = [r]) (hk : r.kind = .normal) : coldGang s g = none := by
  simp only [coldGang, hr, recGang, hk, reduceCtorEq, if_false]

theorem stagingHeld_of_not_held {s : State} {core : Nat} {g : Saggar} (h : held s core g = false) : stagingHeld g = false :=
  Bool.eq_false_of_not_eq_true fun staged => by
    simp only [held, staged, Bool.true_or] at h
    cases h

/-- A kiln fires the crew-free saggar of NORMAL records that it chooses (R337, R356). -/
theorem exec_kilnFire_chosen {s : State} {core : Nat} {g : Saggar} {d : SMap Nat} {r : Rec} (hv : victimFor s core = none)
    (hc : choose s core = (some g, d)) (hsid : ∀ h ∈ s.saggars, h.sid = g.sid → h = g) (hcrew : g.crew = none) (ht : g.trap = false)
    (hr : saggarRecs s g = [r]) (hk : r.kind = .normal) :
    exec (.kilnFire core) s = .next (fireSaggar { s with deficits := d } core g) := by
  obtain ⟨mem, -, free⟩ := mem_of_mem_candidates (choose_some hc).1
  have staged : stagingHeld g = false := stagingHeld_of_not_held free
  have found : s.saggars.find? (fun h => decide (h.sid = g.sid)) = some g := by
    obtain ⟨h, hh⟩ := Option.isSome_iff_exists.mp (List.find?_isSome.mpr ⟨g, mem, decide_eq_true rfl⟩ :
      (s.saggars.find? fun h => decide (h.sid = g.sid)).isSome = true)
    rw [hh, hsid h (List.mem_of_find?_eq_some hh) (by simpa using List.find?_some hh)]
  have placed : ∀ t, unbound t g = false := fun t => by simp only [unbound, hcrew, Option.isSome_none, Bool.and_false, Bool.false_and]
  have crew : ∀ t, sagCrew t g = none := fun t => by simp only [sagCrew, ht, hcrew]
  have cold : coldGang { s with deficits := d } g = none := coldGang_of_normal hr hk
  simp only [exec, execKilnFire, hv, hc, placed, found, staged, crew, cold, Bool.false_eq_true, if_false, Option.isSome_none, false_and,
    or_self]

/-- A kiln that chooses a crew-free saggar of one NORMAL record of a whole warp, whose live-map entry can be read, makes a warp of the record
as restored resident; the saggar is gone, and no byte changes (R61, R338, R339). -/
theorem exec_kilnFire_whole {s : State} {core : Nat} {g : Saggar} {d : SMap Nat} {r : Rec} {l : Launch} (hv : victimFor s core = none)
    (hc : choose s core = (some g, d)) (hsid : ∀ h ∈ s.saggars, h.sid = g.sid → h = g) (hcrew : g.crew = none) (ht : g.trap = false)
    (hf : g.fail = none) (hl : launchOf s g.launch = some l) (hr : saggarRecs s g = [r]) (hk : r.kind = .normal) (hrc : r.crew = none)
    (hm : laneCount r.mask = 32) (hlive : liveCheck s l r = .ok) :
    Answers (exec (.kilnFire core) s) fun t => (∃ w ∈ residents t, FiredWhole s.now core l (restored s l r) w) ∧
      (∀ h ∈ t.saggars, h.sid ≠ g.sid) ∧ BytesKept s t := by
  have run := exec_kilnFire_chosen hv hc hsid hcrew ht hr hk
  obtain ⟨heavy, fires⟩ := fireSaggar_whole (s := { s with deficits := d }) (core := core) ht hf hl hr hk hm
    ((liveCheck_deficits s d l r).trans hlive)
  rw [fires, restored_deficits] at run
  obtain ⟨regs, v, sr, p, eq⟩ := restored_eq s l r
  obtain ⟨fired, saggars, bytes⟩ := fireRecs_whole (r := restored s l r)
    (afterFire { s with deficits := d, free := s.free + 1 } g.sid []) core l heavy (by rw [eq]; exact hm) (by rw [eq]; exact hrc)
  obtain ⟨gone, kept⟩ := afterFire_none { s with deficits := d, free := s.free + 1 } g.sid
  exact ⟨_, run, fired, fun h hh => gone h (saggars ▸ hh), BytesKept.trans kept bytes⟩

end Sys2Proof.Machine
end

section
/-! PROOFS. Kilns. -/

namespace Sys2Proof.Proofs
open Sys2Proof Sys2Proof.Machine

/-- Nothing but the counters changes when a kiln chooses no saggar (R356, R361). -/
theorem exec_kilnFire_none {s : State} {core : Nat} {d : SMap Nat} (hc : choose s core = (none, d)) (hv : victimFor s core = none) :
    exec (.kilnFire core) s = .next { s with deficits := d } := by
  simp only [exec, execKilnFire, hv, hc]

/-- Settles O42, by what the choice keeps of the candidates, induction on the records taken, and a frame of the firing of a whole record. -/
theorem kilnFirings : Obligations.KilnFirings := by
  unfold Obligations.KilnFirings
  refine ⟨fun s core g d h => ?choice, fun rs => takeLanes_fits (Nat.zero_le 32) rs, fun s l r h => restored_of_noEntry h,
    fun s l r bs hn hb => (restored_regs s l r).trans (liveRegs_of_entry hn hb), fun s core d hc hv => exec_kilnFire_none hc hv, ?firing⟩
  case choice =>
    obtain ⟨mem, top⟩ := choose_some h
    obtain ⟨-, due, free⟩ := mem_of_mem_candidates mem
    exact ⟨mem, due, free, top⟩
  case firing =>
    intro s core g d r l hv hc hsid hcrew ht hf hl hr _ hk hrc hm hlive q hq
    obtain ⟨t, run, ⟨w, mem, fired⟩, gone, bytes⟩ := exec_kilnFire_whole hv hc hsid hcrew ht hf hl hr hk hrc hm hlive
    obtain ⟨regs, v, sr, p, eq⟩ := restored_eq s l r
    have same : restored s l r = q := rfl
    rw [same] at fired eq
    obtain ⟨lanes, preds⟩ := fired.lanes hq
    clear_value q
    subst eq
    exact ⟨t, run, ⟨w, mem, fired.core, fired.launch, fired.vi, fired.asid, fired.crew, fired.entries, fired.helpers, fired.exited, fired.sr,
      fired.frame, fired.nreg, fired.cls, fired.slots, fired.sb, fired.held, fired.priv, fired.nextAt, fired.firedAt, fired.kept, lanes, preds⟩,
      gone, bytes⟩

end Sys2Proof.Proofs
end

section
/-! SUPPORT. Operations that leave the memory, the host's memory and the scratchpads alone: the memories are in their form after exactly
when they were before (log 1). -/

namespace Sys2Proof.Machine

@[simp] theorem memForm_update {t : State} {agenda pick free fresh warp bench pkg domain gtc now hostWrites hostPages live placed weak
    bad llc misses wbufs l1 dir ctrls waitReqs resps puts keys streams digests hist histOwner asids peerAsids tlb ptrs walks ibuf invals
    pageReqs joinWaits tiles crews clusters launches launchCount recs saggars stageOps acpys deficits gangs latches accs accOwned
    mxQueue mxOps coneLimit epochAt conesUsed coneOver rack queues packets colls collOut rshds groups links vis reports fwReqs lease
    fwCores boot mirrors sent sentCrews stale peerDown unreach out : _} :
    MemForm (State.mk agenda pick free fresh warp bench pkg
    domain gtc now t.mem t.host hostWrites hostPages live placed weak bad llc misses wbufs l1 dir ctrls waitReqs resps puts keys streams
    digests hist histOwner asids peerAsids tlb ptrs walks ibuf invals pageReqs joinWaits tiles t.pad crews clusters launches launchCount
    recs saggars stageOps acpys deficits gangs latches accs accOwned mxQueue mxOps coneLimit epochAt conesUsed coneOver rack queues
    packets colls collOut rshds groups links vis reports fwReqs lease fwCores boot mirrors sent sentCrews stale peerDown unreach out) ↔
    MemForm t := Iff.rfl

@[simp] theorem memForm_ite {p : Prop} [Decidable p] {s t : State} : MemForm (if p then s else t) ↔ if p then MemForm s else MemForm t := by
  split <;> rfl

/-- A change that leaves the memories alone, repeated, leaves them alone. -/
theorem foldl_form_iff {β : Type} (f : State → β → State) (l : List β) (h : ∀ t b, MemForm (f t b) ↔ MemForm t) (s : State) :
    MemForm (l.foldl f s) ↔ MemForm s := by
  induction l generalizing s with
  | nil => exact Iff.rfl
  | cons b t ih => exact (ih (f s b)).trans (h s b)

section
variable (s : State)

/-! What changes no memory: memory. -/

@[simp] theorem dirWrite_form_iff (line keep) : MemForm (dirWrite s line keep) ↔ MemForm s := Iff.rfl

@[simp] theorem dirRead_form_iff (line) : MemForm (dirRead s line) ↔ MemForm s := Iff.rfl

@[simp] theorem dirLeave_form_iff (line) : MemForm (dirLeave s line) ↔ MemForm s := Iff.rfl

@[simp] theorem recallL1_form_iff (line) : MemForm (recallL1 s line) ↔ MemForm s := by
  simp only [recallL1, llcPut]
  (repeat' split) <;> simp

@[simp] theorem sendMisses_form_iff : MemForm (sendMisses s) ↔ MemForm s :=
  foldl_form_iff _ _ (fun t m => by dsimp only; split <;> simp [pushReq]) s

@[simp] theorem sendAll_form_iff : MemForm (sendAll s) ↔ MemForm s := by
  refine (foldl_form_iff _ _ (fun t q => ?_) _).trans
    ((sendMisses_form_iff _).trans (foldl_form_iff _ _ (fun t q => ?_) s)) <;>
  simp [pushReq]

@[simp] theorem openMiss_form_iff (swz line rep l1) : MemForm (openMiss s swz line rep l1) ↔ MemForm s := by
  rw [openMiss]
  split <;> simp

@[simp] theorem crossFabric_form_iff (plane) : MemForm (crossFabric s plane) ↔ MemForm s := by rw [crossFabric]; split <;> simp

@[simp] theorem ptrFill_form_iff (vi asid va) : MemForm (ptrFill s vi asid va) ↔ MemForm s := by
  rw [ptrFill]; dsimp only; split <;> rfl

@[simp] theorem tlbTouch_form_iff (vi asid va) : MemForm (tlbTouch s vi asid va) ↔ MemForm s := by
  simp only [tlbTouch]
  (repeat' split) <;> simp

@[simp] theorem touchVa_form_iff (vi asid va n) : MemForm (touchVa s vi asid va n) ↔ MemForm s := by
  rw [touchVa]
  split
  · rfl
  · exact foldl_form_iff _ _ (fun t j => by simp) s

@[simp] theorem setVi_form_iff (vi f) : MemForm (setVi s vi f) ↔ MemForm s := by simp [setVi]

@[simp] theorem report_form_iff (vi kind launch asid addr data) : MemForm (report s vi kind launch asid addr data) ↔ MemForm s := by
  simp [report]

@[simp] theorem markStale_form_iff (asid va b a) : MemForm (markStale s asid va b a) ↔ MemForm s := by simp [markStale]

@[simp] theorem staleAfter_form_iff (asid cov) : MemForm (staleAfter s asid cov) ↔ MemForm s := by simp [staleAfter]

@[simp] theorem setCtrl_form_iff (c f) : MemForm (setCtrl s c f) ↔ MemForm s := by simp [setCtrl]

@[simp] theorem countFix_form_iff (swz line) : MemForm (countFix s swz line) ↔ MemForm s := by simp [countFix]

@[simp] theorem requestPage_form_iff (vi asid va psz eng) : MemForm (requestPage s vi asid va psz eng) ↔ MemForm s := by simp [requestPage]

/-! What changes no memory: glaze arrays and streams. -/

@[simp] theorem setStream_form_iff (k f) : MemForm (setStream s k f) ↔ MemForm s := by simp [setStream]

@[simp] theorem histBeat_form_iff (ctrl k c out) : MemForm (histBeat s ctrl k c out) ↔ MemForm s := by
  refine foldl_form_iff _ _ (fun t b => ?_) s
  simp

@[simp] theorem digestLine_form_iff (ctrl k c words) : MemForm (digestLine s ctrl k c words) ↔ MemForm s := by simp [digestLine]

@[simp] theorem keepSides_form_iff (t) : MemForm (keepSides s t) ↔ MemForm t := Iff.rfl

/-! What changes no memory: warps and crews. -/

@[simp] theorem setWarp_form_iff (f) : MemForm (setWarp s f) ↔ MemForm s := by simp [setWarp]

@[simp] theorem setLaunch_form_iff (id f) : MemForm (setLaunch s id f) ↔ MemForm s := by simp [setLaunch]

@[simp] theorem setCrewAt_form_iff (launch crew f) : MemForm (setCrewAt s launch crew f) ↔ MemForm s := by simp [setCrewAt]

@[simp] theorem setCrew_form_iff (f) : MemForm (setCrew s f) ↔ MemForm s := by simp [setCrew]

@[simp] theorem writeDst_form_iff (act d n f) : MemForm (writeDst s act d n f) ↔ MemForm s := by
  simp only [writeDst]
  (repeat' split) <;> simp

@[simp] theorem passTime_form_iff (c) : MemForm (passTime s c) ↔ MemForm s := by simp [passTime]

@[simp] theorem advance_form_iff (c) : MemForm (advance s c) ↔ MemForm s := by simp [advance]

/-! What changes no memory: records, held puts and the ends of segments. -/

@[simp] theorem setTile_form_iff (core phys f) : MemForm (setTile s core phys f) ↔ MemForm s := by simp [setTile]

@[simp] theorem uncharge_form_iff (launch bytes) : MemForm (uncharge s launch bytes) ↔ MemForm s := by simp [uncharge]

@[simp] theorem setPlace_form_iff (rid p) : MemForm (setPlace s rid p) ↔ MemForm s := by simp [setPlace]

@[simp] theorem holdTile_form_iff (core phys flip off len) : MemForm (holdTile s core phys flip off len) ↔ MemForm s := by simp [holdTile]

@[simp] theorem startStage_form_iff (o) : MemForm (startStage s o).1 ↔ MemForm s := by
  rw [startStage]; (repeat' split) <;> simp

@[simp] theorem addStages_form_iff (os) : MemForm (addStages s os) ↔ MemForm s :=
  foldl_form_iff _ _ (fun t o => by simp) s

@[simp] theorem attachRegions_form_iff (sid rs) : MemForm (attachRegions s sid rs) ↔ MemForm s := by simp [attachRegions]

@[simp] theorem attachLlc_form_iff (g) : MemForm (attachLlc s g) ↔ MemForm s := by rw [attachLlc]; split <;> simp

@[simp] theorem attachTiles_form_iff (g) : MemForm (attachTiles s g) ↔ MemForm s := by
  simp only [attachTiles]
  (repeat' split) <;> simp

@[simp] theorem joinSaggarAt_form_iff (core r) : MemForm (joinSaggarAt s core r) ↔ MemForm s := by
  simp only [joinSaggarAt]
  (repeat' split) <;> simp

@[simp] theorem releaseRec_form_iff (rid) : MemForm (releaseRec s rid) ↔ MemForm s := by rw [releaseRec]; split <;> simp

@[simp] theorem pgrqApply_form_iff (r) : MemForm (pgrqApply s r) ↔ MemForm s := by simp [pgrqApply]

@[simp] theorem wakeRec_form_iff (r) : MemForm (wakeRec s r) ↔ MemForm s := by rw [wakeRec]; split <;> simp

@[simp] theorem wakeAll_form_iff (which) : MemForm (wakeAll s which) ↔ MemForm s := by
  refine foldl_form_iff _ _ (fun t b => ?_) s
  simp

@[simp] theorem clearAcc_form_iff (core acc) : MemForm (clearAcc s core acc) ↔ MemForm s := by simp [clearAcc]

@[simp] theorem sendRec_form_iff (r) : MemForm (sendRec s r) ↔ MemForm s := by rw [sendRec]; split <;> simp

@[simp] theorem wordEvent_form_iff (dpa) : MemForm (wordEvent s dpa) ↔ MemForm s := by simp [wordEvent]

@[simp] theorem charge_form_iff (launch bytes) : MemForm (charge s launch bytes) ↔ MemForm s := by simp [charge]

@[simp] theorem noReplay_form_iff : MemForm (noReplay s) ↔ MemForm s := by simp [noReplay]

@[simp] theorem exitThreads_form_iff (launch n) : MemForm (exitThreads s launch n) ↔ MemForm s := by simp [exitThreads]

@[simp] theorem setBar_form_iff (w cl b f) : MemForm (setBar s w cl b f) ↔ MemForm s := by rw [setBar]; split <;> simp

@[simp] theorem barOps_form_iff (w b g) : MemForm (barOps s w b g) ↔ MemForm s := by simp [barOps]

@[simp] theorem passOps_form_iff (w b g) : MemForm (passOps s w b g) ↔ MemForm s := by simp [passOps]

@[simp] theorem completeBar_form_iff (w cl b) : MemForm (completeBar s w cl b) ↔ MemForm s := by simp [completeBar]

@[simp] theorem completeBars_form_iff (w) : MemForm (completeBars s w) ↔ MemForm s := by
  refine foldl_form_iff _ _ (fun t b => ?_) s
  simp

@[simp] theorem handColl_form_iff (vi va asid user launch record var) :
    MemForm (handColl s vi va asid user launch record var) ↔ MemForm s := by
  simp [handColl]

@[simp] theorem returnCones_form_iff : MemForm (returnCones s) ↔ MemForm s := by
  refine foldl_form_iff _ _ (fun t b => ?_) s
  simp

@[simp] theorem launchEndIf_form_iff (id) : MemForm (launchEndIf s id) ↔ MemForm s := by rw [launchEndIf]; split <;> simp

@[simp] theorem holdWarp_form_iff (h) : MemForm (holdWarp s h) ↔ MemForm s := by simp [holdWarp]

@[simp] theorem mirrorRecs_form_iff (w first) : MemForm (mirrorRecs s w first) ↔ MemForm s := by rw [mirrorRecs]; split <;> simp

@[simp] theorem releaseTo_form_iff (dest rid) : MemForm (releaseTo dest s rid) ↔ MemForm s := by
  simp only [releaseTo]
  (repeat' split) <;> simp

@[simp] theorem suspend_form_iff (id) : MemForm (suspend s id) ↔ MemForm s := by simp [suspend]

@[simp] theorem trapPolicy_form_iff (vi launch asid addr tinfo) : MemForm (trapPolicy s vi launch asid addr tinfo) ↔ MemForm s := by
  simp only [trapPolicy]
  (repeat' split) <;> simp

@[simp] theorem focus_form_iff (uid) : MemForm (focus s uid) ↔ MemForm s := by
  simp only [focus]
  (repeat' split) <;> simp

@[simp] theorem landDues_form_iff : MemForm (landDues s) ↔ MemForm s := by simp [landDues]

@[simp] theorem recordDue_form_iff (i c act) (t : State) : MemForm (recordDue s i c act t) ↔ MemForm t := by simp [recordDue]

@[simp] theorem slotUp_form_iff (sl) : MemForm (slotUp s sl) ↔ MemForm s := by
  simp only [slotUp]
  (repeat' split) <;> simp

@[simp] theorem updWarp_form_iff (uid f) : MemForm (updWarp s uid f) ↔ MemForm s := by simp [updWarp]

@[simp] theorem slotDown_form_iff (uid sl) : MemForm (slotDown s uid sl) ↔ MemForm s := by
  simp only [slotDown]
  (repeat' split) <;> simp

/-! What changes no memory: accesses and walks. -/

@[simp] theorem touchLanes_form_iff (l) : MemForm (touchLanes s l) ↔ MemForm s := by
  refine foldl_form_iff _ _ (fun t b => ?_) s
  simp

@[simp] theorem startWalks_form_iff (vpns) : MemForm (startWalks s vpns) ↔ MemForm s := by
  refine foldl_form_iff _ _ (fun t b => ?_) s
  simp

@[simp] theorem askResponse_form_iff (x k line uid) : MemForm (askResponse s x k line uid) ↔ MemForm s := by simp [askResponse]

@[simp] theorem askLine_form_iff (x k line into pieces) : MemForm (askLine s x k line into pieces) ↔ MemForm s := by simp [askLine]

@[simp] theorem deferLine_form_iff (x k line pieces) : MemForm (deferLine s x k line pieces) ↔ MemForm s := by simp [deferLine]

@[simp] theorem askOnce_form_iff (x) : MemForm (askOnce s x) ↔ MemForm s := by simp [askOnce]

/-! What changes no memory: images. -/

@[simp] theorem admitLaunch_form_iff (l) : MemForm (admitLaunch s l) ↔ MemForm s := by simp [admitLaunch]

/-! What changes no memory: floating-point instructions. -/

@[simp] theorem writeZ_form_iff (act t d fs) : MemForm (writeZ s act t d fs) ↔ MemForm s := by
  refine foldl_form_iff _ _ (fun t b => ?_) s
  simp

/-! What changes no memory: loads, stores and atomics. -/

@[simp] theorem writeStatus_form_iff (act p m) : MemForm (writeStatus s act p m) ↔ MemForm s := by simp [writeStatus]

@[simp] theorem deferFetch_form_iff (d p n valueOf mine x) : MemForm (deferFetch d p n valueOf mine s x) ↔ MemForm s := by simp [deferFetch]

@[simp] theorem discardRegion_form_iff (r) : MemForm (discardRegion s r) ↔ MemForm s := by simp [discardRegion]

@[simp] theorem setBrec_form_iff (br x) : MemForm (setBrec s br x) ↔ MemForm s := by simp [setBrec]

/-! What changes no memory: the engines. -/

@[simp] theorem memReport_form_iff (vi launch asid line detail) : MemForm (memReport s vi launch asid line detail) ↔ MemForm s := by
  simp [memReport]

@[simp] theorem acpyErrs_form_iff (a) : MemForm (acpyErrs s a) ↔ MemForm s := by
  refine foldl_form_iff _ _ (fun t b => ?_) s
  (repeat' split) <;> simp

@[simp] theorem putStage_form_iff (k o) : MemForm (putStage s k o) ↔ MemForm s := by simp [putStage]

/-! What changes no memory: gangs. -/

@[simp] theorem dissolve_form_iff (g) : MemForm (dissolve s g) ↔ MemForm s := by simp [dissolve]

theorem releaseMembers_form_iff (l) {f : State → State} (hf : ∀ t, MemForm (f t) ↔ MemForm t) :
    MemForm (releaseMembers s l f) ↔ MemForm s := by
  refine (foldl_form_iff _ _ (fun t a => ?_) _).trans (by simp)
  (repeat' split) <;> simp [hf]

@[simp] theorem formGang_form_iff (x) : MemForm (formGang s x) ↔ MemForm s := by
  refine foldl_form_iff _ _ (fun t b => ?_) s
  simp

@[simp] theorem waitAll_form_iff (l ev) : MemForm (waitAll s l ev) ↔ MemForm s := by
  refine foldl_form_iff _ _ (fun t b => ?_) s
  simp

/-! What changes no memory: kilns. -/

@[simp] theorem seatWarp_form_iff (w) : MemForm (seatWarp s w) ↔ MemForm s := by simp [seatWarp]

@[simp] theorem freeCrew_form_iff (l key core) : MemForm (freeCrew s l key core) ↔ MemForm s := by simp [freeCrew]

@[simp] theorem fireRecs_form_iff (core l rs handler heavy) : MemForm (fireRecs s core l rs handler heavy) ↔ MemForm s := by
  have uncharged : ∀ t : State,
      MemForm (rs.foldl (fun t r => uncharge t r.launch (recSize (laneCount r.mask) r.regs.length)) t) ↔ MemForm t :=
    foldl_form_iff _ _ fun t r => by simp
  cases rs with
  | nil => rfl
  | cons r rs =>
    simp only [fireRecs]
    (repeat' split) <;> simp only [seatWarp_form_iff, freeCrew_form_iff, uncharged] <;> simp

@[simp] theorem afterFire_form_iff (sid kept) : MemForm (afterFire s sid kept) ↔ MemForm s := by simp [afterFire]

@[simp] theorem makeVictim_form_iff (k) : MemForm (makeVictim s k) ↔ MemForm s := by simp [makeVictim]

/-! What changes no memory: the matrix core. -/

@[simp] theorem applyStep_form_iff (x) : MemForm (applyStep s x) ↔ MemForm s := by simp [applyStep]

@[simp] theorem releaseFences_form_iff : MemForm (releaseFences s) ↔ MemForm s := by
  refine foldl_form_iff _ _ (fun t b => ?_) s
  (repeat' split) <;> simp

@[simp] theorem putElem_form_iff (core acc i x) : MemForm (putElem s core acc i x) ↔ MemForm s := by simp [putElem]

@[simp] theorem opEarly_form_iff (o) : MemForm (opEarly s o) ↔ MemForm s := by
  simp only [opEarly]
  split
  · simp
  · exact (foldl_form_iff _ _ (fun t i => by simp) _).trans (by simp)

@[simp] theorem stepEarly_form_iff (x) : MemForm (stepEarly s x) ↔ MemForm s :=
  (foldl_form_iff _ _ (fun t i => putElem_form_iff t ..) _).trans (by simp)

@[simp] theorem unorderedFirst_form_iff (core acc seq shape writes) : MemForm (unorderedFirst s core acc seq shape writes) ↔ MemForm s := by
  rw [unorderedFirst]
  dsimp only
  split
  · rfl
  · exact (foldl_form_iff _ _ (fun t x => by simp) _).trans (foldl_form_iff _ _ (fun t o => by simp) s)

@[simp] theorem queueStep_form_iff (g l x b nb) : MemForm (queueStep s g l x b nb) ↔ MemForm s := by
  simp only [queueStep, noReplay_form_iff, releaseMembers_form_iff _ _ noReplay_form_iff]
  exact (foldl_form_iff _ _ (fun t a => by simp) _).trans (by simp)

/-! What changes no memory: what ends and starts segments. -/

@[simp] theorem landPreds_form_iff (uid ps) : MemForm (landPreds s uid ps) ↔ MemForm s := by simp [landPreds]

@[simp] theorem tlbFill_form_iff (vi asid va) : MemForm (tlbFill s vi asid va) ↔ MemForm s := by rw [tlbFill]; split <;> simp

@[simp] theorem corrupt_form_iff : MemForm (corrupt s) ↔ MemForm s := by simp [corrupt]

@[simp] theorem withdraw_form_iff (hs) : MemForm (withdraw s hs) ↔ MemForm s := by
  refine foldl_form_iff _ _ (fun t b => ?_) s
  (repeat' split) <;> simp

@[simp] theorem restoreGangs_form_iff (c core) : MemForm (restoreGangs s c core) ↔ MemForm s := by
  refine foldl_form_iff _ _ (fun t a => ?_) s
  simp only [memForm_update]
  exact foldl_form_iff _ _ (fun u z => by simp) t

@[simp] theorem overVictims_form_iff (n gs iu) : MemForm (overVictims s n gs iu) ↔ MemForm s := by
  induction n generalizing s gs iu with
  | zero => rfl
  | succ n ih =>
    simp only [overVictims]
    (repeat' split) <;> simp [ih]

/-! What changes no memory: caches and controllers. -/

@[simp] theorem failFill_form_iff (line detail) : MemForm (failFill s line detail) ↔ MemForm s := by simp [failFill]

@[simp] theorem giveFill_form_iff (line data) : MemForm (giveFill s line data) ↔ MemForm s := by simp [giveFill]

@[simp] theorem answerOwn_form_iff (q data err) : MemForm (answerOwn s q data err) ↔ MemForm s := by simp [answerOwn]

/-! What changes no memory: the fabric. -/

@[simp] theorem setLink_form_iff (k f) : MemForm (setLink s k f) ↔ MemForm s := by simp [setLink]

@[simp] theorem ownLinkDown_form_iff (link l) : MemForm (ownLinkDown s link l) ↔ MemForm s := by rw [ownLinkDown]; split <;> simp

@[simp] theorem peerLinkDown_form_iff (p k) : MemForm (peerLinkDown s p k) ↔ MemForm s := by simp [peerLinkDown]

/-! What changes no memory: queues and packets. -/

@[simp] theorem setPkt_form_iff (pid f) : MemForm (setPkt s pid f) ↔ MemForm s := by simp [setPkt]

@[simp] theorem failPkt_form_iff (pid c) : MemForm (failPkt s pid c) ↔ MemForm s := by simp [failPkt]

@[simp] theorem donePkt_form_iff (pid) : MemForm (donePkt s pid) ↔ MemForm s := by simp [donePkt]

@[simp] theorem setQueue_form_iff (vi hva f) : MemForm (setQueue s vi hva f) ↔ MemForm s := by simp [setQueue]

@[simp] theorem dropBlock_form_iff (p c) : MemForm (dropBlock s p c) ↔ MemForm s := by rw [dropBlock]; split <;> simp

@[simp] theorem tellParent_form_iff (p) : MemForm (tellParent s p) ↔ MemForm s := by rw [tellParent]; split <;> simp

@[simp] theorem pktIrq_form_iff (p) : MemForm (pktIrq s p) ↔ MemForm s := by
  simp only [pktIrq]
  (repeat' split) <;> simp

@[simp] theorem raiseSeq_form_iff (p) : MemForm (raiseSeq s p) ↔ MemForm s := by simp [raiseSeq]

@[simp] theorem collReport_form_iff (p c) : MemForm (collReport s p c) ↔ MemForm s := by simp [collReport]

/-! What changes no memory: the copy engine. -/

@[simp] theorem clearDigests_form_iff (k) : MemForm (clearDigests s k) ↔ MemForm s := by simp [clearDigests]

@[simp] theorem clearSides_form_iff (k) : MemForm (clearSides s k) ↔ MemForm s := by simp [clearSides]

@[simp] theorem releaseHist_form_iff (k) : MemForm (releaseHist s k) ↔ MemForm s := by simp [releaseHist]

@[simp] theorem installCfg_form_iff (k vi c) : MemForm (installCfg s k vi c) ↔ MemForm s := by simp [installCfg]

/-! What changes no memory: collectives. -/

@[simp] theorem setColl_form_iff (cid f) : MemForm (setColl s cid f) ↔ MemForm s := by simp [setColl]

@[simp] theorem dropColl_form_iff (cid) : MemForm (dropColl s cid) ↔ MemForm s := by simp [dropColl]

@[simp] theorem tellColl_form_iff (p plist note) : MemForm (tellColl s p plist note) ↔ MemForm s := by simp [tellColl]

@[simp] theorem failMove_form_iff (c st) : MemForm (failMove s c st) ↔ MemForm s := by simp [failMove]

@[simp] theorem openColl_form_iff (p sig split) : MemForm (openColl s p sig split) ↔ MemForm s := by simp [openColl]

/-! What changes no memory: control instructions. -/

@[simp] theorem writeReturn_form_iff (act d) : MemForm (writeReturn s act d) ↔ MemForm s := by simp [writeReturn]

@[simp] theorem exitLanes_form_iff (part) : MemForm (exitLanes s part) ↔ MemForm s := by simp [exitLanes]

/-! What changes no memory: resharding. -/

@[simp] theorem setRshd_form_iff (pid f) : MemForm (setRshd s pid f) ↔ MemForm s := by simp [setRshd]

/-! What changes no memory: the host's registers. -/

@[simp] theorem qdoneReport_form_iff (vi req result hva) : MemForm (qdoneReport s vi req result hva) ↔ MemForm s := by simp [qdoneReport]

@[simp] theorem dropQueue_form_iff (vi hva) : MemForm (dropQueue s vi hva) ↔ MemForm s := by simp [dropQueue]

@[simp] theorem dropUnstarted_form_iff (q) : MemForm (dropUnstarted s q) ↔ MemForm s := by
  simp only [dropUnstarted]
  exact foldl_form_iff _ _ (fun t b => by simp) _

@[simp] theorem finishUnreg_form_iff (q) : MemForm (finishUnreg s q) ↔ MemForm s := by simp [finishUnreg]

@[simp] theorem takeInval_form_iff (vi req) : MemForm (takeInval s vi req) ↔ MemForm s := by simp [takeInval]

@[simp] theorem hostFault_form_iff (vi off chk) : MemForm (hostFault s vi off chk) ↔ MemForm s := by simp [hostFault]

@[simp] theorem unsupported_form_iff (vi) : MemForm (unsupported s vi) ↔ MemForm s := by simp [unsupported]

@[simp] theorem hostLost_form_iff (vi asid dpa cause) : MemForm (hostLost s vi asid dpa cause) ↔ MemForm s := by simp [hostLost]

/-! What changes no memory: firmware. -/

@[simp] theorem finishReq_form_iff (vi seq status) : MemForm (finishReq s vi seq status) ↔ MemForm s := by simp [finishReq]

@[simp] theorem beginReq_form_iff (vi seq) : MemForm (beginReq s vi seq) ↔ MemForm s := by simp [beginReq]

@[simp] theorem grantTo_form_iff (target asids keys) : MemForm (grantTo s target asids keys) ↔ MemForm s :=
  foldl_form_iff _ _ (fun t _ => setVi_form_iff t ..) s

@[simp] theorem unbindStream_form_iff (k) : MemForm (unbindStream s k) ↔ MemForm s := by rw [unbindStream]; split <;> simp

@[simp] theorem retireLaunch_form_iff (id) : MemForm (retireLaunch s id) ↔ MemForm s := by
  simp only [retireLaunch]
  (repeat' split) <;> simp

@[simp] theorem retest_form_iff (which) : MemForm (retest s which) ↔ MemForm s := by simp [retest]

@[simp] theorem setFw_form_iff (k f) : MemForm (setFw s k f) ↔ MemForm s := by simp [setFw]

/-! What changes no memory: fetch. -/

@[simp] theorem evictCode_form_iff (which) : MemForm (evictCode s which) ↔ MemForm s := by rw [evictCode]; split <;> simp

@[simp] theorem codeRoom_form_iff (core) : MemForm (codeRoom s core) ↔ MemForm s := by simp [codeRoom]

@[simp] theorem takePick_form_iff : MemForm (takePick s) ↔ MemForm s := by
  simp only [takePick]
  (repeat' split) <;> simp

@[simp] theorem passCycle_form_iff : MemForm (passCycle s) ↔ MemForm s := by simp [passCycle]

end

end Sys2Proof.Machine
end

section
/-! SUPPORT. Operations that write memory, step by step up from a line to a packet's or an instruction's whole effect: each keeps the
memories in their form (log 1). -/

namespace Sys2Proof.Machine

section
variable {s : State}
/-! The operations of the layer of memory, as rules for `simp`. -/

@[simp] theorem landHost_keepsForm (h : MemForm s) : MemForm (landHost s) := landHost_form s h
@[simp] theorem writeLoc_keepsForm {ord swz l bytes} (h : MemForm s) : MemForm (writeLoc s ord swz l bytes) := writeLoc_form _ _ _ _ _ h
@[simp] theorem writeX_keepsForm {x asid va i bytes} (h : MemForm s) : MemForm (writeX s x asid va i bytes) := writeX_form _ _ _ _ _ _ h
@[simp] theorem postPageReqs_keepsForm {vi} (h : MemForm s) : MemForm (postPageReqs s vi) := postPageReqs_form _ _ h
@[simp] theorem askPage_keepsForm {vi asid va psz eng} (h : MemForm s) : MemForm (askPage s vi asid va psz eng) := askPage_form _ _ _ _ _ _ h
@[simp] theorem padWrite_keepsForm {core phys off bytes} (h : MemForm s) : MemForm (padWrite s core phys off bytes) :=
  padWrite_form _ _ _ _ _ h

@[simp] theorem writeVa_getD_form {t : State} {sp va bytes} (h : MemForm s) (ht : MemForm t) : MemForm ((writeVa s sp va bytes).getD t) := by
  cases hw : writeVa s sp va bytes with
  | none => exact ht
  | some u => exact writeVa_form s u sp va bytes h hw
end

theorem foldl_pair_form {α β : Type} {f : State × α → β → State × α} {l : List β} {a : State × α}
    (hf : ∀ p b, MemForm p.1 → MemForm (f p b).1) (h : MemForm a.1) : MemForm (l.foldl f a).1 :=
  foldl_holds (fun p : State × α => MemForm p.1) f l hf a h

/-- The state that an instruction's own part reaches has its memories in their form. -/
def StepForm : Step → Prop
  | .done s | .moved s | .walk s | .wait _ _ s | .trapIn _ _ s | .ends _ s | .hold s => MemForm s
  | .trap .. | .trapAt .. => True

section
variable {s : State}
@[simp] theorem stepForm_done : StepForm (.done s) ↔ MemForm s := Iff.rfl
@[simp] theorem stepForm_moved : StepForm (.moved s) ↔ MemForm s := Iff.rfl
@[simp] theorem stepForm_walk : StepForm (.walk s) ↔ MemForm s := Iff.rfl
@[simp] theorem stepForm_wait {ev r} : StepForm (.wait ev r s) ↔ MemForm s := Iff.rfl
@[simp] theorem stepForm_trapIn {code detail} : StepForm (.trapIn code detail s) ↔ MemForm s := Iff.rfl
@[simp] theorem stepForm_ends {e} : StepForm (.ends e s) ↔ MemForm s := Iff.rfl
@[simp] theorem stepForm_hold : StepForm (.hold s) ↔ MemForm s := Iff.rfl
@[simp] theorem stepForm_trap {code detail lane} : StepForm (.trap code detail lane) := trivial
@[simp] theorem stepForm_trapAt {code detail ip} : StepForm (.trapAt code detail ip) := trivial
@[simp] theorem stepForm_ite {p : Prop} [Decidable p] {x y : Step} :
    StepForm (if p then x else y) ↔ if p then StepForm x else StepForm y := by split <;> rfl
end

/-- An outcome's next state has its memories in their form. -/
def OutForm (o : Host.Outcome State Fault Refusal) : Prop := ∀ t, o = .next t → MemForm t

@[simp] theorem outForm_next {t : State} : OutForm (.next t) ↔ MemForm t := by simp [OutForm]
@[simp] theorem outForm_ite {p : Prop} [Decidable p] {x y : Host.Outcome State Fault Refusal} :
    OutForm (if p then x else y) ↔ if p then OutForm x else OutForm y := by split <;> rfl

/-- The state in which a warp has arrived at a latch has its memories in their form. -/
def ArrivedForm : Arrived → Prop
  | .broken s | .waits s | .full s _ => MemForm s

@[simp] theorem arrivedForm_broken {s : State} : ArrivedForm (.broken s) ↔ MemForm s := Iff.rfl
@[simp] theorem arrivedForm_waits {s : State} : ArrivedForm (.waits s) ↔ MemForm s := Iff.rfl
@[simp] theorem arrivedForm_full {s : State} {l} : ArrivedForm (.full s l) ↔ MemForm s := Iff.rfl

/-- The state in which a completion word is raised, or waits, has its memories in their form. -/
def RaiseForm : Raise → Prop
  | .done s | .wait s => MemForm s
  | .status _ => True

@[simp] theorem raiseForm_done {s : State} : RaiseForm (.done s) ↔ MemForm s := Iff.rfl
@[simp] theorem raiseForm_wait {s : State} : RaiseForm (.wait s) ↔ MemForm s := Iff.rfl
@[simp] theorem raiseForm_status {c} : RaiseForm (.status c) := trivial

/-- The state that a firmware service reaches has its memories in their form. -/
def SvcForm : Svc → Prop
  | .fin _ s | .wait s => MemForm s

@[simp] theorem svcForm_fin {c} {s : State} : SvcForm (.fin c s) ↔ MemForm s := Iff.rfl
@[simp] theorem svcForm_wait {s : State} : SvcForm (.wait s) ↔ MemForm s := Iff.rfl
@[simp] theorem svcForm_ite {p : Prop} [Decidable p] {x y : Svc} :
    SvcForm (if p then x else y) ↔ if p then SvcForm x else SvcForm y := by split <;> rfl

/-- The state that an operation reaches has its memories in their form, whether it has succeeded or not. -/
def ExceptForm : Except State State → Prop
  | .error s | .ok s => MemForm s

@[simp] theorem exceptForm_error {s : State} : ExceptForm (.error s) ↔ MemForm s := Iff.rfl
@[simp] theorem exceptForm_ok {s : State} : ExceptForm (.ok s) ↔ MemForm s := Iff.rfl

section
variable {s : State}

/-! The form is kept: memory. -/

@[simp] theorem dramWrite_form {swz line mask data} (h : MemForm s) : MemForm (dramWrite s swz line mask data) := (dramWrite_home ..).keeps h

@[simp] theorem evictLine_form {line} (h : MemForm s) : MemForm (evictLine s line) := (evictLine_home ..).keeps h

@[simp] theorem llcInstall_form {swz line data dirty} (h : MemForm s) : MemForm (llcInstall s swz line data dirty) := (llcInstall_home ..).keeps h

@[simp] theorem l1Put_form {core swz line data} (h : MemForm s) : MemForm (l1Put s core swz line data) := (l1Put_home ..).keeps h

@[simp] theorem fillMiss_form {m fill} (h : MemForm s) : MemForm (fillMiss s m fill) := (fillMiss_home ..).keeps h

@[simp] theorem acceptLine_form {swz line data} (h : MemForm s) : MemForm (acceptLine s swz line data) := (acceptLine_home ..).keeps h

@[simp] theorem homeStore_form {swz line mask data} (h : MemForm s) : MemForm (homeStore s swz line mask data) := (homeStore_home ..).keeps h

@[simp] theorem passHome_form {line} (h : MemForm s) : MemForm (passHome s line) := (passHome_home ..).keeps h

@[simp] theorem dramPast_form {swz line mask data} (h : MemForm s) : MemForm (dramPast s swz line mask data) := (dramPast_home ..).keeps h

@[simp] theorem farPut_form {swz line mask data} (h : MemForm s) : MemForm (farPut s swz line mask data) := (farPut_home ..).keeps h

@[simp] theorem farStore_form {swz line mask data} (h : MemForm s) : MemForm (farStore s swz line mask data) := (farStore_home ..).keeps h

@[simp] theorem storeLine_form {core ord swz line mask data} (h : MemForm s) : MemForm (storeLine s core ord swz line mask data) :=
  (storeLine_home ..).keeps h

@[simp] theorem writeDpa_form {ord swz dpa bytes} (h : MemForm s) : MemForm (writeDpa s ord swz dpa bytes) := (writeDpa_home ..).keeps h

@[simp] theorem writeFar_form {swz dpa bytes} (h : MemForm s) : MemForm (writeFar s swz dpa bytes) := (writeFar_home ..).keeps h

@[simp] theorem writeBuddy_form {x swz asid va a bytes} (h : MemForm s) : MemForm (writeBuddy s x swz asid va a bytes) := by
  simp only [writeBuddy]
  (repeat' split) <;> simp [h]

@[simp] theorem atomWrite_form {x asid va i bytes} (h : MemForm s) : MemForm (atomWrite s x asid va i bytes) := by
  rw [atomWrite]
  split <;> simp [h]

/-! The form is kept: glaze arrays and streams. -/

@[simp] theorem glazeLine_form_iff {ctrl k inp old} : MemForm (glazeLine s ctrl k inp old).1 ↔ MemForm s := by
  rw [glazeLine]
  split
  · rfl
  · dsimp only
    split <;> simp

@[simp] theorem glazeAt_form_iff {swz k line inp old} : MemForm (glazeAt s swz k line inp old).1 ↔ MemForm s := by
  simp [glazeAt]

@[simp] theorem streamRead_form {keep rep swz key k line} (h : MemForm s) : MemForm (streamRead s keep rep swz key k line).1 := by
  simp [streamRead, h]

@[simp] theorem streamWrite_form {ord rep swz key k line mask data} (h : MemForm s) :
    MemForm (streamWrite s ord rep swz key k line mask data) := by
  simp only [streamWrite]
  split
  · exact storeLine_form h
  · (repeat' split) <;> simp [h]

@[simp] theorem lineThrough_form {ord rep swz key k line mask data} (h :
    MemForm s) : MemForm (lineThrough s ord rep swz key k line mask data) := by
  simp only [lineThrough]
  (repeat' split) <;> simp [h]

@[simp] theorem readThrough_form {keep rep swz key k dpa n} (h : MemForm s) : MemForm (readThrough s keep rep swz key k dpa n).1 := by
  rw [readThrough]
  split
  · exact h
  · exact foldl_pair_form (fun a j ha => streamRead_form ha) h

/-! The form is kept: records, held puts and the ends of segments. -/

@[simp] theorem moveTiles_form {c0 src c1 dst left} (h : MemForm s) : MemForm (moveTiles s c0 src c1 dst left) :=
  memForm_update.2 (foldl_holds MemForm _ _ (fun t i ht => by simp [ht]) s h)

@[simp] theorem saveCrew_form {c} (h : MemForm s) : MemForm (saveCrew s c) := by
  simp only [saveCrew, setCrewAt_form_iff, memForm_update]
  refine moveTiles_form ?_
  refine foldl_holds MemForm _ _ (fun t g ht => ?_) _ (memForm_update.2 h)
  exact foldl_holds MemForm _ _ (fun u a hu => (clearAcc_form_iff ..).2 hu) t ht

@[simp] theorem dropImage_form {c} (h : MemForm s) : MemForm (dropImage s c) :=
  foldl_holds MemForm _ _ (fun _ _ ht => (setTile_form_iff ..).2 (padWrite_keepsForm ht)) s h

@[simp] theorem sendCrew_form {c pkg} (h : MemForm s) : MemForm (sendCrew s c pkg) := memForm_update.2 (dropImage_form h)

@[simp] theorem saveCrews_form (h : MemForm s) : MemForm (saveCrews s) := by
  refine foldl_holds MemForm _ _ (fun t c ht => ?_) s h
  dsimp only
  (repeat' split) <;> simp [ht]

theorem putPackets_form {p l n} (h : MemForm s) : MemForm (putPackets p l n s).1 := by
  induction l generalizing n s with
  | nil => exact h
  | cons pk rest ih =>
    rw [putPackets]
    dsimp only
    split
    · exact ih (writeX_keepsForm h)
    · exact h

@[simp] theorem runPuts_form (h : MemForm s) : MemForm (runPuts s) :=
  foldl_holds MemForm _ _ (fun t p ht => by simp [putPackets_form ht]) s h

@[simp] theorem claimPut_form {p} (h : MemForm s) : MemForm (claimPut s p) := by simp [claimPut, h]

@[simp] theorem settle_form (h : MemForm s) : MemForm (settle s) := by
  rw [settle]
  simp only [wakeAll_form_iff]
  exact foldl_holds MemForm _ _ (fun t r ht => by simpa using ht) _ (by simp [h])

@[simp] theorem storeRec_form {r} (h : MemForm s) : MemForm (storeRec s r) := by
  rw [storeRec]
  split <;> simp [h]

@[simp] theorem addRec_form {r} (h : MemForm s) : MemForm (addRec s r) := by simp [addRec, h]

theorem addRecs_form {l : List Rec} (h : MemForm s) : MemForm (l.foldl addRec s) :=
  foldl_holds MemForm _ _ (fun _ _ ht => addRec_form ht) s h

@[simp] theorem performReq_form {core r} (h : MemForm s) : MemForm (performReq s core r) := by
  have buddy : ∀ {t : State} {line : Nat}, MemForm t → MemForm (match r.ent.rep with
      | none => t
      | some b => if b ∈ t.unreach then markStale t r.ent.asid r.ent.va b (line * 128)
        else farStore t r.ent.swz (buddyLine b line) r.mask r.data) := fun ht => by
    split <;> simp [ht]
  rw [performReq]
  dsimp only
  split
  · split
    · exact buddy (storeLine_form h)
    · split <;> simp [h]
  · refine foldl_holds MemForm _ _ (fun t p ht => buddy ?_) _ (by simp [h])
    (repeat' split) <;> simp [ht]

@[simp] theorem performStores_form {core es} (h : MemForm s) : MemForm (performStores s core es) :=
  foldl_holds MemForm _ _ (fun _ _ ht => performReq_form ht) _
    (foldl_holds MemForm _ _ (fun t e ht => by split <;> simp [ht]) s h)

@[simp] theorem drain_form (h : MemForm s) : MemForm (drain s) := by simp [drain, h]

@[simp] theorem drainRel_form (h : MemForm s) : MemForm (drainRel s) := by simp [drainRel, h]

@[simp] theorem joinUpdate_form {vi asid launch va amount rids} (h : MemForm s) :
    MemForm (joinUpdate s vi asid launch va amount rids) := by
  have release : ∀ {t : State}, MemForm t → MemForm (rids.foldl releaseRec t) := fun ht =>
    foldl_holds MemForm _ _ (fun u r hu => by simp [hu]) _ ht
  simp only [joinUpdate]
  (repeat' split) <;> simp [h, release]

@[simp] theorem trapReturn_form {vi va kill} (h : MemForm s) : MemForm (trapReturn s vi va kill) := by
  rw [trapReturn]
  split
  · simpa using h
  · dsimp only
    split
    · split
      · simp [h]
      · exact foldl_holds MemForm _ _ (fun t b ht => joinUpdate_form ht) _ (by simp [h])
    · simp [h]

@[simp] theorem applyHeld_form {vi launch x} (h : MemForm s) : MemForm (applyHeld s vi launch x) := by
  cases x with
  | spawn uid join rids =>
    rw [applyHeld]
    split
    · exact foldl_holds MemForm _ _ (fun t r ht => by simpa using ht) s h
    · exact joinUpdate_form h
  | _ => simp [applyHeld, h]

@[simp] theorem startPuts_form (h : MemForm s) : MemForm (startPuts s) := by
  rw [startPuts]
  dsimp only
  split
  · exact runPuts_form h
  · exact foldl_holds MemForm _ _ (fun t x ht => applyHeld_form ht) _ (by simp [h])

@[simp] theorem freeCrewTiles_form {c} (h : MemForm s) : MemForm (freeCrewTiles s c) := by
  rw [freeCrewTiles]
  split
  · exact dropImage_form h
  · exact foldl_holds MemForm _ _ (fun t p ht => by simp [ht]) s h

@[simp] theorem crewEndIf_form {launch crew} (h : MemForm s) : MemForm (crewEndIf s launch crew) := by
  rw [crewEndIf]
  split <;> simp [h]

@[simp] theorem stayHeld_form {e s0} (h0 : MemForm s0) : MemForm (stayHeld s s0 e) := by
  simp [stayHeld, h0]

@[simp] theorem endSegment_form {e} (h : MemForm s) : MemForm (endSegment s e) := by
  have released : ∀ (t : State) (l : List Nat), MemForm (l.foldl (releaseTo e.dest) t) ↔ MemForm t := fun t l =>
    foldl_form_iff _ _ (fun u r => releaseTo_form_iff ..) t
  rw [endSegment]
  dsimp only
  split
  · exact stayHeld_form h
  · refine settle_form ((launchEndIf_form_iff ..).2 ?_)
    have left : ∀ {t : State} {p : Prop} [Decidable p] {k : Crew → Bool} {l c : Nat}, MemForm t →
        MemForm (if p then { t with crews := t.crews.filter k } else crewEndIf t l c) := fun ht => by simp [ht]
    refine left ?_
    simp only [returnCones_form_iff, released, memForm_update, mirrorRecs_form_iff]
    refine addRecs_form (foldl_holds MemForm _ _ (fun t x ht => applyHeld_form ht) _ ?_)
    simp [h]

@[simp] theorem takeTrap_form {code detail lane ip} (h : MemForm s) : MemForm (takeTrap s code detail lane ip) := by
  simp [takeTrap, h]

@[simp] theorem trapOther_form {uid code detail} (h : MemForm s) : MemForm (trapOther s uid code detail) := by
  simp [trapOther, h]

@[simp] theorem breakLatch_form {l detail} (h : MemForm s) : MemForm (breakLatch s l detail) := by
  refine foldl_holds MemForm _ _ (fun t b ht => ?_) _ h
  simp [ht]

@[simp] theorem breakFor_form {i} (h : MemForm s) : MemForm (breakFor s i) := by
  simp only [breakFor]
  (repeat' split) <;> simp [h]

@[simp] theorem startWait_form {tag ev resume} (h : MemForm s) : MemForm (startWait s tag ev resume) := by
  rw [startWait]
  split <;> simp [h]

theorem finish_form {i c act x} (h : MemForm s) (hx : StepForm x) : MemForm (finish s i c act x) := by
  cases x <;> simp [finish, h] <;> simp_all

/-- An instruction is issued: it ends the segment, traps, waits, moves on, or is followed by what its own part has reached (R39 to R49). -/
theorem issueWith_form {always i c} {run : State → Mask → Step} (hr : ∀ t m, MemForm t → StepForm (run t m)) (h : MemForm s) :
    OutForm (issueWith always i c run s) := by
  have hl : MemForm (landDues (setWarp s fun w => makeSlot s.now (coverSlots w c) c)) := by simpa using h
  have ran : ∀ m, MemForm (finish _ i c m (run _ m)) := fun m => finish_form hl (hr _ m hl)
  simp only [issueWith]
  (repeat' split) <;> simp [h, hl, ran]

theorem issue_form {i c} {run : State → Mask → Step} (h : MemForm s) (hr : ∀ t m, MemForm t → StepForm (run t m)) :
    OutForm (issue i c run s) := issueWith_form hr h

/-! The form is kept: accesses and walks. -/

theorem withWalks_form {vas x} (h : MemForm s) (hx : StepForm x) : StepForm (withWalks s vas x) := by
  rw [withWalks]
  split
  · exact hx
  · simpa using h

@[simp] theorem l1Fill_form {core swz line} (h : MemForm s) : MemForm (l1Fill s core swz line) := by
  rw [l1Fill]
  (repeat' split) <;> simp [h]

@[simp] theorem bufferStores_form {es} (h : MemForm s) : MemForm (bufferStores s es) := by
  rw [bufferStores]
  split <;> simp [h]

@[simp] theorem doStores_form {es} (h : MemForm s) : MemForm (doStores s es) := by
  have hd := drain_form h
  rw [doStores]
  dsimp only
  split <;> simp [h, hd]

@[simp] theorem waitPage_form {va psz} (h : MemForm s) : StepForm (waitPage s va psz) := by simp [waitPage, h]

theorem recLoad_form {va n al w} {f : State → List Byte → Step} (hf : ∀ t bs, MemForm t → StepForm (f t bs)) (h : MemForm s) :
    StepForm (recLoad s va n al w f) := by
  have drained : ∀ {p : Prop} [Decidable p] {t : State}, MemForm t → MemForm (if p then drain t else t) := fun ht => by simp [ht]
  rw [recLoad]
  dsimp only
  split
  · trivial
  · refine withWalks_form h ?_
    split
    · trivial
    · simp [h]
    · exact hf _ _ h
    · split
      · exact hf _ _ (drained (by simpa using h))
      · exact foldl_holds MemForm _ _ (fun t x ht => (askOnce_form_iff ..).2 ht) _ (drained (by simpa using h))

/-! The form is kept: images. -/

@[simp] theorem execLrecLd_form {c lr a} (h : MemForm s) : OutForm (execLrecLd c lr a s) :=
  issue_form h fun t m ht => recLoad_form (fun u bs hu => by dsimp only; split <;> simp [hu]) ht

/-! The form is kept: integer instructions. -/

theorem laneOp_form {i c d n f} (h : MemForm s) : OutForm (laneOp i c d n f s) := issue_form h fun t m ht => by simpa using ht

theorem intOp2_form {i c t d a b f} (h : MemForm s) : OutForm (intOp2 i c t d a b f s) := laneOp_form h

@[simp] theorem execAddc_form {c t sub cp d a b ci} (h : MemForm s) : OutForm (execAddc c t sub cp d a b ci s) :=
  issue_form h fun t m ht => by simp [ht]

theorem logicOp_form {i c t notb d a b f} (h : MemForm s) : OutForm (logicOp i c t notb d a b f s) := laneOp_form h

/-! The form is kept: floating-point instructions. -/

theorem fsumOp_form {i c t rm d ts} (h : MemForm s) : OutForm (fsumOp i c t rm d ts s) := laneOp_form h

theorem zOp_form {i c t rm d ts n} (h : MemForm s) : OutForm (zOp i c t rm d ts n s) := issue_form h fun t m ht => by simpa using ht

@[simp] theorem execTwid_form {c t rm d a b} (h : MemForm s) : OutForm (execTwid c t rm d a b s) :=
  issue_form h fun t m ht => by simp [ht]

@[simp] theorem execCvtBlk_form {c t src rm d a rb} (h : MemForm s) : OutForm (execCvtBlk c t src rm d a rb s) :=
  issue_form h fun t m ht => by simp [ht]

/-! The form is kept: lane instructions. -/

@[simp] theorem execShfl_form {c t q g d a b p} (h : MemForm s) : OutForm (execShfl c t q g d a b p s) :=
  issue_form h fun t m ht => by simp [ht]

/-! The form is kept: loads, stores and atomics. -/

@[simp] theorem loadBody_form {t cnt disp d br b p act} (h : MemForm s) : StepForm (loadBody t cnt disp d br b p s act) := by
  rw [loadBody]
  dsimp only
  split
  · trivial
  · refine withWalks_form h ?_
    split
    · trivial
    · simp only [stepForm_done, writeStatus_form_iff]
      refine foldl_holds MemForm _ _ (fun t x ht => (deferLine_form_iff ..).2 ht) _ ?_
      refine foldl_holds MemForm _ _ (fun t x ht => l1Fill_form ht) _ ?_
      refine foldl_holds MemForm _ _ (fun t e ht => by split <;> simpa using ht) _ ?_
      simp [h]

@[simp] theorem execLd_form {c t n disp d br b p} (h : MemForm s) : OutForm (execLd c t n disp d br b p s) :=
  issue_form h fun t m ht => by simp [ht]

@[simp] theorem storeBody_form {t cnt disp d b p rec_ group act} (h : MemForm s) :
    StepForm (storeBody t cnt disp d b p rec_ group s act) := by
  rw [storeBody]
  refine withWalks_form h ?_
  dsimp only
  split <;> simp [h]

@[simp] theorem execSt_form {c t n disp d br b p} (h : MemForm s) : OutForm (execSt c t n disp d br b p s) := by
  refine issue_form h fun u m hu => ?_
  split
  · trivial
  · exact storeBody_form hu

@[simp] theorem execMcst_form {c w64 grp d br b p} (h : MemForm s) : OutForm (execMcst c w64 grp d br b p s) := by
  refine issue_form h fun u m hu => ?_
  split
  · trivial
  · split
    · trivial
    · exact storeBody_form hu

@[simp] theorem drainWord_form {l n} (h : MemForm s) : MemForm (drainWord s l n) := by simp [drainWord, h]

@[simp] theorem atomWord_form {x va n f} (h : MemForm s) : MemForm (atomWord s x va n f).1 := by simp [atomWord, h]

@[simp] theorem atomLanes_form {l n f} (h : MemForm s) : MemForm (atomLanes s l n f).1 :=
  foldl_pair_form (fun a e ha => by split <;> simp [ha]) h

theorem atomBody_form {t rel dst b p rec_ f act} {after : State → List (Nat × LaneAcc) → State}
    (ha : ∀ t l, MemForm t → MemForm (after t l)) (h : MemForm s) : StepForm (atomBody t rel dst b p rec_ f after s act) := by
  have drained : ∀ {t : State} {p q : Prop} [Decidable p] [Decidable q], MemForm t →
      MemForm (if p then drain t else if q then drainRel t else t) := fun ht => by simp [ht]
  have run : ∀ {t : State} {p : Prop} [Decidable p], MemForm t → MemForm (if p then noReplay t else t) := fun ht => by simp [ht]
  rw [atomBody]
  split
  · trivial
  · refine withWalks_form h ?_
    dsimp only
    split
    · trivial
    · simp only [stepForm_done, writeStatus_form_iff]
      refine ha _ _ ?_
      split
      · exact run (atomLanes_form (drained (by simpa using h)))
      · refine foldl_holds MemForm _ _ (fun t x ht => (deferFetch_form_iff ..).2 ht) _ ((writeDst_form_iff ..).2 ?_)
        exact run (atomLanes_form (drained (by simpa using h)))

@[simp] theorem execAtom_form {c t op rm o sc d br b p} (h : MemForm s) : OutForm (execAtom c t op rm o sc d br b p s) :=
  issue_form h fun _ _ hu => atomBody_form (fun _ _ ht => ht) hu

@[simp] theorem execWake_form {c w64 sc d br b p} (h : MemForm s) : OutForm (execWake c w64 sc d br b p s) :=
  issue_form h fun _ _ hu => atomBody_form (fun _ _ ht => (foldl_form_iff _ _ (fun _ _ => wordEvent_form_iff ..) _).2 ht) hu

@[simp] theorem execPref_form {c llc br b} (h : MemForm s) : OutForm (execPref c llc br b s) := by
  refine issue_form h fun u m hu => ?_
  dsimp only
  split
  · exact hu
  · refine foldl_holds MemForm _ _ (fun t x ht => ?_) _ ((touchLanes_form_iff ..).2 hu)
    (repeat' split) <;> simp [ht]

@[simp] theorem execPgrq_form {c d br b} (h : MemForm s) : OutForm (execPgrq c d br b s) := by
  have asked : ∀ {t : State} {l : List (Nat × Nat × Nat)} {asid : Nat}, MemForm t →
      MemForm (l.foldl (fun t e => askPage t t.warp.vi asid e.2.1 e.2.2 false) t) := fun ht =>
    foldl_holds MemForm _ _ (fun _ _ hu => askPage_keepsForm hu) _ ht
  refine issue_form h fun u m hu => withWalks_form hu ?_
  dsimp only
  split
  · trivial
  · split
    · simpa using hu
    · exact asked (by simpa using hu)

@[simp] theorem chunkRegions_form_iff {va a rep} : MemForm (chunkRegions s va a rep).1 ↔ MemForm s := by
  unfold chunkRegions
  (repeat' split) <;> simp

theorem dscdChunk_form {b va i r} (h : MemForm s) (hr : dscdChunk s b va i = .ok r) : MemForm r.1 := by
  rw [dscdChunk] at hr
  (repeat' split at hr) <;> cases hr <;> try exact h
  exact foldl_holds MemForm _ _ (fun t g ht => (discardRegion_form_iff ..).2 ht) _ (chunkRegions_form_iff.2 h)

theorem dscdFrom_form {b va n i k rs} (h : MemForm s) : MemForm (dscdFrom b va n i s k rs).1 := by
  induction n generalizing i s k rs with
  | zero => exact h
  | succ n ih =>
    rw [dscdFrom]
    split
    · exact h
    · next hr => exact ih (dscdChunk_form h hr)

@[simp] theorem drainCore_form (h : MemForm s) : MemForm (drainCore s) := by
  refine foldl_holds MemForm _ _ (fun t b ht => ?_) _ (drain_form h)
  split <;> simp [ht]

@[simp] theorem dscdBody_form {d br b e act} (h : MemForm s) : StepForm (dscdBody d br b e s act) := by
  have touched : ∀ {t : State} {l : List Nat} {va : Nat → Nat}, MemForm t →
      MemForm (l.foldl (fun t i => tlbTouch t t.warp.vi t.warp.asid (va i)) t) := fun ht =>
    foldl_holds MemForm _ _ (fun u i hu => (tlbTouch_form_iff ..).2 hu) _ ht
  rw [dscdBody]
  dsimp only
  split
  · trivial
  · split
    · trivial
    · refine withWalks_form h ?_
      have ht := touched (l := List.range (srcBits s act e 1 0)) (va := fun i => (slotRec s br).base + pairS s b + i * 2 ^ 21)
        (drainCore_form h)
      split
      · exact ht
      · have hd := fun n => dscdFrom_form (b := slotRec s br) (va := (slotRec s br).base + pairS s b) (n := n) (i := 0) (k := 0) (rs := []) ht
        split
        · next heq => have := hd (srcBits s act e 1 0); rw [heq] at this; exact this
        · next heq => have := hd (srcBits s act e 1 0); rw [heq] at this; simpa using this

@[simp] theorem execDscd_form {c d br b e} (h : MemForm s) : OutForm (execDscd c d br b e s) :=
  issue_form h fun t m ht => by simp [ht]

@[simp] theorem execFnce_form {c k sc} (h : MemForm s) : OutForm (execFnce c k sc s) :=
  issue_form h fun t m ht => by simp [ht]

@[simp] theorem execBrecLd_form {c br a} (h : MemForm s) : OutForm (execBrecLd c br a s) :=
  issue_form h fun t m ht => recLoad_form (fun u bs hu => by dsimp only; split <;> simp [hu]) ht

@[simp] theorem execBrecSet_form {c br a} (h : MemForm s) : OutForm (execBrecSet c br a s) :=
  issue_form h fun t m ht => by simp [ht]

/-! The form is kept: tiles. -/

theorem withTile_form {act tile b rmt n load} {f : Nat → Nat → (Nat → Nat) → Step} (hf : ∀ c p o, StepForm (f c p o)) (h : MemForm s) :
    StepForm (withTile s act tile b rmt n load f) := by
  rw [withTile]
  split
  · trivial
  · dsimp only
    split
    · trivial
    · (repeat' split) <;> simp [h, hf]

@[simp] theorem execLds_form {c t n d tile b rmt} (h : MemForm s) : OutForm (execLds c t n d tile b rmt s) :=
  issue_form h fun _ _ hu => withTile_form (fun _ _ _ => by simpa using hu) hu

@[simp] theorem execSts_form {c t n d tile b rmt} (h : MemForm s) : OutForm (execSts c t n d tile b rmt s) := by
  have written : ∀ {u : State} {l : List Nat} {core phys : Nat} {o : Nat → Nat} {bs : Nat → List Byte}, MemForm u →
      MemForm (l.foldl (fun u k => padWrite u core phys (o k) (bs k)) u) := fun hu =>
    foldl_holds MemForm _ _ (fun _ _ hv => padWrite_keepsForm hv) _ hu
  refine issue_form h fun _ _ hu => withTile_form (fun _ _ _ => ?_) hu
  dsimp only
  split <;> simp [written hu]

@[simp] theorem execAtms_form {c t op rm o sc d tile b rmt} (h : MemForm s) : OutForm (execAtms c t op rm o sc d tile b rmt s) := by
  refine issue_form h fun u m hu => withTile_form (fun core phys off => ?_) hu
  have released : MemForm (if decide (o = .rel ∨ o = .ar) && drainsAt sc then drainRel u else u) := by split <;> simp [hu]
  generalize (if decide (o = .rel ∨ o = .ar) && drainsAt sc then drainRel u else u) = v at released ⊢
  dsimp only
  simp only [stepForm_done, writeDst_form_iff]
  split
  · exact foldl_pair_form (fun a k ha => padWrite_keepsForm ha) released
  · exact (noReplay_form_iff _).2 (foldl_pair_form (fun a k ha => padWrite_keepsForm ha) released)

@[simp] theorem flipGiven_form {core phys} (h : MemForm s) : MemForm (flipGiven s core phys) := by
  rw [flipGiven]
  dsimp only
  split
  · exact h
  · exact settle_form (foldl_holds MemForm _ _ (fun t g ht => (slotDown_form_iff ..).2 ht) _ ((setTile_form_iff ..).2 h))

@[simp] theorem execTgiv_form {c t} (h : MemForm s) : OutForm (execTgiv c t s) := by
  refine issue_form h fun t m ht => ?_
  dsimp only
  (repeat' split) <;> simp [ht]

@[simp] theorem execTtak_form {c t} (h : MemForm s) : OutForm (execTtak c t s) := by
  refine issue_form h fun t m ht => ?_
  dsimp only
  (repeat' split) <;> simp [ht]

@[simp] theorem execTsta_form {c d t} (h : MemForm s) : OutForm (execTsta c d t s) := by
  refine issue_form h fun u m hu => ?_
  split
  · trivial
  · simpa using hu

/-! The form is kept: the engines. -/

@[simp] theorem batchDone_form {launch crew wid k zf err} (h : MemForm s) : MemForm (batchDone s launch crew wid k zf err) := by
  simp [batchDone, h]

@[simp] theorem acpyIssue_form {t lanes} (h : MemForm s) : StepForm (acpyIssue t lanes s) := by
  simp only [acpyIssue]
  (repeat' split) <;> simp [h]

@[simp] theorem execAcpy_form {c sz t br b e} (h : MemForm s) : OutForm (execAcpy c sz t br b e s) := by
  refine issue_form h fun u m hu => ?_
  dsimp only
  split
  · trivial
  · split
    · trivial
    · exact withWalks_form hu (acpyIssue_form hu)

@[simp] theorem acpyWrite_form {core phys l} (h : MemForm s) : MemForm (acpyWrite s core phys l) :=
  padWrite_keepsForm (foldl_pair_form (fun a x ha => by dsimp only; split <;> simp [ha]) h)

@[simp] theorem execAcpyComplete_form {k} (h : MemForm s) : OutForm (execAcpyComplete k s) := by
  have written : ∀ {t : State} {l : List AcpyLane} {core phys : Nat}, MemForm t → MemForm (l.foldl (fun t x => acpyWrite t core phys x) t) :=
    fun ht => foldl_holds MemForm _ _ (fun _ _ hu => acpyWrite_form hu) _ ht
  rw [execAcpyComplete]
  split
  · simpa using h
  · dsimp only
    split
    · simpa using h
    · simp only [outForm_next, launchEndIf_form_iff]
      exact crewEndIf_form (flipGiven_form (batchDone_form (written (by simpa using h))))

@[simp] theorem execStgr_form {c a} (h : MemForm s) : OutForm (execStgr c a s) := by
  refine issue_form h fun t m ht => ?_
  dsimp only
  (repeat' split) <;> simp [ht]

@[simp] theorem releaseTile_form {core phys} (h : MemForm s) : MemForm (releaseTile s core phys) := by
  rw [releaseTile]
  split <;> simp [h]

@[simp] theorem zeroRest_form {core phys off len} (h : MemForm s) : MemForm (zeroRest s core phys off len) :=
  (setTile_form_iff ..).2 (foldl_holds MemForm _ _ (fun t i ht => by simp [ht]) s h)

@[simp] theorem streamVa_form {sp k va n} (h : MemForm s) : MemForm (streamVa s sp k va n).1 := by
  rw [streamVa]
  split
  · exact h
  · refine foldl_pair_form (fun a j ha => ?_) h
    dsimp only
    (repeat' split) <;> simp [ha]

@[simp] theorem llcPresent_form {rep swz line} (h : MemForm s) : MemForm (llcPresent s rep swz line) := by
  rw [llcPresent]
  split <;> simp [h]

@[simp] theorem stageLines_form {o} (h : MemForm s) : MemForm (stageLines s o) := by
  refine foldl_holds MemForm _ _ (fun t b ht => ?_) _ h
  dsimp only
  (repeat' split) <;> simp [ht]

@[simp] theorem stageTell_form {o fail} (h : MemForm s) : MemForm (stageTell s o fail) := by
  rw [stageTell]
  split <;> simp [h]

theorem stageRead_form {k o r} (h : MemForm s) (hr : stageRead s k o = some r) : MemForm r.1 := by
  rw [stageRead] at hr
  (repeat' split at hr) <;> cases hr <;> simp [h]

@[simp] theorem stageLine_form {k o line} (h : MemForm s) : MemForm (stageLine s k o line) := by
  rw [stageLine]
  split <;> simp [h]

@[simp] theorem stageLineWritten_form {id line} (h : MemForm s) : MemForm (stageLineWritten id line s) := by
  rw [stageLineWritten]
  (repeat' split) <;> try exact h
  next hr => exact settle_form (stageLine_form (stageRead_form h hr))

@[simp] theorem execStageRegionResident_form {k} (h : MemForm s) : OutForm (execStageRegionResident k s) := by
  have written : ∀ {t : State} {l : List Nat} {o : StageOp}, MemForm t → MemForm (l.foldl (fun t x => stageLine t k o x) t) :=
    fun ht => foldl_holds MemForm _ _ (fun _ _ hu => stageLine_form hu) _ ht
  rw [execStageRegionResident]
  split
  · simpa using h
  · dsimp only
    have started : ∀ {o o' : StageOp}, MemForm (putStage (startStage s o).1 k o') := by simpa using h
    split
    · simpa using h
    · simp [h]
    · split
      · simp [h]
      · split
        · simpa using h
        · next hr => simp [written (stageRead_form started hr)]

@[simp] theorem execStageRegionFail_form {k status} (h : MemForm s) : OutForm (execStageRegionFail k status s) := by
  have rest : ∀ {t : State} {core p off len}, MemForm t → MemForm (releaseTile (zeroRest t core p off len) core p) :=
    fun ht => releaseTile_form (zeroRest_form ht)
  rw [execStageRegionFail]
  (repeat' split) <;> simp [h, rest]

@[simp] theorem execBcls_form {c} (h : MemForm s) : OutForm (execBcls c s) :=
  issue_form h fun t m ht => by simp [ht]

@[simp] theorem execWaitb_form {c b} (h : MemForm s) : OutForm (execWaitb c b s) := by
  refine issue_form h fun t m ht => ?_
  dsimp only
  (repeat' split) <;> simp [ht]

@[simp] theorem execQsta_form {c d b} (h : MemForm s) : OutForm (execQsta c d b s) :=
  issue_form h fun t m ht => by simp [ht]

@[simp] theorem endForPage_form {va psz} (h : MemForm s) : StepForm (endForPage s va psz) := by simp [endForPage, h]

theorem headLoad_form {va off n} {f : State → List Byte → Step} (hf : ∀ t bs, MemForm t → StepForm (f t bs)) (h : MemForm s) :
    StepForm (headLoad s va off n f) := by
  rw [headLoad]
  refine withWalks_form h ?_
  split
  · exact endForPage_form h
  · exact recLoad_form hf h

@[simp] theorem putNow_form {p} (h : MemForm s) : StepForm (putNow s p) := by
  have hd := drain_form h
  simp [putNow, hd]

@[simp] theorem putBody_form {now b hva ring ctl act} (h : MemForm s) : StepForm (putBody now b hva ring ctl act s) := by
  rw [putBody]
  dsimp only
  refine withWalks_form h ?_
  split <;> try trivial
  · simp [h]
  · simp [h]
  · (repeat' split) <;> simp [h]

@[simp] theorem execQput_form {c sc now a b} (h : MemForm s) : OutForm (execQput c sc now a b s) := by
  refine issue_form h fun u m hu => ?_
  have ran := runPuts_form hu
  dsimp only
  split
  · split <;> exact ran
  · split
    · trivial
    · exact headLoad_form (fun _ _ ht => putBody_form ht) hu

theorem collBody_form {i c a var} (h : MemForm s) : OutForm (collBody i c a var s) := by
  refine issue_form h fun u m hu => ?_
  dsimp only
  split
  · trivial
  · exact headLoad_form (fun _ _ ht => by simpa using ht) hu

/-! The form is kept: gangs. -/

@[simp] theorem dissolveDead_form (h : MemForm s) : MemForm (dissolveDead s) := by
  refine foldl_holds MemForm _ _ (fun t g ht => ?_) s h
  dsimp only
  split
  · have broken : MemForm ((t.latches.filter fun l => l.launch = g.launch && l.crew = g.crew && l.members = g.members).foldl
        (fun u l => breakLatch u l 3) t) := foldl_holds MemForm _ _ (fun _ _ hu => breakLatch_form hu) t ht
    split <;> simp [broken]
  · exact ht

theorem arrive_form {i ms scalars} (h : MemForm s) : ArrivedForm (arrive s i ms scalars) := by
  have arrived : ∀ {p : Prop} [Decidable p] {t : State} {l}, MemForm t → ArrivedForm (if p then .full t l else .waits t) := fun ht => by
    split <;> exact ht
  rw [arrive]
  split
  · dsimp only
    split
    · exact breakLatch_form h
    · exact arrived (memForm_update.2 h)
  · exact arrived (memForm_update.2 h)

theorem chargeCones_form {g t} (h : MemForm s) (ht : chargeCones s g = some t) : MemForm t := by
  rw [chargeCones] at ht
  (repeat' split at ht) <;> cases ht <;> simpa using h

@[simp] theorem chargeCones_getD_form {g} (h : MemForm s) : MemForm ((chargeCones s g).getD s) := by
  cases hc : chargeCones s g with
  | none => exact h
  | some t => exact chargeCones_form h hc

@[simp] theorem jointTrap_form {i code detail} (h : MemForm s) : StepForm (jointTrap s i code detail) := by
  simp [jointTrap, h]

@[simp] theorem gangFormBody_form {i x} (h : MemForm s) : StepForm (gangFormBody i x s) := by
  have arrived := arrive_form (i := i) (ms := gangMembers x) (scalars := [x]) h
  have released : ∀ {t : State} {l}, MemForm t → MemForm (noReplay (releaseMembers t l noReplay)) := fun ht => by
    simpa [releaseMembers_form_iff] using ht
  simp only [gangFormBody]
  generalize gangBad _ _ _ _ = bad
  split
  · simp [h]
  · cases ha : arrive s i (gangMembers x) [x] <;> rw [ha] at arrived
    case broken t => simpa using arrived
    case waits t => simpa using arrived
    case full t l =>
      have formed : MemForm (formGang t x) := by simpa using arrived
      dsimp only
      split
      · simpa using arrived
      · split
        · split
          · split
            · next hc => exact released (chargeCones_form formed hc)
            · simpa using arrived
          · simpa using arrived
        · exact released formed

@[simp] theorem gangZeroBody_form {i} (h : MemForm s) : StepForm (gangZeroBody i s) := by
  rw [gangZeroBody]
  split
  · simpa using h
  · next g _ =>
    have arrived := arrive_form (i := i) (ms := g.members) (scalars := [0]) h
    cases ha : arrive s i g.members [0] <;> rw [ha] at arrived <;> simp only [ArrivedForm] at arrived
    case broken t => exact arrived
    case waits t => exact arrived
    case full t l => dsimp only; split <;> simp [arrived, releaseMembers_form_iff]

@[simp] theorem execGangForm_form {c a} (h : MemForm s) : OutForm (execGangForm c a s) :=
  issue_form h fun t m ht => by simp [ht]

@[simp] theorem execGangDissolve_form {c} (h : MemForm s) : OutForm (execGangDissolve c s) :=
  issue_form h fun t m ht => by simp [ht]

/-! The form is kept: kilns. -/

@[simp] theorem placeCrew_form {l crew core} (h : MemForm s) : MemForm (placeCrew s l crew core) := by
  refine memForm_update.2 (foldl_holds MemForm _ _ (fun t p ht => (setTile_form_iff ..).2 ?_) s h)
  split
  · exact ⟨ht.1, ht.2.1, mdrop_mwf 0 t.pad _ _ ht.2.2⟩
  · exact ht

@[simp] theorem bindCluster_form {core g} (h : MemForm s) : MemForm (bindCluster s core g) := by
  rw [bindCluster]
  split
  · refine foldl_holds MemForm _ _ (fun t x ht => by split <;> simpa using ht) _ (memForm_update.2 ?_)
    exact foldl_holds MemForm _ _ (fun t i ht => placeCrew_form ht) s h
  · exact h

theorem liveFail_form {l g r t} (h : MemForm s) (ht : liveFail s l g r = some t) : MemForm t := by
  rw [liveFail] at ht
  split at ht <;> cases ht <;> simp [h]

@[simp] theorem failFired_form {uid fail} (h : MemForm s) : MemForm (failFired s uid fail) := by
  simp only [failFired]
  (repeat' split) <;> simp [h]

@[simp] theorem fireSaggar_form {core g} (h : MemForm s) : MemForm (fireSaggar s core g) := by
  rw [fireSaggar]
  dsimp only
  split
  · split <;> simpa using h
  · split
    · exact h
    · split
      · next hf =>
        obtain ⟨r, -, hr⟩ := List.exists_of_findSome?_eq_some hf
        exact liveFail_form h hr
      · simp [h]

@[simp] theorem fireGang_form {core k} (h : MemForm s) : MemForm (fireGang s core k) := by
  rw [fireGang]
  refine foldl_holds MemForm _ _ (fun t m ht => ?_) _ (memForm_update.2 ?_)
  · split <;> simp [ht]
  · split <;> simp [h]

@[simp] theorem execKilnFire_form {core} (h : MemForm s) : OutForm (execKilnFire core s) := by
  simp only [execKilnFire]
  (repeat' split) <;> simp [h]

/-! The form is kept: the matrix core. -/

@[simp] theorem matrixDone_form {launch crew} (h : MemForm s) : MemForm (matrixDone launch crew s) := by
  have dissolved := dissolveDead_form ((releaseFences_form_iff s).2 h)
  simp [matrixDone, dissolved]

@[simp] theorem mmaBody_form {i ta tb logc sw sparse hdr z t b kb act} (h : MemForm s) :
    StepForm (mmaBody i ta tb logc sw sparse hdr z t b kb s act) := by
  have trap : ∀ {a b}, StepForm (jointTrap s i a b) := by simp [h]
  have trapped : ∀ {u : State} {as : List Arrival}, MemForm u → MemForm (as.foldl (fun v a => trapOther v a.uid 0xC 8) u) :=
    fun hu => foldl_holds MemForm _ _ (fun _ _ hv => trapOther_form hv) _ hu
  simp only [mmaBody]
  split
  · exact trap
  · split
    · exact trap
    · next g _ =>
      generalize mmaNG sparse tb * _ = nb
      have arrived := arrive_form (i := i) (ms := g.members) (scalars := jointScalars s i) h
      iterate 4 (split; · exact trap)
      split
      · exact trap
      · split
        · exact h
        · cases ha : arrive s i g.members (jointScalars s i) <;> rw [ha] at arrived
          case broken u => exact arrived
          case waits u => exact arrived
          case full u l =>
            rw [arrivedForm_full] at arrived
            dsimp only
            split
            · exact trapped (memForm_update.2 arrived)
            · split
              · simpa using arrived
              · split
                · exact arrived
                · next hc =>
                  split at hc
                  · cases hc; simpa using arrived
                  · simpa using chargeCones_form arrived hc

@[simp] theorem execMma_form {c ta tb logc sw z t b kb} (h : MemForm s) : OutForm (execMma c ta tb logc sw z t b kb s) :=
  issue_form h fun t m ht => by simp [ht]

@[simp] theorem execMmsp_form {c ta tb logc sw hdr z t b kb} (h : MemForm s) : OutForm (execMmsp c ta tb logc sw hdr z t b kb s) :=
  issue_form h fun t m ht => by simp [ht]

@[simp] theorem accIssue_form {i c z row n data} (h : MemForm s) : StepForm (accIssue i c z row n data s) := by
  rw [accIssue]
  split <;> simp [h]

@[simp] theorem execMzro_form {c z} (h : MemForm s) : OutForm (execMzro c z s) := by
  refine issue_form h fun u m hu => ?_
  have issued := accIssue_form (i := .mzro c z) (c := c) (z := z) (row := 0) (n := 0) (data := []) hu
  split
  · next heq => rw [heq] at issued; simpa using issued
  · exact issued

@[simp] theorem execMrda_form {c t rm n d z row} (h : MemForm s) : OutForm (execMrda c t rm n d z row s) :=
  issue_form h fun t m ht => by simp [ht]

@[simp] theorem execMwra_form {c t rm n z a row} (h : MemForm s) : OutForm (execMwra c t rm n z a row s) := by
  refine issue_form h fun u m hu => ?_
  have issued := accIssue_form (i := .mwra c t rm n z a row) (c := c) (z := z) (row := srcBits u m row 1 0) (n := n.n)
    (data := fragOf u u.warp (vecNum a) (n.n * rpr t)) hu
  dsimp only
  split
  · next heq => rw [heq] at issued; simpa using issued
  · exact issued

@[simp] theorem execMfnc_form {c} (h : MemForm s) : OutForm (execMfnc c s) := by
  refine issue_form h fun t m ht => ?_
  dsimp only
  (repeat' split) <;> simp [ht]

@[simp] theorem execMatrixStepStart_form {core} (h : MemForm s) : OutForm (execMatrixStepStart core s) := by
  simp only [execMatrixStepStart]
  (repeat' split) <;> simp [h]

@[simp] theorem execMatrixStepReadDone_form {core} (h : MemForm s) : OutForm (execMatrixStepReadDone core s) := by
  rw [execMatrixStepReadDone]
  split
  · simpa using h
  · refine outForm_next.2 (settle_form ?_)
    refine foldl_holds MemForm _ _ (fun t p ht => (slotDown_form_iff ..).2 ht) _ ?_
    refine foldl_holds MemForm _ _ (fun t u ht => (updWarp_form_iff ..).2 ht) _ ?_
    simpa using h

@[simp] theorem execMatrixStepComplete_form {core} (h : MemForm s) : OutForm (execMatrixStepComplete core s) := by
  rw [execMatrixStepComplete]
  split <;> simp [h]

@[simp] theorem writeOwner_form {uid l} (h : MemForm s) : MemForm (writeOwner s uid l) := by
  rw [writeOwner]
  dsimp only
  split
  · simpa using h
  · exact foldl_holds MemForm _ _ (fun _ _ ht => storeRec_form ht) _ (memForm_update.2 h)

@[simp] theorem execMatrixAccOpComplete_form {k} (h : MemForm s) : OutForm (execMatrixAccOpComplete k s) := by
  simp only [execMatrixAccOpComplete]
  (repeat' split) <;> simp [h]

/-! The form is kept: what ends and starts segments. -/

theorem onWarp_form {uid} {f : State → State} (hf : ∀ t, MemForm t → MemForm (f t)) (h : MemForm s) : MemForm (onWarp s uid f) := by
  simp [onWarp, h, hf]

@[simp] theorem execJoinUpdatePageReady_form {asid vpn} (h : MemForm s) : OutForm (execJoinUpdatePageReady asid vpn s) :=
  outForm_next.2 (foldl_holds MemForm _ _ (fun _ _ ht => (launchEndIf_form_iff ..).2 (joinUpdate_form ht)) _ (memForm_update.2 h))

@[simp] theorem execWaitWindowExpiry_form {uid} (h : MemForm s) : OutForm (execWaitWindowExpiry uid s) := by
  refine outForm_next.2 (onWarp_form (fun t ht => ?_) h)
  split
  · split <;> simp [ht]
  · exact ht

@[simp] theorem testSrc_form {uid} (h : MemForm s) : MemForm (testSrc s uid) := by simp [testSrc, h]

@[simp] theorem toTrap_form {r code tinfo} (h : MemForm s) : MemForm (toTrap s r code tinfo) := by simp [toTrap, h]

@[simp] theorem memErr_form {x detail} (h : MemForm s) : MemForm (memErr s x detail) := by
  simp only [memErr]
  split
  · exact h
  · refine foldl_holds MemForm _ _ (fun _ _ ht => toTrap_form ht) _ ?_
    exact onWarp_form (fun _ ht => takeTrap_form ht) ((memReport_form_iff ..).2 h)

@[simp] theorem execResponseLand_form {k} (h : MemForm s) : OutForm (execResponseLand k s) := by
  simp only [execResponseLand]
  (repeat' split) <;> simp [h]

@[simp] theorem shadowRecord_form {t} (h : MemForm s) : MemForm (shadowRecord s t) := by simp [shadowRecord, h]

@[simp] theorem tlbEvict_form {k} (h : MemForm s) : MemForm (tlbEvict s k) := by
  rw [tlbEvict]
  split <;> simp [h]

@[simp] theorem walkDone_form {q} (h : MemForm s) : MemForm (walkDone s q) := by simp [walkDone, h]

@[simp] theorem execPageWalkComplete_form {asid vpn victim} (h : MemForm s) : OutForm (execPageWalkComplete asid vpn victim s) := by
  refine outForm_next.2 (foldl_holds MemForm _ _ (fun _ _ ht => walkDone_form ht) _ ?_)
  simp only [tlbFill_form_iff, ptrFill_form_iff]
  split <;> simp [h]

@[simp] theorem execRecordEventFire_form {ev} (h : MemForm s) : OutForm (execRecordEventFire ev s) :=
  outForm_next.2 ((wakeAll_form_iff ..).2 ((foldl_form_iff _ _ (fun t r => sendRec_form_iff t r) s).2 h))

@[simp] theorem execSaggarTimerLapse_form {sid} (h : MemForm s) : OutForm (execSaggarTimerLapse sid s) := by
  simp [execSaggarTimerLapse, h]

@[simp] theorem execSaggarSlotFree_form {core} (h : MemForm s) : OutForm (execSaggarSlotFree core s) := by
  rw [execSaggarSlotFree]
  split <;> simp [h]

@[simp] theorem addReleased_form {core r} (h : MemForm s) : MemForm (addReleased s core r) := by simp [addReleased, h]

@[simp] theorem writeSeeds_form {id} (h : MemForm s) : MemForm (writeSeeds s id) := by
  rw [writeSeeds]
  split
  · exact h
  · refine (setLaunch_form_iff ..).2 (foldl_pair_form (fun a p ha => ?_) h)
    dsimp only
    (repeat' split) <;> simp [ha]

@[simp] theorem execPoolSpaceFreed_form {vi} (h : MemForm s) : OutForm (execPoolSpaceFreed vi s) :=
  outForm_next.2 (settle_form (foldl_holds MemForm _ _ (fun _ _ ht => writeSeeds_form ht) s h))

@[simp] theorem execPreemptBoundExpiry_form {uid} (h : MemForm s) : OutForm (execPreemptBoundExpiry uid s) := by
  refine outForm_next.2 (onWarp_form (fun t ht => ?_) h)
  dsimp only
  (repeat' split) <;> simp [ht]

@[simp] theorem execSeglimExpiry_form {uid} (h : MemForm s) : OutForm (execSeglimExpiry uid s) := by
  simp [execSeglimExpiry, h]

@[simp] theorem execHwdogExpiry_form {rid} (h : MemForm s) : OutForm (execHwdogExpiry rid s) := by
  rw [execHwdogExpiry]
  split <;> simp [h]

@[simp] theorem execPoolHoldExpiry_form {launch} (h : MemForm s) : OutForm (execPoolHoldExpiry launch s) := by
  rw [execPoolHoldExpiry]
  split <;> simp [h]

@[simp] theorem replay_form (h : MemForm s) : MemForm (replay s) := by
  refine settle_form ((returnCones_form_iff ..).2 (foldl_holds MemForm _ _ (fun t r ht => ?_) _ ?_))
  · dsimp only
    split <;> simpa using ht
  · simpa using h

@[simp] theorem execSoftError_form {uid e} (h : MemForm s) : OutForm (execSoftError uid e s) :=
  outForm_next.2 (onWarp_form (fun t ht => by simp [ht]) h)

@[simp] theorem execCrewRestore_form {launch crew core} (h : MemForm s) : OutForm (execCrewRestore launch crew core s) := by
  simp only [execCrewRestore]
  split
  · generalize (!_) = bad
    split
    · exact outForm_next.2 h
    · refine outForm_next.2 (settle_form (memForm_update.2 ?_))
      simp only [setCrewAt_form_iff, restoreGangs_form_iff]
      exact dropImage_form (moveTiles_form h)
  · exact outForm_next.2 h

@[simp] theorem execConeEpoch_form {limit} (h : MemForm s) : OutForm (execConeEpoch limit s) := by
  simp [execConeEpoch, h]

/-! The form is kept: caches and controllers. -/

@[simp] theorem execLlcLookup_form {line swz keyed stream} (h : MemForm s) : OutForm (execLlcLookup line swz keyed stream s) := by
  simp only [execLlcLookup]
  (repeat' split) <;> simp [h]

@[simp] theorem execLlcMissFill_form {line victim} (h : MemForm s) : OutForm (execLlcMissFill line victim s) := by
  simp only [execLlcMissFill]
  (repeat' split) <;> simp [h]

@[simp] theorem execLlcPartialWrite_form {line swz w} (h : MemForm s) : OutForm (execLlcPartialWrite line swz w s) := by
  simp [execLlcPartialWrite, h]

@[simp] theorem execLlcWriteback_form {core line} (h : MemForm s) : OutForm (execLlcWriteback core line s) := by
  rw [execLlcWriteback]
  split <;> simp [h]

@[simp] theorem execL1Recall_form {line} (h : MemForm s) : OutForm (execL1Recall line s) := by simp [execL1Recall, h]

@[simp] theorem execControllerRead_form {ctrl} (h : MemForm s) : OutForm (execControllerRead ctrl s) := by
  simp only [execControllerRead]
  (repeat' split) <;> simp [h]

@[simp] theorem execControllerWrite_form {ctrl} (h : MemForm s) : OutForm (execControllerWrite ctrl s) := by
  simp only [execControllerWrite]
  (repeat' split) <;> simp [h]

@[simp] theorem execPatrolScrub_form {ctrl} (h : MemForm s) : OutForm (execPatrolScrub ctrl s) := by
  simp [execPatrolScrub, h]

@[simp] theorem execRefresh_form {_ctrl} (h : MemForm s) : OutForm (execRefresh _ctrl s) := by simp [execRefresh, h]

@[simp] theorem execCongestionLevel_form {ctrl occ} (h : MemForm s) : OutForm (execCongestionLevel ctrl occ s) := by
  simp [execCongestionLevel, h]

@[simp] theorem execDirectoryRecall_form {line exclusive} (h : MemForm s) : OutForm (execDirectoryRecall line exclusive s) := by
  simp only [execDirectoryRecall]
  (repeat' split) <;> simp [h]

/-! The form is kept: the fabric. -/

@[simp] theorem execBeaconArrive_form {time} (h : MemForm s) : OutForm (execBeaconArrive time s) := by
  simp [execBeaconArrive, h]

@[simp] theorem execBeaconTimeout_form (h : MemForm s) : OutForm (execBeaconTimeout s) := by simp [execBeaconTimeout, h]

@[simp] theorem execFlitGroupReceive_form {link seq data tag} (h : MemForm s) : OutForm (execFlitGroupReceive link seq data tag s) := by
  simp [execFlitGroupReceive, h]

@[simp] theorem execGroupReplay_form {link seq} (h : MemForm s) : OutForm (execGroupReplay link seq s) := by
  simp [execGroupReplay, h]

@[simp] theorem execLinkDown_form {link} (h : MemForm s) : OutForm (execLinkDown link s) := by
  simp only [execLinkDown]
  (repeat' split) <;> simp [h]

/-! The form is kept: queues and packets. -/

@[simp] theorem mapQueue_form {q} (h : MemForm s) : MemForm (mapQueue s q) := by
  simp only [mapQueue]
  (repeat' split) <;> simp [h]

@[simp] theorem unmapIdle_form (h : MemForm s) : MemForm (unmapIdle s) := by simp [unmapIdle, h]

@[simp] theorem execDoorbell_form {vi value} (h : MemForm s) : OutForm (execDoorbell vi value s) := by
  simp only [execDoorbell]
  (repeat' split) <;> simp [h]

@[simp] theorem execQueueScan_form (h : MemForm s) : OutForm (execQueueScan s) :=
  outForm_next.2 (foldl_holds MemForm _ _ (fun _ _ ht => mapQueue_form ht) _ (by simpa [unmapIdle] using h))

@[simp] theorem execPacketAccept_form {vi hva} (h : MemForm s) : OutForm (execPacketAccept vi hva s) := by
  have written : ∀ {t : State} {sp va bytes}, MemForm t → MemForm (unmapIdle ((writeVa t sp va bytes).getD t)) := fun ht => by
    simpa [unmapIdle] using writeVa_getD_form ht ht
  simp only [execPacketAccept]
  (repeat' split) <;> simp [h, written]

theorem withPkt_form {pid kind} {run : Packet → State → State} (h : MemForm s) (hr : ∀ p t, MemForm t → MemForm (run p t)) :
    OutForm (withPkt s pid kind run) := by
  rw [withPkt]
  (repeat' split) <;> simp [h, hr]

@[simp] theorem execFence_form {pid} (h : MemForm s) : OutForm (execFence pid s) :=
  withPkt_form h fun p t ht => by split <;> simpa using ht

@[simp] theorem execIndirect_form {pid} (h : MemForm s) : OutForm (execIndirect pid s) := by
  refine withPkt_form h fun p t ht => ?_
  dsimp only
  (repeat' split) <;> simp [ht]

theorem raiseWord_form {sp va seq} (h : MemForm s) : RaiseForm (raiseWord s sp va seq) := by
  have touched := (tlbTouch_form_iff (s := s) (vi := sp.vi) (asid := sp.asid) (va := va)).2 h
  simp only [raiseWord]
  split
  · exact h
  · split <;> try simp [touched]
    split <;> simp [touched]

theorem writeErr_form {q err} (h : MemForm s) : ExceptForm (writeErr s q err) := by
  simp only [writeErr]
  split
  · exact askPage_keepsForm h
  · simp only [ExceptForm]
    split <;> simp [h]
  · exact h

theorem haltQueue_form {p c} (h : MemForm s) : ExceptForm (haltQueue s p c) := by
  rw [haltQueue]
  split
  · exact h
  · next hva _ =>
    split
    · exact h
    · next q _ =>
      have written := writeErr_form (q := q) (err := p.idx % 2 ^ 40 + c.toNat * 2 ^ 40 + 2 ^ 63)
        ((setQueue_form_iff (s := s) (vi := p.vi) (hva := hva) (f := fun q => { q with halted := true, slot := none })).2 h)
      dsimp only
      split
      · next heq => rw [heq] at written; exact written
      · next heq => rw [heq] at written; exact (dropBlock_form_iff ..).2 written

@[simp] theorem leavePkt_form {p} (h : MemForm s) : MemForm (leavePkt s p) := by
  simp only [leavePkt, unmapIdle, memForm_update]
  exact settle_form (saveCrews_form ((tellParent_form_iff ..).2 (memForm_update.2 ((pktIrq_form_iff ..).2 h))))

@[simp] theorem raisePkt_form {p} (h : MemForm s) : MemForm (raisePkt s p) := by
  have raised : RaiseForm (if cwRaised p then raiseWord s (pktSpace p) (pktCw p) (pktSeq p) else Raise.done s) := by
    split
    · exact raiseWord_form h
    · exact h
  rw [raisePkt]
  split
  · next heq => rw [heq] at raised; exact raised
  · next heq => rw [heq] at raised; simp only [RaiseForm] at raised; simp [raised]
  · next c _ =>
    split
    · simp [h]
    · have halted := haltQueue_form (p := p) (c := c) h
      dsimp only
      split
      · next heq => rw [heq] at halted; exact (failPkt_form_iff ..).2 halted
      · next heq => rw [heq] at halted; simp only [ExceptForm] at halted; simp [halted]

@[simp] theorem endPkt_form {p} (h : MemForm s) : MemForm (endPkt s p) := by
  rw [endPkt]
  split
  · have halted := haltQueue_form (p := p) (c := p.status) h
    split
    · next heq => rw [heq] at halted; exact halted
    · next heq => rw [heq] at halted; exact raisePkt_form halted
  · exact raisePkt_form h

@[simp] theorem execPacketComplete_form {pid} (h : MemForm s) : OutForm (execPacketComplete pid s) := by
  simp only [execPacketComplete]
  (repeat' split) <;> simp [h]

/-! The form is kept: the copy engine. -/

@[simp] theorem readLineVa_form {sp key k vl} (h : MemForm s) : MemForm (readLineVa s sp key k vl).1 := by
  simp only [readLineVa]
  (repeat' split) <;> simp [h]

@[simp] theorem writeLineVa_form {sp key k vl mask data} (h : MemForm s) : MemForm (writeLineVa s sp key k vl mask data) := by
  rw [writeLineVa]
  split
  · exact h
  · have touched := (tlbTouch_form_iff s sp.vi sp.asid (vl * 128)).2 h
    dsimp only
    split
    · split
      · have landed := landHost_form _ touched
        exact ⟨landed.1, foldl_mset_mwf 0 _ (fun i => mask.getLsbD i) _ _ _ landed.2.1, landed.2.2⟩
      · (repeat' split) <;> simp [touched]
    · exact touched

@[simp] theorem readLines_form {sp key k vls} (h : MemForm s) : MemForm (readLines s sp key k vls).1 :=
  foldl_pair_form (fun _ _ ha => readLineVa_form ha) h

@[simp] theorem writeCells_form {sp key k cells} (h : MemForm s) : MemForm (writeCells s sp key k cells) := by
  refine foldl_holds MemForm _ _ (fun t b ht => ?_) _ h
  simp [ht]

theorem takeTile_form {p core phys off len flip write t} (h : MemForm s) (ht : takeTile s p core phys off len flip write = .ok (some t)) :
    MemForm t := by
  simp only [takeTile] at ht
  generalize (!_ || (tileAt s core phys).thread) = bad at ht
  split at ht
  · exact absurd ht (by simp)
  · split at ht
    · exact absurd ht (by simp)
    · split at ht
      · exact absurd ht (by simp)
      · simp only [Except.ok.injEq, Option.some.injEq] at ht
        subst ht
        split <;> simp [h]

@[simp] theorem execTileHolderComplete_form {pid} (h : MemForm s) : OutForm (execTileHolderComplete pid s) := by
  simp only [execTileHolderComplete]
  (repeat' split) <;> simp [h]

@[simp] theorem failTile_form {p c offs} (h : MemForm s) : MemForm (failTile s p c offs) := by
  rw [failTile]
  split
  · simpa using h
  · refine releaseTile_form ?_
    simp only [failPkt_form_iff, setPkt_form_iff, setTile_form_iff]
    exact foldl_holds MemForm _ _ (fun t o ht => by split <;> simp [ht]) s h

@[simp] theorem dropTile_form {p c} (h : MemForm s) : MemForm (dropTile s p c) := by
  rw [dropTile]
  split <;> simp [h]

@[simp] theorem fillRead_form {p key k vls offs} (h : MemForm s) : MemForm (fillRead s p key k vls offs) := by
  simp only [fillRead]
  (repeat' split) <;> simp [h]

@[simp] theorem copyBytes_form {p} (h : MemForm s) : MemForm (copyBytes s p).1 := by
  rw [copyBytes]
  split <;> simp [h]

@[simp] theorem copyPart_form {p} (h : MemForm s) : MemForm (copyPart s p) := by simp [copyPart, h]

@[simp] theorem copyMove_form {p} (h : MemForm s) : MemForm (copyMove s p) := by
  rw [copyMove]
  split <;> simp [h]

@[simp] theorem copyTile_form {p off} (h : MemForm s) : MemForm (copyTile s p off) := by simp [copyTile, h]

@[simp] theorem execCopy_form {pid} (h : MemForm s) : OutForm (execCopy pid s) := by
  refine withPkt_form h fun p t ht => ?_
  dsimp only
  iterate 3 (split; · simp [ht])
  split
  · simp [ht]
  · split
    · simpa using ht
    · simpa using ht
    · next hk =>
      have taken := takeTile_form ht hk
      split <;> simp [taken]

@[simp] theorem tcopyFill_form {p x} (h : MemForm s) : MemForm (tcopyFill s p x) := by
  simp only [tcopyFill]
  (repeat' split) <;> simp [h]

@[simp] theorem tcopyDrain_form {p x} (h : MemForm s) : MemForm (tcopyDrain s p x) := by
  simp only [tcopyDrain]
  (repeat' split) <;> simp [h]

@[simp] theorem tcopyRun_form {p x} (h : MemForm s) : MemForm (tcopyRun s p x) := by simp [tcopyRun, h]

@[simp] theorem execTcopy_form {pid} (h : MemForm s) : OutForm (execTcopy pid s) := by
  refine withPkt_form h fun p t ht => ?_
  dsimp only
  split
  · simp [ht]
  · split
    · simp [ht]
    · simpa using ht
    · split
      · simpa using ht
      · simpa using ht
      · next hk =>
        have taken := takeTile_form ht hk
        split <;> simp [taken]

@[simp] theorem execTileLineWritten_form {pid line} (h : MemForm s) : OutForm (execTileLineWritten pid line s) := by
  have written : ∀ {t : State} {cs : List (Nat × Byte)} {core phys : Nat}, MemForm t →
      MemForm (cs.foldl (fun t c => padWrite t core phys c.1 [c.2]) t) :=
    fun ht => foldl_holds MemForm _ _ (fun _ _ hu => padWrite_keepsForm hu) _ ht
  rw [execTileLineWritten]
  (repeat' split) <;> simp [h, written]

@[simp] theorem execStage_form {pid} (h : MemForm s) : OutForm (execStage pid s) := by
  refine withPkt_form h fun p t ht => ?_
  dsimp only
  (repeat' split) <;> simp [ht]

theorem withGlz_form {pid op} {run : Packet → BitVec 6 → State → State} (h : MemForm s) (hr : ∀ p k t, MemForm t → MemForm (run p k t)) :
    OutForm (withGlz s pid op run) := by
  refine withPkt_form h fun p t ht => ?_
  (repeat' split) <;> simp [ht, hr]

@[simp] theorem execGlzloadLoad_form {pid} (h : MemForm s) : OutForm (execGlzloadLoad pid s) := by
  refine withGlz_form h fun p k t ht => ?_
  dsimp only
  (repeat' split) <;> simp [ht]

@[simp] theorem execGlzloadUnload_form {pid} (h : MemForm s) : OutForm (execGlzloadUnload pid s) := by
  refine withGlz_form h fun p k t ht => ?_
  dsimp only
  (repeat' split) <;> simp [ht]

@[simp] theorem glzRead_form {clr p k} (h : MemForm s) : MemForm (glzRead clr p k s) := by
  rw [glzRead]
  dsimp only
  split
  · simp [h]
  · simp [h]
  · simp [h]
  · simp [h]
  · simp only [donePkt_form_iff]
    have st : ∀ f, MemForm (setStream s k f) := fun f => (setStream_form_iff ..).2 h
    (repeat' split) <;> simp [st]

@[simp] theorem execGlzloadRead_form {pid} (h : MemForm s) : OutForm (execGlzloadRead pid s) :=
  withGlz_form h fun _ _ _ ht => glzRead_form ht

@[simp] theorem execGlzloadReadclr_form {pid} (h : MemForm s) : OutForm (execGlzloadReadclr pid s) :=
  withGlz_form h fun _ _ _ ht => glzRead_form ht

@[simp] theorem execGlazeDrainDone_form {k} (h : MemForm s) : OutForm (execGlazeDrainDone k s) := by
  simp only [execGlazeDrainDone]
  (repeat' split) <;> simp [h]

/-! The form is kept: launches. -/

theorem openLaunch_form {p ncrew bad} {go : State → Image → State} (h : MemForm s) (hg : ∀ t i, MemForm t → MemForm (go t i)) :
    MemForm (openLaunch s p ncrew bad go) := by
  simp only [openLaunch]
  (repeat' split) <;> simp [h, hg]

@[simp] theorem startGrid_form {p} (h : MemForm s) : MemForm (startGrid s p) :=
  openLaunch_form h fun t i ht => by simp [ht]

theorem addNodeItems_form {p l base args n i} (h : MemForm s) : MemForm (addNodeItems p l base args n i s).1 := by
  induction n generalizing i s with
  | zero => exact h
  | succ n ih =>
    rw [addNodeItems]
    split
    · exact h
    · exact ih (addReleased_form h)

@[simp] theorem seedItems_form {p} (h : MemForm s) : MemForm (seedItems s p) := by
  rw [seedItems]
  dsimp only
  split
  · next l base _ _ =>
    have added := fun args n i => addNodeItems_form (p := p) (l := l) (base := base) (args := args) (n := n) (i := i) h
    (repeat' split) <;> simp [added]
  · exact h

@[simp] theorem joinNode_form {p l} (h : MemForm s) : MemForm (joinNode s p l) := by
  rw [joinNode]
  split <;> simp [h]

@[simp] theorem startNode_form {p} (h : MemForm s) : MemForm (startNode s p) := by
  rw [startNode]
  dsimp only
  split
  · (repeat' split) <;> simp [h]
  · refine openLaunch_form h fun t i ht => ?_
    (repeat' split) <;> simp [ht]

@[simp] theorem withLaunch_form {pid node} (h : MemForm s) : OutForm (withLaunch s pid node) := by
  refine withPkt_form h fun p t ht => ?_
  (repeat' split) <;> simp [ht]

@[simp] theorem execLaunchGrid_form {pid} (h : MemForm s) : OutForm (execLaunchGrid pid s) := by
  simp [execLaunchGrid, h]

@[simp] theorem execLaunchNode_form {pid} (h : MemForm s) : OutForm (execLaunchNode pid s) := by
  simp [execLaunchNode, h]

@[simp] theorem execLaunchAdmit_form {pid} (h : MemForm s) : OutForm (execLaunchAdmit pid s) := by
  rw [execLaunchAdmit]
  split <;> simp [h]

/-! The form is kept: collectives. -/

@[simp] theorem tellFailed_form {p} (h : MemForm s) : MemForm (tellFailed s p) := by simp [tellFailed, h]

theorem withColl_form {pid rpart} {run : Packet → State → State} (h : MemForm s) (hr : ∀ p t, MemForm t → MemForm (run p t)) :
    OutForm (withColl s pid rpart run) := by
  rw [withColl]
  (repeat' split) <;> simp [h, hr]

@[simp] theorem execColl_form {pid} (h : MemForm s) : OutForm (execColl pid s) := by
  refine withColl_form h fun p t ht => ?_
  (repeat' split) <;> simp [ht]

@[simp] theorem moveColl_form {c p peers} (h : MemForm s) : MemForm (moveColl s c p peers) := by
  simp only [moveColl]
  (repeat' split) <;> simp [h]

/-! The form is kept: control instructions. -/

theorem spill_form {paths t} (h : MemForm s) (ht : spill s paths = some t) : MemForm t := by
  rw [spill] at ht
  dsimp only at ht
  (repeat' split at ht) <;> cases ht
  · exact h
  · refine (foldl_form_iff _ _ (fun u r => releaseRec_form_iff u r) _).2 (addRecs_form (drain_form ?_))
    simpa using h

@[simp] theorem transfer_form {paths} (h : MemForm s) : StepForm (transfer s paths) := by
  simp only [transfer]
  split
  · simpa using h
  · split
    · trivial
    · split
      · next hs => simpa using spill_form h hs
      · simpa using h

@[simp] theorem branchTo_form {prio t act} (h : MemForm s) : StepForm (branchTo prio t s act) := by simp [branchTo, h]

@[simp] theorem jumpLanes_form {prio a act} (h : MemForm s) : StepForm (jumpLanes prio a s act) := by
  simp [jumpLanes, h]

@[simp] theorem execIll_form (h : MemForm s) : OutForm (execIll s) := by simp [execIll, h]

@[simp] theorem execNop_form {c} (h : MemForm s) : OutForm (execNop c s) :=
  issue_form h fun t m ht => by simp [ht]

@[simp] theorem execBraRel_form {c prio off} (h : MemForm s) : OutForm (execBraRel c prio off s) :=
  issue_form h fun t m ht => by simp [ht]

@[simp] theorem branchEntry_form {prio t} (h : MemForm s) : StepForm (branchEntry prio t s) := by simp [branchEntry, h]

@[simp] theorem execBraAny_form {c prio off} (h : MemForm s) : OutForm (execBraAny c prio off s) :=
  issue_form h fun t m ht => by simp [ht]

@[simp] theorem execBraAll_form {c prio off} (h : MemForm s) : OutForm (execBraAll c prio off s) :=
  issueWith_form (fun t m ht => by split <;> simp [ht]) h

@[simp] theorem execJumpLane_form {c prio a} (h : MemForm s) : OutForm (execJumpLane c prio a s) :=
  issue_form h fun t m ht => by simp [ht]

@[simp] theorem execJumpWarp_form {c prio a} (h : MemForm s) : OutForm (execJumpWarp c prio a s) :=
  issue_form h fun t m ht => by simp [ht]

@[simp] theorem execCallRel_form {c prio d off} (h : MemForm s) : OutForm (execCallRel c prio d off s) :=
  issue_form h fun t m ht => by simp [ht]

@[simp] theorem execCallS_form {c prio d a} (h : MemForm s) : OutForm (execCallS c prio d a s) :=
  issue_form h fun t m ht => by simp [ht]

@[simp] theorem execRet_form {c prio a} (h : MemForm s) : OutForm (execRet c prio a s) :=
  issue_form h fun t m ht => by simp [ht]

@[simp] theorem execSplit_form {c} (h : MemForm s) : OutForm (execSplit c s) := by
  refine issue_form h fun t m ht => ?_
  dsimp only
  split
  · trivial
  · split
    · next hs => simpa using spill_form ht hs
    · simpa using ht

theorem arriveBar_form {cl b part r} (h : MemForm s) (hr : arriveBar s cl b part = some r) : MemForm r.1 := by
  rw [arriveBar] at hr
  dsimp only at hr
  split at hr
  · cases hr
  · cases hr
    simp [h]

@[simp] theorem execBarWait_form {c bar cl} (h : MemForm s) : OutForm (execBarWait c bar cl s) := by
  refine issue_form h fun t m ht => ?_
  dsimp only
  split
  · split <;> exact ht
  · split
    · simpa using ht
    · next hr =>
      have arrived := arriveBar_form ht hr
      split <;> exact arrived

@[simp] theorem execBarPost_form {c bar cl d} (h : MemForm s) : OutForm (execBarPost c bar cl d s) := by
  refine issue_form h fun t m ht => ?_
  split
  · simpa using ht
  · next hr => simpa using arriveBar_form ht hr

@[simp] theorem afterExit_form (h : MemForm s) : MemForm (afterExit s) := by simp [afterExit, h]

@[simp] theorem exitStep_form (h : MemForm s) : StepForm (exitStep s) := by simp [exitStep, h]

@[simp] theorem execExit_form {c} (h : MemForm s) : OutForm (execExit c s) := by
  rw [execExit]
  split
  · next heq =>
    refine outForm_next.2 (dissolveDead_form (issue_form h (fun t m ht => ?_) _ heq))
    simp [ht]
  · exact issue_form h fun t m ht => by simp [ht]

@[simp] theorem execYield_form {c} (h : MemForm s) : OutForm (execYield c s) :=
  issue_form h fun t m ht => by simp [ht]

@[simp] theorem execJoinc_form {c} (h : MemForm s) : OutForm (execJoinc c s) :=
  issue_form h fun t m ht => by simp [ht]

@[simp] theorem waitEvent_form {ev} (h : MemForm s) : StepForm (waitEvent s ev) := by simp [waitEvent, h]

@[simp] theorem execWaiteTile_form {c t} (h : MemForm s) : OutForm (execWaiteTile c t s) := by
  refine issue_form h fun u m hu => ?_
  split
  · trivial
  · exact waitEvent_form hu

@[simp] theorem execWaiteBatch_form {c b} (h : MemForm s) : OutForm (execWaiteBatch c b s) :=
  issue_form h fun t m ht => by simp [ht]

theorem withWord_form {br i n} {f : State → LaneAcc → Step} (h : MemForm s) (hf : ∀ t x, MemForm t → StepForm (f t x)) :
    StepForm (withWord s br i n f) := by
  rw [withWord]
  dsimp only
  split
  · trivial
  · refine withWalks_form h ?_
    split
    · trivial
    · exact hf _ _ (by simpa using h)

@[simp] theorem waitLoc_form {x n ev cond cmp} (h : MemForm s) : StepForm (waitLoc s x n ev cond cmp) := by
  rw [waitLoc]
  (repeat' split) <;> simp [h, waitEvent]

@[simp] theorem execWaiteWord_form {c cond w64 br b r} (h : MemForm s) : OutForm (execWaiteWord c cond w64 br b r s) := by
  refine issue_form h fun u m hu => withWord_form hu fun t x ht => ?_
  split
  · exact waitPage_form ht
  · exact waitLoc_form ht
  · exact ht

@[simp] theorem execWaiteJoin_form {c a} (h : MemForm s) : OutForm (execWaiteJoin c a s) := by
  refine issue_form h fun u m hu => ?_
  dsimp only
  split
  · trivial
  · refine withWalks_form hu ?_
    split <;> simp [hu]

@[simp] theorem execWaiteBar_form {c bar cl a} (h : MemForm s) : OutForm (execWaiteBar c bar cl a s) :=
  issue_form h fun t m ht => by simp [ht]

@[simp] theorem execWaiteGtc_form {c a} (h : MemForm s) : OutForm (execWaiteGtc c a s) :=
  issue_form h fun t m ht => by simp [ht]

@[simp] theorem execWaitePage_form {c br b} (h : MemForm s) : OutForm (execWaitePage c br b s) := by
  refine issue_form h fun u m hu => withWord_form hu fun t x ht => ?_
  split
  · exact askPage_keepsForm ht
  · exact waitEvent_form ht

@[simp] theorem execWaiteColl_form {c a} (h : MemForm s) : OutForm (execWaiteColl c a s) :=
  issue_form h fun t m ht => by simp [ht]

@[simp] theorem addItems_form {rs} (h : MemForm s) : MemForm (addItems s rs).1 := addRecs_form h

theorem tableLoad_form {t} {f : State → List Byte → Step} (hf : ∀ t bs, MemForm t → StepForm (f t bs)) (h : MemForm s) :
    StepForm (tableLoad s t f) := by
  rw [tableLoad]
  split
  · exact hf _ _ h
  · exact recLoad_form (fun t bs ht => hf _ _ ht) h

@[simp] theorem spawnImage_form {na iv jv b regions act img} (h : MemForm s) : StepForm (spawnImage na iv jv b regions act img s) := by
  simp [spawnImage, h]

@[simp] theorem spawnBody_form {na d a b regions act} (h : MemForm s) : StepForm (spawnBody na d a b regions s act) := by
  unfold spawnBody
  dsimp only
  split
  all_goals
    split
    · trivial
    · split
      · trivial
      · refine recLoad_form (fun t bs ht => ?_) h
        split
        · trivial
        · refine tableLoad_form (fun t rs ht => ?_) ht
          split
          · trivial
          · refine tableLoad_form (fun t ts ht => ?_) ht
            split
            · trivial
            · exact spawnImage_form ht

@[simp] theorem execSpawnNode_form {c na d a b} (h : MemForm s) : OutForm (execSpawnNode c na d a b s) :=
  issue_form h fun t m ht => by simp [ht]

@[simp] theorem execSpawnStage_form {c na k d a b r} (h : MemForm s) : OutForm (execSpawnStage c na k d a b r s) :=
  issue_form h fun t m ht => by simp [ht]

@[simp] theorem forward_form {kind target} (h : MemForm s) : StepForm (forward kind target s) := by
  simp only [forward]
  (repeat' split) <;> simp [h]

@[simp] theorem execFwd_form {c t} (h : MemForm s) : OutForm (execFwd c t s) := by
  refine issue_form h fun t m ht => ?_
  dsimp only
  (repeat' split) <;> simp [ht]

@[simp] theorem refillLanes_form_iff {d p lanes base lim} : MemForm (refillLanes d p lanes base lim s).1 ↔ MemForm s := by
  simp [refillLanes]

@[simp] theorem refillEnd_form {out late} (h : MemForm s) : StepForm (refillEnd out late s) := by simp [refillEnd, h]

@[simp] theorem refillBody_form {d a b p act} (h : MemForm s) : StepForm (refillBody d a b p s act) := by
  rw [refillBody]
  dsimp only
  split
  · simp [h]
  · split
    · simpa using h
    · split
      · trivial
      · refine withWalks_form h ?_
        split
        · trivial
        · trivial
        · simp [h]
        · refine refillEnd_form (refillLanes_form_iff.2 ?_)
          (repeat' split) <;> simp [h]

@[simp] theorem execRefill_form {c sc d a b p} (h : MemForm s) : OutForm (execRefill c sc d a b p s) := by
  have ran : OutForm (issue (.refill c sc d a b p) c (refillBody d a b p) s) := issue_form h fun t m ht => refillBody_form ht
  rw [execRefill]
  split
  · next heq => exact outForm_next.2 (dissolveDead_form (ran _ heq))
  · exact ran

@[simp] theorem execTrap_form {c detail} (h : MemForm s) : OutForm (execTrap c detail s) := issue_form h fun t m ht => by
  simp

@[simp] theorem tretBody_form {a kill act} (h : MemForm s) : StepForm (tretBody a kill s act) := by
  simp only [tretBody]
  (repeat' split) <;> simp [h]

@[simp] theorem execTret_form {c a} (h : MemForm s) : OutForm (execTret c a s) :=
  issue_form h fun t m ht => by simp [ht]

@[simp] theorem execTretKill_form {c a} (h : MemForm s) : OutForm (execTretKill c a s) :=
  issue_form h fun t m ht => by simp [ht]

@[simp] theorem execSrd_form {c w64 num d} (h : MemForm s) : OutForm (execSrd c w64 num d s) :=
  issue_form h fun t m ht => by simp [ht]

@[simp] theorem execSwr_form {c w64 num a} (h : MemForm s) : OutForm (execSwr c w64 num a s) :=
  issue_form h fun t m ht => by simp [ht]

/-! The form is kept: repartitioning. -/

@[simp] theorem rpFail_form {p cid unitw status} (h : MemForm s) : MemForm (rpFail s p cid unitw status) := by
  simp only [rpFail]
  (repeat' split) <;> simp [h]

@[simp] theorem collFail_form {c status} (h : MemForm s) : MemForm (collFail s c status) := by
  rw [collFail]
  split <;> simp [h]

@[simp] theorem execCollRpartPacket_form {pid} (h : MemForm s) : OutForm (execCollRpartPacket pid s) := by
  refine withColl_form h fun p t ht => ?_
  dsimp only
  (repeat' split) <;> simp [ht]

theorem withCollAt_form {cid} {run : Coll → Packet → State → State} (h : MemForm s) (hr : ∀ c p t, MemForm t → MemForm (run c p t)) :
    OutForm (withCollAt s cid run) := by
  rw [withCollAt]
  (repeat' split) <;> simp [h, hr]

@[simp] theorem execCollSignature_form {cid rank ok sig} (h : MemForm s) : OutForm (execCollSignature cid rank ok sig s) := by
  refine withCollAt_form h fun c p t ht => ?_
  dsimp only
  (repeat' split) <;> simp [ht]

@[simp] theorem execCollComplete_form {cid peers} (h : MemForm s) : OutForm (execCollComplete cid peers s) := by
  refine withCollAt_form h fun c p t ht => ?_
  (repeat' split) <;> simp [ht]

theorem readItems_form {c p} {go : State → List LocalItem → State} (h : MemForm s) (hg : ∀ t l, MemForm t → MemForm (go t l)) :
    MemForm (readItems s c p go) := by
  rw [readItems]
  dsimp only
  split
  · simp [h]
  · simp [h]
  · exact hg _ _ (readLines_form h)

theorem putBytes_form {c p va bytes} {go : State → State} (h : MemForm s) (hg : ∀ t, MemForm t → MemForm (go t)) :
    MemForm (putBytes s c p va bytes go) := by
  rw [putBytes]
  split
  · simp [h]
  · simp [h]
  · exact hg _ (by simp [h])

@[simp] theorem keypass_form {c p} (h : MemForm s) : MemForm (keypass s c p) := by
  refine readItems_form h fun t l ht => ?_
  split
  · simp [ht]
  · exact putBytes_form ht fun u hu => by simpa using hu

@[simp] theorem execRpartKeypass_form {cid} (h : MemForm s) : OutForm (execRpartKeypass cid s) := by
  refine withCollAt_form h fun c p t ht => ?_
  (repeat' split) <;> simp [ht]

@[simp] theorem execRpartReduce_form {cid peers} (h : MemForm s) : OutForm (execRpartReduce cid peers s) := by
  refine withCollAt_form h fun c p t ht => ?_
  dsimp only
  split
  · exact ht
  · split
    · simp [ht]
    · exact putBytes_form ht fun u hu => by simpa using hu

@[simp] theorem execRpartRefine_form {cid peers} (h : MemForm s) : OutForm (execRpartRefine cid peers s) := by
  refine withCollAt_form h fun c p t ht => ?_
  split
  · exact ht
  · exact readItems_form ht fun u l hu => putBytes_form hu fun v hv => by simpa using hv

@[simp] theorem execRpartAssign_form {cid counts caps} (h : MemForm s) : OutForm (execRpartAssign cid counts caps s) := by
  refine withCollAt_form h fun c p t ht => ?_
  dsimp only
  split
  · exact ht
  · refine readItems_form ht fun u l hu => ?_
    split <;> simp [hu]

@[simp] theorem execRpartMoveDone_form {cid peers} (h : MemForm s) : OutForm (execRpartMoveDone cid peers s) := by
  refine withCollAt_form h fun c p t ht => ?_
  dsimp only
  split
  · exact ht
  · refine readItems_form ht fun u l hu => ?_
    have cells : ∀ {sp key k cells}, MemForm (writeCells u sp key k cells) := writeCells_form hu
    split <;> simp [hu, cells]

@[simp] theorem execRpartWeightFail_form {cid} (h : MemForm s) : OutForm (execRpartWeightFail cid s) :=
  withCollAt_form h fun c p t ht => by split <;> simp [ht]

/-! The form is kept: resharding. -/

@[simp] theorem readSrc_form {p q pkg vls} (h : MemForm s) : MemForm (readSrc s p q pkg vls).1 :=
  foldl_pair_form (fun a vl ha => by (repeat' split) <;> simp [ha]) h

theorem putProgress_form {p r state status t} (h : MemForm s) (ht : putProgress s p r state status = .ok t) : MemForm t := by
  simp only [putProgress] at ht
  split at ht <;> cases ht
  simp [h]

@[simp] theorem rsFinish_form {p r} (h : MemForm s) : MemForm (rsFinish s p r) := by
  have hs : ∀ f, MemForm (setRshd s p.pid f) := fun f => (setRshd_form_iff ..).2 h
  have put : ∀ {f r state status t}, putProgress (setRshd s p.pid f) p r state status = .ok t → MemForm t := fun hp =>
    putProgress_form (hs _) hp
  simp only [rsFinish]
  split
  · exact hs _
  · split
    · split
      · next hp => simpa using put hp
      · simp [hs]
      · simpa using h
      · exact hs _
    · split
      · split
        · next hp => simpa using put hp
        · simp [hs]
        · simpa using h
        · exact hs _
      · split
        · next hp => exact memForm_update.2 (put hp)
        · simp [hs]
        · simpa using h
        · exact hs _

theorem writeRunning_form {p r x} (h : MemForm s) (hx : writeRunning s p r = .ok x) : MemForm x.1 := by
  rw [writeRunning] at hx
  split at hx <;> cases hx
  next hp => exact putProgress_form h hp

@[simp] theorem keepProgress_form {p r} (h : MemForm s) : MemForm (keepProgress s p r) := by
  rw [keepProgress]
  split
  · exact rsFinish_form h
  · split
    · next hw => exact rsFinish_form (writeRunning_form h hw)
    · exact rsFinish_form h

@[simp] theorem rshdStart_form {p buf x} (h : MemForm s) : MemForm (rshdStart s p buf x) := by
  rw [rshdStart]
  dsimp only
  split
  · simpa using h
  · split
    · next hp => exact rsFinish_form (putProgress_form (by simpa using h) hp)
    · exact rsFinish_form (by simpa using h)

@[simp] theorem execRshd_form {pid} (h : MemForm s) : OutForm (execRshd pid s) := by
  refine withPkt_form h fun p t ht => ?_
  dsimp only
  (repeat' split) <;> simp [ht]

theorem withTransfer_form {pid i} {run : Packet → Rshd → RsPlan → Nat × Nat → State} (h : MemForm s)
    (hr : ∀ p r q t, MemForm (run p r q t)) : OutForm (withTransfer s pid i run) := by
  simp only [withTransfer]
  (repeat' split) <;> simp [h, hr]

@[simp] theorem execRshdTransferDone_form {pid i} (h : MemForm s) : OutForm (execRshdTransferDone pid i s) := by
  refine withTransfer_form h fun p r q t => ?_
  split
  · exact h
  · split <;> simp [h]
  · exact keepProgress_form (writeCells_form (readSrc_form h))

@[simp] theorem transferPart_form {p q t} (h : MemForm s) : MemForm (transferPart s p q t) := by simp [transferPart, h]

@[simp] theorem execRshdTransferFail_form {pid i memerr} (h : MemForm s) : OutForm (execRshdTransferFail pid i memerr s) := by
  refine withTransfer_form h fun p r q t => ?_
  split <;> simp [h]

@[simp] theorem execRshdProgressWrite_form {pid} (h : MemForm s) : OutForm (execRshdProgressWrite pid s) := by
  rw [execRshdProgressWrite]
  split
  · split
    · next hw => simp [writeRunning_form h hw]
    · simp [h]
    · simp [h]
  · simpa using h

/-! The form is kept: the host's registers. -/

@[simp] theorem registerQueue_form {n} (h : MemForm s) : MemForm (registerQueue s n) := by
  rw [registerQueue]
  split <;> simp [h]

@[simp] theorem execQreg_form {vi value} (h : MemForm s) : OutForm (execQreg vi value s) := by simp [execQreg, h]

@[simp] theorem execQregFinish_form {vi hva} (h : MemForm s) : OutForm (execQregFinish vi hva s) := by
  rw [execQregFinish]
  split <;> simp [h]

@[simp] theorem abortColls_form {q} (h : MemForm s) : MemForm (abortColls s q) := by
  refine foldl_holds MemForm _ _ (fun t b ht => ?_) _ h
  simp [ht]

@[simp] theorem restartQueue_form {q} (h : MemForm s) : MemForm (restartQueue s q) := by
  rw [restartQueue]
  dsimp only
  split
  · simpa using h
  · split
    · simpa using h
    · next hw =>
      have written := writeVa_form _ _ _ _ _ h hw
      simp [written]

@[simp] theorem execQreset_form {vi value} (h : MemForm s) : OutForm (execQreset vi value s) := by
  simp only [execQreset]
  (repeat' split) <;> simp [h]

@[simp] theorem execQunreg_form {vi value} (h : MemForm s) : OutForm (execQunreg vi value s) := by
  simp only [execQunreg]
  (repeat' split) <;> simp [h]

@[simp] theorem execQunregFinish_form {vi hva} (h : MemForm s) : OutForm (execQunregFinish vi hva s) := by
  rw [execQunregFinish]
  split <;> simp [h]

@[simp] theorem execInvreqRange_form {vi req} (h : MemForm s) : OutForm (execInvreqRange vi req s) := by
  simp [execInvreqRange, h]

@[simp] theorem execInvreqWholeAsid_form {vi req} (h : MemForm s) : OutForm (execInvreqWholeAsid vi req s) := by
  simp [execInvreqWholeAsid, h]

@[simp] theorem drainCovered_form {r} (h : MemForm s) : MemForm (drainCovered s r) :=
  foldl_holds MemForm _ _ (fun t w ht => onWarp_form (fun u hu => by split <;> simp [hu]) ht) s h

@[simp] theorem execInvalidationComplete_form {vi} (h : MemForm s) : OutForm (execInvalidationComplete vi s) := by
  have shadowed : ∀ {t : State} {l : List TlbEnt}, MemForm t → MemForm (l.foldl shadowRecord t) := fun ht =>
    foldl_holds MemForm _ _ (fun _ _ hu => shadowRecord_form hu) _ ht
  simp only [execInvalidationComplete]
  split
  · simpa using h
  · split
    · exact outForm_next.2 (drainCovered_form h)
    · simp only [outForm_next, setVi_form_iff, staleAfter_form_iff, memForm_update]
      exact shadowed (memForm_update.2 (drainCovered_form h))

@[simp] theorem execPgring_form {vi value} (h : MemForm s) : OutForm (execPgring vi value s) := by simp [execPgring, h]

@[simp] theorem execPgringRetry_form {vi} (h : MemForm s) : OutForm (execPgringRetry vi s) := by
  simp [execPgringRetry, h]

@[simp] theorem execPgdone_form {vi value} (h : MemForm s) : OutForm (execPgdone vi value s) := by simp [execPgdone, h]

theorem postReport_form {r t} (h : MemForm s) (ht : postReport s r = some t) : MemForm t := by
  rw [postReport] at ht
  dsimp only at ht
  (repeat' split at ht) <;> try cases ht
  obtain ⟨u, hu, ht⟩ := Option.bind_eq_some_iff.1 ht
  obtain ⟨v, hv, rfl⟩ := Option.map_eq_some_iff.1 ht
  simpa using writeVa_form _ _ _ _ _ (writeVa_form _ _ _ _ _ h hu) hv

@[simp] theorem postReports_form {vi} (h : MemForm s) : MemForm (postReports s vi) := by
  refine foldl_pair_form (fun a r ha => ?_) h
  split
  · exact ha
  · split
    · next hp => exact postReport_form ha hp
    · exact ha

@[simp] theorem execRepring_form {vi value} (h : MemForm s) : OutForm (execRepring vi value s) := by
  simp [execRepring, h]

@[simp] theorem execReportRingRetry_form {vi} (h : MemForm s) : OutForm (execReportRingRetry vi s) := by
  simp [execReportRingRetry, h]

@[simp] theorem execCtrl_form {vi value} (h : MemForm s) : OutForm (execCtrl vi value s) := by simp [execCtrl, h]

@[simp] theorem execCtlasid_form {vi value} (h : MemForm s) : OutForm (execCtlasid vi value s) := by
  simp [execCtlasid, h]

@[simp] theorem execAper_form {vi w value} (h : MemForm s) : OutForm (execAper vi w value s) := by simp [execAper, h]

@[simp] theorem execRegisterWriteOther_form {_vi _off _width _value} (h :
    MemForm s) : OutForm (execRegisterWriteOther _vi _off _width _value s) := by
  simp [execRegisterWriteOther, h]

@[simp] theorem execRegisterPieceWrite_form {vi reg off data} (h : MemForm s) : OutForm (execRegisterPieceWrite vi reg off data s) := by
  simp [execRegisterPieceWrite, h]

@[simp] theorem execHostWindowRead_form {vi off n} (h : MemForm s) : OutForm (execHostWindowRead vi off n s) := by
  simp only [execHostWindowRead]
  (repeat' split) <;> simp [h]

@[simp] theorem execHostWindowWrite_form {vi off data} (h : MemForm s) : OutForm (execHostWindowWrite vi off data s) := by
  simp only [execHostWindowWrite]
  (repeat' split) <;> simp [h]

@[simp] theorem execHostWindowAtomicop_form {vi off op w64 x y} (h : MemForm s) : OutForm (execHostWindowAtomicop vi off op w64 x y s) := by
  simp only [execHostWindowAtomicop]
  (repeat' split) <;> simp [h]

@[simp] theorem execSpdmRequest_form {msg} (h : MemForm s) : OutForm (execSpdmRequest msg s) := by
  simp [execSpdmRequest, h]

/-! The form is kept: firmware. -/

theorem takeReq_form {vi seq code op t} (h : MemForm s) (ht : takeReq s vi seq code op = some t) : MemForm t := by
  rw [takeReq] at ht
  dsimp only at ht
  (repeat' split at ht) <;> cases ht <;> simpa using h

theorem service_form {vi seq code op} {run : State → Svc} (h : MemForm s) (hr : ∀ t, MemForm t → SvcForm (run t)) :
    OutForm (service vi seq code op run s) := by
  rw [service]
  split
  · simpa using h
  · split
    · simpa using h
    · next ht =>
      have taken := takeReq_form h ht
      split
      · simpa using taken
      · have ran := hr _ ((beginReq_form_iff _ vi seq).2 taken)
        split <;> next heq => rw [heq] at ran; simpa using ran

theorem pfService_form {vi target run} (h : MemForm s) (hr : SvcForm run) : SvcForm (pfService vi target run s) := by
  simp [pfService, h, hr]

@[simp] theorem execGrantAsidsOrKeySlots_form {vi seq target asids keys} (h : MemForm s) :
    OutForm (execGrantAsidsOrKeySlots vi seq target asids keys s) := by
  refine service_form h fun t ht => pfService_form ht ?_
  (repeat' split) <;> simp [ht]

@[simp] theorem execWriteAsidEntry_form {vi seq asid entry} (h : MemForm s) : OutForm (execWriteAsidEntry vi seq asid entry s) :=
  service_form h fun t ht => by simp [ht]

@[simp] theorem execWriteOrEmptyKeySlot_form {vi seq slot key} (h : MemForm s) : OutForm (execWriteOrEmptyKeySlot vi seq slot key s) :=
  service_form h fun t ht => by simp [ht]

@[simp] theorem execBindOrUnbindStream_form {vi seq stream target} (h : MemForm s) :
    OutForm (execBindOrUnbindStream vi seq stream target s) := by
  refine service_form h fun t ht => pfService_form ht ?_
  (repeat' split) <;> simp [ht]

@[simp] theorem execRegisterHandler_form {vi seq asid image} (h : MemForm s) : OutForm (execRegisterHandler vi seq asid image s) := by
  refine service_form h fun t ht => ?_
  dsimp only
  (repeat' split) <;> simp [ht]

@[simp] theorem execRegisterMulticastGroup_form {vi seq grp plane pkgs} (h :
    MemForm s) : OutForm (execRegisterMulticastGroup vi seq grp plane pkgs s) :=
  service_form h fun t ht => by simp [ht]

@[simp] theorem execPoolSize_form {vi seq target size base} (h : MemForm s) : OutForm (execPoolSize vi seq target size base s) := by
  refine service_form h fun t ht => pfService_form ht ?_
  dsimp only
  (repeat' split) <;> simp [ht]

@[simp] theorem execSetWeightsAndWatchdogs_form {vi seq target cw wt hwdog seglim} (h : MemForm s) :
    OutForm (execSetWeightsAndWatchdogs vi seq target cw wt hwdog seglim s) := by
  refine service_form h fun t ht => pfService_form ht ?_
  split <;> simp [ht]

@[simp] theorem execRackBudget_form {vi seq watts} (h : MemForm s) : OutForm (execRackBudget vi seq watts s) :=
  service_form h fun _ ht => pfService_form ht (by simpa using ht)

@[simp] theorem dropLaunch_form {l} (h : MemForm s) : MemForm (dropLaunch s l) := by
  refine memForm_update.2 (foldl_holds MemForm _ _ (fun _ _ ht => freeCrewTiles_form ht) _ ?_)
  refine foldl_holds MemForm _ _ (fun t g ht => ?_) s h
  exact foldl_holds MemForm _ _ (fun u a hu => (clearAcc_form_iff ..).2 hu) t ht

@[simp] theorem execResetInterface_form {vi seq target} (h : MemForm s) : OutForm (execResetInterface vi seq target s) := by
  refine service_form h fun t ht => pfService_form ht ?_
  have dropped : ∀ {l : List Launch}, MemForm (l.foldl dropLaunch t) := fun {l} =>
    foldl_holds MemForm _ _ (fun _ _ hu => dropLaunch_form hu) _ ht
  have unbound : ∀ {u : State} {l : List (BitVec 6)}, MemForm u → MemForm (settle (l.foldl unbindStream u)) := fun hu =>
    settle_form (foldl_holds MemForm _ _ (fun _ _ hv => (unbindStream_form_iff ..).2 hv) _ hu)
  dsimp only
  split
  all_goals
    refine unbound ((foldl_form_iff _ _ (fun u k => memForm_update) _).2 ?_)
    simpa using dropped

@[simp] theorem execUpdateFirmware_form {vi seq image svn ok} (h : MemForm s) : OutForm (execUpdateFirmware vi seq image svn ok s) := by
  refine service_form h fun t ht => pfService_form ht ?_
  split <;> exact ht

theorem ownLaunch_form {vi launch} {run : Launch → Svc} (h : MemForm s) (hr : ∀ l, SvcForm (run l)) : SvcForm (ownLaunch s vi launch run) := by
  rw [ownLaunch]
  (repeat' split) <;> simp [h, hr]

@[simp] theorem execSuspendLaunch_form {vi seq launch} (h : MemForm s) : OutForm (execSuspendLaunch vi seq launch s) := by
  refine service_form h fun t ht => ownLaunch_form ht fun l => ?_
  have saved : MemForm (saveCrews (suspend t l.id)) := by simp [ht]
  dsimp only
  split <;> exact saved

@[simp] theorem execResumeLaunch_form {vi seq launch} (h : MemForm s) : OutForm (execResumeLaunch vi seq launch s) :=
  service_form h fun t ht => ownLaunch_form ht fun l => by simpa using ht

@[simp] theorem execSwitchInterfaceOut_form {vi seq target} (h : MemForm s) : OutForm (execSwitchInterfaceOut vi seq target s) :=
  service_form h fun t ht => by simp [ht]

@[simp] theorem execViSwitchedOut_form {vi} (h : MemForm s) : OutForm (execViSwitchedOut vi s) := by
  rw [execViSwitchedOut]
  split <;> simp [h]

@[simp] theorem execSwitchInterfaceIn_form {vi seq target} (h : MemForm s) : OutForm (execSwitchInterfaceIn vi seq target s) := by
  refine service_form h fun t ht => ?_
  have mapped : ∀ {u : State} {l : List Queue} {f}, MemForm u → MemForm (retest (l.foldl mapQueue u) f) := fun hu =>
    (retest_form_iff ..).2 (foldl_holds MemForm _ _ (fun _ _ hv => mapQueue_form hv) _ hu)
  split
  · exact ht
  · split
    · exact ht
    · split
      · exact ht
      · dsimp only
        split <;> exact mapped ((setVi_form_iff ..).2 ht)

@[simp] theorem adoptRec_form {m} (h : MemForm s) : MemForm (adoptRec s m) := by
  rw [adoptRec]
  split <;> simp [h]

@[simp] theorem execAdoptDurableLaunches_form {vi seq pkg} (h : MemForm s) : OutForm (execAdoptDurableLaunches vi seq pkg s) := by
  refine service_form h fun t ht => ?_
  split
  · exact ht
  · split
    · exact ht
    · exact foldl_holds MemForm _ _ (fun _ _ hu => adoptRec_form hu) _ (memForm_update.2 ht)

@[simp] theorem execDeviceInformation_form {vi seq asid va} (h : MemForm s) : OutForm (execDeviceInformation vi seq asid va s) := by
  refine service_form h fun t ht => ?_
  dsimp only
  (repeat' split) <;> simp [ht]

@[simp] theorem execLeaseTry_form {sector} (h : MemForm s) : OutForm (execLeaseTry sector s) := by
  rw [execLeaseTry]
  split <;> simp [h]

@[simp] theorem execLeaseRenew_form {sector} (h : MemForm s) : OutForm (execLeaseRenew sector s) := by
  rw [execLeaseRenew]
  split <;> simp [h]

@[simp] theorem execLeaseExpire_form {sector} (h : MemForm s) : OutForm (execLeaseExpire sector s) := by
  rw [execLeaseExpire]
  split <;> simp [h]

@[simp] theorem execPackageReset_form (h : MemForm s) : OutForm (execPackageReset s) :=
  outForm_next.2 ⟨filter_mwf 0 s.mem _ h.1, (landHost_form s h).2.1, rfl⟩

@[simp] theorem execLinkTrainingDone_form (h : MemForm s) : OutForm (execLinkTrainingDone s) := by
  simp [execLinkTrainingDone, h]

@[simp] theorem execImageVerificationDone_form {sector ok} (h : MemForm s) : OutForm (execImageVerificationDone sector ok s) := by
  rw [execImageVerificationDone]
  split <;> simp [h]

@[simp] theorem execPeerFetch_form {sector} (h : MemForm s) : OutForm (execPeerFetch sector s) := by
  rw [execPeerFetch]
  split <;> simp [h]

@[simp] theorem execHbmTrainingDone_form (h : MemForm s) : OutForm (execHbmTrainingDone s) := by
  rw [execHbmTrainingDone]
  split
  · simpa using h
  · exact outForm_next.2 ⟨filter_mwf 0 s.mem _ h.1, h.2.1, h.2.2⟩

/-! The form is kept: fetch. -/

@[simp] theorem bufferLine_form {core sp ip} (h : MemForm s) : MemForm (bufferLine s core sp ip) := by
  refine foldl_holds MemForm _ _ (fun t j ht => ?_) _ ((codeRoom_form_iff ..).2 h)
  dsimp only
  split <;> simpa using ht

@[simp] theorem decodeTrap_form {w e} (h : MemForm s) : MemForm (decodeTrap s w e) := by
  simp only [decodeTrap]
  (repeat' split) <;> simp [h]

@[simp] theorem codeFail_form {detail line} (h : MemForm s) : MemForm (codeFail s detail line) := by simp [codeFail, h]

/-- Every instruction and event keeps the memories in their form. -/
theorem exec_form {i : Instr} (h : MemForm s) : OutForm (exec i s) := by
  cases i with
  | iadd | isub | imul | imulh | imin | imax => simp only [exec]; exact intOp2_form h
  | and | or | xor => simp only [exec]; exact logicOp_form h
  | fadd | fsub | fmul | ffma | fscl | fdt2 => simp only [exec]; exact fsumOp_form h
  | cmul | cfma | bfly | bfl4 => simp only [exec]; exact zOp_form h
  | collRs | collAg | collA2a | collRpart => simp only [exec]; exact collBody_form h
  | imad | iabs | shl | shr | rot | popc | clz | brev | bfx | bfi | icmp | sel | lea | plop | fmin | fmax | fcmp | frcp | frsq | fsqrt
  | fex2 | flg2 | fsin | fcos | fcls | frnd | fdiv | mov | moviLo | moviHi | cvt | pack | unpk | qswp | qred | vote | pmovTomask
  | pmovTopred | lred | prfx | bcst | mtch => simp only [exec]; exact laneOp_form h
  | _ => simp [exec, h]

theorem runWord_form {w} (h : MemForm s) : OutForm (runWord s w) := by
  rw [runWord]
  split
  · simp [h]
  · split
    · exact exec_form h
    · simp [h]

theorem fetchWord_form (h : MemForm s) : OutForm (fetchWord s) := by
  simp only [fetchWord]
  split
  · simp [h]
  · split
    · exact runWord_form (by simp [h])
    · simp [h]
    · simp [h]
    · simp [h]

theorem fetchIssue_form (h : MemForm s) : OutForm (fetchIssue s) := by
  simp only [fetchIssue]
  split
  · exact outForm_next.2 h
  · split
    · simp [h]
    · split
      · exact runWord_form h
      · exact fetchWord_form h

theorem act_form (h : MemForm s) : OutForm (act s) := by
  have landed : MemForm (if s.hostWrites = [] then s else landHost s) := by split <;> simp [h]
  simp only [act]
  split
  · split
    · exact exec_form (memForm_update.2 landed)
    · exact outForm_next.2 landed
  · have picked := (takePick_form_iff _).2 landed
    generalize takePick _ = t at picked ⊢
    split
    · exact outForm_next.2 (settle_form picked)
    · exact fetchIssue_form picked

end

end Sys2Proof.Machine
end

section
/-! PROOFS. The memories' form. -/

namespace Sys2Proof.Proofs
open Sys2Proof Sys2Proof.Machine

/-- Settles O60: the form holds of what the step's act reaches, by cases on the instruction or event, and a cycle of time changes no
memory. -/
theorem memoryFormKept : Obligations.MemoryFormKept := by
  intro s t hs ht
  rw [step] at ht
  split at ht
  · next u hu =>
    cases ht
    exact (passCycle_form_iff u).2 (act_form hs u hu)
  · exact absurd ht (by simp)
  · exact absurd ht (by simp)

end Sys2Proof.Proofs
end

section
/-! SUPPORT. What the state after reset holds (R73, R361, R391). -/

namespace Sys2Proof.Machine

@[simp] theorem viOf_reset (vi : Nat) : viOf State.reset vi = Vi.reset := rfl

@[simp] theorem bootstat_reset : bootstat State.reset = 0 := by decide

/-- Until the package is ready, every readable register is 0 (R391). -/
theorem regRead_reset (vi off : Nat) : regRead State.reset vi off = 0 := by
  have unready : State.reset.boot.ready = false := rfl
  simp [regRead, unready]

theorem lineWrites_reset (line : Nat) : lineWrites State.reset line = [] := rfl

/-- With no region live and no line on its way, every line is zero (R73). -/
theorem cohLine_reset (swz : BitVec 4) (line : Nat) : cohLine State.reset swz line = 0 := by
  have cells : dramLine State.reset swz line = 0 := by
    rw [dramLine, queuedWrite, lineWrites_reset]
    rfl
  exact cells

theorem readDpa_reset (swz : BitVec 4) (a : Nat) : readDpa State.reset swz a = 0 := by
  rw [readDpa, cohLine_reset, lineByte]
  simp

end Sys2Proof.Machine
end

section
/-! PROOFS. The state after reset. -/

namespace Sys2Proof.Proofs
open Sys2Proof Sys2Proof.Machine

/-- Settles O59: nothing of the reset state's lists is filled, so that each value is its default. -/
theorem stateAtReset : Obligations.StateAtReset := by
  refine ⟨⟨rfl, rfl, rfl, rfl, regRead_reset, bootstat_reset, fun vi => ?_, readDpa_reset⟩, rfl, rfl, rfl⟩
  simp only [viOf_reset]
  exact ⟨rfl, rfl, rfl, rfl, rfl, rfl, rfl, rfl, rfl, rfl, rfl, rfl, fun _ => rfl⟩

end Sys2Proof.Proofs
end

section
/-! SUPPORT. A write-back that stands where only requests for a response of their own should wait (R75, R102). -/

namespace Sys2Proof.Machine

/-- A write-back of line 0, of some data. -/
def writeBack (data : Line) : CtrlReq :=
  { line := 0, swz := 0, rep := none, key := none, stream := 0, what := .write fullMask data, uid := 0 }

/-- One controller, whose queue holds a write-back of line 0 with 1, while one with 2 waits among the requests for room. -/
def strayWrite : State := { State.reset with ctrls := [{ Ctrl.reset with queue := [writeBack 1] }], waitReqs := [writeBack 2] }

/-- The write-back that waited counts as one on its way only once it is sent, which is after the other has been performed. -/
theorem strayWrite_writes : lineWrites strayWrite 0 = [writeBack 1] := by
  simp [lineWrites, strayWrite, writeBack, CtrlReq.writes, State.reset]

theorem strayWrite_first : firstWrite (strayWrite.ctrls.getD 0 Ctrl.reset).queue = some (writeBack 1) := by
  simp [strayWrite, firstWrite, writeBack]

theorem strayWrite_runs : exec (.controllerWrite 0) strayWrite =
    .next (sendAll (dramWrite { strayWrite with ctrls := [Ctrl.reset] } 0 0 fullMask 1)) := by
  simp only [exec, execControllerWrite, strayWrite_first]
  simp [setCtrl, strayWrite, writeBack, Ctrl.reset]

/-- After the write the line reads as what was sent behind it. -/
theorem strayWrite_line : dramLine (sendAll (dramWrite { strayWrite with ctrls := [Ctrl.reset] } 0 0 fullMask 1)) 0 0 = 2 := by
  decide +kernel

end Sys2Proof.Machine
end

section
/-! PROOFS. Controllers. -/

namespace Sys2Proof.Proofs
open Sys2Proof Sys2Proof.Machine

/-- Refutes O45: a write does not leave its line's value where a later write to the line waits for room among the requests for a response
(State.waitReqs), since these are sent behind it in the same event and the statement's premise counts only the writes in queues and
write-back buffers. -/
theorem not_controllerEvents : ¬ Obligations.ControllerEvents := by
  rintro ⟨-, -, -, write, -⟩
  obtain ⟨t, run, line, -⟩ := write strayWrite 0 (writeBack 1) 1 strayWrite_first rfl strayWrite_writes fun m hm => nomatch hm
  rw [strayWrite_runs] at run
  cases run
  exact absurd (strayWrite_line.symm.trans line) (by decide +kernel)

end Sys2Proof.Proofs
end

section
/-! SUPPORT. How a firmware request is taken, carried out in its turn and ended (R391, R393, R396). -/

namespace Sys2Proof.Machine

/-! Virtual interfaces. -/

theorem viOf_setVi (s : State) (vi v : Nat) (f : Vi → Vi) : viOf (setVi s vi f) v = if v = vi then f (viOf s vi) else viOf s v :=
  mget_mset ..

@[simp] theorem viOf_setVi_same (s : State) (vi : Nat) (f : Vi → Vi) : viOf (setVi s vi f) vi = f (viOf s vi) := mget_mset_same ..

theorem viOf_setVi_other (s : State) {vi v : Nat} (f : Vi → Vi) (h : v ≠ vi) : viOf (setVi s vi f) v = viOf s v :=
  mget_mset_other _ _ _ _ _ h

/-! Requests taken, begun and ended. -/

/-- A request that stands is not taken again. -/
theorem takeReq_standing {s : State} {vi : Nat} {seq : BitVec 40} {code : Nat} {i : Instr}
    (h : ∃ r ∈ s.fwReqs, r.vi = vi ∧ r.seq = seq ∧ r.op = i) : takeReq s vi seq code i = some s := by
  have stands : (s.fwReqs.any fun r => r.vi = vi && r.seq = seq && r.op = i) = true := by simpa [and_assoc] using h
  rw [takeReq, if_pos stands]

/-- A request that MBOX holds is taken, and MBOX is free again. -/
theorem takeReq_new {s : State} {vi : Nat} {seq : BitVec 40} {code : Nat} {i : Instr}
    (h : ∀ r ∈ s.fwReqs, ¬(r.vi = vi ∧ r.seq = seq ∧ r.op = i)) (hs : seq ∉ (viOf s vi).served)
    (hm : (viOf s vi).mbox.toNat % 2 ^ 48 = seq.toNat + code * 2 ^ 40) :
    ∃ t, takeReq s vi seq code i = some t ∧ t.fwReqs = s.fwReqs ++ [⟨vi, seq, i, false⟩] ∧ (viOf t vi).mbox = 0 := by
  have new : ¬(s.fwReqs.any fun r => r.vi = vi && r.seq = seq && r.op = i) = true := by simpa [and_assoc] using h
  refine ⟨{ (setVi s vi fun v => { v with mbox := 0 }) with fwReqs := s.fwReqs ++ [⟨vi, seq, i, false⟩] }, ?_, rfl,
    congrArg Vi.mbox (viOf_setVi_same s vi fun v => { v with mbox := 0 })⟩
  rw [takeReq, if_neg new]
  dsimp only
  rw [if_neg (not_or.2 ⟨not_not.2 hm, hs⟩)]

/-- A request taken stands, and nothing has changed but the requests and MBOX. -/
theorem takeReq_taken {s t : State} {vi : Nat} {seq : BitVec 40} {code : Nat} {i : Instr} (h : takeReq s vi seq code i = some t) :
    { t with vis := s.vis, fwReqs := s.fwReqs } = s ∧ ∃ r ∈ t.fwReqs, r.vi = vi ∧ r.seq = seq ∧ r.op = i := by
  rw [takeReq] at h
  split at h
  · next hs =>
    cases h
    exact ⟨rfl, by simpa [and_assoc] using hs⟩
  · dsimp only at h
    split at h
    · cases h
    · cases h
      exact ⟨rfl, ⟨vi, seq, i, false⟩, by simp⟩

/-- A request begun still stands. -/
theorem beginReq_stands {t : State} {vi : Nat} {seq : BitVec 40} {i : Instr}
    (h : ∃ r ∈ t.fwReqs, r.vi = vi ∧ r.seq = seq ∧ r.op = i) :
    ∃ r ∈ (beginReq t vi seq).fwReqs, r.vi = vi ∧ r.seq = seq ∧ r.op = i := by
  obtain ⟨r, hr, hv, hs, ho⟩ := h
  refine ⟨_, List.mem_map_of_mem hr, ?_⟩
  rw [if_pos ⟨hv, hs⟩]
  exact ⟨hv, hs, ho⟩

section
variable {s t : State} {i : Instr} {vi : Nat} {seq : BitVec 40} {code : Nat} {run : State → Svc}

/-- A request that is served is carried out on the state in which it has begun, and ends or must wait. -/
theorem Serves.service (h : Serves s i vi seq code t) (run : State → Svc) :
    (∀ c u, run (beginReq t vi seq) = .fin c u → service vi seq code i run s = .next (finishReq u vi seq c)) ∧
      ∀ u, run (beginReq t vi seq) = .wait u → service vi seq code i run s = .next u := by
  have led : (leaderOf t).isNone = false := by
    cases hl : leaderOf t with
    | none => exact absurd hl h.led
    | some k => rfl
  have ready : ¬((!s.boot.ready) = true) := by rw [h.ready]; decide
  have turn : ¬((leaderOf t).isNone || !isNext t vi seq) = true := by rw [led, h.next]; decide
  rw [Machine.service, if_neg ready, h.taken]
  dsimp only
  rw [if_neg turn]
  exact ⟨fun c u hr => by rw [hr], fun u hr => by rw [hr]⟩

/-- A request that finishes leaves MBDONE and is not carried out again (R393). -/
theorem Serves.finishes {u : State} {c : Nat} {P : State → Prop} (h : Serves s i vi seq code t)
    (he : exec i s = Machine.service vi seq code i run s) (hr : run (beginReq t vi seq) = .fin c u) (hc : c < 256)
    (hP : P (finishReq u vi seq c)) : Finishes i s vi seq c P := by
  refine ⟨finishReq u vi seq c, ?_, ?_, ?_, ?_, hP⟩
  · exact he.trans ((h.service run).1 c u hr)
  · simp [finishReq, Nat.mod_eq_of_lt hc]
  · simp [finishReq]
  · intro r hr ⟨hv, hs⟩
    simp [finishReq, setVi, hv, hs] at hr

/-- A request that must wait still stands. -/
theorem Serves.waits {u : State} {P : State → Prop} (h : Serves s i vi seq code t)
    (he : exec i s = Machine.service vi seq code i run s) (hr : run (beginReq t vi seq) = .wait u)
    (hu : u.fwReqs = (beginReq t vi seq).fwReqs)
    (hP : P u) : Waits i s vi seq P := by
  refine ⟨u, ?_, ?_, hP⟩
  · exact he.trans ((h.service run).2 u hr)
  · rw [hu]
    exact beginReq_stands (takeReq_taken h.taken).2

/-- What taking the request leaves alone. -/
theorem Serves.rest (h : Serves s i vi seq code t) : { t with vis := s.vis, fwReqs := s.fwReqs } = s := (takeReq_taken h.taken).1

theorem Serves.asids (h : Serves s i vi seq code t) : t.asids = s.asids := have g := congrArg State.asids h.rest; g
theorem Serves.keys (h : Serves s i vi seq code t) : t.keys = s.keys := have g := congrArg State.keys h.rest; g
theorem Serves.streams (h : Serves s i vi seq code t) : t.streams = s.streams := have g := congrArg State.streams h.rest; g
theorem Serves.launches (h : Serves s i vi seq code t) : t.launches = s.launches := have g := congrArg State.launches h.rest; g
theorem Serves.rack (h : Serves s i vi seq code t) : t.rack = s.rack := have g := congrArg State.rack h.rest; g

/-- While no leader holds the lease, or others come first, a request is taken and no more. -/
theorem service_held (hb : s.boot.ready = true) (ht : takeReq s vi seq code i = some t) (h : leaderOf t = none ∨ isNext t vi seq = false) :
    Machine.service vi seq code i run s = .next t := by
  have ready : ¬((!s.boot.ready) = true) := by rw [hb]; decide
  have held : ((leaderOf t).isNone || !isNext t vi seq) = true := by
    rcases h with h | h <;> simp [h]
  rw [Machine.service, if_neg ready, ht]
  dsimp only
  rw [if_pos held]

/-- The physical function's services are denied to the others. -/
theorem pfService_denied {target : Nat} {x : Svc} (h : vi ≠ 0) : pfService vi target x s = .fin denied s := if_pos h

theorem pfService_runs {target : Nat} {x : Svc} (h : target < 64) : pfService 0 target x s = x := by
  rw [pfService, if_neg (by decide), if_neg (by omega)]

end

/-! Grants. -/

/-- A run of writes at the numbers below n. -/
theorem viOf_setVis (s : State) (f : Nat → Vi → Vi) (n v : Nat) :
    viOf ((List.range n).foldl (fun t v => setVi t v (f v)) s) v = if v < n then f v (viOf s v) else viOf s v := by
  induction n with
  | zero => rfl
  | succ n ih =>
    rw [List.range_succ, List.foldl_append, List.foldl_cons, List.foldl_nil, viOf_setVi]
    by_cases hv : v = n
    · subst hv
      rw [if_pos rfl, if_pos (by omega), ih, if_neg (by omega)]
    · rw [if_neg hv, ih]
      by_cases hn : v < n
      · rw [if_pos hn, if_pos (by omega)]
      · rw [if_neg hn, if_neg (by omega)]

/-- An interface's grants. -/
def granted (target : Nat) (as ks : List Nat) (v : Nat) (x : Vi) : Vi :=
  if v = target then
    { x with asids := x.asids ++ as.filter (fun a => decide (a ∉ x.asids)), keys := x.keys ++ ks.filter fun k => decide (k ∉ x.keys) }
  else { x with asids := x.asids.filter fun a => decide (a ∉ as), keys := x.keys.filter fun k => decide (k ∉ ks) }

theorem viOf_grantTo (s : State) {target v : Nat} (as ks : List Nat) (h : v < 64) :
    viOf (grantTo s target as ks) v = granted target as ks v (viOf s v) := by
  have runs := viOf_setVis s (granted target as ks) 64 v
  rw [if_pos h] at runs
  exact runs

/-- What is granted to an interface is its own. -/
theorem granted_own (target : Nat) (as ks : List Nat) (x : Vi) :
    (∀ a ∈ as, a ∈ (granted target as ks target x).asids) ∧ ∀ k ∈ ks, k ∈ (granted target as ks target x).keys := by
  rw [granted, if_pos rfl]
  constructor <;> intro a ha
  · by_cases h : a ∈ x.asids <;> simp [h, ha]
  · by_cases h : a ∈ x.keys <;> simp [h, ha]

/-- What is granted to an interface is no other's. -/
theorem granted_other {target v : Nat} (as ks : List Nat) (x : Vi) (h : v ≠ target) :
    (∀ a ∈ as, a ∉ (granted target as ks v x).asids) ∧ ∀ k ∈ ks, k ∉ (granted target as ks v x).keys := by
  rw [granted, if_neg h]
  constructor <;> intro a ha <;> simp [ha]

/-- The end of a request changes no grant. -/
theorem viOf_finishReq (s : State) (vi : Nat) (seq : BitVec 40) (c v : Nat) :
    ∃ d l, viOf (finishReq s vi seq c) v = { viOf s v with mbdone := d, served := l } := by
  rw [finishReq]
  dsimp only
  rw [viOf_setVi]
  split
  · next h => subst h; exact ⟨_, _, rfl⟩
  · exact ⟨_, _, rfl⟩

/-! The bytes of an interface's pool that its launches hold. -/

theorem heldBytes_filter (p : Launch → Bool) (f : Launch → Nat) (ls : List Launch) :
    ls.foldl (fun n l => if p l then n + f l else n) 0 = (ls.filter p).foldl (fun n l => n + f l) 0 := by
  rw [List.foldl_filter]

/-! A service reads no request but its own. -/

theorem walkFrom_fwReqs (s : State) (q : List FwReq) (budv : Bool) (home va n table : Nat) :
    walkFrom { s with fwReqs := q } budv home va n table = walkFrom s budv home va n table := by
  induction n generalizing table with
  | zero => rfl
  | succ n ih =>
    rw [walkFrom, walkFrom, ih]
    rfl

theorem walk_fwReqs (s : State) (q : List FwReq) (vi asid va : Nat) : walk { s with fwReqs := q } vi asid va = walk s vi asid va := by
  simp only [walk, walkFrom_fwReqs]
  rfl

theorem translate_fwReqs (s : State) (q : List FwReq) (sp : Space) (va : Nat) (w x : Bool) :
    translate { s with fwReqs := q } sp va w x = translate s sp va w x := by
  simp only [translate, lookup, walk_fwReqs]
  rfl

theorem engineBytes_fwReqs (s : State) (q : List FwReq) (sp : Space) (va n : Nat) :
    engineBytes { s with fwReqs := q } sp va n = engineBytes s sp va n := by
  simp only [engineBytes, checkRange, rangeLost, readVa, translate_fwReqs]
  rfl

theorem readImage_beginReq (s : State) (vi : Nat) (seq : BitVec 40) (sp : Space) (va : Nat) :
    readImage (beginReq s vi seq) sp va = readImage s sp va := by
  simp only [readImage, beginReq, engineBytes_fwReqs]

end Sys2Proof.Machine
end

section
/-! SUPPORT. What a settling leaves of launches and of interfaces (R174, R336, R351, R394). -/

namespace Sys2Proof.Machine

theorem SameLaunch.id {l m : Launch} (h : SameLaunch l m) : m.id = l.id := have g := congrArg Launch.id h; g

/-- Crews are moved: launches and interfaces stand as they were. -/
def CrewsMoved (s t : State) : Prop := t.launches = s.launches ∧ t.vis = s.vis

theorem CrewsMoved.refl (s : State) : CrewsMoved s s := ⟨rfl, rfl⟩

theorem CrewsMoved.trans {s t u : State} (h : CrewsMoved s t) (g : CrewsMoved t u) : CrewsMoved s u :=
  ⟨g.1.trans h.1, g.2.trans h.2⟩

theorem TilesMoved.crewsMoved {s t : State} (h : TilesMoved s t) : CrewsMoved s t :=
  ⟨have g := congrArg State.launches h; g, have g := congrArg State.vis h; g⟩

theorem clearAcc_crewsMoved (s : State) (core a : Nat) : CrewsMoved s (clearAcc s core a) := ⟨rfl, rfl⟩

theorem saveCrew_crewsMoved (s : State) (c : Crew) : CrewsMoved s (saveCrew s c) := by
  have cleared : ∀ (l : List Gang) (t : State), CrewsMoved t (l.foldl (fun t g => g.accs.foldl (fun u a => clearAcc u g.core a) t) t) :=
    fun l t => foldl_keeps CrewsMoved .refl .trans _ l
      (fun t g => foldl_keeps CrewsMoved .refl .trans _ g.accs (fun u a => clearAcc_crewsMoved u g.core a) t) t
  have moved : ∀ {t u : State} {c0 src c1 dst left}, CrewsMoved t u → CrewsMoved t (moveTiles u c0 src c1 dst left) := fun h =>
    h.trans (moveTiles_moved ..).crewsMoved
  exact moved ((CrewsMoved.refl s).trans (cleared _ { s with fresh := s.fresh + 1 }))

theorem sendCrew_crewsMoved (s : State) (c : Crew) (pkg : Nat) : CrewsMoved s (sendCrew s c pkg) :=
  (dropImage_moved s c).crewsMoved

theorem saveCrews_crewsMoved (s : State) : CrewsMoved s (saveCrews s) := by
  refine foldl_keeps CrewsMoved .refl .trans _ _ (fun t c => ?_) s
  split
  · exact saveCrew_crewsMoved t c
  · split
    · split
      · dsimp only
        split
        · exact .trans ⟨rfl, rfl⟩ (sendCrew_crewsMoved ..)
        · exact ⟨rfl, rfl⟩
      · exact .refl t
    · exact .refl t

/-- A settling leaves of every launch all but its charge and the regions still to be staged, and of an interface all but the mark that a
report was lost. -/
theorem settle_kept (s : State) : Alike SameLaunch s.launches (settle s).launches ∧
    ∀ vi, ∃ b, viOf (settle s) vi = { viOf s vi with lostr := b } := by
  have puts := runPuts_putsRun s
  have moved := saveCrews_crewsMoved (runPuts s)
  have sent := sendRecs_sentOff (saveCrews (runPuts s)) (saveCrews (runPuts s)).recs
  have woken := wakeAll_filed ((saveCrews (runPuts s)).recs.foldl sendRec (saveCrews (runPuts s))) fun r => !wordKind r
  have sentVis := congrArg State.vis sent.rest
  have wokenVis := congrArg State.vis woken.rest
  constructor
  · have launches : (saveCrews (runPuts s)).launches = s.launches := moved.1.trans puts.launches
    rw [← launches]
    exact (sent.launches.imp fun h => by unfold SameLaunch; rw [← h.1]).trans .trans woken.launches
  · intro vi
    have vis : (settle s).vis = (runPuts s).vis := wokenVis.trans (sentVis.trans moved.2)
    obtain ⟨b, hb⟩ := puts.vis vi
    exact ⟨b, by rw [← hb, viOf, vis, viOf]⟩

end Sys2Proof.Machine
end

section
/-! PROOFS. Services that set up an interface. -/

namespace Sys2Proof.Proofs
open Sys2Proof Sys2Proof.Machine

section
variable {s t : State} {vi : Nat} {seq : BitVec 40}

/-! Grants and table entries. -/

theorem grant_denied {target : Nat} {as ks : List Nat} (h : Serves s (.grantAsidsOrKeySlots vi seq target as ks) vi seq 1 t) (hv : vi ≠ 0) :
    Finishes (.grantAsidsOrKeySlots vi seq target as ks) s vi seq 2 fun u => u.vis = (finishReq t vi seq 2).vis :=
  h.finishes (u := beginReq t vi seq) (by rw [exec, execGrantAsidsOrKeySlots]) (by rw [pfService_denied hv, denied]) (by decide) rfl

theorem grant_answers {target : Nat} {as ks : List Nat} (h : Serves s (.grantAsidsOrKeySlots 0 seq target as ks) 0 seq 1 t)
    (ht : target < 64) (has : ∀ a ∈ as, a < 1024) (hks : ∀ k ∈ ks, k < 4096) :
    (grantBusy t target as ks = true → Finishes (.grantAsidsOrKeySlots 0 seq target as ks) s 0 seq 3 fun u =>
      u.vis = (finishReq t 0 seq 3).vis) ∧
    (grantBusy t target as ks = false → Finishes (.grantAsidsOrKeySlots 0 seq target as ks) s 0 seq 0 fun u =>
      (∀ a ∈ as, a ∈ (viOf u target).asids) ∧ (∀ k ∈ ks, k ∈ (viOf u target).keys) ∧
      ∀ v, v < 64 → v ≠ target → (∀ a ∈ as, a ∉ (viOf u v).asids) ∧ ∀ k ∈ ks, k ∉ (viOf u v).keys) := by
  have good : ¬((as.any fun a => decide (1024 ≤ a)) || ks.any fun k => decide (4096 ≤ k)) = true := by
    simp only [Bool.or_eq_true, List.any_eq_true, decide_eq_true_eq]
    rintro (⟨a, ha, h⟩ | ⟨k, hk, h⟩)
    · exact absurd (has a ha) (by omega)
    · exact absurd (hks k hk) (by omega)
  constructor <;> intro hb
  · refine h.finishes (u := beginReq t 0 seq) (by rw [exec, execGrantAsidsOrKeySlots]) ?_ (by decide) rfl
    rw [pfService_runs ht, if_neg good, if_pos (show grantBusy (beginReq t 0 seq) target as ks = true from hb)]
    rfl
  · refine h.finishes (u := grantTo (beginReq t 0 seq) target as ks) (by rw [exec, execGrantAsidsOrKeySlots]) ?_ (by decide) ?_
    · rw [pfService_runs ht, if_neg good,
        if_neg (Bool.eq_false_iff.1 (show grantBusy (beginReq t 0 seq) target as ks = false from hb))]
    · have grants : ∀ v, v < 64 → ∃ d l, viOf (finishReq (grantTo (beginReq t 0 seq) target as ks) 0 seq 0) v =
          { granted target as ks v (viOf (beginReq t 0 seq) v) with mbdone := d, served := l } := fun v hv => by
        obtain ⟨d, l, hd⟩ := viOf_finishReq (grantTo (beginReq t 0 seq) target as ks) 0 seq 0 v
        exact ⟨d, l, by rw [hd, viOf_grantTo _ _ _ hv]⟩
      obtain ⟨d, l, own⟩ := grants target ht
      obtain ⟨hasids, hkeys⟩ := granted_own target as ks (viOf (beginReq t 0 seq) target)
      refine ⟨by rw [own]; exact hasids, by rw [own]; exact hkeys, fun v hv hne => ?_⟩
      obtain ⟨d, l, other⟩ := grants v hv
      rw [other]
      exact granted_other as ks _ hne

/-- The ASID entry that 32 bytes hold (R115). -/
def entryOf (e : BitVec 256) : AsidEnt :=
  { ctl := BitVec.ofNat 64 e.toNat, root := BitVec.ofNat 64 (e.toNat / 2 ^ 64), shring := BitVec.ofNat 64 (e.toNat / 2 ^ 128) }

theorem entryOf_eq (e : BitVec 256) : entryOf e = ⟨e.extractLsb' 0 64, e.extractLsb' 64 64, e.extractLsb' 128 64⟩ := by
  rw [entryOf]
  congr 1 <;> apply BitVec.eq_of_toNat_eq <;> simp [Nat.shiftRight_eq_div_pow]

theorem writeAsidEntry_answers {asid : Nat} {e : BitVec 256} (h : Serves s (.writeAsidEntry vi seq asid e) vi seq 2 t) (ha : asid < 1024) :
    (asid ∉ (viOf t vi).asids → Finishes (.writeAsidEntry vi seq asid e) s vi seq 2 fun u => u.asids = s.asids) ∧
    (asid ∈ (viOf t vi).asids → entryBad t vi e.toNat = false → Finishes (.writeAsidEntry vi seq asid e) s vi seq 0 fun u =>
      asidEnt u asid = ⟨e.extractLsb' 0 64, e.extractLsb' 64 64, e.extractLsb' 128 64⟩ ∧
      ∀ a, a ≠ asid → asidEnt u a = asidEnt s a) := by
  have small : ¬1024 ≤ asid := by omega
  have owns : ownsAsid (beginReq t vi seq) vi asid = decide (asid ∈ (viOf t vi).asids) := rfl
  constructor
  · intro ho
    refine h.finishes (u := beginReq t vi seq) (by rw [exec, execWriteAsidEntry]) ?_ (by decide) h.asids
    dsimp only
    rw [if_neg small, owns, if_pos (by simp [ho])]
    rfl
  · intro ho hb
    refine h.finishes (by rw [exec, execWriteAsidEntry])
      (u := { beginReq t vi seq with asids := mset { ctl := 0, root := 0, shring := 0 } t.asids asid (entryOf e) }) ?_ (by decide) ⟨?_, ?_⟩
    · dsimp only
      rw [if_neg small, owns, if_neg (by simp [ho]),
        if_neg (Bool.eq_false_iff.1 (show entryBad (beginReq t vi seq) vi e.toNat = false from hb))]
      rfl
    · exact (mget_mset_same ..).trans (entryOf_eq e)
    · intro a hne
      refine (mget_mset_other _ _ _ _ _ hne).trans ?_
      rw [h.asids, asidEnt]

/-- A key slot written. -/
def putKey (s : State) (slot : Nat) (k : KeySlot) : State := { s with keys := mset { key := none, owner := none } s.keys slot k }

theorem keyFor_putKey (s : State) (vi : Nat) (seq : BitVec 40) (c slot : Nat) (k : KeySlot) (v : Nat) :
    keyFor (finishReq (putKey s slot k) vi seq c) v slot = if k.owner = some v then k.key else none := by
  have stored : mget { key := none, owner := none } (finishReq (putKey s slot k) vi seq c).keys slot = k := mget_mset_same ..
  rw [keyFor, stored]

theorem writeKeySlot_answers {slot : Nat} {key : Option (BitVec 512)} (h : Serves s (.writeOrEmptyKeySlot vi seq slot key) vi seq 3 t)
    (hs : slot < 4096) :
    (slot ∉ (viOf t vi).keys → Finishes (.writeOrEmptyKeySlot vi seq slot key) s vi seq 2 fun u => u.keys = s.keys) ∧
    (slot ∈ (viOf t vi).keys → Finishes (.writeOrEmptyKeySlot vi seq slot key) s vi seq 0 fun u => keyFor u vi slot = key ∧
      ∀ v, v ≠ vi → keyFor u v slot = none) := by
  have small : ¬4096 ≤ slot := by omega
  have owns : (viOf (beginReq t vi seq) vi).keys = (viOf t vi).keys := rfl
  constructor
  · intro ho
    refine h.finishes (u := beginReq t vi seq) (by rw [exec, execWriteOrEmptyKeySlot.eq_def]) ?_ (by decide) h.keys
    dsimp only
    rw [if_neg small, owns, if_pos ho]
    rfl
  · intro ho
    have written : ∀ k : KeySlot, (k.owner = some vi ∨ k.key = none) ∧ (∀ v, k.owner = some v → v = vi) →
        keyFor (finishReq (putKey (beginReq t vi seq) slot k) vi seq 0) vi slot = k.key ∧
          ∀ v, v ≠ vi → keyFor (finishReq (putKey (beginReq t vi seq) slot k) vi seq 0) v slot = none := by
      rintro k ⟨hk, hv⟩
      simp only [keyFor_putKey]
      refine ⟨?_, fun v hne => if_neg fun ho => hne (hv v ho)⟩
      rcases hk with hk | hk <;> simp [hk]
    cases key with
    | none =>
      refine h.finishes (u := putKey (beginReq t vi seq) slot ⟨none, none⟩)
        (by rw [exec, execWriteOrEmptyKeySlot.eq_def]) ?_ (by decide)
        (written _ (by simp))
      dsimp only
      rw [if_neg small, owns, if_neg (not_not.2 ho)]
      rfl
    | some k =>
      refine h.finishes (u := putKey (beginReq t vi seq) slot ⟨some k, some vi⟩)
        (by rw [exec, execWriteOrEmptyKeySlot.eq_def]) ?_ (by decide)
        (written _ (by simp))
      dsimp only
      rw [if_neg small, owns, if_neg (not_not.2 ho)]
      rfl

end

end Sys2Proof.Proofs
end

section
/-! SUPPORT. Sparse maps filtered by key. -/

namespace Sys2Proof.Machine

/-- A read of a map of which only the entries of some keys are kept. -/
theorem mget_filter_key {α : Type} (d : α) (p : Nat → Bool) (m : SMap α) (a : Nat) :
    mget d (m.filter fun e => p e.1) a = if p a then mget d m a else d := by
  induction m with
  | nil => simp [mget]
  | cons e m ih =>
    rw [List.filter_cons]
    by_cases ha : a = e.1
    · subst ha
      by_cases hp : p e.1 = true
      · simp [hp, mget]
      · rw [if_neg hp, ih, if_neg hp, if_neg hp]
    · split <;> simp [mget, ha, ih]

end Sys2Proof.Machine
end

section
/-! PROOFS. Services that set up an interface: streams, handlers, groups, pools and periods. -/

namespace Sys2Proof.Proofs
open Sys2Proof Sys2Proof.Machine

section
variable {s t : State} {vi : Nat} {seq : BitVec 40}

/-! Streams. -/

/-- A stream's number is the number that names it. -/
theorem stream_toNat {k : Nat} (h : k < 64) : (BitVec.ofNat 6 k).toNat = k := by simp; omega

theorem streamOf_setStream (s : State) (k : BitVec 6) (f : Machine.Stream → Machine.Stream) :
    streamOf (setStream s k f) k = f (streamOf s k) :=
  mget_mset_same ..

/-- A stream whose digests are cleared has none. -/
theorem digestOf_cleared {u s : State} {k : BitVec 6} (h : u.digests = (clearDigests s k).digests) (j : Nat) :
    digestOf u j k = ⟨0, 0, 0⟩ := by
  have key : (j * 64 + k.toNat) % 64 = k.toNat := by omega
  rw [digestOf, h]
  exact (mget_filter_key _ (fun e => decide (e % 64 ≠ k.toNat)) _ _).trans (if_neg (by simp [key]))

/-- A bound stream is unbound at once (R87). -/
theorem streamOf_unbound {s : State} {k : BitVec 6} {v : Nat} (h : (streamOf s k).st = .bound v) :
    streamOf (unbindStream s k) k = freeStream := by
  have freed : unbindStream s k = { (clearDigests s k) with streams := mset freeStream s.streams k.toNat freeStream } := by
    simp only [unbindStream, h]
  rw [freed, streamOf, mget_mset_same]

theorem finishReq_digests (s : State) (vi : Nat) (seq : BitVec 40) (c : Nat) : (finishReq s vi seq c).digests = s.digests := rfl

theorem bound_digests (s : State) (k : BitVec 6) (f : Machine.Stream → Machine.Stream) :
    (setStream (clearSides s k) k f).digests = (clearDigests s k).digests := rfl

theorem bindStream_denied {k : Nat} {target : Option Nat} (h : Serves s (.bindOrUnbindStream vi seq k target) vi seq 4 t) (hv : vi ≠ 0) :
    Finishes (.bindOrUnbindStream vi seq k target) s vi seq 2 fun u => u.streams = s.streams :=
  h.finishes (u := beginReq t vi seq) (by rw [exec, execBindOrUnbindStream.eq_def]) (by rw [pfService_denied hv, denied])
    (by decide) h.streams

theorem bindStream_binds {k v : Nat} (h : Serves s (.bindOrUnbindStream 0 seq k (some v)) 0 seq 4 t) (h0 : 0 < k) (hk : k < 64)
    (hv : v < 64) :
    ((streamOf t (BitVec.ofNat 6 k)).st ≠ .free → Finishes (.bindOrUnbindStream 0 seq k (some v)) s 0 seq 3 fun u =>
      u.streams = s.streams) ∧
    ((streamOf t (BitVec.ofNat 6 k)).st = .free → Finishes (.bindOrUnbindStream 0 seq k (some v)) s 0 seq 0 fun u =>
      (streamOf u (BitVec.ofNat 6 k)).st = .bound v ∧ ∀ j, j < 12 → digestOf u j (BitVec.ofNat 6 k) = ⟨0, 0, 0⟩) := by
  have good : ¬(k = 0 ∨ 64 ≤ k) := by omega
  have same : streamOf (beginReq t 0 seq) (BitVec.ofNat 6 k) = streamOf t (BitVec.ofNat 6 k) := rfl
  constructor <;> intro hf
  · refine h.finishes (u := beginReq t 0 seq) (by rw [exec, execBindOrUnbindStream.eq_def]) ?_ (by decide) h.streams
    dsimp only
    rw [pfService_runs (by simpa using hv), if_neg good, same, if_pos hf]
    rfl
  · refine h.finishes (u := setStream (clearSides (beginReq t 0 seq) (BitVec.ofNat 6 k)) (BitVec.ofNat 6 k)
      fun q => { q with st := .bound v }) (by rw [exec, execBindOrUnbindStream.eq_def]) ?_ (by decide)
      ⟨?_, fun j _ => digestOf_cleared ((finishReq_digests ..).trans (bound_digests ..)) j⟩
    · dsimp only
      rw [pfService_runs (by simpa using hv), if_neg good, same, if_neg (not_not.2 hf)]
    · exact congrArg Stream.st (streamOf_setStream (clearSides (beginReq t 0 seq) (BitVec.ofNat 6 k)) (BitVec.ofNat 6 k)
        fun q => { q with st := .bound v })

theorem bindStream_unbinds {k : Nat} (h : Serves s (.bindOrUnbindStream 0 seq k none) 0 seq 4 t) (h0 : 0 < k) (hk : k < 64) :
    (∀ v, (streamOf t (BitVec.ofNat 6 k)).st = .bound v → Finishes (.bindOrUnbindStream 0 seq k none) s 0 seq 0 fun u =>
      (streamOf u (BitVec.ofNat 6 k)).st = .free) ∧
    ∀ v, (streamOf t (BitVec.ofNat 6 k)).st = .loaded v → (streamOf t (BitVec.ofNat 6 k)).changing = false →
      Waits (.bindOrUnbindStream 0 seq k none) s 0 seq fun u => (streamOf u (BitVec.ofNat 6 k)).unbind = true ∧
        (streamOf u (BitVec.ofNat 6 k)).pending = some none := by
  have good : ¬(k = 0 ∨ 64 ≤ k) := by omega
  have same : streamOf (beginReq t 0 seq) (BitVec.ofNat 6 k) = streamOf t (BitVec.ofNat 6 k) := rfl
  constructor
  · intro v hb
    have unbound : (streamOf (unbindStream (beginReq t 0 seq) (BitVec.ofNat 6 k)) (BitVec.ofNat 6 k)).st = .free := by
      rw [streamOf_unbound (same ▸ hb), freeStream]
    refine h.finishes (u := unbindStream (beginReq t 0 seq) (BitVec.ofNat 6 k)) (by rw [exec, execBindOrUnbindStream.eq_def]) ?_
      (by decide) unbound
    dsimp only
    rw [pfService_runs (by decide), if_neg good, if_pos unbound]
  · intro v hl hc
    have waits : unbindStream (beginReq t 0 seq) (BitVec.ofNat 6 k) =
        setStream (beginReq t 0 seq) (BitVec.ofNat 6 k) fun q => { q with pending := some none, unbind := true } := by
      rw [unbindStream, same, hl]
      dsimp only
      rw [hc]
      exact if_neg (by decide)
    have stream := streamOf_setStream (beginReq t 0 seq) (BitVec.ofNat 6 k) fun q => { q with pending := some none, unbind := true }
    refine h.waits (u := unbindStream (beginReq t 0 seq) (BitVec.ofNat 6 k)) (by rw [exec, execBindOrUnbindStream.eq_def]) ?_ ?_ ?_
    · dsimp only
      rw [pfService_runs (by decide), if_neg good, waits, stream, same, if_neg (by rw [hl]; exact fun h => nomatch h)]
    · rw [waits]
      rfl
    · rw [waits, stream]
      exact ⟨rfl, rfl⟩

/-! Handlers. -/

theorem registerHandler_denied {asid va : Nat} (h : Serves s (.registerHandler vi seq asid va) vi seq 5 t) (ha : asid < 1024)
    (hv : va < 2 ^ 52) (hm : va % 64 = 0) (ho : asid ∉ (viOf t vi).asids) :
    Finishes (.registerHandler vi seq asid va) s vi seq 2 fun u => u.launches = s.launches := by
  have good : ¬(1024 ≤ asid ∨ 2 ^ 52 ≤ va ∨ va % 64 ≠ 0) := by omega
  have owns : ownsAsid (beginReq t vi seq) vi asid = decide (asid ∈ (viOf t vi).asids) := rfl
  refine h.finishes (u := beginReq t vi seq) (by rw [exec, execRegisterHandler.eq_def]) ?_ (by decide) h.launches
  dsimp only
  rw [if_neg good, owns, if_pos (by simp [ho])]
  rfl

/-- The handler's launch as it is admitted (R374). -/
def handlerLaunch (t : State) (vi asid va : Nat) (img : Image) : Launch := newLaunch t vi asid img va .handler false

/-- The state in which a handler's launch is admitted and registered, before it settles. -/
def withHandler (t : State) (vi asid va : Nat) (img : Image) : State :=
  setVi (admitLaunch t (handlerLaunch t vi asid va img)) vi fun v => { v with handler := some (nextLaunchId t) }

theorem withHandler_launch {asid va : Nat} {img : Image} (h : ∀ l ∈ t.launches, l.id ≠ nextLaunchId t) :
    launchOf (withHandler t vi asid va img) (nextLaunchId t) = some (handlerLaunch t vi asid va img) := by
  have earlier : t.launches.find? (fun l => decide (l.id = nextLaunchId t)) = none := by simpa using h
  have launches : (withHandler t vi asid va img).launches = t.launches ++ [handlerLaunch t vi asid va img] := rfl
  rw [launchOf, launches, List.find?_append, earlier]
  simp [handlerLaunch, newLaunch]

theorem registerHandler_registers {asid va : Nat} {img : Image} (h : Serves s (.registerHandler vi seq asid va) vi seq 5 t)
    (ha : asid < 1024) (hv : va < 2 ^ 52) (hm : va % 64 = 0) (ho : asid ∈ (viOf t vi).asids)
    (hi : readImage t { vi := vi, asid := asid, user := false } va = .ok img) (htiles : img.tiles = 0) (hgang : img.gang = 0)
    (hframe : img.frame = 0) (hreg : 4 ≤ img.nreg) (hnone : (viOf t vi).handler = none)
    (hres : canReserve t vi (reservation img 0) = true) (hid : ∀ l ∈ t.launches, l.id ≠ nextLaunchId t) :
    Finishes (.registerHandler vi seq asid va) s vi seq 0 fun u => (viOf u vi).handler = some (nextLaunchId t) ∧
      ∃ l, launchOf u (nextLaunchId t) = some l ∧ l.mode = .handler ∧ l.vi = vi ∧ l.asid = asid ∧ l.image.entry = img.entry := by
  have good : ¬(1024 ≤ asid ∨ 2 ^ 52 ≤ va ∨ va % 64 ≠ 0) := by omega
  have owns : ownsAsid (beginReq t vi seq) vi asid = decide (asid ∈ (viOf t vi).asids) := rfl
  have runs : ¬(img.tiles ≠ 0 ∨ img.gang ≠ 0 ∨ img.frame ≠ 0 ∨ img.nreg < 4) := by simp [htiles, hgang, hframe, hreg]
  have first : retireLaunch (beginReq t vi seq) (viOf (beginReq t vi seq) vi).handler = beginReq t vi seq := by
    rw [show (viOf (beginReq t vi seq) vi).handler = none from hnone]
    rfl
  have room : canReserve (beginReq t vi seq) vi (reservation img 0) = true := hres
  obtain ⟨alike, vis⟩ := settle_kept (withHandler (beginReq t vi seq) vi asid va img)
  obtain ⟨l, found, same⟩ := alike.find (p := fun l => decide (l.id = nextLaunchId t))
    (fun hxy => by rw [hxy.id])
    (withHandler_launch (t := beginReq t vi seq) (vi := vi) (asid := asid) (va := va) (img := img) hid)
  refine h.finishes (u := settle (withHandler (beginReq t vi seq) vi asid va img)) (by rw [exec, execRegisterHandler.eq_def]) ?_ (by decide)
    ⟨?_, l, found, ?_, ?_, ?_, ?_⟩
  · dsimp only
    rw [if_neg good, owns, if_neg (by simp [ho]), readImage_beginReq, hi]
    dsimp only
    rw [if_neg runs, first, room]
    rfl
  · obtain ⟨d, q, ended⟩ := viOf_finishReq (settle (withHandler (beginReq t vi seq) vi asid va img)) vi seq 0 vi
    obtain ⟨b, settled⟩ := vis vi
    rw [ended, settled, withHandler, viOf_setVi_same]
    rfl
  · exact congrArg Launch.mode same
  · exact congrArg Launch.vi same
  · exact congrArg Launch.asid same
  · exact congrArg (fun l => l.image.entry) same

/-! Groups, pools, weights and the rack's budget. -/

theorem registerGroup_registers {grp plane : Nat} {ps : List Nat} (h : Serves s (.registerMulticastGroup vi seq grp plane ps) vi seq 6 t)
    (hg : grp < 256) (hp : plane < 5) (hne : ps ≠ []) (hlen : ps.length ≤ 1024) (hnd : ps.Nodup) (hd : ∀ p ∈ ps, p < t.domain) :
    Finishes (.registerMulticastGroup vi seq grp plane ps) s vi seq 0 fun u =>
      (⟨vi, grp, plane, ps, buildHeader plane t.pkg ps⟩ : McGroup) ∈ u.groups ∧
      ∀ h ∈ u.groups, h.vi = vi → h.grp = grp → h = ⟨vi, grp, plane, ps, buildHeader plane t.pkg ps⟩ := by
  have good : ¬(256 ≤ grp ∨ 5 ≤ plane ∨ ps = [] ∨ 1024 < ps.length ∨ ps.dedup.length ≠ ps.length) := by
    rw [hnd.dedup]
    simp [hne]
    omega
  have inside : ¬(ps.any fun p => decide ((beginReq t vi seq).domain ≤ p)) = true := by
    intro hany
    obtain ⟨p, hp, hle⟩ := List.any_eq_true.1 hany
    exact absurd (hd p hp) (Nat.not_lt.2 (of_decide_eq_true hle))
  refine h.finishes (u := { beginReq t vi seq with groups := (t.groups.filter fun g => !(g.vi = vi && g.grp = grp)) ++
    [⟨vi, grp, plane, ps, buildHeader plane t.pkg ps⟩] }) (by rw [exec, execRegisterMulticastGroup]) ?_ (by decide) ⟨?_, ?_⟩
  · dsimp only
    rw [if_neg good, if_neg inside]
    rfl
  · exact List.mem_append_right _ (List.mem_singleton.2 rfl)
  · intro g hg hv hn
    rcases List.mem_append.1 hg with old | new
    · simp [hv, hn] at old
    · exact List.mem_singleton.1 new

/-- The bytes of an interface's pool that its launches hold (R343). -/
def heldBytes (t : State) (vi : Nat) : Nat := (t.launches.filter fun l => l.vi = vi).foldl (fun n l => n + max l.reserved l.charged) 0

theorem poolSize_answers {target size base : Nat} (h : Serves s (.poolSize 0 seq target size base) 0 seq 7 t) (ht : target < 64)
    (hb : base % 64 = 0) (hs : base + size ≤ 2 ^ 52) :
    (size < heldBytes t target → Finishes (.poolSize 0 seq target size base) s 0 seq 3 fun u =>
      (viOf u target).poolSize = (viOf t target).poolSize) ∧
    (heldBytes t target ≤ size → (base = (viOf t target).poolBase ∨ ∀ r ∈ t.recs, r.vi ≠ target) →
      Finishes (.poolSize 0 seq target size base) s 0 seq 0 fun u =>
        (viOf u target).poolSize = size ∧ (viOf u target).poolBase = base) := by
  have good : ¬(base % 64 ≠ 0 ∨ 2 ^ 52 < base + size) := by omega
  have held : (beginReq t 0 seq).launches.foldl (fun n l => if l.vi = target then n + max l.reserved l.charged else n) 0 =
      heldBytes t target := by
    rw [heldBytes, List.foldl_filter]
    simp only [decide_eq_true_eq]
    rfl
  constructor
  · intro hlt
    refine h.finishes (u := beginReq t 0 seq) (by rw [exec, execPoolSize]) ?_ (by decide) ?_
    · dsimp only
      rw [pfService_runs ht, held, if_neg good, if_pos (Or.inl hlt)]
      rfl
    · obtain ⟨d, q, ended⟩ := viOf_finishReq (beginReq t 0 seq) 0 seq 3 target
      rw [ended]
      rfl
  · intro hle hbase
    have free : ¬(size < heldBytes t target ∨ base ≠ (viOf (beginReq t 0 seq) target).poolBase ∧
        ((beginReq t 0 seq).recs.any fun r => r.vi = target) = true) := by
      rintro (hlt | ⟨hne, hany⟩)
      · omega
      · rcases hbase with heq | hnone
        · exact hne heq
        · obtain ⟨r, hr, hv⟩ := List.any_eq_true.1 hany
          exact hnone r hr (of_decide_eq_true hv)
    refine h.finishes (u := setVi (beginReq t 0 seq) target fun v => { v with poolSize := size, poolBase := base })
      (by rw [exec, execPoolSize]) ?_ (by decide) ?_
    · dsimp only
      rw [pfService_runs ht, held, if_neg good, if_neg free]
    · obtain ⟨d, q, ended⟩ := viOf_finishReq (setVi (beginReq t 0 seq) target fun v => { v with poolSize := size, poolBase := base })
        0 seq 0 target
      rw [ended, viOf_setVi_same]
      exact ⟨rfl, rfl⟩

/-- Weights and periods in their ranges (R359, R361, R388). -/
def PeriodsGood (cw wt hwdog seglim : Nat) : Prop :=
  1 ≤ cw ∧ cw ≤ 255 ∧ 1 ≤ wt ∧ wt ≤ 255 ∧ 1000 ≤ hwdog ∧ hwdog ≤ 60000000 ∧ 100 ≤ seglim ∧ seglim ≤ 1000000

theorem setWeights_answers {target cw wt hwdog seglim : Nat}
    (h : Serves s (.setWeightsAndWatchdogs 0 seq target cw wt hwdog seglim) 0 seq 8 t)
    (ht : target < 64) :
    (¬PeriodsGood cw wt hwdog seglim → Finishes (.setWeightsAndWatchdogs 0 seq target cw wt hwdog seglim) s 0 seq 1 fun u =>
      (viOf u target).cw = (viOf t target).cw ∧ (viOf u target).wt = (viOf t target).wt ∧
      (viOf u target).hwdog = (viOf t target).hwdog ∧ (viOf u target).seglim = (viOf t target).seglim) ∧
    (PeriodsGood cw wt hwdog seglim → Finishes (.setWeightsAndWatchdogs 0 seq target cw wt hwdog seglim) s 0 seq 0 fun u =>
      (viOf u target).cw = cw ∧ (viOf u target).wt = wt ∧
      (viOf u target).hwdog = BitVec.ofNat 32 hwdog ∧ (viOf u target).seglim = BitVec.ofNat 32 seglim) := by
  have bad : (cw = 0 ∨ 255 < cw ∨ wt = 0 ∨ 255 < wt ∨ hwdog < 1000 ∨ 60000000 < hwdog ∨ seglim < 100 ∨ 1000000 < seglim) ↔
      ¬PeriodsGood cw wt hwdog seglim := by
    unfold PeriodsGood
    omega
  constructor <;> intro hg
  · refine h.finishes (u := beginReq t 0 seq) (by rw [exec, execSetWeightsAndWatchdogs]) ?_ (by decide) ?_
    · rw [pfService_runs ht, if_pos (bad.2 hg)]
      rfl
    · obtain ⟨d, q, ended⟩ := viOf_finishReq (beginReq t 0 seq) 0 seq 1 target
      rw [ended]
      exact ⟨rfl, rfl, rfl, rfl⟩
  · refine h.finishes (u := setVi (beginReq t 0 seq) target fun v =>
      { v with cw := cw, wt := wt, hwdog := BitVec.ofNat 32 hwdog, seglim := BitVec.ofNat 32 seglim })
      (by rw [exec, execSetWeightsAndWatchdogs]) ?_ (by decide) ?_
    · rw [pfService_runs ht, if_neg (fun hb => bad.1 hb hg)]
    · obtain ⟨d, q, ended⟩ := viOf_finishReq (setVi (beginReq t 0 seq) target fun v =>
        { v with cw := cw, wt := wt, hwdog := BitVec.ofNat 32 hwdog, seglim := BitVec.ofNat 32 seglim }) 0 seq 0 target
      rw [ended, viOf_setVi_same]
      exact ⟨rfl, rfl, rfl, rfl⟩

theorem rackBudget_answers {watts : Nat} (h : Serves s (.rackBudget vi seq watts) vi seq 9 t) :
    (vi ≠ 0 → Finishes (.rackBudget vi seq watts) s vi seq 2 fun u => u.rack = s.rack) ∧
    (vi = 0 → Finishes (.rackBudget vi seq watts) s vi seq 0 fun u => u.rack = watts) := by
  constructor
  · intro hv
    exact h.finishes (u := beginReq t vi seq) (by rw [exec, execRackBudget]) (by rw [pfService_denied hv, denied]) (by decide) h.rack
  · rintro rfl
    exact h.finishes (u := { beginReq t 0 seq with rack := watts }) (by rw [exec, execRackBudget]) (by rw [pfService_runs (by decide)])
      (by decide) rfl

end

/-- Settles O56: each service is carried out on the state in which its request has begun, and what it leaves is read off its last writes. -/
theorem setupServices : Obligations.SetupServices :=
  ⟨fun _ _ _ _ _ h => takeReq_standing h,
    fun _ _ _ _ _ hn hs hm => takeReq_new hn hs hm,
    fun _ _ _ _ _ _ _ h => ⟨grant_denied h, fun hv => by subst hv; exact grant_answers h⟩,
    fun _ _ _ _ _ _ h ha => writeAsidEntry_answers h ha,
    fun _ _ _ _ _ _ h hs => writeKeySlot_answers h hs,
    fun _ _ _ _ _ _ h h0 hk => ⟨bindStream_denied h, fun v hv ht hlt => by subst hv ht; exact bindStream_binds h h0 hk hlt,
      fun hv ht => by subst hv ht; exact bindStream_unbinds h h0 hk⟩,
    fun _ _ _ _ _ _ h ha hv hm => ⟨registerHandler_denied h ha hv hm, fun _ => registerHandler_registers h ha hv hm⟩,
    fun _ _ _ _ _ _ _ h => registerGroup_registers h,
    fun _ _ _ _ _ _ h => poolSize_answers h,
    fun _ _ _ _ _ _ _ _ h => setWeights_answers h,
    fun s vi seq watts t hb ht hl => by
      have held := service_held (run := fun s => pfService vi 0 (.fin 0 { s with rack := watts }) s) hb ht hl
      rw [exec, execRackBudget]
      exact held,
    fun _ _ _ _ _ h => rackBudget_answers h⟩

end Sys2Proof.Proofs
end

section
/-! SUPPORT. Lines and their bytes, and what the cells of a line hold after DRAM is written (R66, R67, R73). -/

namespace Sys2Proof.Machine

/-! Bytes of a line. -/

theorem natOfBytes_byte (l : List Byte) {i : Nat} (h : i < l.length) : natOfBytes l / 256 ^ i % 256 = l[i].toNat := by
  induction l generalizing i with
  | nil => simp at h
  | cons b l ih =>
    have small : b.toNat < 256 := b.isLt
    cases i with
    | zero => simp only [natOfBytes, pow_zero, Nat.div_one, List.getElem_cons_zero]; omega
    | succ i =>
      have tail : natOfBytes (b :: l) / 256 = natOfBytes l := by simp only [natOfBytes]; omega
      rw [pow_succ', ← Nat.div_div_eq_div_mul, tail, ih (by simpa using h), List.getElem_cons_succ]

/-- Bytes fit a vector of as many bits. -/
theorem toNat_ofNat_natOfBytes {l : List Byte} {n : Nat} (h : l.length * 8 = n) : (BitVec.ofNat n (natOfBytes l)).toNat = natOfBytes l := by
  subst h
  rw [BitVec.toNat_ofNat, Nat.mod_eq_of_lt]
  rw [Nat.mul_comm, Nat.pow_mul]
  exact natOfBytes_lt l

/-- Byte i of a line of 128 bytes. -/
theorem lineByte_lineOf {l : List Byte} (hl : l.length = 128) {i : Nat} (hi : i < 128) : lineByte (lineOf l) i = l[i] := by
  apply BitVec.eq_of_toNat_eq
  rw [lineByte, BitVec.extractLsb'_toNat, lineOf, toNat_ofNat_natOfBytes (by omega), Nat.shiftRight_eq_div_pow,
    ← natOfBytes_byte l (hl ▸ hi), show (256 : Nat) = 2 ^ 8 from rfl, ← Nat.pow_mul]

theorem lineByte_map {f : Nat → Byte} {i : Nat} (hi : i < 128) : lineByte (lineOf ((List.range 128).map f)) i = f i := by
  rw [lineByte_lineOf (by simp) hi, List.getElem_map, List.getElem_range]

/-- Byte i of a merged line. -/
theorem lineByte_lineMerge (a b : Line) (mask : BitVec 128) {i : Nat} (hi : i < 128) :
    lineByte (lineMerge a b mask) i = if mask.getLsbD i then lineByte b i else lineByte a i := lineByte_map hi

/-- Lines of equal bytes are equal. -/
theorem line_ext {x y : Line} (h : ∀ i, i < 128 → lineByte x i = lineByte y i) : x = y := by
  apply BitVec.eq_of_getLsbD_eq
  intro j hj
  have bit := congrArg (fun b : Byte => b.getLsbD (j % 8)) (h (j / 8) (by omega))
  have small : j % 8 < 8 := Nat.mod_lt _ (by decide)
  simpa [lineByte, BitVec.getLsbD_extractLsb', small, Nat.div_add_mod] using bit

/-- A merge of no byte leaves the line. -/
theorem lineMerge_none (a b : Line) : lineMerge a b 0 = a := line_ext fun i hi => by simp [lineByte_lineMerge _ _ _ hi]

theorem fullMask_bit {i : Nat} (hi : i < 128) : fullMask.getLsbD i = true := by
  rw [fullMask, BitVec.getLsbD_allOnes, decide_eq_true hi]

/-! The cells of a line. -/

/-- The bytes of a line lie next to each other under every placement (R67). -/
theorem cellOf_line (swz : BitVec 4) (line : Nat) {i : Nat} (hi : i < 128) :
    cellOf swz (line * 128 + i) = cellOf swz (line * 128) + i := by
  have high : (line * 128 + i) / 2 ^ 46 = line * 128 / 2 ^ 46 := by omega
  have low : (line * 128 + i) % 2 ^ 46 = line * 128 % 2 ^ 46 + i := by omega
  have whole : line * 128 % 2 ^ 46 % 128 = 0 := by omega
  rw [cellOf, cellOf, high, low]
  generalize line * 128 % 2 ^ 46 = o at whole
  simp only [place]
  split <;> dsimp only <;> omega

theorem mget_writeCells (swz : BitVec 4) (line : Nat) (mask : BitVec 128) (data : Line) (n : Nat) (hn : n ≤ 128) (m : SMap Byte) (a : Nat) :
    mget 0 ((List.range n).foldl (fun m i => if mask.getLsbD i then mset 0 m (cellOf swz (line * 128 + i)) (lineByte data i) else m) m) a =
      if cellOf swz (line * 128) ≤ a ∧ a < cellOf swz (line * 128) + n ∧ mask.getLsbD (a - cellOf swz (line * 128)) then
        lineByte data (a - cellOf swz (line * 128)) else mget 0 m a := by
  induction n with
  | zero => simp; intro h h2; omega
  | succ n ih =>
    rw [List.range_succ, List.foldl_append, List.foldl_cons, List.foldl_nil]
    have cell := cellOf_line swz line (i := n) (by omega)
    have ih := ih (by omega)
    by_cases ha : a = cellOf swz (line * 128) + n
    · subst ha
      by_cases hb : mask.getLsbD n = true
      · rw [if_pos hb, cell, mget_mset_same, if_pos ⟨by omega, by omega, by simpa using hb⟩, Nat.add_sub_cancel_left]
      · rw [if_neg hb, ih, if_neg (by omega), if_neg (by simp [hb])]
    · have same : a < cellOf swz (line * 128) + (n + 1) ↔ a < cellOf swz (line * 128) + n := by omega
      simp only [same]
      split
      · rw [cell, mget_mset_other _ _ _ _ _ ha, ih]
      · rw [ih]

theorem markLive_live (s : State) (swz : BitVec 4) (line : Nat) : regionOf (line * 128) ∈ (markLive s swz line).live := by
  unfold markLive
  dsimp only
  split
  · assumption
  · exact List.mem_cons_self

theorem dramWrite_live (s : State) (swz : BitVec 4) (line : Nat) (mask : BitVec 128) (data : Line) :
    regionOf (line * 128) ∈ (dramWrite s swz line mask data).live := by
  unfold dramWrite
  exact markLive_live _ swz line

/-- A line written whole holds the new bytes (R69, R73). -/
theorem dramCells_dramWrite (s : State) (swz : BitVec 4) (line : Nat) (data : Line) :
    dramCells (dramWrite s swz line fullMask data) swz line = data := by
  rw [dramCells, if_pos (dramWrite_live s swz line fullMask data)]
  refine line_ext fun i hi => ?_
  have cell := mget_writeCells swz line fullMask data 128 (by decide)
  rw [lineByte_map hi, cellOf_line _ _ hi, dramWrite]
  dsimp only
  rw [cell, if_pos ⟨by omega, by omega, by simpa using fullMask_bit hi⟩, Nat.add_sub_cancel_left]

end Sys2Proof.Machine
end

section
/-! SUPPORT. What the value of a line depends on, and what the operations of the slices and the L1s leave of it (R66, R100 to R104, R190). -/

namespace Sys2Proof.Machine

/-- What of a miss entry the value of its line depends on. -/
def missView (m : MissEnt) : BitVec 4 × BitVec 128 × Line × Option Line := (m.swz, m.mask, m.data, m.fill)

/-- All that the value of a line depends on is the same. -/
structure SameLine (s t : State) (n : Nat) : Prop where
  l1 : t.l1.find? (fun l => l.line = n && l.writable) = s.l1.find? (fun l => l.line = n && l.writable)
  llc : mget none t.llc n = mget none s.llc n
  miss : (missOf t n).map missView = (missOf s n).map missView
  writes : lineWrites t n = lineWrites s n
  cells : ∀ swz, dramCells t swz n = dramCells s swz n

/-- A line has the same value under every placement. -/
def CohKept (s t : State) (n : Nat) : Prop := ∀ swz, cohLine t swz n = cohLine s swz n

variable {s t u : State} {n line : Nat}

theorem SameLine.refl (s : State) (n : Nat) : SameLine s s n := ⟨rfl, rfl, rfl, rfl, fun _ => rfl⟩

theorem SameLine.trans (h : SameLine s t n) (g : SameLine t u n) : SameLine s u n :=
  ⟨g.l1.trans h.l1, g.llc.trans h.llc, g.miss.trans h.miss, g.writes.trans h.writes, fun z => (g.cells z).trans (h.cells z)⟩

theorem dramLine_eq (hw : lineWrites t n = lineWrites s n) (hc : ∀ swz, dramCells t swz n = dramCells s swz n) (swz : BitVec 4) :
    dramLine t swz n = dramLine s swz n := by
  rw [dramLine, dramLine, queuedWrite, queuedWrite, hw, hc]

theorem SameLine.dram (h : SameLine s t n) (swz : BitVec 4) : dramLine t swz n = dramLine s swz n := dramLine_eq h.writes h.cells swz

/-- The value of a line that is not held, by its miss entry. -/
theorem homeLine_of_none (hl : mget none s.llc n = none) (swz : BitVec 4) : homeLine s swz n =
    match (missOf s n).map missView with
    | some v => lineMerge (v.2.2.2.getD (dramLine s v.1 n)) v.2.2.1 v.2.1
    | none => dramLine s swz n := by
  rw [homeLine, hl]
  dsimp only
  cases missOf s n <;> rfl

theorem homeLine_of_some {x : LlcLine} (h : mget none s.llc n = some x) (swz : BitVec 4) : homeLine s swz n = x.data := by
  rw [homeLine, h]

theorem cohLine_of_l1 {x : L1Line} (h : s.l1.find? (fun l => l.line = n && l.writable) = some x) (swz : BitVec 4) :
    cohLine s swz n = x.data := by rw [cohLine, h]

theorem cohLine_of_home (h : s.l1.find? (fun l => l.line = n && l.writable) = none) (swz : BitVec 4) :
    cohLine s swz n = homeLine s swz n := by rw [cohLine, h]

theorem SameLine.home (h : SameLine s t n) (swz : BitVec 4) : homeLine t swz n = homeLine s swz n := by
  cases hl : mget none s.llc n with
  | some x => rw [homeLine_of_some hl, homeLine_of_some (h.llc.trans hl)]
  | none =>
    rw [homeLine_of_none hl, homeLine_of_none (h.llc.trans hl), h.miss]
    cases (missOf s n).map missView <;> dsimp only <;> rw [h.dram]

theorem SameLine.coh (h : SameLine s t n) : CohKept s t n := fun swz => by
  rw [cohLine, cohLine, h.l1, h.home]

theorem SameLine.of_eq (hl1 : t.l1 = s.l1) (hllc : t.llc = s.llc) (hm : t.misses = s.misses) (hw : t.wbufs = s.wbufs)
    (hc : t.ctrls = s.ctrls) (hmem : t.mem = s.mem) (hlive : t.live = s.live) (n : Nat) : SameLine s t n :=
  ⟨by rw [hl1], by rw [hllc], by rw [missOf, missOf, hm], by rw [lineWrites, lineWrites, hw, hc],
    fun _ => by rw [dramCells, dramCells, hmem, hlive]⟩

theorem CohKept.refl (s : State) (n : Nat) : CohKept s s n := fun _ => rfl

theorem CohKept.trans (h : CohKept s t n) (g : CohKept t u n) : CohKept s u n := fun z => (g z).trans (h z)

theorem CohKept.lineKept (h : CohKept s t n) : LineKept s t n := fun swz i hi => by
  rw [readDpa, readDpa, show (n * 128 + i) / 128 = n by omega, h]

theorem Homeward.host (h : Homeward s t) : t.host = s.host := by have e := h.1; rw [← e]
theorem Homeward.pkg (h : Homeward s t) : t.pkg = s.pkg := by have e := h.1; rw [← e]
theorem Homeward.pad (h : Homeward s t) : t.pad = s.pad := by have e := h.1; rw [← e]

/-- What is kept of every line is kept of every byte. -/
theorem BytesKept.of_lines (h : Homeward s t) (hc : ∀ n, CohKept s t n) : BytesKept s t :=
  ⟨fun swz a => by rw [readDpa, readDpa, hc], fun a => by rw [h.host], fun a => by rw [h.pad]⟩

/-! Requests put into queues. -/

/-- A request put into one of some queues. -/
def pushAt (l : List Ctrl) (k : Nat) (q : CtrlReq) : List Ctrl := l.modify k fun c => { c with queue := c.queue ++ [q] }

theorem queues_push_filter (l : List Ctrl) (k : Nat) {q : CtrlReq} {p : CtrlReq → Bool} (hq : p q = false) :
    ((pushAt l k q).flatMap (·.queue)).filter p = (l.flatMap (·.queue)).filter p := by
  induction l generalizing k with
  | nil => cases k <;> rfl
  | cons c l ih => cases k with
    | zero => simp [pushAt, List.flatMap_cons, List.filter_append, hq]
    | succ k =>
      have ih := ih k
      simp only [pushAt, List.modify_succ_cons, List.flatMap_cons, List.filter_append] at ih ⊢
      rw [ih]

theorem queues_push_perm (l : List Ctrl) {k : Nat} (q : CtrlReq) (hk : k < l.length) :
    ((pushAt l k q).flatMap (·.queue)).Perm (l.flatMap (·.queue) ++ [q]) := by
  induction l generalizing k with
  | nil => cases hk
  | cons c l ih => cases k with
    | zero =>
      simp only [pushAt, List.modify_zero_cons, List.flatMap_cons, List.append_assoc]
      exact List.Perm.append_left _ List.perm_append_comm
    | succ k =>
      have ih := ih (k := k) (by simpa using hk)
      simp only [pushAt, List.modify_succ_cons, List.flatMap_cons, List.append_assoc] at ih ⊢
      exact List.Perm.append_left _ ih

/-! Misses and write-backs sent. -/

/-- A miss entry as it is before it is sent. -/
def unsent (m : MissEnt) : MissEnt := { m with sent := false }

/-- Misses and write-backs have gone to their controllers, and nothing else has changed. -/
structure Sent (s t : State) : Prop where
  rest : { t with misses := s.misses, ctrls := s.ctrls, wbufs := s.wbufs } = s
  misses : t.misses.map unsent = s.misses.map unsent
  count : t.ctrls.length = s.ctrls.length
  fewer : t.wbufs.Sublist s.wbufs
  writes : ∀ n, (lineWrites t n).Perm (lineWrites s n)

theorem Sent.refl (s : State) : Sent s s := ⟨rfl, rfl, rfl, .refl _, fun _ => .refl _⟩

theorem Sent.trans (h : Sent s t) (g : Sent t u) : Sent s u := by
  refine ⟨?_, g.misses.trans h.misses, g.count.trans h.count, g.fewer.trans h.fewer, fun n => (g.writes n).trans (h.writes n)⟩
  have h := h.rest
  have g := g.rest
  rw [← h, ← g]

theorem Sent.l1 (h : Sent s t) : t.l1 = s.l1 := by have e := h.rest; rw [← e]
theorem Sent.llc (h : Sent s t) : t.llc = s.llc := by have e := h.rest; rw [← e]
theorem Sent.resps (h : Sent s t) : t.resps = s.resps := by have e := h.rest; rw [← e]
theorem Sent.waitReqs (h : Sent s t) : t.waitReqs = s.waitReqs := by have e := h.rest; rw [← e]
theorem Sent.pkg (h : Sent s t) : t.pkg = s.pkg := by have e := h.rest; rw [← e]
theorem Sent.cells (h : Sent s t) (swz : BitVec 4) (n : Nat) : dramCells t swz n = dramCells s swz n := by
  have e := h.rest
  rw [← e]
  rfl

/-- The entry of a line is the same but for having been sent where all the entries are. -/
theorem missOf_of_misses (h : t.misses.map unsent = s.misses.map unsent) (n : Nat) : (missOf t n).map unsent = (missOf s n).map unsent := by
  have look : ∀ l : List MissEnt, (l.find? fun m => decide (m.line = n)).map unsent =
      (l.map unsent).find? fun m => decide (m.line = n) := fun l => by
    rw [List.find?_map]
    rfl
  rw [missOf, missOf, look, look, h]

theorem Sent.missOf (h : Sent s t) (n : Nat) : (missOf t n).map unsent = (missOf s n).map unsent := missOf_of_misses h.misses n

theorem Sent.view (h : Sent s t) (n : Nat) : (Machine.missOf t n).map missView = (Machine.missOf s n).map missView := by
  have e := congrArg (Option.map missView) (h.missOf n)
  rwa [Option.map_map, Option.map_map] at e

theorem Sent.sameLine (h : Sent s t) {n : Nat} (hw : lineWrites t n = lineWrites s n) : SameLine s t n :=
  ⟨by rw [h.l1], by rw [h.llc], h.view n, hw, fun z => h.cells z n⟩

/-- A request that is no write put into its queue leaves every line's writes. -/
theorem lineWrites_pushReq {q : CtrlReq} (hq : ∀ n, q.writes n = false) (n : Nat) : lineWrites (pushReq s q) n = lineWrites s n := by
  rw [lineWrites, lineWrites, List.filter_append, List.filter_append]
  exact congrArg (· ++ _) (queues_push_filter s.ctrls _ (hq n))

theorem sendMisses_keeps (s : State) : Sent s (sendMisses s) ∧ ∀ n, lineWrites (sendMisses s) n = lineWrites s n := by
  refine foldl_keeps (fun s t => Sent s t ∧ ∀ n, lineWrites t n = lineWrites s n) (fun s => ⟨.refl s, fun _ => rfl⟩)
    (fun h g => ⟨h.1.trans g.1, fun n => (g.2 n).trans (h.2 n)⟩) _ _ (fun t m => ?_) s
  dsimp only
  split
  · exact ⟨.refl t, fun _ => rfl⟩
  · have same := fun n => lineWrites_pushReq
      (s := { t with misses := t.misses.map fun x => if x.line = m.line then { x with sent := true } else x })
      (q := { line := m.line, swz := m.swz, rep := m.rep, key := none, stream := 0, what := .fill, uid := 0 })
      (fun n => by simp [CtrlReq.writes]) n
    refine ⟨⟨rfl, ?_, List.length_modify .., .refl _, fun n => .of_eq (same n)⟩, same⟩
    change List.map unsent (List.map _ _) = _
    rw [List.map_map]
    refine List.map_congr_left fun x _ => ?_
    rw [Function.comp]
    split <;> rfl

theorem sendMisses_sent (s : State) : Sent s (sendMisses s) := (sendMisses_keeps s).1

theorem sendMisses_same (s : State) (n : Nat) : SameLine s (sendMisses s) n :=
  (sendMisses_sent s).sameLine ((sendMisses_keeps s).2 n)

/-- No request waits but one write-back at most, for a controller that is there. -/
def OneWaits (s : State) : Prop :=
  s.waitReqs = [] ∧ (s.wbufs = [] ∨ ∃ q, s.wbufs = [q] ∧ ctrlOf q.swz (q.line * 128) < s.ctrls.length)

theorem sendAll_of_none (h : NoneWaits s) : sendAll s = sendMisses s := by
  obtain ⟨hb, hr⟩ := h
  have hr : (sendMisses s).waitReqs = [] := (sendMisses_sent s).waitReqs.trans hr
  simp only [sendAll, hb, List.foldl_nil, hr]

theorem sendAll_same (h : NoneWaits s) (n : Nat) : SameLine s (sendAll s) n := by
  rw [sendAll_of_none h]
  exact sendMisses_same s n

/-- A write-back that goes from its buffer to its controller's queue still waits. -/
theorem sendWrite_sent {q : CtrlReq} (hb : s.wbufs = [q]) (hk : ctrlOf q.swz (q.line * 128) < s.ctrls.length) :
    Sent s (pushReq { s with wbufs := s.wbufs.erase q } q) := by
  refine ⟨rfl, rfl, List.length_modify .., List.erase_sublist, fun n => ?_⟩
  rw [lineWrites, lineWrites]
  refine List.Perm.filter _ ?_
  simp only [pushReq, hb, List.erase_cons_head, List.append_nil]
  exact queues_push_perm s.ctrls q hk

theorem sendAll_sent (h : OneWaits s) : Sent s (sendAll s) := by
  obtain ⟨hr, hb⟩ := h
  have first : Sent s (s.wbufs.foldl (fun t q =>
      if ctrlRoom t (ctrlOf q.swz (q.line * 128)) then pushReq { t with wbufs := t.wbufs.erase q } q else t) s) := by
    rcases hb with hb | ⟨q, hb, hk⟩
    · rw [hb]
      exact .refl s
    · have move := sendWrite_sent hb hk
      simp only [hb, List.foldl_cons, List.foldl_nil] at move ⊢
      split
      · exact move
      · exact .refl s
  have sent := first.trans (sendMisses_sent _)
  rw [sendAll, sent.waitReqs.trans hr]
  exact sent

/-- After what can be sent is sent, one write-back at most still waits. -/
theorem sendAll_oneWaits (h : OneWaits s) : OneWaits (sendAll s) := by
  have sent := sendAll_sent h
  obtain ⟨hr, hb⟩ := h
  have fewer := sent.fewer
  refine ⟨sent.waitReqs.trans hr, ?_⟩
  rcases hb with hb | ⟨q, hb, hk⟩
  · rw [hb, List.sublist_nil] at fewer
    exact .inl fewer
  · rw [hb, List.sublist_singleton] at fewer
    exact fewer.imp id fun he => ⟨q, he, sent.count ▸ hk⟩

end Sys2Proof.Machine
end

section
/-! SUPPORT. What each operation of the slices and the L1s does to the line that it names, and that it leaves the others (R68, R100 to R104,
R190). -/

namespace Sys2Proof.Machine

variable {s t u : State} {n line : Nat}

/-! A line put into its slice, and the L1 copies taken back. -/

theorem llcPut_llc (s : State) (swz : BitVec 4) (line : Nat) (data : Line) (dirty : Bool) :
    ∃ x : LlcLine, (llcPut s swz line data dirty).llc = mset none s.llc line (some x) ∧ x.data = data ∧
      (dirty = true → x.st = if isRemote s line then .rown else .dirty) := by
  cases dirty with
  | false => exact ⟨_, rfl, rfl, nofun⟩
  | true => exact ⟨_, rfl, rfl, fun _ => by cases isRemote s line <;> rfl⟩

theorem llcPut_held (s : State) (swz : BitVec 4) (line : Nat) (data : Line) (dirty : Bool) :
    ∃ x, mget none (llcPut s swz line data dirty).llc line = some x ∧ x.data = data ∧
      (dirty = true → x.st = if isRemote s line then .rown else .dirty) := by
  obtain ⟨x, hl, hx⟩ := llcPut_llc s swz line data dirty
  exact ⟨x, by rw [hl, mget_mset_same], hx⟩

theorem llcPut_same (s : State) (swz : BitVec 4) (line : Nat) (data : Line) (dirty : Bool) (h : n ≠ line) :
    SameLine s (llcPut s swz line data dirty) n := by
  have llc : mget none (llcPut s swz line data dirty).llc n = mget none s.llc n := by
    obtain ⟨x, hl, -⟩ := llcPut_llc s swz line data dirty
    rw [hl, mget_mset_other _ _ _ _ _ h]
  cases dirty <;> exact ⟨rfl, llc, rfl, rfl, fun _ => rfl⟩

theorem llcPut_frame (s : State) (swz : BitVec 4) (line : Nat) (data : Line) (dirty : Bool) :
    (llcPut s swz line data dirty).l1 = s.l1 ∧ (llcPut s swz line data dirty).misses = s.misses ∧
    (llcPut s swz line data dirty).resps = s.resps ∧ (llcPut s swz line data dirty).wbufs = s.wbufs ∧
    (llcPut s swz line data dirty).waitReqs = s.waitReqs ∧ (llcPut s swz line data dirty).pkg = s.pkg := by
  cases dirty <;> exact ⟨rfl, rfl, rfl, rfl, rfl, rfl⟩

theorem recallL1_l1 (s : State) (line : Nat) : (recallL1 s line).l1 = s.l1.filter fun l => l.line ≠ line := by
  rw [recallL1]
  dsimp only
  split <;> rfl

/-- Copies of a line are no copies of another. -/
theorem find?_other (l : List L1Line) (h : n ≠ line) :
    (l.filter fun l => l.line ≠ line).find? (fun l => l.line = n && l.writable) = l.find? fun l => l.line = n && l.writable := by
  rw [List.find?_filter]
  congr 1
  funext x
  by_cases hx : x.line = n <;> simp [hx, h]

/-- A line whose L1 copies are dropped has none that is writable. -/
theorem find?_dropped (l : List L1Line) (line : Nat) :
    (l.filter fun l => l.line ≠ line).find? (fun l => l.line = line && l.writable) = none := by
  rw [List.find?_eq_none]
  intro x hx
  simp only [List.mem_filter, decide_eq_true_eq] at hx
  simp [hx.2]

theorem recallL1_of_none (h : s.l1.find? (fun l => l.line = line && l.writable) = none) :
    recallL1 s line = { s with l1 := s.l1.filter fun l => l.line ≠ line } := by
  rw [recallL1, h]

theorem recallL1_of_some {x : L1Line} (h : s.l1.find? (fun l => l.line = line && l.writable) = some x) :
    recallL1 s line = { llcPut s x.swz line x.data true with l1 := s.l1.filter fun l => l.line ≠ line } := by
  rw [recallL1, h]

theorem recallL1_frame (s : State) (line : Nat) : (recallL1 s line).misses = s.misses ∧ (recallL1 s line).resps = s.resps ∧
    (recallL1 s line).wbufs = s.wbufs ∧ (recallL1 s line).waitReqs = s.waitReqs ∧ (recallL1 s line).pkg = s.pkg := by
  cases h : s.l1.find? fun l => l.line = line && l.writable with
  | none =>
    rw [recallL1_of_none h]
    exact ⟨rfl, rfl, rfl, rfl, rfl⟩
  | some x =>
    rw [recallL1_of_some h]
    obtain ⟨-, rest⟩ := llcPut_frame s x.swz line x.data true
    exact rest

theorem recallL1_same (s : State) (h : n ≠ line) : SameLine s (recallL1 s line) n := by
  cases hw : s.l1.find? fun l => l.line = line && l.writable with
  | none =>
    rw [recallL1_of_none hw]
    exact ⟨find?_other s.l1 h, rfl, rfl, rfl, fun _ => rfl⟩
  | some x =>
    rw [recallL1_of_some hw]
    have put := llcPut_same s x.swz line x.data true h
    exact ⟨find?_other s.l1 h, put.llc, put.miss, put.writes, put.cells⟩

theorem recallL1_none (s : State) (line : Nat) : (recallL1 s line).l1.find? (fun l => l.line = line && l.writable) = none := by
  rw [recallL1_l1]
  exact find?_dropped s.l1 line

/-- Taking copies back leaves the value of the line (R190). -/
theorem recallL1_coh (s : State) (line n : Nat) : CohKept s (recallL1 s line) n := by
  by_cases h : n = line
  · subst h
    intro swz
    rw [cohLine_of_home (recallL1_none s n)]
    cases hw : s.l1.find? fun l => l.line = n && l.writable with
    | none =>
      rw [recallL1_of_none hw, cohLine_of_home hw]
      rfl
    | some x =>
      rw [cohLine_of_l1 hw, recallL1_of_some hw]
      obtain ⟨y, hy, hd, -⟩ := llcPut_held s x.swz n x.data true
      exact (homeLine_of_some hy swz).trans hd
  · exact (recallL1_same s h).coh

/-- A line that its slice holds, its L1 copies taken back, reads as the slice has it. -/
theorem recallL1_data {x : LlcLine} (h : mget none (recallL1 s line).llc line = some x) (swz : BitVec 4) : cohLine s swz line = x.data := by
  rw [← recallL1_coh s line line swz, cohLine_of_home (recallL1_none s line), homeLine_of_some h]

/-! Room. -/

theorem llcRoom_held {x : LlcLine} (h : mget none s.llc line = some x) : llcRoom s line = s := by
  rw [llcRoom, h]
  rfl

theorem llcRoom_room (h : SetRoom s line 1) : llcRoom s line = s := by
  have few : ((s.llc.map (·.1)).filter fun l => sameSet s l line).length < 24 := h
  rw [llcRoom]
  dsimp only
  split
  · rfl
  · rfl

theorem SetRoom.of_eq {k : Nat} (h : SetRoom s line k) (hl : t.llc = s.llc) (hp : t.pkg = s.pkg) : SetRoom t line k := by
  have same : sameSet t = sameSet s := by
    funext a b
    rw [sameSet, sameSet, sliceOf, sliceOf, sliceOf, sliceOf, hp]
  rw [SetRoom, hl, same]
  exact h

/-- A line for which there is room, or that is held, makes no other give way. -/
theorem recallL1_room (h : SetRoom s line 1) : llcRoom (recallL1 s line) line = recallL1 s line := by
  cases hw : s.l1.find? fun l => l.line = line && l.writable with
  | none =>
    rw [recallL1_of_none hw]
    exact llcRoom_room (h.of_eq rfl rfl)
  | some x =>
    obtain ⟨y, hy, -, -⟩ := llcPut_held s x.swz line x.data true
    rw [recallL1_of_some hw]
    exact llcRoom_held hy

theorem L1Room.of_sublist {core k : Nat} (h : L1Room s core k) (hl : t.l1.Sublist s.l1) : L1Room t core k := fun i =>
  (Nat.add_le_add_right (hl.filter _).length_le k).trans (h i)

/-! Readable copies put into L1s. -/

/-- The readable copy of a line in a core's L1. -/
def readCopy (core : Nat) (swz : BitVec 4) (line : Nat) (data : Line) : L1Line :=
  { core := core, line := line, swz := swz, data := data, writable := false }

/-- A core's L1 holds a line. -/
abbrev Copied (s : State) (core line : Nat) : Prop := ∃ y ∈ s.l1, y.core = core ∧ y.line = line

theorem l1Put_of_copied {core : Nat} (h : Copied s core line) (swz : BitVec 4) (data : Line) : l1Put s core swz line data = s := by
  obtain ⟨y, hy, hc, hl⟩ := h
  rw [l1Put, if_pos (List.any_eq_true.mpr ⟨y, hy, by simp [hc, hl]⟩)]

theorem l1Put_of_room {core : Nat} (h : L1Room s core 1) (hn : ¬Copied s core line) (swz : BitVec 4) (data : Line) :
    l1Put s core swz line data = { s with l1 := s.l1 ++ [readCopy core swz line data] } := by
  have absent : ¬(s.l1.any fun l => l.line = line && decide (l.core = core)) = true := fun ha => by
    obtain ⟨y, hy, he⟩ := List.any_eq_true.mp ha
    simp only [Bool.and_eq_true, decide_eq_true_eq] at he
    exact hn ⟨y, hy, he.2, he.1⟩
  have few : (if (s.l1.filter fun l => decide (l.core = core)).length < 16 then [] else
      (s.l1.filter fun l => decide (l.core = core)).filter fun l => decide (Config.l1Set l.line = Config.l1Set line)).length < 16 := by
    split
    · decide
    · have room := h (Config.l1Set line)
      rw [List.filter_filter]
      simp only [Bool.and_comm] at room ⊢
      omega
  rw [l1Put, if_neg absent]
  dsimp only
  rw [if_pos few]
  rfl

/-- Every core of a list holds a line or has room for it. -/
def RoomFor (s : State) (line : Nat) (cores : List Nat) : Prop := ∀ c ∈ cores, Copied s c line ∨ L1Room s c 1

theorem RoomFor.of_room {cores : List Nat} (h : ∀ c ∈ cores, L1Room s c 1) : RoomFor s line cores := fun c hc => .inr (h c hc)

theorem RoomFor.append {cores : List Nat} (h : RoomFor s line cores) (core : Nat) (swz : BitVec 4) (data : Line) :
    RoomFor { s with l1 := s.l1 ++ [readCopy core swz line data] } line cores := fun c hc => by
  by_cases he : c = core
  · exact .inl ⟨_, List.mem_append_right _ (List.mem_singleton.mpr rfl), he.symm, rfl⟩
  · rcases h c hc with ⟨y, hy, hyc, hyl⟩ | hr
    · exact .inl ⟨y, List.mem_append_left _ hy, hyc, hyl⟩
    · refine .inr fun i => ?_
      have other : ((readCopy core swz line data :: []).filter fun l => decide (l.core = c) && decide (Config.l1Set l.line = i)) = [] := by
        simp [readCopy, Ne.symm he]
      rw [List.filter_append, other, List.append_nil]
      exact hr i

/-- Copies that may not be written are added to the L1s, one for each core of a list, and nothing else changes (R190). -/
structure Added (s t : State) (line : Nat) (cores : List Nat) : Prop where
  new : ∃ l : List L1Line, t = { s with l1 := s.l1 ++ l } ∧ ∀ y ∈ l, y.writable = false ∧ y.core ∈ cores
  held : ∀ c ∈ cores, Copied t c line

theorem l1Puts_added (swz : BitVec 4) (data : Line) (cores : List Nat) (s : State) (h : RoomFor s line cores) :
    Added s (cores.foldl (fun t c => l1Put t c swz line data) s) line cores := by
  induction cores generalizing s with
  | nil => exact ⟨⟨[], by simp, fun _ hy => by cases hy⟩, fun _ hc => by cases hc⟩
  | cons c cores ih =>
    have rest : RoomFor s line cores := fun d hd => h d (List.mem_cons_of_mem _ hd)
    rw [List.foldl_cons]
    by_cases hc : Copied s c line
    · rw [l1Put_of_copied hc]
      obtain ⟨⟨l, he, hl⟩, held⟩ := ih s rest
      refine ⟨⟨l, he, fun y hy => ⟨(hl y hy).1, List.mem_cons_of_mem _ (hl y hy).2⟩⟩, fun d hd => ?_⟩
      rcases List.mem_cons.mp hd with rfl | hd
      · rw [he]
        obtain ⟨y, hy, hyc⟩ := hc
        exact ⟨y, List.mem_append_left _ hy, hyc⟩
      · exact held d hd
    · rw [l1Put_of_room ((h c List.mem_cons_self).resolve_left hc) hc]
      obtain ⟨⟨l, he, hl⟩, held⟩ := ih _ (rest.append c swz data)
      refine ⟨⟨readCopy c swz line data :: l, by rw [he]; simp, fun y hy => ?_⟩, fun d hd => ?_⟩
      · rcases List.mem_cons.mp hy with rfl | hy
        · exact ⟨rfl, List.mem_cons_self⟩
        · exact ⟨(hl y hy).1, List.mem_cons_of_mem _ (hl y hy).2⟩
      · rcases List.mem_cons.mp hd with rfl | hd
        · rw [he]
          exact ⟨readCopy d swz line data, by simp, rfl, rfl⟩
        · exact held d hd

theorem Added.writable {cores : List Nat} (h : Added s t line cores) (n : Nat) :
    t.l1.find? (fun l => l.line = n && l.writable) = s.l1.find? fun l => l.line = n && l.writable := by
  obtain ⟨l, he, hl⟩ := h.new
  have none : l.find? (fun l => l.line = n && l.writable) = none := by
    rw [List.find?_eq_none]
    intro x hx
    simp [(hl x hx).1]
  rw [he]
  dsimp only
  rw [List.find?_append, none, Option.or_none]

theorem Added.same {cores : List Nat} (h : Added s t line cores) (n : Nat) : SameLine s t n := by
  have l1 := h.writable n
  obtain ⟨l, he, -⟩ := h.new
  subst he
  exact ⟨l1, rfl, rfl, rfl, fun _ => rfl⟩

end Sys2Proof.Machine
end

section
/-! SUPPORT. A miss entry opened and closed, and a line accepted by its slice (R102, R103). -/

namespace Sys2Proof.Machine

variable {s t u : State} {n line : Nat}

/-! Miss entries. -/

/-- A change of the entries that leaves what line each is of. -/
theorem missOf_map (s : State) {f : MissEnt → MissEnt} (h : ∀ m, (f m).line = m.line) (n : Nat) :
    missOf { s with misses := s.misses.map f } n = (missOf s n).map f := by
  rw [missOf, missOf, List.find?_map]
  congr 2
  funext m
  exact congrArg (fun k => decide (k = n)) (h m)

theorem missOf_line {m : MissEnt} (h : missOf s n = some m) : m.line = n := by
  simpa using List.find?_some h

/-- A miss entry as it is opened. -/
def newMiss (swz : BitVec 4) (line : Nat) (rep : Option Nat) (l1 : List Nat) : MissEnt :=
  { line := line, swz := swz, rep := rep, mask := 0, data := 0, fill := none, sent := false, l1 := l1 }

theorem openMiss_of_none (h : missOf s line = none) (swz : BitVec 4) (rep : Option Nat) (l1 : List Nat) :
    openMiss s swz line rep l1 = sendMisses { s with misses := s.misses ++ [newMiss swz line rep l1] } := by
  rw [openMiss, h]
  rfl

theorem openMiss_of_some {m : MissEnt} (h : missOf s line = some m) (swz : BitVec 4) (rep : Option Nat) (l1 : List Nat) :
    openMiss s swz line rep l1 =
      { s with misses := s.misses.map fun m => if m.line = line then { m with l1 := (m.l1 ++ l1).dedup } else m } := by
  rw [openMiss, h]

/-- The entry of a line after one is opened for it, but for whether it is sent. -/
def entryAfter (s : State) (swz : BitVec 4) (line : Nat) (rep : Option Nat) (l1 : List Nat) : MissEnt :=
  match missOf s line with
  | some m => { m with l1 := (m.l1 ++ l1).dedup }
  | none => newMiss swz line rep l1

theorem openMiss_entry (s : State) (swz : BitVec 4) (line : Nat) (rep : Option Nat) (l1 : List Nat) :
    (missOf (openMiss s swz line rep l1) line).map unsent = some (unsent (entryAfter s swz line rep l1)) := by
  cases h : missOf s line with
  | none =>
    have new : missOf { s with misses := s.misses ++ [newMiss swz line rep l1] } line = some (newMiss swz line rep l1) := by
      have h : s.misses.find? (fun m => m.line = line) = none := h
      rw [missOf, List.find?_append, h]
      simp [newMiss]
    rw [openMiss_of_none h, (sendMisses_sent _).missOf, new, entryAfter, h]
    rfl
  | some m =>
    rw [openMiss_of_some h, missOf_map s (by intro m; split <;> rfl), h, entryAfter, h, Option.map_some, Option.map_some,
      if_pos (missOf_line h)]

/-- A line for which an entry is opened has one. -/
theorem openMiss_opens (s : State) (swz : BitVec 4) (line : Nat) (rep : Option Nat) (l1 : List Nat) :
    ∃ m, missOf (openMiss s swz line rep l1) line = some m ∧ unsent m = unsent (entryAfter s swz line rep l1) := by
  have h := openMiss_entry s swz line rep l1
  cases hm : missOf (openMiss s swz line rep l1) line with
  | none =>
    rw [hm] at h
    cases h
  | some m =>
    rw [hm] at h
    exact ⟨m, rfl, Option.some.inj h⟩

/-- A miss entry opened for a line changes nothing of any line but its entry. -/
theorem openMiss_frame (s : State) (swz : BitVec 4) (line : Nat) (rep : Option Nat) (l1 : List Nat) :
    (openMiss s swz line rep l1).l1 = s.l1 ∧ (openMiss s swz line rep l1).llc = s.llc ∧
    (∀ n, lineWrites (openMiss s swz line rep l1) n = lineWrites s n) ∧
    ∀ z n, dramCells (openMiss s swz line rep l1) z n = dramCells s z n := by
  cases h : missOf s line with
  | none =>
    rw [openMiss_of_none h]
    obtain ⟨sent, writes⟩ := sendMisses_keeps { s with misses := s.misses ++ [newMiss swz line rep l1] }
    exact ⟨sent.l1, sent.llc, writes, sent.cells⟩
  | some m =>
    rw [openMiss_of_some h]
    exact ⟨rfl, rfl, fun _ => rfl, fun _ _ => rfl⟩

/-- A second request for a line joins the entry of the first. -/
theorem openMiss_joins {m : MissEnt} (h : missOf s line = some m) (swz : BitVec 4) (rep : Option Nat) (l1 : List Nat) (n : Nat) :
    SameLine s (openMiss s swz line rep l1) n := by
  rw [openMiss_of_some h]
  refine ⟨rfl, rfl, ?_, rfl, fun _ => rfl⟩
  rw [missOf_map s (by intro m; split <;> rfl), Option.map_map]
  congr 1
  funext m
  rw [Function.comp]
  split <;> rfl

theorem openMiss_same (s : State) (swz : BitVec 4) (rep : Option Nat) (l1 : List Nat) (hn : n ≠ line) :
    SameLine s (openMiss s swz line rep l1) n := by
  cases h : missOf s line with
  | none =>
    rw [openMiss_of_none h]
    have added : SameLine s { s with misses := s.misses ++ [newMiss swz line rep l1] } n := by
      refine ⟨rfl, rfl, ?_, rfl, fun _ => rfl⟩
      rw [missOf, missOf, List.find?_append]
      simp [newMiss, Ne.symm hn]
    exact added.trans (sendMisses_same _ n)
  | some m => exact openMiss_joins h ..

/-- A line for which an entry is opened reads as before, under the placement of its entry. -/
theorem openMiss_coh (s : State) (swz : BitVec 4) (rep : Option Nat) (l1 : List Nat) {z : BitVec 4}
    (hz : n = line → missOf s line = none → z = swz) : cohLine (openMiss s swz line rep l1) z n = cohLine s z n := by
  by_cases hn : n = line
  · subst hn
    cases h : missOf s n with
    | some m => exact (openMiss_joins h ..).coh z
    | none =>
      obtain rfl := hz rfl h
      obtain ⟨hl1, hllc, hw, hc⟩ := openMiss_frame s z n rep l1
      rw [cohLine, cohLine, hl1]
      cases s.l1.find? fun l => l.line = n && l.writable with
      | some x => rfl
      | none =>
        dsimp only
        cases hl : mget none s.llc n with
        | some x => rw [homeLine_of_some hl, homeLine_of_some (hllc ▸ hl)]
        | none =>
          obtain ⟨m, hm, he⟩ := openMiss_opens s z n rep l1
          have view : missView m = (z, 0, 0, none) := by
            change missView (unsent m) = _
            rw [he, entryAfter, h]
            rfl
          rw [homeLine_of_none (hllc ▸ hl), homeLine_of_none hl, hm, h, Option.map_some, view]
          dsimp only
          rw [lineMerge_none, Option.getD_none, dramLine_eq (hw n) (fun z => hc z n), Option.map_none]
  · exact (openMiss_same s swz rep l1 hn).coh z

/-! Entries closed. -/

/-- A line's entry is closed: its readers have their answer, the L1s that asked for it hold it, and nothing else of any line changes
(R102, R103, R190). -/
structure Closed (s t : State) (line : Nat) : Prop where
  l1 : ∀ n, t.l1.find? (fun l => l.line = n && l.writable) = s.l1.find? fun l => l.line = n && l.writable
  llc : t.llc = s.llc
  closed : missOf t line = none
  miss : ∀ n, n ≠ line → (missOf t n).map missView = (missOf s n).map missView
  writes : ∀ n, (lineWrites t n).Perm (lineWrites s n)
  still : NoneWaits s → ∀ n, lineWrites t n = lineWrites s n
  cells : ∀ swz n, dramCells t swz n = dramCells s swz n
  answered : ∀ r ∈ t.resps, r.line = line → r.own = false → r.data ≠ none
  copied : ∀ m, missOf s line = some m → ∀ c ∈ m.l1, Copied t c line
  copies : ∀ y ∈ t.l1, y ∈ s.l1 ∨ (y.writable = false ∧ ∃ m, missOf s line = some m ∧ y.core ∈ m.l1)

theorem Closed.same (h : Closed s t line) (hw : NoneWaits s) (hn : n ≠ line) : SameLine s t n :=
  ⟨h.l1 n, by rw [h.llc], h.miss n hn, h.still hw n, fun z => h.cells z n⟩

/-- The entries without that of a line, its readers answered. -/
def dropMiss (s : State) (line : Nat) (data : Line) : State :=
  answerLine { s with misses := s.misses.filter fun m => m.line ≠ line } line data

theorem dropMiss_closed (s : State) (line : Nat) (data : Line) : missOf (dropMiss s line data) line = none := by
  rw [missOf, List.find?_eq_none]
  intro m hm
  have hm : m ∈ s.misses.filter fun m => m.line ≠ line := hm
  simp only [List.mem_filter, decide_eq_true_eq] at hm
  simpa using hm.2

theorem dropMiss_other (s : State) (data : Line) (hn : n ≠ line) : missOf (dropMiss s line data) n = missOf s n := by
  refine (List.find?_filter ..).trans ?_
  rw [missOf]
  congr 1
  funext m
  by_cases hm : m.line = n <;> simp [hm, hn]

theorem dropMiss_answered (s : State) (line : Nat) (data : Line) :
    ∀ r ∈ (dropMiss s line data).resps, r.line = line → r.own = false → r.data ≠ none := by
  intro r hr hl ho
  obtain ⟨q, -, rfl⟩ := List.mem_map.mp hr
  by_cases hq : (q.line = line && q.data.isNone && !q.own) = true
  · simp [hq]
  · rw [if_neg hq] at hl ho ⊢
    simpa [hl, ho] using hq

theorem closeMiss_closed (data : Line) (hw : OneWaits s) (hr : ∀ m, missOf s line = some m → RoomFor s line m.l1) :
    Closed s (closeMiss s line data) line := by
  cases hm : missOf s line with
  | none =>
    have he : closeMiss s line data = dropMiss s line data := by
      rw [closeMiss, hm]
      rfl
    rw [he]
    refine ⟨fun _ => rfl, rfl, dropMiss_closed .., fun n hn => by rw [dropMiss_other _ _ hn], fun _ => .refl _, fun _ _ => rfl,
      fun _ _ => rfl, dropMiss_answered s line data, fun m hm' => ?_, fun y hy => .inl hy⟩
    cases hm.symm.trans hm'
  | some m =>
    have he : closeMiss s line data = sendAll (m.l1.foldl (fun t c => l1Put t c m.swz line data) (dropMiss s line data)) := by
      rw [closeMiss, hm]
      rfl
    have added := l1Puts_added m.swz data m.l1 (dropMiss s line data) (hr m hm)
    rw [he]
    generalize m.l1.foldl (fun t c => l1Put t c m.swz line data) (dropMiss s line data) = u at added ⊢
    have l1 := added.writable
    obtain ⟨⟨l, rfl, hl⟩, held⟩ := added
    have sent := sendAll_sent (s := { dropMiss s line data with l1 := (dropMiss s line data).l1 ++ l }) hw
    refine ⟨fun n => by rw [sent.l1, l1 n]; rfl, sent.llc, ?_, fun n hn => ?_, sent.writes, fun hn n =>
        (sendAll_same (s := { dropMiss s line data with l1 := (dropMiss s line data).l1 ++ l }) hn n).writes,
      sent.cells, ?_, fun m' hm' => ?_, fun y hy => ?_⟩
    · have closed : (missOf _ line).map unsent = (missOf (dropMiss s line data) line).map unsent := sent.missOf line
      rw [dropMiss_closed, Option.map_none, Option.map_eq_none_iff] at closed
      exact closed
    · rw [sent.view n]
      exact congrArg _ (dropMiss_other s data hn)
    · rw [sent.resps]
      exact dropMiss_answered s line data
    · cases hm.symm.trans hm'
      intro c hc
      obtain ⟨y, hy, he⟩ := held c hc
      exact ⟨y, by rw [sent.l1]; exact hy, he⟩
    · rw [sent.l1] at hy
      exact (List.mem_append.mp hy).imp id fun hy => ⟨(hl y hy).1, m, hm, (hl y hy).2⟩

/-! Lines accepted. -/

/-- A line's slice holds a value, its entry is closed, and every other line is as before (R102, R103). -/
structure Settled (s t : State) (line : Nat) (d : Line) (dirty : Bool) : Prop where
  l1 : ∀ n, t.l1.find? (fun l => l.line = n && l.writable) = s.l1.find? fun l => l.line = n && l.writable
  held : ∃ x, mget none t.llc line = some x ∧ x.data = d ∧ (dirty = true → x.st = if isRemote s line then .rown else .dirty)
  others : ∀ n, n ≠ line → SameLine s t n
  closed : missOf t line = none
  answered : ∀ r ∈ t.resps, r.line = line → r.own = false → r.data ≠ none
  copied : ∀ m, missOf s line = some m → ∀ c ∈ m.l1, Copied t c line
  copies : ∀ y ∈ t.l1, y ∈ s.l1 ∨ (y.writable = false ∧ ∃ m, missOf s line = some m ∧ y.core ∈ m.l1)

theorem closeMiss_put (swz : BitVec 4) (d : Line) (dirty : Bool) (hw : OneWaits s)
    (hr : ∀ m, missOf s line = some m → ∀ c ∈ m.l1, L1Room s c 1) :
    Closed (llcPut s swz line d dirty) (closeMiss (llcPut s swz line d dirty) line d) line := by
  obtain ⟨hl1, hm, -⟩ := llcPut_frame s swz line d dirty
  refine closeMiss_closed d ?_ fun m hm' => .of_room fun c hc => ?_
  · cases dirty <;> exact hw
  · rw [missOf, hm] at hm'
    exact (hr m hm' c hc).of_sublist (hl1 ▸ .refl _)

theorem closeMiss_settled (swz : BitVec 4) (d : Line) (dirty : Bool) (hw : NoneWaits s)
    (hr : ∀ m, missOf s line = some m → ∀ c ∈ m.l1, L1Room s c 1) :
    Settled s (closeMiss (llcPut s swz line d dirty) line d) line d dirty := by
  obtain ⟨hl1, hm, hresp, hb, hq, hp⟩ := llcPut_frame s swz line d dirty
  have same : missOf (llcPut s swz line d dirty) line = missOf s line := by rw [missOf, missOf, hm]
  have waits : NoneWaits (llcPut s swz line d dirty) := ⟨hb.trans hw.1, hq.trans hw.2⟩
  have closed := closeMiss_put swz d dirty ⟨hw.2, .inl hw.1⟩ hr
  refine ⟨fun n => by rw [closed.l1, hl1], by rw [closed.llc]; exact llcPut_held s swz line d dirty,
    fun n hn => (llcPut_same s swz line d dirty hn).trans (closed.same waits hn), closed.closed, closed.answered,
    fun m hm' => closed.copied m (same ▸ hm'), fun y hy => ?_⟩
  rcases closed.copies y hy with hy | ⟨hw, m, hm', hc⟩
  · exact .inl (hl1 ▸ hy)
  · exact .inr ⟨hw, m, same ▸ hm', hc⟩

theorem Settled.coh {d : Line} {dirty : Bool} (h : Settled s t line d dirty)
    (hl1 : s.l1.find? (fun l => l.line = line && l.writable) = none) (swz : BitVec 4) : cohLine t swz line = d := by
  obtain ⟨x, hx, hd, -⟩ := h.held
  rw [cohLine_of_home ((h.l1 line).trans hl1), homeLine_of_some hx, hd]

/-- The value of a line that its slice then holds is the one that was. -/
theorem Settled.keeps {d : Line} {dirty : Bool} (h : Settled s t line d dirty) (hd : ∀ swz, homeLine s swz line = d) (n : Nat) :
    CohKept s t n := by
  by_cases hn : n = line
  · subst hn
    intro swz
    cases hl1 : s.l1.find? fun l => l.line = n && l.writable with
    | some x => rw [cohLine_of_l1 hl1, cohLine_of_l1 ((h.l1 n).trans hl1)]
    | none => rw [h.coh hl1, cohLine_of_home hl1, hd]
  · exact (h.others n hn).coh

end Sys2Proof.Machine
end

section
/-! SUPPORT. A dirty line that gives way to another, and DRAM written beside the slices (R100, R102 to R104). -/

namespace Sys2Proof.Machine

variable {s t u : State} {n line : Nat}

theorem markLive_frame (s : State) (swz : BitVec 4) (line : Nat) : (markLive s swz line).l1 = s.l1 ∧ (markLive s swz line).llc = s.llc ∧
    (markLive s swz line).misses = s.misses ∧ (markLive s swz line).wbufs = s.wbufs ∧ (markLive s swz line).ctrls = s.ctrls := by
  rw [markLive]
  split <;> exact ⟨rfl, rfl, rfl, rfl, rfl⟩

theorem dramWrite_frame (s : State) (swz : BitVec 4) (line : Nat) (mask : BitVec 128) (data : Line) :
    (dramWrite s swz line mask data).l1 = s.l1 ∧ (dramWrite s swz line mask data).llc = s.llc ∧
    (dramWrite s swz line mask data).misses = s.misses ∧ (dramWrite s swz line mask data).wbufs = s.wbufs ∧
    (dramWrite s swz line mask data).ctrls = s.ctrls := by
  rw [dramWrite]
  by_cases hm : mask = fullMask
  · rw [if_pos hm]
    exact markLive_frame ..
  · rw [if_neg hm]
    exact markLive_frame ..

theorem find?_absent (h : ∀ y ∈ s.l1, y.line ≠ line) : s.l1.find? (fun l => l.line = line && l.writable) = none := by
  rw [List.find?_eq_none]
  intro y hy
  simp [h y hy]

/-- A line that is not in any L1 has nothing to take back. -/
theorem recallL1_absent (h : ∀ y ∈ s.l1, y.line ≠ line) : recallL1 s line = s := by
  rw [recallL1_of_none (find?_absent h), List.filter_eq_self.mpr fun y hy => by simpa using h y hy]

/-- A line dropped leaves a way of its set free. -/
theorem dropped_way (p : Nat → Bool) {v : Nat} (hp : p v = true) (m : SMap (Option LlcLine)) (h : mget none m v ≠ none) :
    (((mset none m v none).map (·.1)).filter p).length + 1 ≤ ((m.map (·.1)).filter p).length := by
  have fewer : ∀ l : SMap (Option LlcLine),
      (((mset none l v none).map (·.1)).filter p).length ≤ ((l.map (·.1)).filter p).length := fun l => by
    rw [mset, if_pos rfl]
    exact ((List.filter_sublist.map _).filter _).length_le
  induction m with
  | nil => exact absurd rfl h
  | cons e m ih =>
    obtain ⟨k, x⟩ := e
    have fewer := fewer m
    rw [mset, if_pos rfl] at ih fewer ⊢
    by_cases hk : k = v
    · subst hk
      rw [List.filter_cons_of_neg (by simp), List.map_cons, List.filter_cons_of_pos hp, List.length_cons]
      omega
    · have ih := ih (by rwa [mget, if_neg (Ne.symm hk)] at h)
      rw [List.filter_cons_of_pos (by simpa using hk), List.map_cons, List.map_cons, List.filter_cons, List.filter_cons]
      split
      · simp only [List.length_cons]
        omega
      · exact ih

/-- The write-back of a dirty line (R103). -/
def victimWrite (v : Nat) (x : LlcLine) : CtrlReq :=
  { line := v, swz := x.swz, rep := none, key := none, stream := 0, what := .write fullMask x.data, uid := 0 }

theorem bufferWrite_of_empty (h : s.wbufs = []) (q : CtrlReq) : bufferWrite s q = sendAll { s with wbufs := [q] } := by
  rw [bufferWrite]
  simp [h]

/-- The slice without a line, whose write-back waits in a buffer. -/
def withoutDirty (s : State) (v : Nat) (x : LlcLine) : State :=
  { dirLeave { s with llc := mset none s.llc v none } v with wbufs := [victimWrite v x] }

theorem evictLine_dirty {v : Nat} {x : LlcLine} (hv : mget none s.llc v = some x) (hd : x.st = .dirty) (hw : s.wbufs = [])
    (hl : ∀ y ∈ s.l1, y.line ≠ v) : evictLine s v = sendAll (withoutDirty s v x) := by
  rw [evictLine, hv]
  dsimp only
  rw [recallL1_absent hl, hv, Option.getD_some, hd]
  dsimp only
  exact bufferWrite_of_empty (s := dirLeave { s with llc := mset none s.llc v none } v) hw _

theorem withoutDirty_writes {v : Nat} (x : LlcLine) (hw : s.wbufs = []) (hl : lineWrites s v = []) :
    lineWrites (withoutDirty s v x) v = [victimWrite v x] := by
  rw [lineWrites, hw, List.append_nil] at hl
  rw [lineWrites, List.filter_append]
  refine Eq.trans (congrArg (· ++ _) hl) ?_
  simp [withoutDirty, victimWrite, CtrlReq.writes]

/-- A dirty line has given way: its write-back is on its way, and its set has a way free (R103, R104). -/
structure GaveWay (s u : State) (v : Nat) (x : LlcLine) : Prop where
  l1 : u.l1 = s.l1
  gone : mget none u.llc v = none
  write : (lineWrites u v).Perm [victimWrite v x]
  waits : OneWaits u
  entries : ∀ n, (missOf u n).map unsent = (missOf s n).map unsent
  room : ∀ n, sameSet s v n = true → SetRoom s n 0 → SetRoom u n 1

theorem evictLine_gaveWay {v : Nat} {x : LlcLine} (hv : mget none s.llc v = some x) (hd : x.st = .dirty) (hw : NoneWaits s)
    (hl : ∀ y ∈ s.l1, y.line ≠ v) (hc : ctrlOf x.swz (v * 128) < s.ctrls.length) (hwv : lineWrites s v = []) :
    GaveWay s (evictLine s v) v x := by
  have waits : OneWaits (withoutDirty s v x) := ⟨hw.2, .inr ⟨_, rfl, hc⟩⟩
  have sent := sendAll_sent waits
  rw [evictLine_dirty hv hd hw.1 hl]
  refine ⟨sent.l1, ?_, ?_, sendAll_oneWaits waits, sent.missOf, fun n hset hs => ?_⟩
  · rw [sent.llc]
    exact mget_mset_same none s.llc v none
  · have e := sent.writes v
    rwa [withoutDirty_writes x hw.1 hwv] at e
  · have freed := dropped_way (fun l => sameSet s l n) hset s.llc (by rw [hv]; nofun)
    have here : SetRoom (withoutDirty s v x) n 1 := le_trans freed hs
    exact here.of_eq sent.llc sent.pkg

/-- A line whose one write on its way is a write-back reads as the write-back has it. -/
theorem cohLine_of_victim {v : Nat} {x : LlcLine} (hl1 : s.l1.find? (fun l => l.line = v && l.writable) = none)
    (hl : mget none s.llc v = none) (hm : (missOf s v).map missView = none) (hw : (lineWrites s v).Perm [victimWrite v x]) :
    cohLine s x.swz v = x.data := by
  rw [cohLine_of_home hl1, homeLine_of_none hl, hm]
  dsimp only
  rw [dramLine, queuedWrite, List.perm_singleton.mp hw]
  simp [victimWrite]

/-- A partial write joins the open entry of its line (R102). -/
def mergePart (s : State) (line : Nat) (mask : BitVec 128) (data : Line) : State :=
  { s with misses := s.misses.map fun m =>
      if m.line = line then { m with data := lineMerge m.data data mask, mask := m.mask ||| mask } else m }

theorem mergePart_entry (s : State) (line : Nat) (mask : BitVec 128) (data : Line) (n : Nat) :
    missOf (mergePart s line mask data) n = (missOf s n).map fun m =>
      if m.line = line then { m with data := lineMerge m.data data mask, mask := m.mask ||| mask } else m :=
  missOf_map s (fun m => by split <;> rfl) n

theorem mergePart_same {mask : BitVec 128} {data : Line} (hn : n ≠ line) : SameLine s (mergePart s line mask data) n := by
  refine ⟨rfl, rfl, ?_, rfl, fun _ => rfl⟩
  rw [mergePart_entry]
  cases hm : missOf s n with
  | none => rfl
  | some m => rw [Option.map_some, if_neg (by rw [missOf_line hm]; exact hn)]

/-- The bytes of a line under a partial write that joins its entry. -/
theorem mergePart_byte {m : MissEnt} {mask : BitVec 128} {data : Line} {z swz : BitVec 4} {i : Nat} (hm : missOf s line = some m)
    (hl : mget none s.llc line = none) (hc : s.l1.find? (fun l => l.line = line && l.writable) = none) (hi : i < 128) :
    lineByte (cohLine (mergePart s line mask data) z line) i =
      if mask.getLsbD i then lineByte data i else lineByte (cohLine s swz line) i := by
  have entry : (missOf (mergePart s line mask data) line).map missView =
      some (m.swz, m.mask ||| mask, lineMerge m.data data mask, m.fill) := by
    rw [mergePart_entry, hm, Option.map_some, if_pos (missOf_line hm)]
    rfl
  rw [cohLine_of_home (s := mergePart s line mask data) hc, homeLine_of_none (s := mergePart s line mask data) hl, entry,
    cohLine_of_home hc, homeLine_of_none hl, hm, Option.map_some]
  simp only [missView, lineByte_lineMerge _ _ _ hi, BitVec.getLsbD_or, Bool.or_eq_true]
  by_cases hb : mask.getLsbD i = true
  · simp [hb]
  · simp only [hb, Bool.false_eq_true, or_false, if_false]
    rfl

/-- The first line of a list with a property is the first with a narrower one. -/
theorem find?_narrow {α : Type} {p q : α → Bool} {l : List α} {x : α} (h : l.find? p = some x) (hx : q x = true)
    (hq : ∀ y ∈ l, q y = true → p y = true) : l.find? q = some x := by
  induction l with
  | nil => cases h
  | cons y l ih =>
    by_cases hy : p y = true
    · rw [List.find?_cons_of_pos hy] at h
      cases h
      exact List.find?_cons_of_pos hx
    · rw [List.find?_cons_of_neg hy] at h
      rw [List.find?_cons_of_neg fun g => hy (hq y List.mem_cons_self g)]
      exact ih h fun z hz => hq z (List.mem_cons_of_mem _ hz)

theorem find?_congr_mem {α : Type} {p q : α → Bool} {l : List α} (h : ∀ y ∈ l, p y = q y) : l.find? p = l.find? q := by
  induction l with
  | nil => rfl
  | cons y l ih =>
    rw [List.find?_cons, List.find?_cons, h y List.mem_cons_self, ih fun z hz => h z (List.mem_cons_of_mem _ hz)]

/-- The L1s without a core's copy of a line. -/
def dropCopy (s : State) (core line : Nat) : State := { s with l1 := s.l1.filter fun x => !(x.core = core && x.line = line) }

theorem dropCopy_same (s : State) (core : Nat) (hn : n ≠ line) : SameLine s (dropCopy s core line) n := by
  refine ⟨?_, rfl, rfl, rfl, fun _ => rfl⟩
  rw [dropCopy, List.find?_filter]
  congr 1
  funext y
  by_cases hy : y.line = n <;> simp [hy, hn]

/-- A line that this package owns written to DRAM, any other left (R100, R287). -/
def written (s : State) (line : Nat) (x : LlcLine) : State := if x.st = .rown then dramWrite s x.swz line fullMask x.data else s

theorem written_home (s : State) (line : Nat) (x : LlcLine) : Homeward s (written s line x) := by
  rw [written]
  split
  · exact dramWrite_home ..
  · exact .refl s

theorem written_frame (s : State) (line : Nat) (x : LlcLine) : (written s line x).l1 = s.l1 ∧ (written s line x).llc = s.llc ∧
    (written s line x).misses = s.misses ∧ (written s line x).wbufs = s.wbufs ∧ (written s line x).ctrls = s.ctrls := by
  rw [written]
  split
  · exact dramWrite_frame ..
  · exact ⟨rfl, rfl, rfl, rfl, rfl⟩

/-- A slice's copy of a line put in place. -/
def setHeld (s : State) (line : Nat) (o : Option LlcLine) : State := { s with llc := mset none s.llc line o }

theorem dirOf_setDir (s : State) (line : Nat) (e : DirEnt) : dirOf (setDir s line e) line = e := mget_mset_same ..

theorem dramLine_of_quiet (h : lineWrites s n = []) (swz : BitVec 4) : dramLine s swz n = dramCells s swz n := by
  rw [dramLine, queuedWrite, h]
  rfl

theorem isRemote_iff (s : State) (line : Nat) : isRemote s line = decide (line / 2 ^ 39 ≠ s.pkg) := by
  rw [isRemote, show line * 128 / 2 ^ 46 = line / 2 ^ 39 by omega]

end Sys2Proof.Machine
end

section
/-! PROOFS. Events of the L1s and the slices (R66, R68, R100 to R104, R190, R286, R287). -/

namespace Sys2Proof.Proofs
open Sys2Proof Sys2Proof.Machine

/-- A miss entry opened by a lookup changes no value. -/
theorem llcLookup_keeps (s : State) (line : Nat) (swz : BitVec 4) (keyed : Bool) (k : BitVec 6) :
    Answers (exec (.llcLookup line swz keyed k) s) fun t =>
      LinesKept s t ∧ (keyed = true ∨ k ≠ 0 ∨ mget none s.llc line ≠ none → t = s) ∧
      (keyed = false → k = 0 → mget none s.llc line = none → missOf t line ≠ none) := by
  have kept : LinesKept s s := ⟨fun _ _ _ => rfl, fun _ => rfl, fun _ => rfl⟩
  have run : exec (.llcLookup line swz keyed k) s = execLlcLookup line swz keyed k s := rfl
  rw [run, execLlcLookup]
  by_cases hk : (keyed || decide (k ≠ 0)) = true
  · rw [if_pos hk]
    refine ⟨s, rfl, kept, fun _ => rfl, fun h1 h2 => ?_⟩
    simp [h1, h2] at hk
  · rw [if_neg hk]
    cases hl : mget none s.llc line with
    | some x => exact ⟨s, rfl, kept, fun _ => rfl, nofun⟩
    | none =>
      obtain ⟨m, hm, he⟩ := openMiss_opens s swz line none []
      refine ⟨_, rfl, ⟨fun a z hz => ?_, fun a => ?_, fun a => ?_⟩, fun h => ?_, fun _ _ _ => by rw [hm]; nofun⟩
      · rw [readDpa, readDpa, openMiss_coh]
        intro ha hn
        rw [ha] at hz
        rcases hz with hz | ⟨m', hm', hz⟩
        · rw [hm, hn] at hz
          cases hz
        · cases hm.symm.trans hm'
          have placed := congrArg MissEnt.swz he
          rw [entryAfter, hn] at placed
          exact hz.symm.trans placed
      · rw [(openMiss_home ..).host]
      · rw [(openMiss_home ..).pad]
      · simp only [Bool.or_eq_true, decide_eq_true_eq, not_or, not_not] at hk
        exact absurd (h.resolve_left hk.1) (by simp [hk.2])

/-- The value of a line that has an entry whose fill has come. -/
theorem homeLine_filled {s : State} {line : Nat} {m : MissEnt} {f : Line} (hm : missOf s line = some m) (hf : m.fill = some f)
    (hl : mget none s.llc line = none) (swz : BitVec 4) : homeLine s swz line = lineMerge f m.data m.mask := by
  rw [homeLine_of_none hl, hm, Option.map_some]
  simp only [missView, hf, Option.getD_some]

theorem missFill_keeps {s : State} {line : Nat} {m : MissEnt} {f : Line} (hm : missOf s line = some m) (hf : m.fill = some f)
    (hl : mget none s.llc line = none) (hs : SetRoom s line 1) (hw : NoneWaits s) (hr : ∀ c ∈ m.l1, L1Room s c 1) :
    Answers (exec (.llcMissFill line none) s) fun t => BytesKept s t ∧ missOf t line = none ∧ mget none t.llc line ≠ none ∧
      (∀ r ∈ t.resps, r.line = line → r.own = false → r.data ≠ none) ∧ ∀ c ∈ m.l1, ∃ y ∈ t.l1, y.core = c ∧ y.line = line := by
  have run : exec (.llcMissFill line none) s = .next (fillMiss s m f) := by
    change execLlcMissFill line none s = _
    rw [execLlcMissFill, hm]
    dsimp only
    rw [hf]
  have settled : Settled s (fillMiss s m f) line (lineMerge f m.data m.mask) (decide (m.mask ≠ 0)) := by
    rw [fillMiss, llcInstall, missOf_line hm, llcRoom_room hs]
    exact closeMiss_settled _ _ _ hw fun m' hm' => by cases hm.symm.trans hm'; exact hr
  obtain ⟨x, hx, -⟩ := settled.held
  exact ⟨_, run, .of_lines (fillMiss_home s m f) (settled.keeps (homeLine_filled hm hf hl)), settled.closed, by rw [hx]; nofun,
    settled.answered, settled.copied m hm⟩

theorem missFill_evicts {s : State} {line v : Nat} {x : LlcLine} {m : MissEnt} {f : Line} (hm : missOf s line = some m)
    (hf : m.fill = some f) (hl : mget none s.llc line = none) (hs : SetRoom s line 0) (hw : NoneWaits s)
    (hr : ∀ c ∈ m.l1, L1Room s c 1) (hok : victimOk s line v = true) (hv : mget none s.llc v = some x) (hd : x.st = .dirty)
    (hmv : missOf s v = none) (hc : ctrlOf x.swz (v * 128) < s.ctrls.length) (hl1 : ∀ y ∈ s.l1, y.line ≠ v)
    (hwv : lineWrites s v = []) :
    Answers (exec (.llcMissFill line (some v)) s) fun t => LineKept s t line ∧ mget none t.llc v = none ∧
      ∀ i, i < 128 → readDpa t x.swz (v * 128 + i) = readDpa s x.swz (v * 128 + i) := by
  have way := evictLine_gaveWay hv hd hw hl1 hc hwv
  have run : exec (.llcMissFill line (some v)) s = .next (fillMiss (evictLine s v) m f) := by
    change execLlcMissFill line (some v) s = _
    rw [execLlcMissFill, hm]
    dsimp only
    rw [hf]
    dsimp only
    rw [if_pos hok]
  simp only [victimOk, Bool.and_eq_true, decide_eq_true_eq] at hok
  obtain ⟨⟨-, hne⟩, hset⟩ := hok
  have closed := closeMiss_put m.swz (lineMerge f m.data m.mask) (decide (m.mask ≠ 0)) way.waits (line := line) fun m' hm' c hc => by
    have entry := way.entries line
    rw [hm', hm, Option.map_some, Option.map_some] at entry
    have asked : m'.l1 = m.l1 := by
      change (unsent m').l1 = (unsent m).l1
      rw [Option.some.inj entry]
    exact (hr c (asked ▸ hc)).of_sublist (way.l1 ▸ .refl _)
  rw [run, fillMiss, llcInstall, missOf_line hm, llcRoom_room (way.room line hset hs)]
  generalize evictLine s v = u at *
  obtain ⟨hp1, -, -⟩ := llcPut_frame u m.swz line (lineMerge f m.data m.mask) (decide (m.mask ≠ 0))
  have other := llcPut_same u m.swz line (lineMerge f m.data m.mask) (decide (m.mask ≠ 0)) hne
  have held := llcPut_held u m.swz line (lineMerge f m.data m.mask) (decide (m.mask ≠ 0))
  generalize llcPut u m.swz line (lineMerge f m.data m.mask) (decide (m.mask ≠ 0)) = p at *
  generalize closeMiss p line (lineMerge f m.data m.mask) = t at *
  have copies : ∀ n, t.l1.find? (fun l => l.line = n && l.writable) = s.l1.find? fun l => l.line = n && l.writable := fun n => by
    rw [closed.l1, hp1, way.l1]
  have lost : mget none t.llc v = none := by rw [closed.llc, other.llc, way.gone]
  have noEntry : missOf u v = none := by simpa [hmv] using way.entries v
  refine ⟨t, rfl, CohKept.lineKept fun z => ?_, lost, fun i hi => ?_⟩
  · obtain ⟨y, hy, hyd, -⟩ := held
    rw [cohLine, cohLine, copies line, homeLine_of_some (closed.llc ▸ hy), hyd, homeLine_filled hm hf hl]
  · have now : cohLine t x.swz v = x.data := by
      refine cohLine_of_victim ((copies v).trans (find?_absent hl1)) lost ?_ ?_
      · rw [closed.miss v hne, other.miss, noEntry, Option.map_none]
      · exact (closed.writes v).trans (other.writes ▸ way.write)
    rw [readDpa, readDpa, show (v * 128 + i) / 128 = v by omega, now, cohLine_of_home (find?_absent hl1), homeLine_of_some hv]

theorem partialWrite_keeps (s : State) (line : Nat) (swz : BitVec 4) (mask : BitVec 128) (data : Line)
    (h : mask = fullMask → SetRoom s line 1 ∧ NoneWaits s ∧ ∀ m, missOf s line = some m → ∀ c ∈ m.l1, L1Room s c 1) :
    Answers (exec (.llcPartialWrite line swz ⟨mask, data⟩) s) fun t =>
      (∀ z i, i < 128 → readDpa t z (line * 128 + i) =
        if mask.getLsbD i then lineByte data i else readDpa s swz (line * 128 + i)) ∧
      (∀ n, n ≠ line → LineKept s t n) ∧
      (mget none s.llc line = none → (∀ y ∈ s.l1, y.line ≠ line) → missOf s line = none → mask ≠ fullMask →
        ∃ m, missOf t line = some m ∧ m.swz = swz ∧ m.mask = mask) := by
  have bytes : ∀ t : State, (∀ z i, i < 128 → lineByte (cohLine t z line) i = if mask.getLsbD i then lineByte data i else
      lineByte (cohLine s swz line) i) → ∀ z i, i < 128 → readDpa t z (line * 128 + i) =
        if mask.getLsbD i then lineByte data i else readDpa s swz (line * 128 + i) := fun t ht z i hi => by
    rw [readDpa, readDpa, show (line * 128 + i) / 128 = line by omega, show (line * 128 + i) % 128 = i by omega, ht z i hi]
  have run : exec (.llcPartialWrite line swz ⟨mask, data⟩) s = .next (homeStore s swz line mask data) := rfl
  have dropped := recallL1_none s line
  rw [run]
  cases hl : mget none (recallL1 s line).llc line with
  | some x =>
    obtain ⟨y, hy, hd, -⟩ := llcPut_held (recallL1 s line) x.swz line (lineMerge x.data data mask) true
    obtain ⟨hl1, -⟩ := llcPut_frame (recallL1 s line) x.swz line (lineMerge x.data data mask) true
    have store : homeStore s swz line mask data = llcPut (recallL1 s line) x.swz line (lineMerge x.data data mask) true := by
      rw [homeStore, hl]
    rw [store]
    refine ⟨_, rfl, bytes _ fun z i hi => ?_, fun n hn => ((recallL1_same s hn).trans (llcPut_same _ _ _ _ _ hn)).coh.lineKept,
      fun hn ha => ?_⟩
    · rw [cohLine_of_home (hl1 ▸ dropped), homeLine_of_some hy, hd, lineByte_lineMerge _ _ _ hi, recallL1_data hl]
    · rw [recallL1_absent ha, hn] at hl
      cases hl
  | none =>
    by_cases hm : mask = fullMask
    · obtain ⟨room, waits, fits⟩ := h hm
      obtain ⟨hmiss, -, hb, hq, -⟩ := recallL1_frame s line
      have store : homeStore s swz line mask data = closeMiss (llcPut (recallL1 s line) swz line data true) line data := by
        rw [homeStore, hl, if_pos hm, acceptLine, llcInstall, recallL1_room room]
      have settled : Settled (recallL1 s line) _ line data true := closeMiss_settled swz data true ⟨hb.trans waits.1, hq.trans waits.2⟩
        fun m hm' c hc => (fits m (by rwa [missOf, hmiss] at hm') c hc).of_sublist (recallL1_l1 s line ▸ List.filter_sublist)
      rw [store]
      refine ⟨_, rfl, bytes _ fun z i hi => ?_, fun n hn => ((recallL1_same s hn).trans (settled.others n hn)).coh.lineKept,
        fun _ _ _ hne => absurd hm hne⟩
      rw [settled.coh dropped, if_pos (by rw [hm]; exact fullMask_bit hi)]
    · obtain ⟨hl1, hllc, hwr, hcells⟩ := openMiss_frame (dirWrite (recallL1 s line) line true) swz line none []
      obtain ⟨m, hentry, he⟩ := openMiss_opens (dirWrite (recallL1 s line) line true) swz line none []
      have value : cohLine (openMiss (dirWrite (recallL1 s line) line true) swz line) swz line = cohLine s swz line :=
        (openMiss_coh _ swz none [] fun _ _ => rfl).trans (recallL1_coh s line line swz)
      have dir : ∀ n, SameLine (recallL1 s line) (dirWrite (recallL1 s line) line true) n := .of_eq rfl rfl rfl rfl rfl rfl rfl
      have other : ∀ n, n ≠ line → CohKept s (openMiss (dirWrite (recallL1 s line) line true) swz line) n := fun n hn =>
        ((recallL1_same s hn).trans ((dir n).trans (openMiss_same _ swz none [] hn))).coh
      have store : homeStore s swz line mask data = mergePart (openMiss (dirWrite (recallL1 s line) line true) swz line) line mask data := by
        rw [homeStore, hl, if_neg hm]
        rfl
      have copies := hl1.trans (rfl : (dirWrite (recallL1 s line) line true).l1 = (recallL1 s line).l1)
      have lost := hllc.trans (rfl : (dirWrite (recallL1 s line) line true).llc = (recallL1 s line).llc)
      rw [store]
      generalize openMiss (dirWrite (recallL1 s line) line true) swz line = u at *
      have none : u.l1.find? (fun l => l.line = line && l.writable) = none := copies ▸ dropped
      refine ⟨_, rfl, bytes _ fun z i hi => ?_, fun n hn => ((other n hn).trans (mergePart_same hn).coh).lineKept, fun hn ha hf _ => ?_⟩
      · rw [← value, mergePart_byte hentry (lost ▸ hl) none hi]
      · have fresh : missOf (dirWrite (recallL1 s line) line true) line = Option.none := by
          rw [recallL1_absent ha]
          exact hf
        rw [entryAfter, fresh] at he
        refine ⟨{ m with data := lineMerge m.data data mask, mask := m.mask ||| mask }, ?_, ?_, ?_⟩
        · rw [mergePart_entry, hentry, Option.map_some, if_pos (missOf_line hentry)]
        · change (unsent m).swz = swz
          rw [he]
          rfl
        · change (unsent m).mask ||| mask = mask
          rw [he]
          exact BitVec.zero_or

theorem writeback_keeps {s : State} {core line : Nat} {x : L1Line}
    (hx : s.l1.find? (fun y => decide (y.core = core ∧ y.line = line)) = some x)
    (hw : x.writable = true → SetRoom s line 1 ∧ NoneWaits s ∧ (∀ y ∈ s.l1, y.line = line → y.writable = true → y.core = core) ∧
      ∀ m, missOf s line = some m → core ∉ m.l1 ∧ ∀ c ∈ m.l1, L1Room s c 1)
    (hr : x.writable = false → ∀ y ∈ s.l1, y.core = core → y.line = line → y.writable = false) :
    Answers (exec (.llcWriteback core line) s) fun t => BytesKept s t ∧ (∀ y ∈ t.l1, ¬(y.core = core ∧ y.line = line)) ∧
      (x.writable = true → missOf t line = none ∧ ∃ l, mget none t.llc line = some l ∧ l.data = x.data ∧
        l.st = if line / 2 ^ 39 = s.pkg then .dirty else .rown) := by
  have found : (s.l1.find? fun y => y.core = core && y.line = line) = some x := by
    rw [← hx]
    congr 1
    funext y
    simp
  have run : exec (.llcWriteback core line) s = .next (if x.writable then acceptLine (dropCopy s core line) x.swz line x.data
      else dropCopy s core line) := by
    change execLlcWriteback core line s = _
    rw [execLlcWriteback, found]
    rfl
  have home : Homeward s (dropCopy s core line) := ⟨rfl, id⟩
  have absent : ∀ y ∈ (dropCopy s core line).l1, ¬(y.core = core ∧ y.line = line) := fun y hy he => by
    simp [dropCopy, he.1, he.2] at hy
  rw [run]
  by_cases hwr : x.writable = true
  · obtain ⟨room, waits, one, fits⟩ := hw hwr
    have newest : s.l1.find? (fun l => l.line = line && l.writable) = some x := by
      have at_ := List.find?_some hx
      simp only [decide_eq_true_eq] at at_
      refine find?_narrow hx (by simp [at_.2, hwr]) fun y hy hq => ?_
      simp only [Bool.and_eq_true, decide_eq_true_eq] at hq
      simp [one y hy hq.1 hq.2, hq.1]
    have none : (dropCopy s core line).l1.find? (fun l => l.line = line && l.writable) = none := by
      rw [List.find?_eq_none]
      intro y hy hq
      simp only [Bool.and_eq_true, decide_eq_true_eq] at hq
      exact absent y hy ⟨one y (List.mem_of_mem_filter hy) hq.1 hq.2, hq.1⟩
    have settled : Settled (dropCopy s core line) (acceptLine (dropCopy s core line) x.swz line x.data) line x.data true := by
      have here : SetRoom (dropCopy s core line) line 1 := room.of_eq rfl rfl
      rw [acceptLine, llcInstall, llcRoom_room here]
      exact closeMiss_settled _ _ _ waits fun m hm c hc => ((fits m hm).2 c hc).of_sublist List.filter_sublist
    obtain ⟨l, hl, hd, hst⟩ := settled.held
    rw [if_pos hwr]
    refine ⟨_, rfl, .of_lines (home.trans (acceptLine_home ..)) fun n => ?_, fun y hy => ?_, fun _ => ⟨settled.closed, l, hl, hd, ?_⟩⟩
    · by_cases hn : n = line
      · subst hn
        intro z
        rw [settled.coh none, cohLine_of_l1 newest]
      · exact (dropCopy_same s core hn).coh.trans (settled.others n hn).coh
    · rcases settled.copies y hy with hy | ⟨-, m, hm, hc⟩
      · exact absent y hy
      · rintro ⟨rfl, -⟩
        exact (fits m hm).1 hc
    · rw [hst rfl, isRemote_iff]
      simp [dropCopy]
  · have kept : ∀ n, CohKept s (dropCopy s core line) n := fun n => by
      refine SameLine.coh ⟨?_, rfl, rfl, rfl, fun _ => rfl⟩
      rw [dropCopy, List.find?_filter]
      refine find?_congr_mem fun y hy => ?_
      by_cases he : y.core = core ∧ y.line = line
      · simp [hr (by simpa using hwr) y hy he.1 he.2]
      · simp only [not_and] at he
        by_cases hc : y.core = core <;> simp_all
    rw [if_neg hwr]
    exact ⟨_, rfl, .of_lines home kept, absent, fun h => absurd h hwr⟩

theorem directoryRecall_keeps {s : State} {line : Nat} {x : LlcLine} (ex : Bool) (hp : line / 2 ^ 39 ≠ s.pkg)
    (hx : mget none s.llc line = some x) (hm : missOf s line = none) (hl1 : ∀ y ∈ s.l1, y.line ≠ line) (hw : lineWrites s line = []) :
    Answers (exec (.directoryRecall line ex) s) fun t =>
      (ex = false → LineKept s t line ∧ mget none t.llc line = some { x with st := .rsh } ∧
        s.pkg ∈ (dirOf t line).rsh ∧ (dirOf t line).rown = none) ∧
      (ex = true → mget none t.llc line = none ∧ s.pkg ∉ (dirOf t line).rsh ∧ (dirOf t line).rown ≠ some s.pkg ∧
        (x.st = .rown → ∀ i, i < 128 → readDpa t x.swz (line * 128 + i) = readDpa s x.swz (line * 128 + i))) := by
  have remote : isRemote s line = true := by rw [isRemote_iff, decide_eq_true hp]
  have run : exec (.directoryRecall line ex) s = .next (if ex then dirLeave (setHeld (written s line x) line none) line
      else dirRead (setHeld (written s line x) line (some { x with st := .rsh })) line) := by
    change execDirectoryRecall line ex s = _
    rw [execDirectoryRecall, remote, recallL1_absent hl1]
    dsimp only
    rw [hx]
    cases ex <;> rfl
  have absent := find?_absent hl1
  obtain ⟨el1, -, emiss, ebufs, ectrls⟩ := written_frame s line x
  have pkg : ∀ o, (setHeld (written s line x) line o).pkg = s.pkg := fun o => (written_home s line x).pkg
  have held : ∀ o, mget none (setHeld (written s line x) line o).llc line = o := fun o => mget_mset_same ..
  have bare : ∀ o, (setHeld (written s line x) line o).l1.find? (fun l => l.line = line && l.writable) = none := fun o => by
    rw [← absent]
    exact congrArg _ el1
  rw [run]
  cases ex with
  | false =>
    refine ⟨dirRead (setHeld (written s line x) line (some { x with st := .rsh })) line, rfl,
      fun _ => ⟨CohKept.lineKept fun z => ?_, held (some { x with st := .rsh }), ?_, ?_⟩, nofun⟩
    · rw [cohLine_of_home absent, homeLine_of_some hx]
      exact (cohLine_of_home (bare _) z).trans (homeLine_of_some (held _) z)
    · rw [dirRead, dirOf_setDir, isRemote_iff, pkg, decide_eq_true hp]
      simp
    · rw [dirRead, dirOf_setDir]
  | true =>
    refine ⟨dirLeave (setHeld (written s line x) line none) line, rfl, nofun, fun _ => ⟨held none, ?_, ?_, fun hst i hi => ?_⟩⟩
    · rw [dirLeave, dirOf_setDir, pkg]
      simp
    · rw [dirLeave, dirOf_setDir, pkg]
      split <;> simp_all
    · have cells : dramCells (written s line x) x.swz line = x.data := by
        rw [written, if_pos hst, dramCells_dramWrite]
      have quiet : lineWrites (written s line x) line = [] := by
        rw [← hw, lineWrites, lineWrites, ebufs, ectrls]
      have open_ : missOf (setHeld (written s line x) line none) line = none := by
        rw [← hm]
        exact congrArg (fun l : List MissEnt => l.find? fun m => m.line = line) emiss
      have now : cohLine (setHeld (written s line x) line none) x.swz line = x.data := by
        rw [cohLine_of_home (bare none), homeLine_of_none (held none), open_]
        exact (dramLine_of_quiet quiet x.swz).trans cells
      rw [readDpa, readDpa, show (line * 128 + i) / 128 = line by omega, cohLine_of_home absent, homeLine_of_some hx, ← now]
      rfl

/-- Settles O44: each event is one of the operations of the slices and the L1s, and of each it is known what it leaves of the line that it
names (Settled, CohKept) and that it leaves the others (SameLine). -/
theorem cacheEvents : Obligations.CacheEvents := by
  unfold Obligations.CacheEvents
  refine ⟨llcLookup_keeps, fun s line m f hm hf hl hs hw hr => missFill_keeps hm hf hl hs hw hr,
    fun s line v x m f hm hf hl hs hw hr hok hv hd hmv hc hl1 hwv => missFill_evicts hm hf hl hs hw hr hok hv hd hmv hc hl1 hwv,
    fun s line hm v => ?_, partialWrite_keeps, fun s core line x hx hw hr => writeback_keeps hx hw hr,
    fun s line => ⟨_, rfl, .of_lines (recallL1_home s line) (recallL1_coh s line), fun y hy => ?_⟩, fun s line ex hp => ?_,
    fun s line ex x hp hx hm hl1 hw => directoryRecall_keeps ex hp hx hm hl1 hw⟩
  · change execLlcMissFill line v s = _
    unfold execLlcMissFill
    rw [hm]
  · rw [recallL1_l1] at hy
    simpa using (List.mem_filter.mp hy).2
  · change execDirectoryRecall line ex s = _
    rw [execDirectoryRecall, isRemote_iff, decide_eq_false (not_not_intro hp)]
    rfl

end Sys2Proof.Proofs
end

section
/-! SUPPORT. What FNCE does before it goes on (R273, R285), and what an instruction that writes no register leaves of the results due. -/

namespace Sys2Proof.Machine

variable {s t v : State}

theorem Followed.hostWrites {s t u : State} {c : Ctl} (h : Followed s t u c) : u.hostWrites = t.hostWrites := by
  have e := congrArg State.hostWrites h.outside
  exact e

/-- What the instruction's own part leaves outside the warp, the instruction leaves. -/
theorem Followed.outsideKept {s t u : State} {c : Ctl} (h : Followed s t u c) (hs : OutsideKept s t) : OutsideKept s u := by
  unfold OutsideKept at hs ⊢
  calc { u with warp := s.warp, free := s.free }
      = { { u with warp := t.warp, free := t.free } with warp := s.warp, free := s.free } := rfl
    _ = { t with warp := s.warp, free := s.free } := by rw [h.outside]
    _ = s := hs

/-- A warp's store buffer is drained but for the stores to UN pages that stay behind (R273). -/
theorem drainRel_warp (s : State) : (drainRel s).warp = { s.warp with
    sb := s.warp.sb.filter fun e => staysBehind s e, nonReplay := true, kept := [] } := by
  have h := performStores_beside (setWarp { s with free := s.free + 1 } fun w => { w with sb := s.warp.sb.filter fun e => staysBehind s e })
    s.warp.core (s.warp.sb.filter fun e => !staysBehind s e)
  simp only [drainRel, noReplay, setWarp_warp, h.warp]

theorem drainRel_now (s : State) : (drainRel s).now = s.now :=
  (performStores_beside (setWarp { s with free := s.free + 1 } fun w => { w with sb := s.warp.sb.filter fun e => staysBehind s e })
    s.warp.core (s.warp.sb.filter fun e => !staysBehind s e)).now

/-- The release of a fence of a kind at a scope. -/
def fenceDrained (k : FnceKind) (sc : Scope) (s : State) : State :=
  if k = .acq ∨ drainsAt sc = false then s else if k = .un then drain s else drainRel s

/-- Writes on their way to the host landed by a fence. -/
def fenceLanded (k : FnceKind) (sc : Scope) (s : State) : State := if k ≠ .acq ∧ sc = .sy then landHost s else s

/-- The acquire of a fence of a kind. -/
def fenceSeen (k : FnceKind) (s : State) : State :=
  if k = .rel then s else setWarp s fun w => { w with due := w.due.filter fun d => !(d.load && d.ready.isNone) }

theorem fnce_issue (c : Ctl) (k : FnceKind) (sc : Scope) (s : State) : exec (.fnce c k sc) s =
    issue (.fnce c k sc) c (fun s _ => .done (fenceSeen k (fenceLanded k sc (fenceDrained k sc s)))) s := rfl

/-- A release drains at a scope past the core (R285). -/
theorem fenceDrained_far {k : FnceKind} {sc : Scope} (hk : k ≠ .acq) (hs : sc ∈ [Scope.cl, .pk, .dm, .sy]) (s : State) :
    fenceDrained k sc s = if k = .un then drain s else drainRel s := by
  rw [fenceDrained, drainsAt, decide_eq_true hs]
  simp [hk]

theorem fenceDrained_near {k : FnceKind} {sc : Scope} (h : ¬(k ≠ .acq ∧ sc ∈ [Scope.cl, .pk, .dm, .sy])) (s : State) :
    fenceDrained k sc s = s := by
  rw [fenceDrained, if_pos]
  rw [drainsAt, decide_eq_false_iff_not]
  tauto

/-- A fence changes of the warp the store buffer, its standing to be run again and the results due alone. -/
theorem fenceDrained_warp (k : FnceKind) (sc : Scope) (s : State) :
    ∃ sb nr kept, (fenceDrained k sc s).warp = { s.warp with sb := sb, nonReplay := nr, kept := kept } := by
  rw [fenceDrained]
  split
  · exact ⟨_, _, _, rfl⟩
  · split
    · exact ⟨_, _, _, drain_warp s⟩
    · exact ⟨_, _, _, drainRel_warp s⟩

theorem fenceDrained_now (k : FnceKind) (sc : Scope) (s : State) : (fenceDrained k sc s).now = s.now := by
  rw [fenceDrained]
  split
  · rfl
  · split
    · exact drain_now s
    · exact drainRel_now s

theorem fenceLanded_warp (k : FnceKind) (sc : Scope) (s : State) :
    (fenceLanded k sc s).warp = s.warp ∧ (fenceLanded k sc s).now = s.now := by
  rw [fenceLanded]
  split <;> exact ⟨rfl, rfl⟩

theorem fenceLanded_reads (k : FnceKind) (sc : Scope) (s : State) (swz : BitVec 4) (a : Nat) :
    readDpa (fenceLanded k sc s) swz a = readDpa s swz a := by
  rw [fenceLanded]
  split <;> rfl

theorem fenceSeen_eq (k : FnceKind) (s : State) : ∃ due, fenceSeen k s = { s with warp := { s.warp with due := due } } := by
  rw [fenceSeen]
  split <;> exact ⟨_, rfl⟩

/-- Behind what a fence drained, its own part changes no byte of device memory and no store buffer. -/
theorem fenceTail (k : FnceKind) (sc : Scope) (s : State) : (fenceSeen k (fenceLanded k sc s)).warp.sb = s.warp.sb ∧
    ∀ swz a, readDpa (fenceSeen k (fenceLanded k sc s)) swz a = readDpa s swz a := by
  obtain ⟨due, he⟩ := fenceSeen_eq k (fenceLanded k sc s)
  rw [he]
  exact ⟨congrArg (·.sb) (fenceLanded_warp k sc s).1, fenceLanded_reads k sc s⟩

/-- An acquire leaves no load of which the value is still to be found. -/
theorem fenceSeen_due {k : FnceKind} (h : k ≠ .rel) (s : State) : ∀ d ∈ (fenceSeen k s).warp.due, ¬(d.load = true ∧ d.ready = none) := by
  rw [fenceSeen, if_neg h]
  rintro d hd ⟨hl, hr⟩
  have hd := (List.mem_filter.mp hd).2
  simp [hl, hr] at hd

/-- An instruction that writes no register leaves the results due, but for those that no longer are. -/
theorem finish_due {i : Instr} (h : i.writes = []) (c : Ctl) (m : Mask) (s t : State) :
    ∀ d ∈ (finish s i c m (.done t)).warp.due, d ∈ t.warp.due := by
  intro d hd
  have same : (finish s i c m (.done t)).warp.due = t.warp.due.filter fun d => d.pending s.now := by
    simp only [finish, recordDue, h, advance, passTime, setWarp]
    simp
  rw [same] at hd
  exact List.mem_of_mem_filter hd

end Sys2Proof.Machine
end

section
/-! PROOFS. FNCE (R273, R285). -/

namespace Sys2Proof.Proofs
open Sys2Proof Sys2Proof.Machine

theorem fence_runs {s : State} {c : Ctl} {k : FnceKind} {sc : Scope} (hr : Runs s (.fnce c k sc) c) :
    let far : Prop := k ≠ .acq ∧ sc ∈ [Scope.cl, .pk, .dm, .sy]
    ∃ v, exec (.fnce c k sc) s = .next v ∧
      (far → k = .un → v.warp.sb = [] ∧ ∀ swz a, readDpa v swz a = readDpa (drain (issued s c)) swz a) ∧
      (far → k ≠ .un → (∀ e ∈ v.warp.sb, e ∈ s.warp.sb ∧ e.ord = .un) ∧
        ∀ swz a, readDpa v swz a = readDpa (drainRel (issued s c)) swz a) ∧
      (k ≠ .acq → sc = .sy → v.hostWrites = []) ∧
      (k ≠ .rel → ∀ d ∈ v.warp.due, ¬(d.load = true ∧ d.ready = none)) ∧
      (¬far → RegFrame s v (.fnce c k sc) c) ∧ RegsKept s v (acting s c) [] ∧ MovedOn s v c := by
  intro far
  have run := (fnce_issue c k sc s).trans (issue_runs _ hr rfl)
  have followed := finish_followed (c := c) hr.clear (fenceSeen k (fenceLanded k sc (fenceDrained k sc (issued s c))))
  have due := finish_due (i := .fnce c k sc) rfl c (acting s c) (issued s c)
    (fenceSeen k (fenceLanded k sc (fenceDrained k sc (issued s c))))
  have keptWarp := issued_warpKept s c
  have tail := fenceTail k sc (fenceDrained k sc (issued s c))
  obtain ⟨fe, fv, fs, fp, -, -, fh, -, -, fn⟩ := issued_frame s c
  obtain ⟨sb, nr, kept, hd⟩ := fenceDrained_warp k sc (issued s c)
  obtain ⟨hlw, hln⟩ := fenceLanded_warp k sc (fenceDrained k sc (issued s c))
  obtain ⟨left, hw⟩ := fenceSeen_eq k (fenceLanded k sc (fenceDrained k sc (issued s c)))
  have seen : k ≠ .rel → ∀ d ∈ (fenceSeen k (fenceLanded k sc (fenceDrained k sc (issued s c)))).warp.due,
      ¬(d.load = true ∧ d.ready = none) := fun h => fenceSeen_due h _
  have warp : (fenceSeen k (fenceLanded k sc (fenceDrained k sc (issued s c)))).warp =
      { (issued s c).warp with sb := sb, nonReplay := nr, kept := kept, due := left } := by rw [hw, hlw, hd]
  have now : (fenceSeen k (fenceLanded k sc (fenceDrained k sc (issued s c)))).now = s.now := by
    rw [hw]
    exact (hln.trans (fenceDrained_now ..)).trans fn
  have host : k ≠ .acq → sc = .sy → (fenceSeen k (fenceLanded k sc (fenceDrained k sc (issued s c)))).hostWrites = [] := fun h1 h2 => by
    rw [hw, fenceLanded, if_pos ⟨h1, h2⟩]
    rfl
  have near : ¬far → ∃ due, fenceSeen k (fenceLanded k sc (fenceDrained k sc (issued s c))) =
      { issued s c with warp := { (issued s c).warp with due := due } } := fun hf => by
    have land : fenceLanded k sc (issued s c) = issued s c := by
      rw [fenceLanded, if_neg]
      rintro ⟨h1, rfl⟩
      exact hf ⟨h1, by simp⟩
    rw [fenceDrained_near hf, land]
    exact fenceSeen_eq ..
  generalize fenceSeen k (fenceLanded k sc (fenceDrained k sc (issued s c))) = t at *
  have bytes := followed.bytes
  have regs : ∀ codes, RegsKept s (finish (issued s c) (.fnce c k sc) c (acting s c) (.done t)) (acting s c) codes := fun codes =>
    .of_eq (by rw [followed.v, warp, fv]) (by rw [followed.sr, warp, fs]) (by rw [followed.p, warp, fp])
  refine ⟨_, run, fun hf hk => ⟨?_, fun swz a => ?_⟩, fun hf hk => ⟨fun e he => ?_, fun swz a => ?_⟩, fun h1 h2 => ?_,
    fun hk d hd => seen hk d (due d hd), fun hf => ?_, regs [], followed.moved ?_ ?_ now⟩
  · rw [followed.kept.sb, tail.1, fenceDrained_far hf.1 hf.2, if_pos hk, drain_warp]
  · rw [bytes.1, tail.2, fenceDrained_far hf.1 hf.2, if_pos hk]
  · rw [followed.kept.sb, tail.1, fenceDrained_far hf.1 hf.2, if_neg hk, drainRel_warp] at he
    obtain ⟨hm, hu⟩ := List.mem_filter.mp he
    simp only [staysBehind, Bool.and_eq_true, decide_eq_true_eq] at hu
    exact ⟨keptWarp.sb ▸ hm, hu.1⟩
  · rw [bytes.1, tail.2, fenceDrained_far hf.1 hf.2, if_neg hk]
  · rw [followed.hostWrites, host h1 h2]
  · obtain ⟨D, L, he, -⟩ := issued_eq s c
    obtain ⟨due, ht⟩ := near hf
    rw [he] at ht
    have outside : OutsideKept s t := by
      rw [ht]
      rfl
    have before : BytesKept s t := by
      rw [ht]
      exact ⟨fun _ _ => rfl, fun _ => rfl, fun _ => rfl⟩
    have same : WarpKept s.warp t.warp := by
      rw [ht]
      constructor <;> rfl
    exact ⟨followed.outsideKept outside, before.trans bytes, same.trans followed.kept, regs _⟩
  · rw [warp, fe]
  · rw [warp, fh]

end Sys2Proof.Proofs
end

section
/-! SUPPORT. What the lines that PREF names go through: what stays asked for, what stays held and what stays readable (R102, R190, R202). -/

namespace Sys2Proof.Machine

variable {s t u : State} {n line core : Nat}

/-! Below the slices: DRAM and the queues before it. -/

/-- Nothing of the L1s and the slices has changed but which misses are sent. -/
structure Below (s t : State) : Prop where
  l1 : t.l1 = s.l1
  llc : t.llc = s.llc
  misses : t.misses.map unsent = s.misses.map unsent

theorem Below.refl (s : State) : Below s s := ⟨rfl, rfl, rfl⟩

theorem Below.trans (h : Below s t) (g : Below t u) : Below s u := ⟨g.l1.trans h.l1, g.llc.trans h.llc, g.misses.trans h.misses⟩

theorem Sent.below (h : Sent s t) : Below s t := ⟨h.l1, h.llc, h.misses⟩

theorem dramWrite_below (s : State) (swz : BitVec 4) (line : Nat) (mask : BitVec 128) (data : Line) :
    Below s (dramWrite s swz line mask data) := by
  obtain ⟨hl1, hllc, hm, -⟩ := dramWrite_frame s swz line mask data
  exact ⟨hl1, hllc, by rw [hm]⟩

theorem flushLine_below (s : State) (line : Nat) : Below s (flushLine s line) := by
  rw [flushLine]
  refine .trans ?_ (foldl_keeps Below .refl .trans _ _ (fun t q => ?_) _)
  · exact ⟨rfl, rfl, rfl⟩
  · split
    · exact dramWrite_below ..
    · exact .refl t

theorem sendAll_below (s : State) : Below s (sendAll s) := by
  have sends : ∀ (f : State → CtrlReq → State), (∀ t q, Below t (f t q)) → ∀ (l : List CtrlReq) t, Below t (l.foldl f t) :=
    fun f h l t => foldl_keeps Below .refl .trans f l h t
  rw [sendAll]
  refine ((sends _ (fun t q => ?_) _ s).trans (sendMisses_sent _).below).trans (sends _ (fun t q => ?_) _ _)
  · split
    · exact ⟨rfl, rfl, rfl⟩
    · exact .refl t
  · split
    · exact ⟨rfl, rfl, rfl⟩
    · exact .refl t

theorem bufferWrite_below (s : State) (q : CtrlReq) : Below s (bufferWrite s q) := by
  have push : ∀ u : State, Below u (sendAll { u with wbufs := u.wbufs ++ [q] }) := fun u =>
    .trans (t := { u with wbufs := u.wbufs ++ [q] }) ⟨rfl, rfl, rfl⟩ (sendAll_below _)
  rw [bufferWrite]
  refine .trans ?_ (push _)
  split
  · exact .refl s
  · split
    · exact flushLine_below ..
    · exact .refl s

/-! A line that a core would have to wait for. -/

/-- Neither a core's L1 nor its slice holds a line. -/
structure Unheld (s : State) (core n : Nat) : Prop where
  l1 : ¬Copied s core n
  llc : mget none s.llc n = none

/-- A line is still not held, and the entries are the same but for being sent. -/
structure Spared (s t : State) (core n : Nat) : Prop where
  unheld : Unheld t core n
  misses : t.misses.map unsent = s.misses.map unsent

theorem Spared.trans (h : Spared s t core n) (g : Spared t u core n) : Spared s u core n := ⟨g.unheld, g.misses.trans h.misses⟩

theorem Below.spared (h : Below s t) (hu : Unheld s core n) : Spared s t core n := by
  refine ⟨⟨?_, h.llc ▸ hu.llc⟩, h.misses⟩
  rintro ⟨y, hy, he⟩
  exact hu.l1 ⟨y, h.l1 ▸ hy, he⟩

/-- L1 copies that go, and a slice's copy of another line that comes or goes, spare a line. -/
theorem Spared.of_less (hu : Unheld s core n) (hl1 : ∀ y ∈ t.l1, y ∈ s.l1) (hllc : mget none t.llc n = mget none s.llc n)
    (hm : t.misses = s.misses) : Spared s t core n :=
  ⟨⟨fun ⟨y, hy, he⟩ => hu.l1 ⟨y, hl1 y hy, he⟩, hllc.trans hu.llc⟩, by rw [hm]⟩

theorem recallL1_spared (hu : Unheld s core n) (hn : n ≠ line) : Spared s (recallL1 s line) core n :=
  .of_less hu (fun y hy => by rw [recallL1_l1] at hy; exact List.mem_of_mem_filter hy) (recallL1_same s hn).llc (recallL1_frame s line).1

theorem llcPut_spared (swz : BitVec 4) (data : Line) (dirty : Bool) (hu : Unheld s core n) (hn : n ≠ line) :
    Spared s (llcPut s swz line data dirty) core n := by
  obtain ⟨hl1, hm, -⟩ := llcPut_frame s swz line data dirty
  exact .of_less hu (fun y hy => hl1 ▸ hy) (llcPut_same s swz line data dirty hn).llc hm

theorem evictLine_spared (v : Nat) (hu : Unheld s core n) : Spared s (evictLine s v) core n := by
  rw [evictLine]
  cases hv : mget none s.llc v with
  | none => exact ⟨hu, rfl⟩
  | some x =>
    have hn : n ≠ v := by
      rintro rfl
      rw [hu.llc] at hv
      cases hv
    have back := recallL1_spared (line := v) hu hn
    have gone : Spared s (dirLeave { recallL1 s v with llc := mset none (recallL1 s v).llc v none } v) core n := by
      refine back.trans (.of_less back.unheld (fun y hy => hy) ?_ rfl)
      exact mget_mset_other (none : Option LlcLine) (recallL1 s v).llc v n none hn
    dsimp only
    split
    · exact gone.trans ((bufferWrite_below ..).spared gone.unheld)
    · exact gone.trans ((dramWrite_below ..).spared gone.unheld)
    · exact gone

theorem llcRoom_spared (v : Nat) (hu : Unheld s core n) : Spared s (llcRoom s v) core n := by
  rw [llcRoom]
  split
  · exact ⟨hu, rfl⟩
  · dsimp only
    split
    · exact ⟨hu, rfl⟩
    · have counted : Spared s { s with free := s.free + 1 } core n := ⟨⟨hu.l1, hu.llc⟩, rfl⟩
      exact counted.trans (evictLine_spared _ counted.unheld)

theorem dropL1_spared (c v : Nat) (hu : Unheld s core n) (hn : n ≠ v) : Spared s (dropL1 s c v) core n := by
  rw [dropL1]
  split
  · exact ⟨hu, rfl⟩
  · next l _ =>
    have less : Spared s (dropCopy s c v) core n := .of_less hu (fun y hy => List.mem_of_mem_filter hy) rfl rfl
    dsimp only
    split
    · have room := less.trans (llcRoom_spared v less.unheld)
      exact room.trans (llcPut_spared _ _ _ room.unheld hn)
    · exact less

theorem l1Put_spared (swz : BitVec 4) (data : Line) (hu : Unheld s core n) (hn : n ≠ line) :
    Spared s (l1Put s core swz line data) core n := by
  have put : ∀ t : State, Spared s t core n → Spared s { t with l1 := t.l1 ++ [readCopy core swz line data] } core n := fun t ht => by
    refine ht.trans ⟨⟨?_, ht.unheld.llc⟩, rfl⟩
    rintro ⟨y, hy, hc, hl⟩
    rcases List.mem_append.mp hy with hy | hy
    · exact ht.unheld.l1 ⟨y, hy, hc, hl⟩
    · cases List.mem_singleton.mp hy
      exact hn hl.symm
  rw [l1Put]
  split
  · exact ⟨hu, rfl⟩
  · have mates : ∀ y ∈ (if (s.l1.filter fun l => decide (l.core = core)).length < 16 then [] else
        (s.l1.filter fun l => decide (l.core = core)).filter fun l => decide (Config.l1Set l.line = Config.l1Set line)),
        y ∈ s.l1 ∧ y.core = core := fun y hy => by
      split at hy
      · cases hy
      · simpa using List.mem_filter.mp (List.mem_of_mem_filter hy)
    refine put _ ?_
    generalize (if (s.l1.filter fun l => decide (l.core = core)).length < 16 then [] else
        (s.l1.filter fun l => decide (l.core = core)).filter fun l => decide (Config.l1Set l.line = Config.l1Set line)) = l at mates ⊢
    split
    · exact ⟨hu, rfl⟩
    · split
      · next v hv =>
        obtain ⟨hm, hc⟩ := mates v (List.mem_of_getElem? hv)
        have counted : Spared s { s with free := s.free + 1 } core n := ⟨⟨hu.l1, hu.llc⟩, rfl⟩
        refine counted.trans (dropL1_spared _ _ counted.unheld ?_)
        rintro rfl
        exact hu.l1 ⟨v, hm, hc, rfl⟩
      · exact ⟨hu, rfl⟩

/-- A line filled into a core's L1 spares another that the core waits for. -/
theorem l1Fill_spared (swz : BitVec 4) (hu : Unheld s core n) (hn : n ≠ line) : Spared s (l1Fill s core swz line) core n := by
  rw [l1Fill]
  split
  · exact ⟨hu, rfl⟩
  · dsimp only
    split
    · have back := recallL1_spared (line := line) hu hn
      exact back.trans (l1Put_spared _ _ back.unheld hn)
    · exact l1Put_spared _ _ hu hn

/-- An entry opened for a line is none of another's. -/
theorem openMiss_others (s : State) (swz : BitVec 4) (rep : Option Nat) (l1 : List Nat) (hn : n ≠ line) :
    (missOf (openMiss s swz line rep l1) n).map unsent = (missOf s n).map unsent := by
  cases h : missOf s line with
  | none =>
    rw [openMiss_of_none h, (sendMisses_sent _).missOf, missOf, missOf, List.find?_append]
    simp [newMiss, Ne.symm hn]
  | some m =>
    rw [openMiss_of_some h, missOf_map s (by intro m; split <;> rfl)]
    cases hm : missOf s n with
    | none => rfl
    | some x => rw [Option.map_some, if_neg (by rw [missOf_line hm]; exact hn)]

end Sys2Proof.Machine
end

section
/-! SUPPORT. Lines prefetched one after the other (R102, R190, R202). -/

namespace Sys2Proof.Machine

variable {s t u : State} {n line core : Nat}

/-! A line filled into a core's L1 that has room for it. -/

/-- A core's L1 holds a line, and nothing else that an access sees has changed. -/
structure Filled (s t : State) (core line : Nat) : Prop where
  coh : ∀ n, CohKept s t n
  misses : t.misses = s.misses
  room : ∀ k, L1Room s core (k + 1) → L1Room t core k
  copied : Copied t core line
  others : ∀ n, n ≠ line → (Copied s core n → Copied t core n) ∧ mget none t.llc n = mget none s.llc n

theorem L1Room.mono {k j : Nat} (h : L1Room s core k) (hj : j ≤ k) : L1Room s core j := fun i => (Nat.add_le_add_left hj _).trans (h i)

theorem Filled.of_copied (h : Copied s core line) : Filled s s core line :=
  ⟨.refl s, rfl, fun k hr => hr.mono (by omega), h, fun _ _ => ⟨id, rfl⟩⟩

/-- A copy added where there is room for it. -/
theorem Filled.of_room (h : L1Room s core 1) (hn : ¬Copied s core line) (swz : BitVec 4) (data : Line) :
    Filled s (l1Put s core swz line data) core line := by
  have added := l1Puts_added swz data [core] s (line := line) fun c hc => .inr (by rw [List.mem_singleton.mp hc]; exact h)
  have same := fun n => (added.same n).coh
  rw [List.foldl_cons, List.foldl_nil, l1Put_of_room h hn] at same
  rw [l1Put_of_room h hn]
  refine ⟨same, rfl, fun k hr i => ?_, ⟨_, List.mem_append_right _ (List.mem_singleton.mpr rfl), rfl, rfl⟩,
    fun n _ => ⟨fun ⟨y, hy, he⟩ => ⟨y, List.mem_append_left _ hy, he⟩, rfl⟩⟩
  have one : ((readCopy core swz line data :: []).filter fun l => decide (l.core = core) && decide (Config.l1Set l.line = i)).length ≤ 1 :=
    List.length_filter_le ..
  have room := hr i
  rw [List.filter_append, List.length_append]
  omega

/-- The copies of a line taken back before a core holds it. -/
theorem Filled.after_recall (h : Filled (recallL1 s line) t core line) : Filled s t core line := by
  have less : (recallL1 s line).l1.Sublist s.l1 := recallL1_l1 s line ▸ List.filter_sublist
  refine ⟨fun n => (recallL1_coh s line n).trans (h.coh n), h.misses.trans (recallL1_frame s line).1,
    fun k hr => h.room k (hr.of_sublist less), h.copied, fun n hn => ⟨fun ⟨y, hy, hc, hl⟩ => (h.others n hn).1 ⟨y, ?_, hc, hl⟩,
      (h.others n hn).2.trans (recallL1_same s hn).llc⟩⟩
  rw [recallL1_l1]
  exact List.mem_filter.mpr ⟨hy, by simp [hl, hn]⟩

theorem l1Fill_filled (swz : BitVec 4) (h : L1Room s core 1) : Filled s (l1Fill s core swz line) core line := by
  by_cases hc : Copied s core line
  · have same : l1Fill s core swz line = s := by
      obtain ⟨y, hy, hyc, hyl⟩ := hc
      rw [l1Fill, if_pos (List.any_eq_true.mpr ⟨y, hy, by simp [hyc, hyl]⟩)]
    rw [same]
    exact .of_copied hc
  · have absent : ¬(s.l1.any fun l => l.line = line && decide (l.core = core)) = true := fun ha => by
      obtain ⟨y, hy, he⟩ := List.any_eq_true.mp ha
      simp only [Bool.and_eq_true, decide_eq_true_eq] at he
      exact hc ⟨y, hy, he.2, he.1⟩
    have less : (recallL1 s line).l1.Sublist s.l1 := recallL1_l1 s line ▸ List.filter_sublist
    rw [l1Fill, if_neg absent]
    dsimp only
    split
    · exact (Filled.of_room (h.of_sublist less) (fun ⟨y, hy, he⟩ => hc ⟨y, less.subset hy, he⟩) swz _).after_recall
    · exact .of_room h hc swz _

/-! What is read after lines are asked for. -/

/-- Entries stay, and a line reads as before but through a placement that is not its new entry's. -/
structure Asked (s t : State) : Prop where
  stays : ∀ n m, missOf s n = some m → ∃ m', missOf t n = some m' ∧ m'.swz = m.swz
  reads : ∀ n z, (∀ m, missOf s n = none → missOf t n = some m → m.swz = z) → cohLine t z n = cohLine s z n

theorem Asked.refl (s : State) : Asked s s := ⟨fun _ m h => ⟨m, h, rfl⟩, fun _ _ _ => rfl⟩

theorem Asked.trans (h : Asked s t) (g : Asked t u) : Asked s u := by
  refine ⟨fun n m hm => ?_, fun n z hz => ?_⟩
  · obtain ⟨m', hm', he⟩ := h.stays n m hm
    obtain ⟨m'', hm'', he'⟩ := g.stays n m' hm'
    exact ⟨m'', hm'', he'.trans he⟩
  · refine (g.reads n z fun m ht hm => ?_).trans (h.reads n z fun m hs hm => ?_)
    · cases hs : missOf s n with
      | none => exact hz m hs hm
      | some x =>
        obtain ⟨x', hx', -⟩ := h.stays n x hs
        cases ht.symm.trans hx'
    · obtain ⟨m', hm', he⟩ := g.stays n m hm
      exact he.symm.trans (hz m' hs hm')

theorem Filled.asked (h : Filled s t core line) : Asked s t :=
  ⟨fun n m hm => ⟨m, by rw [missOf, h.misses]; exact hm, rfl⟩, fun n z _ => h.coh n z⟩

/-- The same entry, but for being sent. -/
theorem swz_of_unsent {a b : MissEnt} (h : unsent a = unsent b) : a.swz = b.swz ∧ a.l1 = b.l1 := by
  change (unsent a).swz = (unsent b).swz ∧ (unsent a).l1 = (unsent b).l1
  rw [h]
  exact ⟨rfl, rfl⟩

theorem some_of_unsent {a : Option MissEnt} {m : MissEnt} (h : a.map unsent = some (unsent m)) :
    ∃ m', a = some m' ∧ m'.swz = m.swz ∧ m'.l1 = m.l1 := by
  cases a with
  | none => cases h
  | some x => exact ⟨x, rfl, swz_of_unsent (Option.some.inj h)⟩

theorem openMiss_asked (s : State) (swz : BitVec 4) (line : Nat) (rep : Option Nat) (l1 : List Nat) :
    Asked s (openMiss s swz line rep l1) := by
  obtain ⟨x, hx, he⟩ := openMiss_opens s swz line rep l1
  have placed := (swz_of_unsent he).1
  refine ⟨fun n m hm => ?_, fun n z hz => openMiss_coh s swz rep l1 fun hn hm => ?_⟩
  · by_cases hn : n = line
    · subst hn
      rw [entryAfter, hm] at placed
      exact ⟨x, hx, placed⟩
    · have same := openMiss_others s swz rep l1 hn
      rw [hm, Option.map_some] at same
      obtain ⟨m', hm', hz, -⟩ := some_of_unsent same
      exact ⟨m', hm', hz⟩
  · subst hn
    rw [entryAfter, hm] at placed
    exact (hz x hm hx).symm.trans placed

/-- Where entries stay and every line reads as before but through a new entry's placement, nothing is read anew. -/
theorem Asked.linesKept (h : Asked s t) (home : Homeward s t) : LinesKept s t := by
  refine ⟨fun a z hz => ?_, fun a => by rw [home.host], fun a => by rw [home.pad]⟩
  rw [readDpa, readDpa, h.reads]
  intro m hs ht
  rcases hz with hz | ⟨m', hm', he⟩
  · rw [hs, ht] at hz
    cases hz
  · cases ht.symm.trans hm'
    exact he

/-! The lines that PREF names. -/

/-- One line prefetched. -/
def prefLine (llc : Bool) (t : State) (x : Nat × Xlat) : State :=
  if !llc && decide (x.2.ord = .so) then t
  else if answered t t.warp.core x.2.ord x.1 then (if llc then t else l1Fill t t.warp.core x.2.swz x.1)
  else if uncached t x.2 x.1 then t
  else openMiss t x.2.swz x.1 x.2.rep (if llc then [] else [t.warp.core])

/-- What a line prefetched is: as it was, filled into the L1, or asked for. -/
theorem prefLine_cases (llc : Bool) (t : State) (x : Nat × Xlat) (P : State → Prop) (same : P t)
    (filled : llc = false → P (l1Fill t t.warp.core x.2.swz x.1)) (opened : ∀ l1, P (openMiss t x.2.swz x.1 x.2.rep l1)) :
    P (prefLine llc t x) := by
  rw [prefLine]
  split
  · exact same
  · split
    · cases llc with
      | false => exact filled rfl
      | true => exact same
    · split
      · exact same
      · exact opened _

theorem l1Fill_home (s : State) (core : Nat) (swz : BitVec 4) (line : Nat) : Homeward s (l1Fill s core swz line) := by
  rw [l1Fill]
  split
  · exact .refl s
  · refine Homeward.trans ?_ (l1Put_home ..)
    split
    · exact recallL1_home ..
    · exact .refl s

theorem prefLine_home (llc : Bool) (t : State) (x : Nat × Xlat) : Homeward t (prefLine llc t x) :=
  prefLine_cases llc t x (Homeward t) (.refl t) (fun _ => l1Fill_home ..) fun _ => openMiss_home ..

theorem prefLine_warp (llc : Bool) (t : State) (x : Nat × Xlat) : (prefLine llc t x).warp = t.warp := (prefLine_home llc t x).beside.warp

theorem prefLines_home (llc : Bool) (ls : List (Nat × Xlat)) (t : State) : Homeward t (ls.foldl (prefLine llc) t) :=
  foldl_home _ _ (prefLine_home llc) t

theorem openMiss_room (swz : BitVec 4) (rep : Option Nat) (l1 : List Nat) {k : Nat} (h : L1Room s core (k + 1)) :
    L1Room (openMiss s swz line rep l1) core k :=
  (h.mono (by omega)).of_sublist ((openMiss_frame s swz line rep l1).1 ▸ .refl _)

theorem prefLine_room (llc : Bool) {x : Nat × Xlat} {k : Nat} (h : L1Room t t.warp.core (k + 1)) :
    L1Room (prefLine llc t x) t.warp.core k :=
  prefLine_cases llc t x (L1Room · t.warp.core k) (h.mono (by omega)) (fun _ => (l1Fill_filled _ (h.mono (by omega))).room k h)
    fun _ => openMiss_room _ _ _ h

theorem prefLine_asked (llc : Bool) (x : Nat × Xlat) (h : llc = true ∨ L1Room t t.warp.core 1) : Asked t (prefLine llc t x) :=
  prefLine_cases llc t x (Asked t) (.refl t) (fun hl => (l1Fill_filled _ (h.resolve_left (by simp [hl]))).asked) fun _ => openMiss_asked ..

theorem prefLines_asked (llc : Bool) (ls : List (Nat × Xlat)) (t : State) (h : llc = true ∨ L1Room t t.warp.core ls.length) :
    Asked t (ls.foldl (prefLine llc) t) := by
  induction ls generalizing t with
  | nil => exact .refl t
  | cons x ls ih =>
    have h : llc = true ∨ L1Room t t.warp.core (ls.length + 1) := h
    refine (prefLine_asked llc x (h.imp id (·.mono (by omega)))).trans (ih _ ?_)
    rw [prefLine_warp]
    exact h.imp id (prefLine_room llc)

/-! Lines that are waited for. -/

theorem answered_false_iff {ord : Ord} (ho : ord ≠ .so) : answered s core ord n = false ↔ Unheld s core n := by
  have copies : (s.l1.any fun l => l.line = n && decide (l.core = core)) = false ↔ ¬Copied s core n := by
    rw [Bool.eq_false_iff, ne_eq, List.any_eq_true]
    refine not_congr (exists_congr fun y => and_congr_right fun _ => ?_)
    simp [and_comm]
  rw [answered, Bool.or_eq_false_iff, decide_eq_true ho, Bool.true_and, copies]
  cases hl : mget none s.llc n with
  | none => exact ⟨fun h => ⟨h.1, hl⟩, fun h => ⟨h.l1, rfl⟩⟩
  | some x => exact ⟨fun h => absurd h.2 (by simp), fun h => absurd (hl.symm.trans h.llc) nofun⟩

/-- Another line prefetched leaves a line that is waited for as it is. -/
theorem prefLine_waited {llc : Bool} {x : Nat × Xlat} {ord : Ord} (ho : llc = true ∨ ord ≠ .so) (hn : n ≠ x.1)
    (h : answered t t.warp.core ord n = false) : answered (prefLine llc t x) t.warp.core ord n = false ∧
      (missOf (prefLine llc t x) n).map unsent = (missOf t n).map unsent := by
  refine prefLine_cases llc t x (fun v => answered v t.warp.core ord n = false ∧ (missOf v n).map unsent = (missOf t n).map unsent)
    ⟨h, rfl⟩ (fun hl => ?_) fun l1 => ⟨?_, openMiss_others t _ _ l1 hn⟩
  · have ho : ord ≠ .so := ho.resolve_left (by simp [hl])
    have spared := l1Fill_spared x.2.swz ((answered_false_iff ho).mp h) hn
    exact ⟨(answered_false_iff ho).mpr spared.unheld, missOf_of_misses spared.misses n⟩
  · obtain ⟨hl1, hllc, -⟩ := openMiss_frame t x.2.swz x.1 x.2.rep l1
    rw [answered, hl1, hllc]
    exact h

end Sys2Proof.Machine
end

section
/-! SUPPORT. Every line that PREF names asked for or filled (R202). -/

namespace Sys2Proof.Machine

variable {s t u : State} {n line core : Nat}

theorem linesOf_nodup (l : List (Nat × LaneAcc)) : ((linesOf l).map (·.1)).Nodup := by
  refine foldl_holds (fun a : List (Nat × Xlat) => (a.map (·.1)).Nodup) _ _ (fun a x ha => ?_) [] List.nodup_nil
  split
  · exact ha
  · next h =>
    rw [List.map_append, List.nodup_append]
    refine ⟨ha, List.nodup_singleton _, fun y hy z hz hyz => ?_⟩
    obtain ⟨e, he, rfl⟩ := List.mem_map.mp hy
    have hx : z = x.1 := List.mem_singleton.mp hz
    exact h (List.any_eq_true.mpr ⟨e, he, by simp [hyz, hx]⟩)

theorem uncached_of_pkg (h : t.pkg = s.pkg) (x : Xlat) (line : Nat) : uncached t x line = uncached s x line := by
  rw [uncached, uncached, isRemote, isRemote, h]

/-- A line that is waited for is asked for once it is prefetched (R102, R190). -/
theorem prefLine_asks {llc : Bool} {x : Nat × Xlat} (ho : llc = true ∨ x.2.ord ≠ .so) (h : answered t t.warp.core x.2.ord x.1 = false)
    (hc : uncached t x.2 x.1 = false) : answered (prefLine llc t x) t.warp.core x.2.ord x.1 = false ∧
      ∃ m, missOf (prefLine llc t x) x.1 = some m ∧ (llc = false → t.warp.core ∈ m.l1) := by
  have step : prefLine llc t x = openMiss t x.2.swz x.1 x.2.rep (if llc then [] else [t.warp.core]) := by
    rw [prefLine, if_neg, if_neg (by simp [h]), if_neg (by simp [hc])]
    simpa using fun hl => ho.resolve_left (by simp [hl])
  obtain ⟨hl1, hllc, -⟩ := openMiss_frame t x.2.swz x.1 x.2.rep (if llc then [] else [t.warp.core])
  obtain ⟨m, hm, he⟩ := openMiss_opens t x.2.swz x.1 x.2.rep (if llc then [] else [t.warp.core])
  rw [step]
  refine ⟨by rw [answered, hl1, hllc]; exact h, m, hm, ?_⟩
  rintro rfl
  rw [(swz_of_unsent he).2, entryAfter]
  split
  · simp
  · simp [newMiss]

/-- A line waited for with its entry, as the lines after it leave both. -/
structure Waiting (t : State) (core n : Nat) (ord : Ord) (e : Option MissEnt) : Prop where
  seat : t.warp.core = core
  waits : answered t core ord n = false
  entry : (missOf t n).map unsent = e

theorem Waiting.step {llc : Bool} {x : Nat × Xlat} {ord : Ord} {e : Option MissEnt} (h : Waiting t core n ord e)
    (ho : llc = true ∨ ord ≠ .so) (hn : n ≠ x.1) : Waiting (prefLine llc t x) core n ord e := by
  obtain ⟨rfl, hw, he⟩ := h
  obtain ⟨hw', he'⟩ := prefLine_waited ho hn hw
  exact ⟨by rw [prefLine_warp], hw', he'.trans he⟩

theorem prefLines_entry {llc : Bool} (ls : List (Nat × Xlat)) (hnd : (ls.map (·.1)).Nodup) (t : State) {x : Nat × Xlat} (hx : x ∈ ls)
    (ho : llc = true ∨ x.2.ord ≠ .so) (h : answered t t.warp.core x.2.ord x.1 = false) (hc : uncached t x.2 x.1 = false) :
    ∃ m, missOf (ls.foldl (prefLine llc) t) x.1 = some m ∧ (llc = false → t.warp.core ∈ m.l1) := by
  induction ls generalizing t with
  | nil => cases hx
  | cons y ls ih =>
    obtain ⟨hy, hnd⟩ := List.nodup_cons.mp hnd
    rw [List.foldl_cons]
    rcases List.mem_cons.mp hx with rfl | hx
    · obtain ⟨waits, m, hm, hl⟩ := prefLine_asks ho h hc
      have here : Waiting (prefLine llc t x) t.warp.core x.1 x.2.ord (some (unsent m)) := ⟨by rw [prefLine_warp], waits, by rw [hm]; rfl⟩
      have there := foldl_holds_mem (Waiting · t.warp.core x.1 x.2.ord (some (unsent m))) (prefLine llc) ls
        (fun a z hz ha => ha.step ho fun he => hy (List.mem_map.mpr ⟨z, hz, he.symm⟩)) _ here
      obtain ⟨m', hm', -, hl'⟩ := some_of_unsent there.entry
      exact ⟨m', hm', fun hf => hl' ▸ hl hf⟩
    · have hne : x.1 ≠ y.1 := fun he => hy (List.mem_map.mpr ⟨x, hx, he⟩)
      obtain ⟨waits, -⟩ := prefLine_waited (llc := llc) (x := y) ho hne h
      have same := prefLine_warp llc t y
      have := ih hnd (prefLine llc t y) hx (by rw [same]; exact waits) (by rw [uncached_of_pkg (prefLine_home llc t y).pkg]; exact hc)
      rwa [same] at this

/-! Lines that are at hand. -/

/-- With room in the L1, another line prefetched leaves a line in the L1 and in the slice as it is. -/
theorem prefLine_holds {llc : Bool} {x : Nat × Xlat} (hr : L1Room t t.warp.core 1) (hn : n ≠ x.1) :
    (Copied t t.warp.core n → Copied (prefLine llc t x) t.warp.core n) ∧ mget none (prefLine llc t x).llc n = mget none t.llc n := by
  refine prefLine_cases llc t x (fun v => (Copied t t.warp.core n → Copied v t.warp.core n) ∧ mget none v.llc n = mget none t.llc n)
    ⟨id, rfl⟩ (fun _ => (l1Fill_filled _ hr).others n hn) fun l1 => ?_
  obtain ⟨hl1, hllc, -⟩ := openMiss_frame t x.2.swz x.1 x.2.rep l1
  exact ⟨fun ⟨y, hy, he⟩ => ⟨y, hl1 ▸ hy, he⟩, by rw [hllc]⟩

theorem answered_iff {ord : Ord} (ho : ord ≠ .so) : answered s core ord n = true ↔ Copied s core n ∨ mget none s.llc n ≠ none := by
  rw [← Bool.not_eq_false, answered_false_iff ho, ← not_iff_not, not_not, not_or, not_not]
  exact ⟨fun h => ⟨h.l1, h.llc⟩, fun h => ⟨h.1, h.2⟩⟩

theorem prefLines_keep (ls : List (Nat × Xlat)) (t : State) (hr : L1Room t t.warp.core ls.length) (hn : ∀ x ∈ ls, n ≠ x.1)
    (h : Copied t t.warp.core n) : Copied (ls.foldl (prefLine false) t) t.warp.core n := by
  induction ls generalizing t with
  | nil => exact h
  | cons x ls ih =>
    have hr : L1Room t t.warp.core (ls.length + 1) := hr
    have same := prefLine_warp false t x
    have kept := (prefLine_holds (llc := false) (hr.mono (Nat.le_add_left 1 _)) (hn x List.mem_cons_self)).1 h
    have := ih (prefLine false t x) (same ▸ prefLine_room false hr) (fun y hy => hn y (List.mem_cons_of_mem _ hy)) (same ▸ kept)
    rwa [same] at this

/-- A line at hand is in the core's L1 once it is prefetched (R190). -/
theorem prefLines_copied (ls : List (Nat × Xlat)) (hnd : (ls.map (·.1)).Nodup) (t : State) (hr : L1Room t t.warp.core ls.length)
    {x : Nat × Xlat} (hx : x ∈ ls) (ho : x.2.ord ≠ .so) (h : answered t t.warp.core x.2.ord x.1 = true) :
    Copied (ls.foldl (prefLine false) t) t.warp.core x.1 := by
  induction ls generalizing t with
  | nil => cases hx
  | cons y ls ih =>
    obtain ⟨hy, hnd⟩ := List.nodup_cons.mp hnd
    have hr : L1Room t t.warp.core (ls.length + 1) := hr
    have same := prefLine_warp false t y
    have room := prefLine_room false (x := y) hr
    rw [List.foldl_cons]
    rcases List.mem_cons.mp hx with rfl | hx
    · have step : prefLine false t x = l1Fill t t.warp.core x.2.swz x.1 := by
        rw [prefLine, if_neg (by simp [ho]), if_pos h, if_neg (by simp)]
      have copied : Copied (prefLine false t x) t.warp.core x.1 := step ▸ (l1Fill_filled _ (hr.mono (Nat.le_add_left 1 _))).copied
      have := prefLines_keep ls (prefLine false t x) (same ▸ room) (fun z hz he => hy (List.mem_map.mpr ⟨z, hz, he.symm⟩))
        (same ▸ copied)
      rwa [same] at this
    · have hne : x.1 ≠ y.1 := fun he => hy (List.mem_map.mpr ⟨x, hx, he⟩)
      obtain ⟨copies, llc⟩ := prefLine_holds (llc := false) (x := y) (hr.mono (Nat.le_add_left 1 _)) hne
      have still : answered (prefLine false t y) t.warp.core x.2.ord x.1 = true := by
        rw [answered_iff ho] at h ⊢
        exact h.imp copies fun hl => by rwa [llc]
      have := ih hnd (prefLine false t y) (same ▸ room) hx (same ▸ still)
      rwa [same] at this

theorem Followed.misses {s t u : State} {c : Ctl} (h : Followed s t u c) : u.misses = t.misses := by
  have e := congrArg State.misses h.outside
  exact e

theorem Followed.l1 {s t u : State} {c : Ctl} (h : Followed s t u c) : u.l1 = t.l1 := by
  have e := congrArg State.l1 h.outside
  exact e

theorem LinesKept.refl (s : State) : LinesKept s s := ⟨fun _ _ _ => rfl, fun _ => rfl, fun _ => rfl⟩

/-- What reads lines as before does so between steps that change neither a byte nor an entry. -/
theorem LinesKept.between {s t u v : State} (h : LinesKept t u) (hs : BytesKept s t) (hm : t.misses = s.misses) (hv : BytesKept u v)
    (gm : v.misses = u.misses) : LinesKept s v := by
  obtain ⟨hd, hh, hp⟩ := h
  obtain ⟨sd, sh, sp⟩ := hs
  obtain ⟨vd, vh, vp⟩ := hv
  refine ⟨fun a z hz => ?_, fun a => (vh a).trans ((hh a).trans (sh a)), fun a => (vp a).trans ((hp a).trans (sp a))⟩
  have before : missOf s (a / 128) = missOf t (a / 128) := by rw [missOf, missOf, hm]
  have after : missOf v (a / 128) = missOf u (a / 128) := by rw [missOf, missOf, gm]
  rw [before, after] at hz
  exact (vd z a).trans ((hd a z hz).trans (sd z a))

theorem issued_misses (s : State) (c : Ctl) : (issued s c).misses = s.misses := by
  obtain ⟨D, L, he, -⟩ := issued_eq s c
  rw [he]

/-- PREF's own part. -/
def prefBody (llc : Bool) (br : Fin 64) (b : Opnd) (s : State) (act : Mask) : State :=
  if (slotRec s br).glz ≠ 0 then s
  else (linesOf (checkLanes s (act &&& ~~~s.warp.helpers) (slotRec s br) (elemIndex s act b) 0 (slotRec s br).es false)).foldl (prefLine llc)
    (touchLanes s (checkLanes s (act &&& ~~~s.warp.helpers) (slotRec s br) (elemIndex s act b) 0 (slotRec s br).es false))

theorem pref_issue (c : Ctl) (llc : Bool) (br : Fin 64) (b : Opnd) (s : State) :
    exec (.pref c llc br b) s = issue (.pref c llc br b) c (fun s act => .done (prefBody llc br b s act)) s := by
  change execPref c llc br b s = _
  rw [execPref]
  congr 1
  funext s act
  dsimp only
  rw [prefBody]
  split <;> rfl

end Sys2Proof.Machine
end

section
/-! PROOFS. PREF (R202). -/

namespace Sys2Proof.Proofs
open Sys2Proof Sys2Proof.Machine

theorem prefetch_runs (c : Ctl) (llc : Bool) (br : Fin 64) (b : Opnd) (s : State) :
    let i := Instr.pref c llc br b
    let u := issued s c
    let r := slotRec u br
    let ls := linesOf (checkLanes u (acting s c &&& ~~~s.warp.helpers) r (elemIndex u (acting s c) b) 0 r.es false)
    Runs s i c → ∃ v, exec i s = .next v ∧ WarpKept s.warp v.warp ∧ RegsKept s v (acting s c) [] ∧ MovedOn s v c ∧
      ((llc = true ∨ L1Room u s.warp.core ls.length) → LinesKept s v) ∧
      (r.glz = 0 → ∀ x ∈ ls, (llc = true ∨ x.2.ord ≠ .so) → answered u s.warp.core x.2.ord x.1 = false →
        (isRemote u x.1 = false ∨ x.2.ord = .rc) → ∃ m, missOf v x.1 = some m ∧ (llc = false → s.warp.core ∈ m.l1)) ∧
      (r.glz = 0 → llc = false → L1Room u s.warp.core ls.length → ∀ x ∈ ls, x.2.ord ≠ .so →
        answered u s.warp.core x.2.ord x.1 = true → ∃ y ∈ v.l1, y.core = s.warp.core ∧ y.line = x.1) := by
  intro i u r ls hr
  have run := (pref_issue c llc br b s).trans (issue_runs _ hr rfl)
  have followed := finish_followed (c := c) hr.clear (prefBody llc br b u (acting s c))
  obtain ⟨fe, fv, fs, fp, -, -, fh, -, -, fn⟩ := issued_frame s c
  have keptWarp := issued_warpKept s c
  have touched := touchLanes_touched u (checkLanes u (acting s c &&& ~~~s.warp.helpers) r (elemIndex u (acting s c) b) 0 r.es false)
  have core : u.warp.core = s.warp.core := keptWarp.core
  have body : r.glz = 0 → prefBody llc br b u (acting s c) = ls.foldl (prefLine llc)
      (touchLanes u (checkLanes u (acting s c &&& ~~~s.warp.helpers) r (elemIndex u (acting s c) b) 0 r.es false)) := fun hg => by
    rw [prefBody, if_neg (by simpa using hg), fh]
  have idle : r.glz ≠ 0 → prefBody llc br b u (acting s c) = u := fun hg => by rw [prefBody, if_pos hg]
  generalize touchLanes u (checkLanes u (acting s c &&& ~~~s.warp.helpers) r (elemIndex u (acting s c) b) 0 r.es false) = t0 at *
  have nodup : (ls.map (·.1)).Nodup := linesOf_nodup _
  generalize prefBody llc br b u (acting s c) = t at *
  have home : Homeward t0 t ∨ t = u := by
    by_cases hg : r.glz = 0
    · exact .inl (body hg ▸ prefLines_home ..)
    · exact .inr (idle hg)
  have same : t.warp = u.warp ∧ t.now = u.now := by
    rcases home with home | rfl
    · exact ⟨home.beside.warp.trans touched.warp, home.beside.now.trans touched.now⟩
    · exact ⟨rfl, rfl⟩
  have hl1 : t0.l1 = u.l1 := by obtain ⟨a, b, rfl⟩ := touched; rfl
  have hm : t0.misses = u.misses := by obtain ⟨a, b, rfl⟩ := touched; rfl
  have hpkg : t0.pkg = u.pkg := by obtain ⟨a, b, rfl⟩ := touched; rfl
  have hans : ∀ core ord n, answered t0 core ord n = answered u core ord n := by obtain ⟨a, b, rfl⟩ := touched; exact fun _ _ _ => rfl
  have core0 : t0.warp.core = s.warp.core := by rw [touched.warp, core]
  have misses := followed.misses
  have l1 := followed.l1
  have kept := followed.kept
  have bytes := followed.bytes
  refine ⟨_, run, ?_, .of_eq ?_ ?_ ?_, followed.moved ?_ ?_ ?_, fun room => ?_, fun hg x hx ho ha hc => ?_, fun hg hl room x hx ho ha => ?_⟩
  · rw [same.1] at kept
    exact keptWarp.trans kept
  · rw [followed.v, same.1, fv]
  · rw [followed.sr, same.1, fs]
  · rw [followed.p, same.1, fp]
  · rw [same.1, fe]
  · rw [same.1, fh]
  · rw [same.2, fn]
  · have asked : LinesKept t0 t ∨ t = u := by
      by_cases hg : r.glz = 0
      · have room0 : llc = true ∨ L1Room t0 t0.warp.core ls.length := room.imp id fun hroom => core0 ▸ hroom.of_sublist (hl1 ▸ .refl _)
        rw [body hg]
        exact .inl ((prefLines_asked llc ls t0 room0).linesKept (prefLines_home ..))
      · exact .inr (idle hg)
    rcases asked with asked | rfl
    · exact asked.between ((issued_bytes s c).trans touched.bytes) (hm.trans (issued_misses s c)) bytes misses
    · exact LinesKept.between (LinesKept.refl u) (issued_bytes s c) (issued_misses s c) bytes misses
  · have asked := prefLines_entry ls nodup t0 hx ho (by rw [core0, hans, ha])
      (by rw [uncached_of_pkg hpkg, uncached]; rcases hc with hc | hc <;> simp [hc])
    rw [← body hg, core0] at asked
    obtain ⟨m, hm, hin⟩ := asked
    exact ⟨m, by rw [missOf, misses]; exact hm, hin⟩
  · subst hl
    have copied := prefLines_copied ls nodup t0 (core0 ▸ room.of_sublist (hl1 ▸ .refl _)) hx ho (by rw [core0, hans, ha])
    rw [← body hg, core0] at copied
    obtain ⟨y, hy, he⟩ := copied
    exact ⟨y, l1 ▸ hy, he⟩

end Sys2Proof.Proofs
end

section
/-! SUPPORT. What DSCD drains, discards and waits for (R73, R77, R104). -/

namespace Sys2Proof.Machine

variable {s t u : State} {n r : Nat}

/-! A region discarded. -/

theorem lineWrites_discard (s : State) (r n : Nat) :
    lineWrites (discardRegion s r) n = (lineWrites s n).filter fun q => !(inRegion r q.line && q.writes q.line) := by
  rw [lineWrites, lineWrites, List.filter_filter, List.filter_append, List.filter_append, discardRegion]
  dsimp only
  rw [List.flatMap_map, List.filter_flatMap, List.filter_flatMap, List.filter_filter]
  congr 1
  · congr 1
    funext c
    rw [List.filter_filter]
    exact List.filter_congr fun q _ => Bool.and_comm ..
  · exact List.filter_congr fun q _ => Bool.and_comm ..

theorem writes_line {q : CtrlReq} (h : q.writes n = true) : q.line = n ∧ q.writes q.line = true := by
  have hl : q.line = n := by
    simp only [CtrlReq.writes, Bool.and_eq_true, decide_eq_true_eq] at h
    exact h.1
  exact ⟨hl, hl ▸ h⟩

theorem regionOf_line (n : Nat) : regionOf (n * 128) = n / 16384 := by
  rw [regionOf]
  omega

theorem discard_other (h : n / 16384 ≠ r) : SameLine s (discardRegion s r) n := by
  refine ⟨?_, ?_, rfl, ?_, fun swz => ?_⟩
  · rw [discardRegion]
    dsimp only
    rw [List.find?_filter]
    congr 1
    funext x
    by_cases hx : x.line = n <;> simp [hx, inRegion, h]
  · rw [discardRegion]
    dsimp only
    rw [mget_filter_key none (fun k => !inRegion r k), if_pos (by simp [inRegion, h])]
  · rw [lineWrites_discard]
    refine List.filter_eq_self.mpr fun q hq => ?_
    obtain ⟨hl, -⟩ := writes_line (List.mem_filter.mp hq).2
    simp [inRegion, hl, h]
  · have live : regionOf (n * 128) ∈ (discardRegion s r).live ↔ regionOf (n * 128) ∈ s.live := by
      rw [discardRegion, regionOf_line]
      simp [h]
    rw [dramCells, dramCells]
    simp only [live]
    rfl

/-- A region discarded reads as zero where no miss of it is open (R73). -/
theorem discard_zero (h : n / 16384 = r) (hm : missOf s n = none) (swz : BitVec 4) : cohLine (discardRegion s r) swz n = 0 := by
  have copies : (discardRegion s r).l1.find? (fun l => l.line = n && l.writable) = none := by
    rw [List.find?_eq_none]
    intro x hx hn
    simp only [Bool.and_eq_true, decide_eq_true_eq] at hn
    simp [discardRegion, inRegion, hn.1, h] at hx
  have held : mget none (discardRegion s r).llc n = none := by
    rw [discardRegion]
    dsimp only
    rw [mget_filter_key none (fun k => !inRegion r k), if_neg (by simp [inRegion, h])]
  have quiet : lineWrites (discardRegion s r) n = [] := by
    rw [lineWrites_discard, List.filter_eq_nil_iff]
    intro q hq
    obtain ⟨hl, hw⟩ := writes_line (List.mem_filter.mp hq).2
    simp [inRegion, hl, h, hl ▸ hw]
  have entry : missOf (discardRegion s r) n = none := hm
  rw [cohLine_of_home copies, homeLine_of_none held, entry]
  dsimp only [Option.map_none]
  rw [dramLine_of_quiet quiet, dramCells, if_neg]
  rw [regionOf_line, h]
  simp [discardRegion]

theorem discardRegion_beside (s : State) (r : Nat) : Beside s (discardRegion s r) := .of_rest rfl

theorem chunkRegions_beside (s : State) (va a : Nat) (rep : Option Nat) : Beside s (chunkRegions s va a rep).1 := by
  unfold chunkRegions
  split
  · exact .refl s
  · split
    · exact markStale_beside ..
    · exact .refl s

theorem dscdChunk_beside {b : BufRec} {va i : Nat} {x : State × List Nat} (h : dscdChunk s b va i = .ok x) : Beside s x.1 := by
  rw [dscdChunk] at h
  (repeat' split at h) <;> cases h
  any_goals exact .refl s
  exact (chunkRegions_beside ..).trans (foldl_beside _ _ discardRegion_beside _)

theorem dscdFrom_beside (b : BufRec) (va n i : Nat) (s : State) (k : Nat) (rs : List Nat) : Beside s (dscdFrom b va n i s k rs).1 := by
  induction n generalizing i s k rs with
  | zero => exact .refl s
  | succ n ih =>
    rw [dscdFrom]
    split
    · exact .refl s
    · next h => exact (dscdChunk_beside h).trans (ih ..)

/-! A core's store buffer drained, and the pages of the chunks looked up. -/

/-- The warp at issue as a drain of its core leaves it (R77, R280). -/
def drainedWarp (w : Warp) : Warp := { w with sb := [], nonReplay := true, kept := [] }

/-- The warp is drained and the time is the same. -/
structure Drained (s t : State) : Prop where
  warp : t.warp = drainedWarp s.warp
  now : t.now = s.now

theorem drainCore_drained (s : State) : Drained s (drainCore s) := by
  refine foldl_holds (Drained s) _ _ (fun t w ht => ?_) _ ⟨drain_warp s, drain_now s⟩
  split
  · have stores := performStores_beside t w.core w.sb
    exact ⟨stores.warp.trans ht.warp, stores.now.trans ht.now⟩
  · exact ht

theorem Drained.touched (h : Drained s t) (g : Touched t u) : Drained s u := ⟨g.warp.trans h.warp, g.now.trans h.now⟩

theorem Drained.beside (h : Drained s t) (g : Beside t u) : Drained s u := ⟨g.warp.trans h.warp, g.now.trans h.now⟩

/-- DSCD's state once the core is drained and its chunks' pages are looked up. -/
def dscdStart (va n : Nat) (s : State) : State :=
  (List.range n).foldl (fun t i => tlbTouch t t.warp.vi t.warp.asid (va + i * 2 ^ 21)) (drainCore s)

theorem dscdStart_drained (va n : Nat) (s : State) : Drained s (dscdStart va n s) :=
  (drainCore_drained s).touched (foldl_keeps Touched .refl .trans _ _ (fun t _ => tlbTouch_touched t ..) _)

/-- What DSCD comes to once its chunks are done (R77). -/
def dscdEnd (act : Mask) (d : Opnd) (t : State) (k : Nat) : Option (Nat × Nat) → Step
  | some y => .trapIn y.1 y.2 t
  | none => .done (writeDst t act d 1 fun _ => k)

theorem dscd_writes (c : Ctl) (d : Opnd) (br : Fin 64) (b e : Opnd) : ∀ x ∈ dstCodes d 1, x ∈ (Instr.dscd c d br b e).writes := by
  intro x hx
  refine List.mem_flatMap.mpr ⟨Use.dst d 1 .scal, List.mem_filter.mpr ⟨List.mem_cons_self, rfl⟩, ?_⟩
  cases d <;> exact hx

theorem Followed.live {s t u : State} {c : Ctl} (h : Followed s t u c) : u.live = t.live := by
  have e := congrArg State.live h.outside
  exact e

/-- What an instruction's own part wrote stands once it is done. -/
theorem Followed.wrote {s t u : State} {c : Ctl} (h : Followed s t u c) {m : Mask} {d : Opnd} {k : Nat} {f : Nat → Nat}
    (hw : Wrote t m d k f) : Wrote u m d k f := by
  cases d with
  | v r => exact fun k j hk hj => by rw [h.v]; exact hw k j hk hj
  | s r => exact fun j hj => by rw [h.sr]; exact hw j hj
  | p r => exact fun hr k hk => by rw [h.p]; exact hw hr k hk
  | sel x => trivial
  | imm x => trivial

/-- A warp that may wait, and is not to stop, waits for an event. -/
theorem startWait_waits (hw : s.warp.waitwin ≠ 0) (hm : s.warp.marked = false) (hv : s.warp.victim = false) (tag : Nat) (ev : DWord)
    (resume : Option (BitVec 48)) : WaitsFor (startWait s tag ev resume) ev resume ∧ BytesKept s (startWait s tag ev resume) := by
  have stays : ¬(s.warp.waitwin = 0 ∨ s.warp.marked = true ∨ s.warp.victim = true) := by simp [hw, hm, hv]
  rw [startWait, if_neg (by simpa using stays)]
  exact ⟨⟨rfl, rfl⟩, fun _ _ => rfl, fun _ => rfl, fun _ => rfl⟩

end Sys2Proof.Machine
end

section
/-! PROOFS. DSCD (R73, R77, R104), and PREF, FNCE and DSCD together. -/

namespace Sys2Proof.Proofs
open Sys2Proof Sys2Proof.Machine

/-- A byte of a discarded region reads as zero, any other as before (R73). -/
theorem discard_reads (s : State) (r : Nat) (swz : BitVec 4) (a : Nat) :
    (a / 2 ^ 21 = r → missOf s (a / 128) = none → readDpa (discardRegion s r) swz a = 0) ∧
    (a / 2 ^ 21 ≠ r → readDpa (discardRegion s r) swz a = readDpa s swz a) ∧ r ∉ (discardRegion s r).live := by
  have region : a / 128 / 16384 = a / 2 ^ 21 := by omega
  refine ⟨fun ha hm => ?_, fun ha => ?_, by simp [discardRegion]⟩
  · rw [readDpa, discard_zero (region.trans ha) hm]
    simp [lineByte]
  · rw [readDpa, readDpa, (discard_other (region ▸ ha)).coh]

/-- DSCD's own part where its chunks' pages are known: what it discards, or the misses that it waits for. -/
theorem dscdBody_known {u : State} {act : Mask} {d : Opnd} {br : Fin 64} {b e : Opnd} {va n : Nat} (hva : (slotRec u br).base + pairS u b = va)
    (hn : srcBits u act e 1 0 = n) (hsmall : n ≤ 65536) (hal : va % 2 ^ 21 = 0)
    (hw : walksWanted u ((List.range n).map fun i => va + i * 2 ^ 21) = []) {t : State} {k : Nat} {gone : List Nat}
    {stop : Option (Nat × Nat)} (hd : dscdFrom (slotRec u br) va n 0 (dscdStart va n u) 0 [] = (t, k, gone, stop)) :
    dscdBody d br b e u act = if (dscdStart va n u).misses.any fun m => gone.any fun g => inRegion g m.line
      then .wait evLine none (dscdStart va n u) else dscdEnd act d t k stop := by
  subst hva
  subst hn
  rw [dscdBody]
  dsimp only
  rw [if_neg (by omega), if_neg (by omega), withWalks_none hw]
  change (if (dscdStart _ _ u).misses.any (fun m => (dscdFrom _ _ _ 0 (dscdStart _ _ u) 0 []).2.2.1.any fun g => inRegion g m.line)
    then Step.wait evLine none (dscdStart _ _ u) else match dscdFrom _ _ _ 0 (dscdStart _ _ u) 0 [] with
    | (t, _, _, some y) => Step.trapIn y.1 y.2 t
    | (t, k, _, none) => Step.done (writeDst t act d 1 fun _ => k)) = _
  rw [hd]
  cases stop <;> rfl

/-- DSCD done: the count written, and nothing of the state that its chunks left changed but what moves on. -/
theorem discard_done {c : Ctl} {d : Opnd} {br : Fin 64} {b e : Opnd} {s t : State} (hr : Runs s (.dscd c d br b e) c)
    (reached : Drained (issued s c) t) (k : Nat) :
    let v := finish (issued s c) (.dscd c d br b e) c (acting s c) (.done (writeDst t (acting s c) d 1 fun _ => k))
    Wrote v (acting s c) d 1 (fun _ => k) ∧ BytesKept t v ∧ v.live = t.live ∧ MovedOn s v c ∧
      RegsKept s v (acting s c) (Instr.dscd c d br b e).writes := by
  intro v
  have followed : Followed s (writeDst t (acting s c) d 1 fun _ => k) v c := finish_followed (c := c) hr.clear _
  obtain ⟨rv, rs, rp⟩ := writeDst_regs t (acting s c) d 1 (fun _ => k) (.inl rfl) _ (dscd_writes c d br b e)
  obtain ⟨x, y, z, he⟩ := writeDst_eq t (acting s c) d 1 fun _ => k
  obtain ⟨fe, fv, fs, fp, -, -, fh, -, -, fn⟩ := issued_frame s c
  rw [reached.warp] at rv rs rp
  refine ⟨followed.wrote (writeDst_wrote _ _ _ _ _ (.inl rfl)), ?_, ?_, followed.moved ?_ ?_ ?_, fun r k hk h => ?_, fun r h => ?_,
    fun r k h => ?_⟩
  · exact .trans (by rw [he]; exact ⟨fun _ _ => rfl, fun _ => rfl, fun _ => rfl⟩) followed.bytes
  · rw [followed.live, he]
  · rw [he, ← fe]
    exact congrArg (·.entries) reached.warp
  · rw [he, ← fh]
    exact congrArg (·.helpers) reached.warp
  · rw [he, ← fn]
    exact reached.now
  · rw [followed.v]
    exact (rv r k hk h).trans (congrArg (mget 0 · _) fv)
  · rw [followed.sr]
    exact (rs r h).trans (congrArg (mget 0 · _) fs)
  · rw [followed.p]
    exact (rp r k h).trans (congrArg (fun p => (mget 0 p r).getLsbD k) fp)

theorem discard_runs (c : Ctl) (d : Opnd) (br : Fin 64) (b e : Opnd) (s : State) :
    let i := Instr.dscd c d br b e
    let u := issued s c
    let r := slotRec u br
    let va := r.base + pairS u b
    let n := srcBits u (acting s c) e 1 0
    let u1 := (List.range n).foldl (fun t i => tlbTouch t t.warp.vi t.warp.asid (va + i * 2 ^ 21)) (drainCore u)
    Runs s i c →
    (65536 < n → exec i s = .next (takeTrap u 3 2 none (curIp s.warp))) ∧
    (n ≤ 65536 → va % 2 ^ 21 ≠ 0 → exec i s = .next (takeTrap u 3 3 none (curIp s.warp))) ∧
    (n ≤ 65536 → va % 2 ^ 21 = 0 → walksWanted u ((List.range n).map fun i => va + i * 2 ^ 21) = [] →
      ∀ t k gone stop, dscdFrom r va n 0 u1 0 [] = (t, k, gone, stop) →
      ((∀ g ∈ gone, ∀ m ∈ u1.misses, m.line / 16384 ≠ g) →
        (stop = none → ∃ v, exec i s = .next v ∧ Wrote v (acting s c) d 1 (fun _ => k) ∧ BytesKept t v ∧ v.live = t.live ∧
          MovedOn s v c ∧ RegsKept s v (acting s c) i.writes) ∧
        (∀ y, stop = some y → exec i s = .next (takeTrap t y.1 y.2 none (curIp t.warp)))) ∧
      (∀ g ∈ gone, ∀ m ∈ u1.misses, m.line / 16384 = g → s.warp.waitwin ≠ 0 → ∃ v, exec i s = .next v ∧ WaitsFor v evLine none ∧
        BytesKept u1 v)) := by
  intro i u r va n u1 hr
  have run : exec i s = .next (finish u i c (acting s c) (dscdBody d br b e u (acting s c))) := issue_runs _ hr rfl
  obtain ⟨fe, -⟩ := issued_frame s c
  have keptWarp := issued_warpKept s c
  have ip : curIp u.warp = curIp s.warp := by rw [curIp, curIp, fe]
  refine ⟨fun hn => ?_, fun hn ha => ?_, fun hn ha hw t k gone stop hd => ?_⟩
  · rw [run, dscdBody]
    dsimp only
    rw [if_pos hn, finish, ip]
  · rw [run, dscdBody]
    dsimp only
    rw [if_neg (Nat.not_lt.mpr hn), if_pos ha, finish, ip]
  · have body := dscdBody_known (d := d) (b := b) (e := e) rfl rfl hn ha hw hd
    have drained := dscdStart_drained va n u
    have beside := dscdFrom_beside r va n 0 (dscdStart va n u) 0 []
    have result : (dscdFrom r va n 0 (dscdStart va n u) 0 []).1 = t := congrArg (·.1) hd
    rw [result] at beside
    have reached := drained.beside beside
    refine ⟨fun hfree => ?_, fun g hg m hm hl hwin => ?_⟩
    · have clear : ¬((dscdStart va n u).misses.any fun m => gone.any fun g => inRegion g m.line) = true := fun hany => by
        obtain ⟨m, hm, hg⟩ := List.any_eq_true.mp hany
        obtain ⟨g, hg, hl⟩ := List.any_eq_true.mp hg
        exact hfree g hg m hm (by simpa [inRegion] using hl)
      rw [if_neg clear] at body
      refine ⟨?_, ?_⟩
      · rintro rfl
        have ends : dscdBody d br b e u (acting s c) = .done (writeDst t (acting s c) d 1 fun _ => k) := body
        exact ⟨_, run.trans (congrArg _ (congrArg _ ends)), discard_done hr reached k⟩
      · rintro y rfl
        rw [run, body]
        rfl
    · have open_ : ((dscdStart va n u).misses.any fun m => gone.any fun g => inRegion g m.line) = true :=
        List.any_eq_true.mpr ⟨m, hm, List.any_eq_true.mpr ⟨g, hg, by simp [inRegion, hl]⟩⟩
      rw [if_pos open_] at body
      rw [run, body]
      refine ⟨_, rfl, startWait_waits ?_ ?_ ?_ _ _ _⟩
      · rw [drained.warp]
        exact keptWarp.waitwin ▸ hwin
      · rw [drained.warp]
        exact keptWarp.marked.trans hr.can.unmarked
      · rw [drained.warp]
        exact keptWarp.victim.trans hr.can.keepsCones

/-- Settles O32: PREF by what each line that it names goes through (prefLine), FNCE by what its drain and its acquire leave, DSCD by what
discarding a region leaves of each line. -/
theorem prefetchFenceDiscard : Obligations.PrefetchFenceDiscard := by
  unfold Obligations.PrefetchFenceDiscard
  exact ⟨⟨prefetch_runs, fun c k sc s => fence_runs⟩, discard_runs, discard_reads⟩

end Sys2Proof.Proofs
end

section
/-! SUPPORT. The numbers that a record's bytes hold. -/

namespace Sys2Proof.Machine

@[simp] theorem length_bytesOfNat (n x : Nat) : (bytesOfNat n x).length = n := by
  induction n generalizing x with
  | zero => rfl
  | succ n ih => rw [bytesOfNat, List.length_cons, ih]

theorem natOfBytes_bytesOfNat (n x : Nat) : natOfBytes (bytesOfNat n x) = x % 256 ^ n := by
  induction n generalizing x with
  | zero => rw [bytesOfNat, natOfBytes, Nat.pow_zero, Nat.mod_one]
  | succ n ih => rw [bytesOfNat, natOfBytes, ih, BitVec.toNat_ofNat, Nat.pow_succ' (m := 256), Nat.mod_mul (a := 256)]

/-- The field at the head of a record. -/
theorem numAt_head (n x : Nat) (l : List Byte) : numAt (bytesOfNat n x ++ l) 0 n = x % 256 ^ n := by
  rw [numAt, List.drop_zero, List.take_append_of_le_length (by simp), List.take_of_length_le (by simp), natOfBytes_bytesOfNat]

/-- A field behind others. -/
theorem numAt_behind {m a : Nat} (x : Nat) (l : List Byte) (n : Nat) (h : m ≤ a) : numAt (bytesOfNat m x ++ l) a n = numAt l (a - m) n := by
  rw [numAt, numAt, List.drop_append, List.drop_eq_nil_of_le (by simpa using h), length_bytesOfNat, List.nil_append]

theorem numAt_zeros (m n : Nat) : numAt (List.replicate m 0) 0 n = 0 := by
  rw [numAt, List.drop_zero, List.take_replicate]
  generalize min n m = k
  induction k with
  | zero => rfl
  | succ k ih => rw [List.replicate_succ, natOfBytes, ih]; rfl

/-- A sum of words is the sum of their values, modulo the word's range. -/
theorem toNat_foldl_add {α : Type} {w : Nat} (f : α → BitVec w) (l : List α) (a : BitVec w) :
    (l.foldl (fun x d => x + f d) a).toNat = (a.toNat + (l.map fun d => (f d).toNat).sum) % 2 ^ w := by
  induction l generalizing a with
  | nil => simp [Nat.mod_eq_of_lt a.isLt]
  | cons d l ih => rw [List.foldl_cons, ih, BitVec.toNat_add, List.map_cons, List.sum_cons, Nat.mod_add_mod, Nat.add_assoc]

end Sys2Proof.Machine
end

section
/-! SUPPORT. Packets that are taken up and end, whatever else of the state has changed (R155, R157, R160). -/

namespace Sys2Proof.Machine

/-! Packets. -/

theorem findPkt_of_packets {s t : State} (h : t.packets = s.packets) (pid : Nat) : findPkt t pid = findPkt s pid := by
  rw [findPkt, h, findPkt]

theorem Touched.packets {s t : State} (h : Touched s t) : t.packets = s.packets := by obtain ⟨a, b, rfl⟩ := h; rfl
theorem Touched.streams {s t : State} (h : Touched s t) : t.streams = s.streams := by obtain ⟨a, b, rfl⟩ := h; rfl
theorem Touched.histOwner {s t : State} (h : Touched s t) : t.histOwner = s.histOwner := by obtain ⟨a, b, rfl⟩ := h; rfl

/-- A packet whose work is done has moved, its status as it was. -/
theorem donePkt_is {s : State} {pid : Nat} {p : Packet} (h : findPkt s pid = some p) : PktIs (donePkt s pid) pid .moved p.status :=
  ⟨_, findPkt_setPkt h fun _ hq => hq, rfl, rfl⟩

/-- A packet that starts has started, its status as it was. -/
theorem setPkt_started {s : State} {pid : Nat} {p : Packet} (h : findPkt s pid = some p) :
    PktIs (setPkt s pid fun x => { x with st := .started }) pid .started p.status :=
  ⟨_, findPkt_setPkt h fun _ hq => hq, rfl, rfl⟩

theorem PktIs.of_packets {s t : State} {pid : Nat} {st : PktState} {c : Byte} (h : PktIs s pid st c) (hp : t.packets = s.packets) :
    PktIs t pid st c := by
  obtain ⟨p, found, is⟩ := h
  exact ⟨p, (findPkt_of_packets hp pid).trans found, is⟩

/-- A packet that is taken up is run, be it accepted or started (R157, R160). -/
theorem withPkt_takes {s : State} {p : Packet} {kind : Nat} (h : TakesUp s p kind) (run : Packet → State → State) :
    withPkt s p.pid kind run = .next (run p s) := by
  obtain ha | ha := h.turn
  · exact withPkt_accepted h ha.1 run
  · simp only [withPkt, h.found, h.kind, h.runnable, ha, ne_eq, not_true_eq_false, Bool.false_eq_true, or_self, if_false]

end Sys2Proof.Machine
end

section
/-! PROOFS. GLZLOAD and the drain of a stream (R87, R89 to R91, R94, R96, R167). -/

namespace Sys2Proof.Proofs
open Sys2Proof Sys2Proof.Machine

/-! The commands and the drain are run as the model says. -/

theorem exec_glzloadLoad (pid : Nat) (s : State) : exec (.glzloadLoad pid) s = execGlzloadLoad pid s := rfl
theorem exec_glzloadUnload (pid : Nat) (s : State) : exec (.glzloadUnload pid) s = execGlzloadUnload pid s := rfl
theorem exec_glzloadRead (pid : Nat) (s : State) : exec (.glzloadRead pid) s = withGlz s pid 2 (glzRead false) := rfl
theorem exec_glzloadReadclr (pid : Nat) (s : State) : exec (.glzloadReadclr pid) s = withGlz s pid 3 (glzRead true) := rfl
theorem exec_glazeDrainDone (k : BitVec 6) (s : State) : exec (.glazeDrainDone k) s = execGlazeDrainDone k s := rfl

/-! The stream that a packet names. -/

section
variable {s : State} {p : Packet} {v : Nat} (hk : glzStream p ≠ 0)
  (hv : (streamOf s (glzStream p)).st = .bound v ∨ (streamOf s (glzStream p)).st = .loaded v)
include hk hv

theorem glzOwner_own (h : v = p.vi) : glzOwner s p = 0 := by
  obtain hv | hv := hv <;> simp only [glzOwner, hk, hv, h, if_false, if_true]

theorem glzOwner_other (h : v ≠ p.vi) : glzOwner s p = 0xB := by
  obtain hv | hv := hv <;> simp only [glzOwner, hk, hv, h, if_false]

variable {op : Nat} (ht : TakesUp s p 4) (hb : glzBad p = false) (ho : pktNum p 16 8 % 4 = op) (run : Packet → BitVec 6 → State → State)
include ht hb ho

/-- A command on a stream of its own interface is run. -/
theorem withGlz_own (h : v = p.vi) : withGlz s p.pid op run = .next (run p (glzStream p) s) := by
  rw [withGlz, withPkt_takes ht, glzOwner_own hk hv h]
  simp only [ho, hb, ne_eq, not_true_eq_false, Bool.false_eq_true, and_false, if_false]

/-- A command on another interface's stream is refused (R87). -/
theorem withGlz_other (h : v ≠ p.vi) : withGlz s p.pid op run = .next (failPkt s p.pid 0xB) := by
  rw [withGlz, withPkt_takes ht, glzOwner_other hk hv h]
  simp only [ho, hb, ne_eq, not_true_eq_false, Bool.false_eq_true, and_false, if_false]
  exact congrArg _ (if_pos (by decide))

end

/-! The histogram. -/

/-- The histogram is another holder's, or free or the stream's own (R90). -/
theorem histBusy_iff (s : State) (k : BitVec 6) : histBusy s k = true ↔ ∃ o, s.histOwner = some o ∧ o ≠ .stream k.toNat := by
  rw [histBusy]
  split <;> simp [*]

theorem histBusy_eq_false {s : State} {k : BitVec 6} (h : s.histOwner = none ∨ s.histOwner = some (.stream k.toNat)) :
    histBusy s k = false := by
  obtain h | h := h <;> simp [histBusy, h]

/-- A stream that has let go of the histogram does not hold it. -/
theorem releaseHist_histOwner (s : State) (k : BitVec 6) : (releaseHist s k).histOwner ≠ some (.stream k.toNat) := by
  rw [releaseHist]
  split
  · exact nofun
  · assumption

/-- Letting go of the histogram changes nothing else. -/
theorem releaseHist_eq (s : State) (k : BitVec 6) : ∃ o h, releaseHist s k = { s with histOwner := o, hist := h } := by
  rw [releaseHist]
  split <;> exact ⟨_, _, rfl⟩

/-! A configuration installed. -/

/-- What an installed configuration leaves (R87, R90). -/
theorem installCfg_eq (s : State) (k : BitVec 6) (vi : Nat) (c : BitVec 8192) : ∃ o h, installCfg s k vi c =
      setStream { clearSides s k with histOwner := o, hist := h } k
        (fun q => { q with st := .loaded vi, cfg := c, pending := if q.unbind then some none else none, pid := none }) ∧
    (cfgMode c 5 = true → o = some (.stream k.toNat) ∧ h = []) := by
  rw [installCfg]
  split
  · exact ⟨_, _, rfl, fun _ => ⟨rfl, rfl⟩⟩
  · next hc =>
    obtain ⟨o, h, eq⟩ := releaseHist_eq (clearSides s k) k
    exact ⟨o, h, by rw [eq], fun g => absurd g hc⟩

theorem installCfg_packets (s : State) (k : BitVec 6) (vi : Nat) (c : BitVec 8192) : (installCfg s k vi c).packets = s.packets := by
  obtain ⟨o, h, eq, -⟩ := installCfg_eq s k vi c
  rw [eq]
  rfl

theorem installCfg_digests (s : State) (k : BitVec 6) (vi : Nat) (c : BitVec 8192) :
    (installCfg s k vi c).digests = (clearDigests s k).digests := by
  obtain ⟨o, h, eq, -⟩ := installCfg_eq s k vi c
  rw [eq]
  rfl

theorem installCfg_hist {s : State} {k : BitVec 6} {vi : Nat} {c : BitVec 8192} (hc : cfgMode c 5 = true) :
    (installCfg s k vi c).histOwner = some (.stream k.toNat) ∧ (installCfg s k vi c).hist = [] := by
  obtain ⟨o, h, eq, held⟩ := installCfg_eq s k vi c
  rw [eq]
  exact held hc

/-- The stream under an installed configuration (R87). -/
theorem streamOf_installCfg (s : State) (k : BitVec 6) (vi : Nat) (c : BitVec 8192) : streamOf (installCfg s k vi c) k =
    { streamOf s k with
      st := .loaded vi, cfg := c, pending := if (streamOf s k).unbind then some none else none, pid := none, hsat := false } := by
  obtain ⟨o, h, eq, -⟩ := installCfg_eq s k vi c
  have cleared : streamOf { clearSides s k with histOwner := o, hist := h } k = { streamOf s k with hsat := false } := mget_mset_same ..
  rw [eq, streamOf_setStream, cleared]

/-! LOAD and UNLOAD. -/

/-- Reading its configuration leaves the histogram to whom it belongs. -/
theorem touchVa_histBusy (s : State) (vi asid va n : Nat) (k : BitVec 6) : histBusy (touchVa s vi asid va n) k = histBusy s k := by
  rw [histBusy, (touchVa_touched ..).histOwner, histBusy]

theorem histBusy_unwanted {s : State} {k : BitVec 6} {c : BitVec 8192} (free : cfgMode c 5 = true → histBusy s k = false) :
    (cfgMode c 5 && histBusy s k) = false := by
  cases hm : cfgMode c 5
  · rfl
  · exact free hm

/-- The histogram claimed, every bin zero, by a configuration that wants it while it is free (R90, R91). -/
def histClaimed (s : State) (k : BitVec 6) (c : BitVec 8192) : State :=
  if cfgMode c 5 && s.histOwner.isNone then { s with histOwner := some (.stream k.toNat), hist := [] } else s

section
variable {s : State} {p : Packet} {v : Nat} (ht : TakesUp s p 4) (hb : glzBad p = false) (hk : glzStream p ≠ 0)
  (hv : (streamOf s (glzStream p)).st = .bound v ∨ (streamOf s (glzStream p)).st = .loaded v) (h : v = p.vi)
  (hq : (streamOf s (glzStream p)).changing = false)
include ht hb hk hv h hq

section
variable (ho : pktNum p 16 8 % 4 = 0) {bs : List Byte} (hr : engineBytes s (pktSpace p) (pktNum p 24 8) 1024 = .ok bs)
  {c : BitVec 8192} (hc : BitVec.ofNat 8192 (natOfBytes bs) = c)
include ho hr hc

/-- A bad configuration is refused (R90). -/
theorem exec_load_bad (bad : cfgBad c = true) :
    exec (.glzloadLoad p.pid) s = .next (failPkt (touchVa s p.vi p.asid (pktNum p 24 8) 1024) p.pid 8) := by
  rw [exec_glzloadLoad, execGlzloadLoad, withGlz_own hk hv ht hb ho _ h]
  simp only [hq, hr, hc, bad, Bool.false_eq_true, if_false, if_true]

variable (good : cfgBad c = false)
include good

/-- A configuration that wants the histogram of another holder is refused (R90). -/
theorem exec_load_histBusy (hist : cfgMode c 5 = true) (busy : histBusy s (glzStream p) = true) :
    exec (.glzloadLoad p.pid) s = .next (failPkt (touchVa s p.vi p.asid (pktNum p 24 8) 1024) p.pid 9) := by
  rw [exec_glzloadLoad, execGlzloadLoad, withGlz_own hk hv ht hb ho _ h]
  simp only [hq, hr, hc, good, hist, busy, Bool.false_eq_true, if_false, if_true, Bool.and_self, touchVa_histBusy]

variable (free : cfgMode c 5 = true → histBusy s (glzStream p) = false)
include free

/-- A good configuration is installed at once on a bound stream (R90). -/
theorem exec_load_bound (bound : (streamOf s (glzStream p)).st = .bound v) :
    exec (.glzloadLoad p.pid) s = .next (donePkt (installCfg (touchVa s p.vi p.asid (pktNum p 24 8) 1024) (glzStream p) p.vi c) p.pid) := by
  have free := histBusy_unwanted free
  rw [exec_glzloadLoad, execGlzloadLoad, withGlz_own hk hv ht hb ho _ h]
  simp only [hq, hr, hc, good, free, bound, Bool.false_eq_true, if_false, touchVa_histBusy]

/-- On a loaded stream the change is marked and waits for the drain (R91). -/
theorem exec_load_loaded (loaded : (streamOf s (glzStream p)).st = .loaded v) :
    exec (.glzloadLoad p.pid) s = .next (setStream (setPkt (histClaimed (touchVa s p.vi p.asid (pktNum p 24 8) 1024) (glzStream p) c) p.pid
      fun x => { x with st := .started }) (glzStream p) fun q => { q with pending := some (some c), pid := some p.pid }) := by
  have free := histBusy_unwanted free
  rw [exec_glzloadLoad, execGlzloadLoad, withGlz_own hk hv ht hb ho _ h]
  simp only [hq, hr, hc, good, free, loaded, Bool.false_eq_true, if_false, touchVa_histBusy]
  rfl

end

/-- UNLOAD of a loaded stream marks it to be left bound (R91). -/
theorem exec_unload_loaded (ho : pktNum p 16 8 % 4 = 1) (loaded : (streamOf s (glzStream p)).st = .loaded v) :
    exec (.glzloadUnload p.pid) s = .next (setStream (setPkt s p.pid fun x => { x with st := .started }) (glzStream p)
      fun q => { q with pending := some none, pid := some p.pid }) := by
  rw [exec_glzloadUnload, execGlzloadUnload, withGlz_own hk hv ht hb ho _ h]
  simp only [loaded, hq, Bool.false_eq_true, if_false]

omit hq in
/-- UNLOAD of a stream that is only bound is refused (R87). -/
theorem exec_unload_bound (ho : pktNum p 16 8 % 4 = 1) (bound : (streamOf s (glzStream p)).st = .bound v) :
    exec (.glzloadUnload p.pid) s = .next (failPkt s p.pid 0xA) := by
  rw [exec_glzloadUnload, execGlzloadUnload, withGlz_own hk hv ht hb ho _ h]
  simp only [bound]

end

/-- A stream with a change marked on it (R91). -/
theorem streamOf_marked (s : State) (pid : Nat) (f : Packet → Packet) (k : BitVec 6) (g : Machine.Stream → Machine.Stream) :
    streamOf (setStream (setPkt s pid f) k g) k = g (streamOf s k) :=
  streamOf_setStream (setPkt s pid f) k g

theorem streamOf_of_streams {s t : State} (h : t.streams = s.streams) (k : BitVec 6) : streamOf t k = streamOf s k := by
  rw [streamOf, h, streamOf]

theorem histClaimed_eq (s : State) (k : BitVec 6) (c : BitVec 8192) : ∃ o h, histClaimed s k c = { s with histOwner := o, hist := h } := by
  rw [histClaimed]
  split <;> exact ⟨_, _, rfl⟩

theorem histClaimed_packets (s : State) (k : BitVec 6) (c : BitVec 8192) : (histClaimed s k c).packets = s.packets := by
  obtain ⟨o, h, eq⟩ := histClaimed_eq s k c
  rw [eq]

theorem histClaimed_streams (s : State) (k : BitVec 6) (c : BitVec 8192) : (histClaimed s k c).streams = s.streams := by
  obtain ⟨o, h, eq⟩ := histClaimed_eq s k c
  rw [eq]

/-- A configuration that wants the histogram holds it from when the change is marked. -/
theorem histClaimed_held {s : State} {k : BitVec 6} {c : BitVec 8192} (hm : cfgMode c 5 = true)
    (h : s.histOwner = none ∨ s.histOwner = some (.stream k.toNat)) : (histClaimed s k c).histOwner = some (.stream k.toNat) := by
  obtain h | h := h <;> simp [histClaimed, hm, h]

/-! READ and READCLR. -/

/-- Reading the side record of a stream, the histogram not asked for (R96). -/
theorem glzRead_side {s u : State} {p : Packet} {k : BitVec 6} (hc : checkRange s (pktSpace p) (pktNum p 24 8) 64 true = .ok)
    (hz : pktNum p 32 8 = 0) (hw : writeVa (setStream s k fun q => q) (pktSpace p) (pktNum p 24 8)
      (sideRecord s k (streamOf s k).hsat) = some u) (clr : Bool) :
    glzRead clr p k s = donePkt (if clr then clearSides u k else u) p.pid := by
  have own : decide (pktNum p 32 8 ≠ 0 ∧ s.histOwner = some (.stream k.toNat)) = false := by simp [hz]
  have kept : (setStream s k fun q => { q with hsat := (streamOf s k).hsat }) = setStream s k fun q => q := rfl
  simp only [glzRead, hc, own, Bool.false_eq_true, if_false, List.any_nil, Bool.or_false, kept, hw, Option.getD_some, Bool.and_false]

/-- Side outputs that are cleared (R87). -/
theorem clearSides_bytes (s : State) (k : BitVec 6) : BytesKept s (clearSides s k) := ⟨fun _ _ => rfl, fun _ => rfl, fun _ => rfl⟩

/-! The drain (R91). -/

/-- The packet, if any, for which a change was made is done. -/
def tellDone (t : State) : Option Nat → State
  | some pid => donePkt t pid
  | none => t

theorem tellDone_eq (t : State) (o : Option Nat) : ∃ ps, tellDone t o = { t with packets := ps } := by
  cases o <;> exact ⟨_, rfl⟩

section
variable (t : State) (o : Option Nat)

theorem tellDone_streams : (tellDone t o).streams = t.streams := by obtain ⟨ps, eq⟩ := tellDone_eq t o; rw [eq]
theorem tellDone_digests : (tellDone t o).digests = t.digests := by obtain ⟨ps, eq⟩ := tellDone_eq t o; rw [eq]
theorem tellDone_histOwner : (tellDone t o).histOwner = t.histOwner := by obtain ⟨ps, eq⟩ := tellDone_eq t o; rw [eq]

end

theorem tellDone_is {s t : State} (hp : t.packets = s.packets) {o : Option Nat} {pid : Nat} {p : Packet} (ho : o = some pid)
    (h : findPkt s pid = some p) : PktIs (tellDone t o) pid .moved p.status := by
  subst ho
  exact donePkt_is ((findPkt_of_packets hp pid).trans h)

/-- A stream let go, its digests cleared (R87). -/
def freed (s : State) (k : BitVec 6) : State :=
  { (clearDigests s k) with streams := mset freeStream s.streams k.toNat freeStream }

theorem freed_packets (s : State) (k : BitVec 6) : (freed s k).packets = s.packets := by rw [freed, clearDigests_packets]
theorem freed_histOwner (s : State) (k : BitVec 6) : (freed s k).histOwner = s.histOwner := by rw [freed, clearDigests_histOwner]
theorem freed_digests (s : State) (k : BitVec 6) : (freed s k).digests = (clearDigests s k).digests := by rw [freed]
theorem streamOf_freed (s : State) (k : BitVec 6) : streamOf (freed s k) k = freeStream := by rw [streamOf, freed, mget_mset_same]

section
variable {s : State} {k : BitVec 6} {v : Nat}

/-- While a line of the stream is on its way, nothing happens. -/
theorem exec_drain_busy (h : streamBusy s k = true) : exec (.glazeDrainDone k) s = .next s := by
  rw [exec_glazeDrainDone, execGlazeDrainDone]
  exact if_pos h

variable (h : streamBusy s k = false) (hl : (streamOf s k).st = .loaded v)
include h hl

/-- At the drain the configuration of a replacing LOAD is installed. -/
theorem exec_drain_installs {c : BitVec 8192} (hp : (streamOf s k).pending = some (some c)) :
    exec (.glazeDrainDone k) s = .next (tellDone (installCfg s k v c) (streamOf s k).pid) := by
  simp only [exec_glazeDrainDone, execGlazeDrainDone, h, hl, hp, Bool.false_eq_true, if_false]
  rfl

variable (hp : (streamOf s k).pending = some none)
include hp

/-- At the drain the stream of an UNLOAD is left bound. -/
theorem exec_drain_unloads (hu : (streamOf s k).unbind = false) : exec (.glazeDrainDone k) s = .next (tellDone
    (setStream (releaseHist s k) k fun q => { q with st := .bound v, cfg := 0, pending := none, pid := none }) (streamOf s k).pid) := by
  simp only [exec_glazeDrainDone, execGlazeDrainDone, h, hl, hp, hu, Bool.false_eq_true, if_false]
  rfl

/-- At the drain a stream that firmware unbinds is let go, its digests cleared. -/
theorem exec_drain_frees (hu : (streamOf s k).unbind = true) : exec (.glazeDrainDone k) s = .next (tellDone
    (freed (releaseHist s k) k) (streamOf s k).pid) := by
  simp only [exec_glazeDrainDone, execGlazeDrainDone, h, hl, hp, hu, Bool.false_eq_true, if_false, if_true]
  rfl

end

/-! The statement. -/

/-- The fields of a side record (R96). -/
theorem sideRecord_fields (s : State) (k : BitVec 6) (sat : Bool) :
    let b := sideRecord s k sat
    let ds := (List.range 12).map fun c => digestOf s c k
    b.length = 64 ∧ numAt b 0 8 = (ds.map fun d => d.sum64.toNat).sum % 2 ^ 64 ∧
    numAt b 8 4 = (ds.foldl (fun x d => x ^^^ d.crcx) (0 : Word)).toNat ∧
    numAt b 12 4 = (if sat then 1 else 0) + (if s.histOwner = some (.stream k.toNat) then 2 else 0) ∧
    numAt b 16 8 = (ds.map fun d => d.lines.toNat).sum % 2 ^ 64 ∧ numAt b 24 40 = 0 := by
  intro b ds
  have fields : b = bytesOfNat 8 (ds.foldl (fun x d => x + d.sum64) (0 : DWord)).toNat ++
      (bytesOfNat 4 (ds.foldl (fun x d => x ^^^ d.crcx) (0 : Word)).toNat ++
      (bytesOfNat 4 ((if sat then 1 else 0) + (if s.histOwner = some (.stream k.toNat) then 2 else 0)) ++
      (bytesOfNat 8 (ds.foldl (fun x d => x + d.lines) (0 : DWord)).toNat ++ List.replicate 40 0))) := by
    simp only [b, ds, sideRecord, List.append_assoc, decide_eq_true_eq]
  have flags : (if sat then 1 else 0) + (if s.histOwner = some (.stream k.toNat) then 2 else 0) < 256 ^ 4 := by
    split <;> split <;> decide
  rw [fields]
  refine ⟨?_, ?_, ?_, ?_, ?_, ?_⟩
  · simp only [List.length_append, length_bytesOfNat, List.length_replicate]
  · rw [numAt_head, toNat_foldl_add, Nat.mod_mod_of_dvd _ (by decide)]
    simp
  · rw [numAt_behind _ _ _ (by decide), numAt_head]
    exact Nat.mod_eq_of_lt (BitVec.isLt _)
  · rw [numAt_behind _ _ _ (by decide), numAt_behind _ _ _ (by decide), numAt_head, Nat.mod_eq_of_lt flags]
  · rw [numAt_behind _ _ _ (by decide), numAt_behind _ _ _ (by decide), numAt_behind _ _ _ (by decide), numAt_head, toNat_foldl_add,
      Nat.mod_mod_of_dvd _ (by decide)]
    simp
  · rw [numAt_behind _ _ _ (by decide), numAt_behind _ _ _ (by decide), numAt_behind _ _ _ (by decide), numAt_behind _ _ _ (by decide)]
    exact numAt_zeros 40 40

section
variable {s : State} {p : Packet} {v : Nat} (ht : TakesUp s p 4) (hb : glzBad p = false) (hk : glzStream p ≠ 0)
  (hv : (streamOf s (glzStream p)).st = .bound v ∨ (streamOf s (glzStream p)).st = .loaded v)
include ht hb hk hv

/-- Of another interface's stream neither LOAD nor UNLOAD is carried out (R87). -/
theorem glzload_refuses (h : v ≠ p.vi) (hs : p.status = 0) :
    (pktNum p 16 8 % 4 = 0 → Answers (exec (.glzloadLoad p.pid) s) fun t => PktIs t p.pid .failed 0xB) ∧
    (pktNum p 16 8 % 4 = 1 → Answers (exec (.glzloadUnload p.pid) s) fun t => PktIs t p.pid .failed 0xB) :=
  ⟨fun ho => ⟨_, (exec_glzloadLoad ..).trans (withGlz_other hk hv ht hb ho _ h), failPkt_is ht.found hs _⟩,
    fun ho => ⟨_, (exec_glzloadUnload ..).trans (withGlz_other hk hv ht hb ho _ h), failPkt_is ht.found hs _⟩⟩

theorem load_answers (h : v = p.vi) (hq : (streamOf s (glzStream p)).changing = false) (ho : pktNum p 16 8 % 4 = 0) {bs : List Byte}
    (hr : engineBytes s (pktSpace p) (pktNum p 24 8) 1024 = .ok bs) {c : BitVec 8192} (hc : BitVec.ofNat 8192 (natOfBytes bs) = c) :
    (cfgBad c = true → p.status = 0 → Answers (exec (.glzloadLoad p.pid) s) fun t => PktIs t p.pid .failed 8) ∧
    (cfgBad c = false → cfgMode c 5 = true → (∃ o, s.histOwner = some o ∧ o ≠ .stream (glzStream p).toNat) → p.status = 0 →
      Answers (exec (.glzloadLoad p.pid) s) fun t => PktIs t p.pid .failed 9) ∧
    (cfgBad c = false → (cfgMode c 5 = true → s.histOwner = none ∨ s.histOwner = some (.stream (glzStream p).toNat)) →
      Answers (exec (.glzloadLoad p.pid) s) fun t =>
        ((streamOf s (glzStream p)).st = .bound v → PktIs t p.pid .moved p.status ∧ (streamOf t (glzStream p)).st = .loaded v ∧
          (streamOf t (glzStream p)).cfg = c ∧ (streamOf t (glzStream p)).hsat = false ∧
          (∀ j, j < 12 → digestOf t j (glzStream p) = ⟨0, 0, 0⟩) ∧
          (cfgMode c 5 = true → t.histOwner = some (.stream (glzStream p).toNat) ∧ t.hist = [])) ∧
        ((streamOf s (glzStream p)).st = .loaded v → PktIs t p.pid .started p.status ∧
          (streamOf t (glzStream p)).pending = some (some c) ∧ (streamOf t (glzStream p)).cfg = (streamOf s (glzStream p)).cfg ∧
          (cfgMode c 5 = true → t.histOwner = some (.stream (glzStream p).toNat)))) := by
  have touched : Touched s (touchVa s p.vi p.asid (pktNum p 24 8) 1024) := touchVa_touched ..
  have found : findPkt (touchVa s p.vi p.asid (pktNum p 24 8) 1024) p.pid = some p :=
    (findPkt_of_packets touched.packets _).trans ht.found
  refine ⟨fun bad hs => ?bad, fun good hm other hs => ?busy, fun good held => ?good⟩
  case bad => exact ⟨_, exec_load_bad ht hb hk hv h hq ho hr hc bad, failPkt_is found hs _⟩
  case busy => exact ⟨_, exec_load_histBusy ht hb hk hv h hq ho hr hc good hm ((histBusy_iff ..).mpr other), failPkt_is found hs _⟩
  case good =>
    have free : cfgMode c 5 = true → histBusy s (glzStream p) = false := fun hm => histBusy_eq_false (held hm)
    obtain bound | loaded := id hv
    · refine ⟨_, exec_load_bound ht hb hk hv h hq ho hr hc good free bound, fun _ => ?_, fun g => absurd (bound.symm.trans g) nofun⟩
      have stream := streamOf_installCfg (touchVa s p.vi p.asid (pktNum p 24 8) 1024) (glzStream p) p.vi c
      exact ⟨donePkt_is ((findPkt_of_packets (installCfg_packets ..) _).trans found), h ▸ congrArg Stream.st stream,
        congrArg Stream.cfg stream, congrArg Stream.hsat stream, fun j _ => digestOf_cleared (installCfg_digests (vi := p.vi) ..) j,
        fun hm => installCfg_hist (vi := p.vi) hm⟩
    · refine ⟨_, exec_load_loaded ht hb hk hv h hq ho hr hc good free loaded, fun g => absurd (loaded.symm.trans g) nofun, fun _ => ?_⟩
      have marked := streamOf_marked (histClaimed (touchVa s p.vi p.asid (pktNum p 24 8) 1024) (glzStream p) c) p.pid
        (fun x => { x with st := .started }) (glzStream p) fun q => { q with pending := some (some c), pid := some p.pid }
      have kept : (streamOf (histClaimed (touchVa s p.vi p.asid (pktNum p 24 8) 1024) (glzStream p) c) (glzStream p)).cfg =
          (streamOf s (glzStream p)).cfg := congrArg Stream.cfg (streamOf_of_streams ((histClaimed_streams ..).trans touched.streams) _)
      exact ⟨(setPkt_started ((findPkt_of_packets (histClaimed_packets ..) _).trans found)).of_packets rfl,
        congrArg Stream.pending marked, (congrArg Stream.cfg marked).trans kept,
        fun hm => histClaimed_held hm (by rw [touched.histOwner]; exact held hm)⟩

theorem unload_answers (h : v = p.vi) (hq : (streamOf s (glzStream p)).changing = false) (ho : pktNum p 16 8 % 4 = 1) :
    Answers (exec (.glzloadUnload p.pid) s) fun t =>
      ((streamOf s (glzStream p)).st = .loaded v → PktIs t p.pid .started p.status ∧ (streamOf t (glzStream p)).pending = some none) ∧
      ((streamOf s (glzStream p)).st = .bound v → p.status = 0 → PktIs t p.pid .failed 0xA) := by
  obtain bound | loaded := id hv
  · exact ⟨_, exec_unload_bound ht hb hk hv h ho bound, fun g => absurd (bound.symm.trans g) nofun, fun _ hs => failPkt_is ht.found hs _⟩
  · exact ⟨_, exec_unload_loaded ht hb hk hv h hq ho loaded, fun _ => ⟨(setPkt_started ht.found).of_packets rfl,
      congrArg Stream.pending (streamOf_marked ..)⟩, fun g => absurd (loaded.symm.trans g) nofun⟩

theorem read_answers (h : v = p.vi) (hc : checkRange s (pktSpace p) (pktNum p 24 8) 64 true = .ok) (hz : pktNum p 32 8 = 0) {u : State}
    (hw : writeVa (setStream s (glzStream p) fun q => q) (pktSpace p) (pktNum p 24 8)
      (sideRecord s (glzStream p) (streamOf s (glzStream p)).hsat) = some u) :
    (pktNum p 16 8 % 4 = 2 → exec (.glzloadRead p.pid) s = .next (donePkt u p.pid)) ∧
    (pktNum p 16 8 % 4 = 3 → Answers (exec (.glzloadReadclr p.pid) s) fun t => PktIs t p.pid .moved p.status ∧
      (∀ j, j < 12 → digestOf t j (glzStream p) = ⟨0, 0, 0⟩) ∧ (streamOf t (glzStream p)).hsat = false ∧ BytesKept u t) := by
  have found : findPkt u p.pid = some p := (findPkt_of_packets (writeVa_beside hw).packets _).trans ht.found
  constructor <;> intro ho
  · rw [exec_glzloadRead, withGlz_own hk hv ht hb ho _ h, glzRead_side hc hz hw]
    rfl
  · have cleared := streamOf_setStream (clearDigests u (glzStream p)) (glzStream p) fun q => { q with hsat := false }
    refine ⟨donePkt (clearSides u (glzStream p)) p.pid, ?_, donePkt_is found, fun j _ => digestOf_cleared rfl j,
      congrArg Stream.hsat cleared, clearSides_bytes u (glzStream p)⟩
    rw [exec_glzloadReadclr, withGlz_own hk hv ht hb ho _ h, glzRead_side hc hz hw]
    rfl

end

theorem drain_answers {s : State} {k : BitVec 6} {v : Nat} (h : streamBusy s k = false) (hl : (streamOf s k).st = .loaded v) :
    (∀ c, (streamOf s k).unbind = false → (streamOf s k).pending = some (some c) → Answers (exec (.glazeDrainDone k) s) fun t =>
      (streamOf t k).st = .loaded v ∧ (streamOf t k).cfg = c ∧ (streamOf t k).pending = none ∧
      (∀ j, j < 12 → digestOf t j k = ⟨0, 0, 0⟩) ∧
      ∀ pid p, (streamOf s k).pid = some pid → findPkt s pid = some p → PktIs t pid .moved p.status) ∧
    ((streamOf s k).pending = some none → Answers (exec (.glazeDrainDone k) s) fun t =>
      t.histOwner ≠ some (.stream k.toNat) ∧
      ((streamOf s k).unbind = false → (streamOf t k).st = .bound v ∧ (streamOf t k).pending = none) ∧
      ((streamOf s k).unbind = true → streamOf t k = freeStream ∧ ∀ j, j < 12 → digestOf t j k = ⟨0, 0, 0⟩) ∧
      ∀ pid p, (streamOf s k).pid = some pid → findPkt s pid = some p → PktIs t pid .moved p.status) := by
  refine ⟨fun c hu hp => ?installs, fun hp => ?leaves⟩
  case installs =>
    have stream := (streamOf_of_streams (tellDone_streams _ (streamOf s k).pid) k).trans (streamOf_installCfg s k v c)
    refine ⟨_, exec_drain_installs h hl hp, congrArg Stream.st stream, congrArg Stream.cfg stream, ?_, fun j _ => ?_, fun pid p => ?_⟩
    · exact (congrArg Stream.pending stream).trans (if_neg (by rw [hu]; decide))
    · exact digestOf_cleared ((tellDone_digests ..).trans (installCfg_digests ..)) j
    · exact tellDone_is (installCfg_packets ..)
  case leaves =>
    have gone : (releaseHist s k).histOwner ≠ some (.stream k.toNat) := releaseHist_histOwner s k
    have packets : (releaseHist s k).packets = s.packets := by
      obtain ⟨o, g, eq⟩ := releaseHist_eq s k
      rw [eq]
    cases hu : (streamOf s k).unbind
    · have stream := (streamOf_of_streams (tellDone_streams _ (streamOf s k).pid) k).trans
        (streamOf_setStream (releaseHist s k) k fun q => { q with st := .bound v, cfg := 0, pending := none, pid := none })
      refine ⟨_, exec_drain_unloads h hl hp hu, ?_, fun _ => ⟨congrArg Stream.st stream, congrArg Stream.pending stream⟩, nofun,
        fun pid p => ?_⟩
      · rw [tellDone_histOwner]
        exact gone
      · exact tellDone_is ((setStream_packets ..).trans packets)
    · refine ⟨_, exec_drain_frees h hl hp hu, ?_, nofun, fun _ => ⟨?_, fun j _ => ?_⟩, fun pid p => ?_⟩
      · rw [tellDone_histOwner, freed_histOwner]
        exact gone
      · rw [streamOf_of_streams (tellDone_streams ..), streamOf_freed]
      · exact digestOf_cleared ((tellDone_digests ..).trans (freed_digests ..)) j
      · exact tellDone_is ((freed_packets ..).trans packets)

/-- Settles O49: each command by what it does to the packet, the stream and the histogram, READ by the fields of the side record, and
the drain by the change that is marked. -/
theorem glazeLoads : Obligations.GlazeLoads := by
  unfold Obligations.GlazeLoads
  refine ⟨sideRecord_fields, fun s p v ht hb hk hv => ⟨glzload_refuses ht hb hk hv, fun h hq ho bs hr => ?_, unload_answers ht hb hk hv,
    fun h hc hz u hw => read_answers ht hb hk hv h hc hz hw⟩, fun s k v => ⟨exec_drain_busy, drain_answers⟩⟩
  exact load_answers ht hb hk hv h hq ho hr rfl

end Sys2Proof.Proofs
end

section
/-! SUPPORT. Order, places and counts of a repartition's items, and what its stages share (R306, R307, R310, R312). -/

namespace Sys2Proof.Machine

/-! Order (R306). -/

/-- Triples are in the order of the numbers that key, rank and index make, one behind the other. -/
theorem tripleLt_eq (a b : Triple) : tripleLt a b = decide (a.key.toNat * 2 ^ 48 + a.rank.toNat * 2 ^ 32 + a.index.toNat <
    b.key.toNat * 2 ^ 48 + b.rank.toNat * 2 ^ 32 + b.index.toNat) := by
  have ar := a.rank.isLt
  have ai := a.index.isLt
  have br := b.rank.isLt
  have bi := b.index.isLt
  rw [tripleLt, Bool.eq_iff_iff]
  simp only [Bool.or_eq_true, Bool.and_eq_true, decide_eq_true_eq, BitVec.lt_def, ← BitVec.toNat_inj]
  omega

theorem length_putSorted {α : Type} (lt : α → α → Bool) (x : α) (l : List α) : (putSorted lt x l).length = l.length + 1 := by
  induction l with
  | nil => rfl
  | cons h t ih =>
    rw [putSorted]
    split
    · rfl
    · rw [List.length_cons, ih, List.length_cons]

/-- Putting a list in order loses no element. -/
theorem length_sortBy {α : Type} (lt : α → α → Bool) (l : List α) : (sortBy lt l).length = l.length := by
  have grows : ∀ (l a : List α), (l.foldl (fun a x => putSorted lt x a) a).length = a.length + l.length := by
    intro l
    induction l with
    | nil => exact fun a => rfl
    | cons x l ih =>
      intro a
      rw [List.foldl_cons, ih, length_putSorted, List.length_cons]
      omega
  exact (grows l []).trans (Nat.zero_add _)

/-! Places and counts (R310, R312). -/

theorem baseOf_succ (counts : List (List Nat)) (r d : Nat) :
    baseOf counts (r + 1) d = baseOf counts r d + (counts.getD r []).getD d 0 := by
  rw [baseOf, List.range_succ, List.foldl_append, baseOf]
  rfl

/-- What the senders below rank n keep is what the receiver has no room for. -/
theorem sum_keptOf (c : Coll) (n d : Nat) :
    ((List.range n).map fun r => keptOf c r d).sum = baseOf c.counts n d - roomAt c d := by
  induction n with
  | zero => exact (Nat.zero_sub _).symm
  | succ n ih =>
    rw [List.range_succ, List.map_append, List.sum_append, ih, baseOf_succ]
    simp only [List.map_cons, List.map_nil, List.sum_cons, List.sum_nil, keptOf]
    omega

/-- The entry of a participant counts every item sent to it once: placed within its capacities, or retained. -/
theorem crecEntry_counts (c : Coll) (d : Nat) :
    let e := crecEntry c d
    e.1 + e.2.1 + e.2.2.2 = baseOf c.counts c.sig.npart d ∧ e.1 ≤ (c.caps.getD d (0, 0)).1 ∧ e.2.1 ≤ (c.caps.getD d (0, 0)).2 ∧
      ((List.range c.sig.npart).map fun r => keptOf c r d).sum = e.2.2.2 := by
  rw [sum_keptOf]
  simp only [crecEntry, roomAt]
  omega

theorem length_histBytes (m : SMap Word) : (histBytes m).length = 262144 := by
  simp only [histBytes, List.length_flatMap, length_bytesOfNat, List.map_const', List.sum_replicate, smul_eq_mul, List.length_range]

/-- Whether every bin of a histogram is finite (R307). -/
def HistFinite (g : SMap Word) : Prop := ∀ e ∈ g, ∃ sg n d, numOf fp32 e.2.toNat = .fin sg n d

/-! What the stages share (R307). -/

/-- The lines of a repartition's items, read. -/
def itemsRead (s : State) (p : Packet) : State × List (Nat × Line) :=
  readLines s (pktSpace p) none 0 (vaLines (collRec p).src (pktNum p 32 4 * (rpBlk p.buf).isz))

/-- The items themselves. -/
def ownItems (s : State) (c : Coll) (p : Packet) : List LocalItem := localItems (itemsRead s p).1 c p (itemsRead s p).2

/-- Nothing bars the lines of a repartition's items from being read. -/
def ItemsReadable (s : State) (p : Packet) : Prop :=
  linesCheck s (pktSpace p) 0 false (vaLines (collRec p).src (pktNum p 32 4 * (rpBlk p.buf).isz)) = .ok

/-- What the move writes at a participant: the items placed there, and the indices that its own retained items have (R310). -/
def moveCells (c : Coll) (p : Packet) (items : List LocalItem) (peers : List (Triple × List Byte)) : List (Nat × Byte) :=
  let b := rpBlk p.buf
  let counted := countedItems c items
  let ret := (retained c counted).flatMap (bytesOfNat 4)
  (List.range c.sig.npart).flatMap (fun q => placeCells b (baseOf c.counts q c.rank)
    (if q = c.rank then (itemsFor c.splitters counted c.rank).map (·.bytes) else (peerItems peers q).map (·.2))) ++
    (List.range ret.length).map fun i => (b.retv + i, ret.getD i 0)

/-- Where the own items are placed, the sender is this participant: every sender's items may be named by the sender. -/
theorem moveCells_eq (c : Coll) (p : Packet) (items : List LocalItem) (peers : List (Triple × List Byte)) :
    let b := rpBlk p.buf
    let mine := fun q => if q = c.rank then (itemsFor c.splitters (countedItems c items) q).map (·.bytes) else (peerItems peers q).map (·.2)
    let ret := (retained c (countedItems c items)).flatMap (bytesOfNat 4)
    moveCells c p items peers = (List.range c.sig.npart).flatMap (fun q => placeCells b (baseOf c.counts q c.rank) (mine q)) ++
      (List.range ret.length).map fun i => (b.retv + i, ret.getD i 0) := by
  dsimp only
  rw [moveCells]
  refine congrArg (· ++ _) (List.flatMap_congr fun q _ => ?_)
  by_cases h : q = c.rank
  · rw [h]
  · rw [if_neg h, if_neg h]

theorem readItems_ok {s : State} {p : Packet} (h : ItemsReadable s p) (c : Coll) (go : State → List LocalItem → State) :
    readItems s c p go = go (itemsRead s p).1 (ownItems s c p) := by
  rw [ItemsReadable] at h
  simp only [readItems, h]
  rfl

theorem putBytes_ok {s u : State} {p : Packet} {va n : Nat} {bytes : List Byte} (hn : bytes.length = n)
    (h : checkRange s (pktSpace p) va n true = .ok) (hw : writeVa s (pktSpace p) va bytes = some u) (c : Coll) (go : State → State) :
    putBytes s c p va bytes go = go u := by
  subst hn
  simp only [putBytes, h, hw, Option.getD_some]

/-- A collective's event is taken up while every participant can be reached. -/
theorem withCollAt_runs {s : State} {c : Coll} {p : Packet} (hc : s.colls.find? (fun x => decide (x.cid = c.cid)) = some c)
    (hp : findPkt s c.pid = some p) (hl : collLost s c = false) (run : Coll → Packet → State → State) :
    withCollAt s c.cid run = .next (run c p s) := by
  simp only [withCollAt, hc, collPkt, hp, hl, Bool.false_eq_true, and_false, if_false]

end Sys2Proof.Machine
end

section
/-! PROOFS. Repartition (R98, R306 to R314). -/

namespace Sys2Proof.Proofs
open Sys2Proof Sys2Proof.Machine

/-! The stages are run as the model says. -/

theorem exec_rpartKeypass (cid : Nat) (s : State) : exec (.rpartKeypass cid) s = execRpartKeypass cid s := rfl
theorem exec_rpartReduce (cid : Nat) (peers : List (Nat × SMap Word)) (s : State) :
    exec (.rpartReduce cid peers) s = execRpartReduce cid peers s := rfl
theorem exec_rpartRefine (cid : Nat) (peers : List RpItem) (s : State) :
    exec (.rpartRefine cid peers) s = execRpartRefine cid peers s := rfl
theorem exec_rpartAssign (cid : Nat) (counts : List (List Nat)) (caps : List (Nat × Nat)) (s : State) :
    exec (.rpartAssign cid counts caps) s = execRpartAssign cid counts caps s := rfl
theorem exec_rpartMoveDone (cid : Nat) (peers : List (Triple × List Byte)) (s : State) :
    exec (.rpartMoveDone cid peers) s = execRpartMoveDone cid peers s := rfl
theorem exec_rpartWeightFail (cid : Nat) (s : State) : exec (.rpartWeightFail cid) s = execRpartWeightFail cid s := rfl

section
variable {s : State} {c : Coll} {p : Packet} (hc : s.colls.find? (fun x => decide (x.cid = c.cid)) = some c)
  (hp : findPkt s c.pid = some p) (hl : collLost s c = false)
include hc hp hl

/-- Every participant that is told of a bad weight ends the collective (R307). -/
theorem weightFail_ends (hv : c.sig.var = 3) (hr : c.st ≠ .run) : exec (.rpartWeightFail c.cid) s = .next (collFail s c 0x34) := by
  rw [exec_rpartWeightFail, execRpartWeightFail, withCollAt_runs hc hp hl, if_pos ⟨hv, hr⟩]

/-! The key pass (R98, R307, R308). -/

section
variable (hst : c.st = .keypass)
include hst

/-- A free histogram is claimed, every bin zero. -/
theorem keypass_claims (ho : s.histOwner = none) :
    exec (.rpartKeypass c.cid) s = .next { s with histOwner := some (.rpart c.cid), hist := [] } := by
  rw [exec_rpartKeypass, execRpartKeypass, withCollAt_runs hc hp hl]
  simp only [hst, ho, ne_eq, not_true_eq_false, if_false]

/-- Another repartition's histogram is waited for. -/
theorem keypass_waits {k : Nat} (ho : s.histOwner = some (.rpart k)) (hk : k ≠ c.cid) : exec (.rpartKeypass c.cid) s = .next s := by
  rw [exec_rpartKeypass, execRpartKeypass, withCollAt_runs hc hp hl]
  simp only [hst, ho, hk, ne_eq, not_true_eq_false, if_false]

/-- A histogram that a stream has taken refuses the repartition. -/
theorem keypass_refused {k : Nat} (ho : s.histOwner = some (.stream k)) :
    exec (.rpartKeypass c.cid) s = .next (collFail s c 0x35) := by
  rw [exec_rpartKeypass, execRpartKeypass, withCollAt_runs hc hp hl]
  simp only [hst, ho, ne_eq, not_true_eq_false, if_false]

theorem keypass_runs (ho : s.histOwner = some (.rpart c.cid)) : exec (.rpartKeypass c.cid) s = .next (keypass s c p) := by
  rw [exec_rpartKeypass, execRpartKeypass, withCollAt_runs hc hp hl]
  simp only [hst, ho, ne_eq, not_true_eq_false, if_false, if_true]

end

section
variable (ok : ItemsReadable s p) (hst : c.st = .keypass) (ho : s.histOwner = some (.rpart c.cid))
include ok hst ho

/-- A bad weight ends the repartition, and every participant is told. -/
theorem keypass_badWeight (bad : ∃ i ∈ ownItems s c p, weightOk i.weight = false) :
    exec (.rpartKeypass c.cid) s = .next (collFail (tellColl (itemsRead s p).1 p c.sig.plist .weight) c 0x34) := by
  obtain ⟨i, mem, bad⟩ := bad
  rw [keypass_runs hc hp hl hst ho, keypass, readItems_ok ok, if_pos]
  rw [Bool.not_eq_true', List.all_eq_false]
  exact ⟨i, mem, by simp [bad]⟩

/-- The pass writes the local histogram and lets the histogram go. -/
theorem keypass_writes {u : State} (good : ∀ i ∈ ownItems s c p, weightOk i.weight = true)
    (hr : checkRange (itemsRead s p).1 (pktSpace p) (rpBlk p.buf).hwk 262144 true = .ok)
    (hw : writeVa (itemsRead s p).1 (pktSpace p) (rpBlk p.buf).hwk (histBytes (localHist (ownItems s c p))) = some u) :
    exec (.rpartKeypass c.cid) s = .next (setColl { u with histOwner := none, hist := [] } c.cid fun d =>
      { d with hist := localHist (ownItems s c p), st := .reduce }) := by
  rw [keypass_runs hc hp hl hst ho, keypass, readItems_ok ok, List.all_eq_true.mpr good, if_neg nofun]
  exact congrArg _ (putBytes_ok (length_histBytes _) hr hw ..)

end

/-! The histograms combined (R308, R309). -/

section
variable {peers : List (Nat × SMap Word)} {g : SMap Word} (hst : c.st = .reduce)
  (all : ∀ q, q < c.sig.npart → q = c.rank ∨ ∃ e ∈ peers, e.1 = q)
  (hg : reduceHist ((List.range c.sig.npart).map fun q =>
    if q = c.rank then c.hist else (peers.find? fun e => e.1 = q).elim [] (·.2)) = g)
include hst all hg

/-- The step is taken once every participant's histogram is there: an infinite bin ends the repartition, else the combined histogram is
written, and a sum of zero runs the key pass again with unit weights. -/
theorem reduce_runs :
    (¬HistFinite g → exec (.rpartReduce c.cid peers) s = .next (collFail s c 0x36)) ∧
    (HistFinite g → exec (.rpartReduce c.cid peers) s = .next (putBytes s c p (rpBlk p.buf).hwk (histBytes g) fun t =>
      setColl t c.cid fun d =>
        if histSum g = 0 ∧ d.unitw = false then { d with unitw := true, st := .keypass } else { d with hist := g, st := .refine })) := by
  have ready : ((List.range c.sig.npart).all fun r => decide (r = c.rank) || peers.any fun e => decide (e.1 = r)) = true := by
    simpa using all
  rw [exec_rpartReduce, execRpartReduce, withCollAt_runs hc hp hl]
  simp only [hst, ready, ne_eq, not_true_eq_false, Bool.not_true, Bool.false_eq_true, or_self, if_false]
  generalize hm : reduceHist _ = m
  obtain rfl : m = g := by
    rw [← hm, ← hg]
    refine congrArg _ (List.map_congr_left fun q _ => ?_)
    split
    · rfl
    · cases peers.find? fun e => decide (e.1 = q) <;> rfl
  refine ⟨fun infinite => ?infinite, fun finite => ?finite⟩
  case infinite =>
    simp only [HistFinite, not_forall] at infinite
    obtain ⟨e, mem, bad⟩ := infinite
    rw [if_pos (List.any_eq_true.mpr ⟨e, mem, ?_⟩)]
    split
    · exact absurd ⟨_, _, _, ‹_›⟩ bad
    · rfl
  case finite =>
    rw [if_neg]
    rw [List.any_eq_true]
    rintro ⟨e, mem, bad⟩
    obtain ⟨sg, n, d, eq⟩ := finite e mem
    rw [eq] at bad
    cases bad

end

/-! Splitters, counts and places (R309, R310, R312). -/

section
variable (ok : ItemsReadable s p)
include ok

/-- The splitters are chosen from every participant's items in order, and written. -/
theorem refine_writes {peers all : List RpItem} {ss : List Triple} {u : State} (hst : c.st = .refine)
    (hall : sortBy (fun (x y : RpItem) => tripleLt x.triple y.triple) ((ownItems s c p).map (fun i => ⟨i.triple, i.weight⟩) ++
      (peers.filter fun i => decide (i.triple.rank.toNat ≠ c.rank)).map fun (i : RpItem) =>
        if c.unitw then { i with weight := 0x3F800000 } else i) = all)
    (hss : (List.range (c.sig.npart - 1)).map (fun j => splitter c.hist all c.sig.npart (j + 1)) = ss)
    (hr : checkRange (itemsRead s p).1 (pktSpace p) (rpBlk p.buf).splv (ss.flatMap splitBytes).length true = .ok)
    (hw : writeVa (itemsRead s p).1 (pktSpace p) (rpBlk p.buf).splv (ss.flatMap splitBytes) = some u) :
    exec (.rpartRefine c.cid peers) s = .next (setColl u c.cid fun d => { d with splitters := ss, st := .assign }) := by
  subst hall hss
  rw [exec_rpartRefine, execRpartRefine, withCollAt_runs hc hp hl, if_neg (not_not.mpr hst), readItems_ok ok]
  exact congrArg _ (putBytes_ok rfl hr hw ..)

/-- Counts and capacities among which the own ones are right are taken up (R307, R310). -/
theorem assign_counts {counts : List (List Nat)} {caps : List (Nat × Nat)} (hst : c.st = .assign) (hn : counts.length = c.sig.npart)
    (hk : caps.length = c.sig.npart) (hw : ∀ w ∈ counts, w.length = c.sig.npart)
    (own : counts.getD c.rank [] =
      (List.range c.sig.npart).map fun d => ((ownItems s c p).filter fun i => destOf c.splitters i.triple = d).length)
    (room : caps.getD c.rank (0, 0) = ((rpBlk p.buf).pcap, (rpBlk p.buf).scap)) :
    exec (.rpartAssign c.cid counts caps) s = .next (setColl (itemsRead s p).1 c.cid fun d =>
      { d with counts := counts, caps := caps, items := (ownItems s c p).map (·.triple), st := .move }) := by
  rw [exec_rpartAssign, execRpartAssign, withCollAt_runs hc hp hl]
  dsimp only
  rw [if_neg (not_not.mpr hst), readItems_ok ok, if_pos]
  exact ⟨hn, hk, by simpa using hw, by simp only [itemsFor, length_sortBy, own], room⟩

/-- The items are placed, and what is retained and the record are written (R307, R310, R312). -/
theorem move_places {peers : List (Triple × List Byte)} {cells : List (Nat × Byte)} {u : State} (hv : c.sig.var = 3) (hst : c.st = .move)
    (ready : moveReady c (rpBlk p.buf).isz peers = true) (hcells : moveCells c p (ownItems s c p) peers = cells)
    (hlines : linesCheck (itemsRead s p).1 (pktSpace p) 0 true ((cells.map fun e => e.1 / 128).dedup) = .ok)
    (hr : checkRange (itemsRead s p).1 (pktSpace p) (rpBlk p.buf).crec (64 + 16 * (collRec p).npart) true = .ok)
    (hw : writeVa (writeCells (itemsRead s p).1 (pktSpace p) none 0 cells) (pktSpace p) (rpBlk p.buf).crec
      (crecDone c (collRec p)) = some u) :
    exec (.rpartMoveDone c.cid peers) s = .next (donePkt (dropColl u c.cid) p.pid) := by
  have goes : ¬(c.st ≠ .move ∨ c.sig.var ≠ 3 ∨ (!moveReady c (rpBlk p.buf).isz peers) = true) := by simp [hst, hv, ready]
  rw [exec_rpartMoveDone, execRpartMoveDone, withCollAt_runs hc hp hl]
  dsimp only
  rw [if_neg goes, readItems_ok ok]
  subst hcells
  simp only [moveCells] at hlines hw
  simp only [hlines, hr, hw, Option.getD_some]

end
end

/-- Settles O51: the order of triples and the counts by arithmetic, each stage by what it does once it is taken up. -/
theorem repartition : Obligations.Repartition := by
  unfold Obligations.Repartition
  refine ⟨tripleLt_eq, fun b q => rfl, crecEntry_counts, ?stages, ?reduce⟩
  case stages =>
    intro s c p b ls r items hc hp hv hrun hl
    refine ⟨weightFail_ends hc hp hl hv hrun, fun hst => ⟨keypass_claims hc hp hl hst, fun k => keypass_waits hc hp hl hst,
      fun k => keypass_refused hc hp hl hst⟩, fun ok => ⟨fun hst ho => ⟨keypass_badWeight hc hp hl ok hst ho,
      fun u => keypass_writes hc hp hl ok hst ho⟩, fun peers u hst => refine_writes hc hp hl ok hst rfl rfl,
      fun counts caps hst hn hk hw own room => assign_counts hc hp hl ok hst hn hk hw own room,
      fun peers hst ready u => move_places hc hp hl ok hv hst ready (moveCells_eq ..)⟩⟩
  case reduce =>
    intro s c p peers hc hp hst hl all g fin
    obtain ⟨infinite, finite⟩ := reduce_runs hc hp hl hst all rfl
    exact ⟨infinite, fun u hf hr hw => (finite hf).trans (congrArg _ (putBytes_ok (length_histBytes _) hr hw ..))⟩

end Sys2Proof.Proofs
end

section
/-! SUPPORT. A lane's loaded bytes written to its registers (R195). -/

namespace Sys2Proof.Machine

variable {t : Fmt}

/-- A format's elements take one register or two (R32). -/
theorem regs_cases (t : Fmt) : t.regs = 1 ∨ t.regs = 2 := by
  cases t <;> simp [Fmt.regs]

/-- An element is written as a destination of its registers is, in its lane. -/
theorem loadRegs_eq (w : Warp) (t : Fmt) (r n k : Nat) (bytes : List Byte) : loadRegs w t r n k bytes =
    (List.range n).foldl (fun w j => putLane (r + j * t.regs) t.regs (fun _ => elemValue t bytes j) w k) w := by
  refine List.foldl_ext _ _ w fun w j _ => ?_
  dsimp only [putLane]
  rw [Nat.mul_comm j]
  rcases regs_cases t with h | h
  · rw [h, if_neg (by decide), if_neg (by decide), Nat.one_mul]
  · rw [h, if_pos rfl, if_pos rfl]

theorem loadRegs_succ (w : Warp) (t : Fmt) (r n k : Nat) (bytes : List Byte) : loadRegs w t r (n + 1) k bytes =
    putLane (r + n * t.regs) t.regs (fun _ => elemValue t bytes n) (loadRegs w t r n k bytes) k := by
  rw [loadRegs_eq, loadRegs_eq, List.range_succ, List.foldl_append, List.foldl_cons, List.foldl_nil]

/-- Loaded bytes change nothing of the warp but its vector registers. -/
theorem loadRegs_sameBut (w : Warp) (t : Fmt) (r n k : Nat) (bytes : List Byte) :
    loadRegs w t r n k bytes = { w with v := (loadRegs w t r n k bytes).v } := by
  induction n with
  | zero => rfl
  | succ n ih => rw [loadRegs_succ, putLane_sameBut, ih]

/-- A register is none of those that n elements go to. -/
def Beyond (t : Fmt) (r n x : Nat) : Prop := ∀ j < n, ∀ z < t.regs, x ≠ r + j * t.regs + z

theorem loadRegs_other (w : Warp) {r n k x y : Nat} (bytes : List Byte) (hk : k < 32) (hy : y < 32) (h : Beyond t r n x ∨ y ≠ k) :
    mget 0 (loadRegs w t r n k bytes).v (x * 32 + y) = mget 0 w.v (x * 32 + y) := by
  induction n with
  | zero => rfl
  | succ n ih =>
    rw [loadRegs_succ, putLane_other _ _ _ _ _ _ _ hk hy, ih (h.imp_left fun h j hj => h j (hj.trans n.lt_succ_self))]
    refine h.imp_left fun h => ⟨h n n.lt_succ_self 0 (by have := regs_cases t; omega), fun h2 => ?_⟩
    exact h n n.lt_succ_self 1 (by omega)

theorem loadRegs_same (w : Warp) {r n k j z : Nat} (bytes : List Byte) (hk : k < 32) (hj : j < n) (hz : z < t.regs) :
    mget 0 (loadRegs w t r n k bytes).v ((r + j * t.regs + z) * 32 + k) = BitVec.ofNat 32 (elemValue t bytes j / 2 ^ (32 * z)) := by
  induction n with
  | zero => cases hj
  | succ n ih =>
    rw [loadRegs_succ]
    by_cases he : j = n
    · subst he
      exact putLane_same _ _ _ _ _ _ hz (regs_cases t)
    · have before : j * t.regs + t.regs ≤ n * t.regs := by
        rw [← Nat.succ_mul]
        exact Nat.mul_le_mul_right _ (by omega)
      rw [putLane_other _ _ _ _ _ _ _ hk hk (.inl ⟨by omega, by omega⟩), ih (by omega)]

/-- The bytes of some lanes written to their registers, a lane after the other. -/
def loadLanes (t : Fmt) (r n : Nat) (f : LaneAcc → List Byte) (l : List (Nat × LaneAcc)) (w : Warp) : Warp :=
  l.foldl (fun w e => loadRegs w t r n e.1 (f e.2)) w

variable {r n : Nat} {f : LaneAcc → List Byte} {l : List (Nat × LaneAcc)}

theorem loadLanes_sameBut (t : Fmt) (r n : Nat) (f : LaneAcc → List Byte) (l : List (Nat × LaneAcc)) (w : Warp) :
    loadLanes t r n f l w = { w with v := (loadLanes t r n f l w).v } := by
  induction l generalizing w with
  | nil => rfl
  | cons e l ih =>
    rw [loadLanes, List.foldl_cons, ← loadLanes, ih, loadRegs_sameBut]

theorem loadLanes_other {x y : Nat} (w : Warp) (hl : ∀ e ∈ l, e.1 < 32) (hy : y < 32) (h : Beyond t r n x ∨ y ∉ l.map (·.1)) :
    mget 0 (loadLanes t r n f l w).v (x * 32 + y) = mget 0 w.v (x * 32 + y) := by
  induction l generalizing w with
  | nil => rfl
  | cons e l ih =>
    obtain ⟨he, hl⟩ := List.forall_mem_cons.mp hl
    rw [List.map_cons, List.mem_cons, not_or] at h
    rw [loadLanes, List.foldl_cons, ← loadLanes, ih _ hl (h.imp_right (·.2)), loadRegs_other _ _ he hy (h.imp_right (·.1))]

/-- What the registers of a lane hold once the lanes' bytes are written. -/
theorem loadLanes_same {k j z : Nat} {a : LaneAcc} (w : Warp) (hl : ∀ e ∈ l, e.1 < 32) (hd : (l.map (·.1)).Nodup) (hk : (k, a) ∈ l)
    (hj : j < n) (hz : z < t.regs) :
    mget 0 (loadLanes t r n f l w).v ((r + j * t.regs + z) * 32 + k) = BitVec.ofNat 32 (elemValue t (f a) j / 2 ^ (32 * z)) := by
  induction l generalizing w with
  | nil => cases hk
  | cons e l ih =>
    have hk32 : k < 32 := hl _ hk
    have below : ∀ e ∈ l, e.1 < 32 := fun e he => hl e (List.mem_cons_of_mem _ he)
    obtain ⟨hn, hd⟩ := List.nodup_cons.mp hd
    rw [loadLanes, List.foldl_cons, ← loadLanes]
    rcases List.mem_cons.mp hk with rfl | hk
    · rw [loadLanes_other _ below hk32 (.inr hn), loadRegs_same _ _ hk32 hj hz]
    · exact ih _ below hd hk

end Sys2Proof.Machine
end

section
/-! SUPPORT. The lines of a load: those that are answered fill the core's L1 (R190), and of the others a response is asked for (R101, R102,
R194). -/

namespace Sys2Proof.Machine

variable {s t u : State} {n line core : Nat}

/-! Lines filled. -/

/-- Lines filled into the L1 of the warp's core, one after the other. -/
def fillLines (ls : List (Nat × Xlat)) (s : State) : State := ls.foldl (fun t x => l1Fill t t.warp.core x.2.swz x.1) s

theorem fillLines_home (ls : List (Nat × Xlat)) (s : State) : Homeward s (fillLines ls s) :=
  foldl_home _ _ (fun _ _ => l1Fill_home ..) s

theorem l1Put_queues (h : L1Room s core 1) (swz : BitVec 4) (data : Line) :
    (l1Put s core swz line data).wbufs = s.wbufs ∧ (l1Put s core swz line data).waitReqs = s.waitReqs := by
  by_cases hc : Copied s core line
  · rw [l1Put_of_copied hc]
    exact ⟨rfl, rfl⟩
  · rw [l1Put_of_room h hc]
    exact ⟨rfl, rfl⟩

/-- A line filled where there is room makes no request. -/
theorem l1Fill_queues (h : L1Room s core 1) (swz : BitVec 4) (line : Nat) :
    (l1Fill s core swz line).wbufs = s.wbufs ∧ (l1Fill s core swz line).waitReqs = s.waitReqs := by
  rw [l1Fill]
  split
  · exact ⟨rfl, rfl⟩
  · dsimp only
    split
    · obtain ⟨-, -, hw, hr, -⟩ := recallL1_frame s line
      have room : L1Room (recallL1 s line) core 1 := h.of_sublist (recallL1_l1 s line ▸ List.filter_sublist)
      obtain ⟨pw, pr⟩ := l1Put_queues (line := line) room swz (cohLine s swz line)
      exact ⟨pw.trans hw, pr.trans hr⟩
    · exact l1Put_queues h swz _

/-- Where there is room for some lines, filling them leaves the value of every line, the miss entries and the requests that wait. -/
theorem fillLines_keeps (ls : List (Nat × Xlat)) (h : L1Room s s.warp.core ls.length) : (∀ n, CohKept s (fillLines ls s) n) ∧
    (fillLines ls s).misses = s.misses ∧ (fillLines ls s).wbufs = s.wbufs ∧ (fillLines ls s).waitReqs = s.waitReqs := by
  induction ls generalizing s with
  | nil => exact ⟨.refl s, rfl, rfl, rfl⟩
  | cons x ls ih =>
    have h : L1Room s s.warp.core (ls.length + 1) := h
    have one : L1Room s s.warp.core 1 := h.mono (Nat.le_add_left 1 _)
    have filled := l1Fill_filled (line := x.1) x.2.swz one
    obtain ⟨hw, hr⟩ := l1Fill_queues one x.2.swz x.1
    have same := (l1Fill_home s s.warp.core x.2.swz x.1).beside.warp
    have room : L1Room (l1Fill s s.warp.core x.2.swz x.1) (l1Fill s s.warp.core x.2.swz x.1).warp.core ls.length := by
      rw [same]
      exact filled.room _ h
    obtain ⟨coh, misses, wbufs, waits⟩ := ih room
    exact ⟨fun n => (filled.coh n).trans (coh n), misses.trans filled.misses, wbufs.trans hw, waits.trans hr⟩

/-! Requests that read. -/

/-- No write waits for room at its controller: what waits there reads. -/
def OnlyReads (s : State) : Prop := s.wbufs = [] ∧ ∀ q ∈ s.waitReqs, ∀ n, q.writes n = false

theorem NoneWaits.onlyReads (h : NoneWaits s) : OnlyReads s := ⟨h.1, by simp [h.2]⟩

theorem OnlyReads.of_eq (h : OnlyReads s) (hw : t.wbufs = s.wbufs) (hr : t.waitReqs = s.waitReqs) : OnlyReads t := by
  rw [OnlyReads, hw, hr]
  exact h

theorem Asked.of_same (h : ∀ n, SameLine s t n) : Asked s t := by
  refine ⟨fun n m hm => ?_, fun n z _ => (h n).coh z⟩
  have same := (h n).miss
  rw [hm, Option.map_some, Option.map_eq_some_iff] at same
  obtain ⟨m', hm', he⟩ := same
  exact ⟨m', hm', congrArg (·.1) he⟩

/-- A request for a response sent where its controller has room (R75). -/
def sendRequest (t : State) (q : CtrlReq) : State :=
  if ctrlRoom t (ctrlOf q.swz (q.line * 128)) then pushReq { t with waitReqs := t.waitReqs.erase q } q else t

/-- Reads that wait sent as far as there is room, which leaves every line as it is. -/
theorem sendRequests_same (l : List CtrlReq) (hl : ∀ q ∈ l, ∀ n, q.writes n = false) (s : State) :
    (∀ n, SameLine s (l.foldl sendRequest s) n) ∧ (l.foldl sendRequest s).wbufs = s.wbufs ∧
    (l.foldl sendRequest s).waitReqs ⊆ s.waitReqs := by
  induction l generalizing s with
  | nil => exact ⟨.refl s, rfl, List.Subset.refl _⟩
  | cons q l ih =>
    obtain ⟨hq, hl⟩ := List.forall_mem_cons.mp hl
    rw [List.foldl_cons, sendRequest]
    split
    · obtain ⟨same, hw, hr⟩ := ih hl (pushReq { s with waitReqs := s.waitReqs.erase q } q)
      have pushed : ∀ n, SameLine s (pushReq { s with waitReqs := s.waitReqs.erase q } q) n := fun n =>
        ⟨rfl, rfl, rfl, lineWrites_pushReq (s := { s with waitReqs := s.waitReqs.erase q }) hq n, fun _ => rfl⟩
      exact ⟨fun n => (pushed n).trans (same n), hw, fun x hx => List.mem_of_mem_erase (hr hx)⟩
    · exact ih hl s

/-- Sending what can be sent leaves every line as it is where no write waits. -/
theorem sendAll_reads (h : OnlyReads s) : (∀ n, SameLine s (sendAll s) n) ∧ OnlyReads (sendAll s) := by
  obtain ⟨hw, hr⟩ := h
  have sent := sendMisses_sent s
  have empty : (sendMisses s).wbufs = [] := List.sublist_nil.mp (hw ▸ sent.fewer)
  have reads : ∀ q ∈ (sendMisses s).waitReqs, ∀ n, q.writes n = false := sent.waitReqs ▸ hr
  obtain ⟨same, tw, tr⟩ := sendRequests_same (sendMisses s).waitReqs reads (sendMisses s)
  have steps : sendAll s = (sendMisses s).waitReqs.foldl sendRequest (sendMisses s) := by
    simp only [sendAll, hw, List.foldl_nil]
    rfl
  rw [steps]
  exact ⟨fun n => (sendMisses_same s n).trans (same n), tw.trans empty, fun q hq => reads q (tr hq)⟩

theorem openMiss_onlyReads (h : OnlyReads s) (swz : BitVec 4) (line : Nat) (rep : Option Nat) (l1 : List Nat) :
    OnlyReads (openMiss s swz line rep l1) := by
  cases hm : missOf s line with
  | none =>
    rw [openMiss_of_none hm]
    have sent := sendMisses_sent { s with misses := s.misses ++ [newMiss swz line rep l1] }
    exact h.of_eq ((List.sublist_nil.mp (h.1 ▸ sent.fewer)).trans h.1.symm) sent.waitReqs
  | some m =>
    rw [openMiss_of_some hm]
    exact h

/-! Responses asked for. -/

/-- A response put on the list of those outstanding. -/
def awaiting (s : State) (r : Resp) : State := { s with resps := s.resps ++ [r] }

/-- A request for a response that waits for its controller. -/
def requesting (s : State) (x : Xlat) (k : BitVec 6) (line uid : Nat) : State :=
  { s with waitReqs := s.waitReqs ++
    [{ line := line, swz := x.swz, rep := x.rep, key := none, stream := k, what := .resp, uid := uid }] }

theorem awaiting_same (s : State) (r : Resp) (n : Nat) : SameLine s (awaiting s r) n :=
  ⟨rfl, rfl, rfl, rfl, fun _ => rfl⟩

theorem requesting_same (s : State) (x : Xlat) (k : BitVec 6) (line uid n : Nat) : SameLine s (requesting s x k line uid) n :=
  ⟨rfl, rfl, rfl, rfl, fun _ => rfl⟩

theorem requesting_onlyReads (h : OnlyReads s) (x : Xlat) (k : BitVec 6) (line uid : Nat) : OnlyReads (requesting s x k line uid) := by
  refine ⟨h.1, fun q hq n => ?_⟩
  rcases List.mem_append.mp hq with hq | hq
  · exact h.2 q hq n
  · rw [List.mem_singleton.mp hq]
    simp [CtrlReq.writes]

/-- A response asked for is listed, and asked for by a request of its own or by the line's miss entry (R92, R101, R286). -/
theorem askLine_eq (s : State) (x : Xlat) (k : BitVec 6) (line : Nat) (into : List Nat) (pieces : List Piece) : ∃ r : Resp,
    (r.uid = s.warp.uid ∧ r.line = line ∧ r.stream = k) ∧
    (askLine s x k line into pieces = sendAll (requesting (awaiting s r) x k line s.warp.uid) ∨
      askLine s x k line into pieces = openMiss (awaiting s r) x.swz line x.rep into) := by
  refine ⟨⟨s.warp.uid, curIp s.warp, line, decide (k ≠ 0) || uncached s x line, k, none, none, pieces⟩, ⟨rfl, rfl, rfl⟩, ?_⟩
  rw [askLine]
  dsimp only
  split
  · exact .inl rfl
  · exact .inr rfl

theorem askLine_home (s : State) (x : Xlat) (k : BitVec 6) (line : Nat) (into : List Nat) (pieces : List Piece) :
    Homeward s (askLine s x k line into pieces) := by
  obtain ⟨r, -, he⟩ := askLine_eq s x k line into pieces
  have listed : Homeward s (awaiting s r) := ⟨rfl, id⟩
  have queued : Homeward s (requesting (awaiting s r) x k line s.warp.uid) := ⟨rfl, id⟩
  rcases he with he | he <;> rw [he]
  · exact queued.trans (sendAll_home _)
  · exact listed.trans (openMiss_home ..)

/-- A response asked for leaves what lines read as, but under a new entry, where no write waits. -/
theorem askLine_asked (h : OnlyReads s) (x : Xlat) (k : BitVec 6) (line : Nat) (into : List Nat) (pieces : List Piece) :
    Asked s (askLine s x k line into pieces) ∧ OnlyReads (askLine s x k line into pieces) := by
  obtain ⟨r, -, he⟩ := askLine_eq s x k line into pieces
  have listed : OnlyReads (awaiting s r) := h
  rcases he with he | he <;> rw [he]
  · obtain ⟨same, reads⟩ := sendAll_reads (requesting_onlyReads listed x k line s.warp.uid)
    exact ⟨.of_same fun n => ((awaiting_same s r n).trans (requesting_same ..)).trans (same n), reads⟩
  · exact ⟨(Asked.of_same (awaiting_same s r)).trans (openMiss_asked ..), openMiss_onlyReads listed ..⟩

/-- A response for a line is outstanding for a warp, through a stream. -/
def AwaitedBy (s : State) (uid line : Nat) (k : BitVec 6) : Prop := ∃ y ∈ s.resps, y.uid = uid ∧ y.line = line ∧ y.stream = k

theorem askLine_awaited (s : State) (x : Xlat) (k : BitVec 6) (line : Nat) (into : List Nat) (pieces : List Piece) :
    AwaitedBy (askLine s x k line into pieces) s.warp.uid line k ∧ s.resps ⊆ (askLine s x k line into pieces).resps := by
  obtain ⟨r, hr, he⟩ := askLine_eq s x k line into pieces
  have resps : (askLine s x k line into pieces).resps = s.resps ++ [r] := by
    rcases he with he | he <;> rw [he]
    · exact sendAll_resps _
    · exact openMiss_resps ..
  rw [AwaitedBy, resps]
  exact ⟨⟨r, List.mem_append_right _ (List.mem_singleton.mpr rfl), hr⟩, List.subset_append_left ..⟩

/-! Lines deferred. -/

theorem Homeward.withWarp (h : Homeward s t) (f : Warp → Warp) : Homeward (setWarp s f) (setWarp t f) :=
  ⟨congrArg (setWarp · f) h.1, h.2⟩

/-- Nothing is changed but what an access to memory changes, and whether the warp retires at its next instruction. -/
def Retiring (s t : State) : Prop := Homeward (setWarp s fun w => { w with retire := t.warp.retire }) t

theorem Homeward.retiring (h : Homeward s t) : Retiring s t := by
  rw [Retiring, h.beside.warp]
  exact h

theorem Retiring.trans (h : Retiring s t) (g : Retiring t u) : Retiring s u :=
  Homeward.trans (Homeward.withWarp h fun w => { w with retire := u.warp.retire }) g

theorem Retiring.beside (h : Retiring s t) : Beside (setWarp s fun w => { w with retire := t.warp.retire }) t := Homeward.beside h

theorem Retiring.warp (h : Retiring s t) : t.warp = { s.warp with retire := t.warp.retire } := h.beside.warp

theorem Retiring.now (h : Retiring s t) : t.now = s.now := h.beside.now

/-- The lines of a load that are not answered deferred, one after the other. -/
def deferLines (k : BitVec 6) (pieces : Nat × Xlat → List Piece) (late : List (Nat × Xlat)) (s : State) : State :=
  late.foldl (fun t x => deferLine t x.2 k x.1 (pieces x)) s

theorem deferLine_retiring (s : State) (x : Xlat) (k : BitVec 6) (line : Nat) (pieces : List Piece) :
    Retiring s (deferLine s x k line pieces) :=
  Homeward.withWarp (askLine_home ..) fun w => { w with retire := true }

variable {k : BitVec 6} {pieces : Nat × Xlat → List Piece} {late : List (Nat × Xlat)}

theorem deferLines_retiring (k : BitVec 6) (pieces : Nat × Xlat → List Piece) (late : List (Nat × Xlat)) (s : State) :
    Retiring s (deferLines k pieces late s) :=
  foldl_keeps Retiring (fun s => (Homeward.refl s).retiring) .trans _ _ (fun _ _ => deferLine_retiring ..) s

/-- Lines deferred leave what every line reads as, but under a new entry, where no write waits. -/
theorem deferLines_asked (k : BitVec 6) (pieces : Nat × Xlat → List Piece) (late : List (Nat × Xlat)) (h : OnlyReads s) :
    Asked s (deferLines k pieces late s) := by
  induction late generalizing s with
  | nil => exact .refl s
  | cons x late ih =>
    obtain ⟨asked, reads⟩ := askLine_asked h x.2 k x.1 (if x.2.ord = .so then [] else [s.warp.core]) (pieces x)
    have asked : Asked s (deferLine s x.2 k x.1 (pieces x)) := ⟨asked.stays, asked.reads⟩
    have reads : OnlyReads (deferLine s x.2 k x.1 (pieces x)) := reads
    exact asked.trans (ih reads)

/-- Each line deferred leaves a response outstanding, and the warp is to retire (R101, R194). -/
theorem deferLines_awaited {x : Nat × Xlat} (hx : x ∈ late) (s : State) :
    AwaitedBy (deferLines k pieces late s) s.warp.uid x.1 k ∧ (deferLines k pieces late s).warp.retire = true := by
  have stays : ∀ (l : List (Nat × Xlat)) (t : State), AwaitedBy t s.warp.uid x.1 k ∧ t.warp.retire = true →
      AwaitedBy (deferLines k pieces l t) s.warp.uid x.1 k ∧ (deferLines k pieces l t).warp.retire = true := fun l t ht => by
    refine foldl_holds (fun t : State => AwaitedBy t s.warp.uid x.1 k ∧ t.warp.retire = true) _ l ?_ t ht
    rintro t y ⟨⟨r, hr, he⟩, -⟩
    exact ⟨⟨r, (askLine_awaited t y.2 k y.1 _ (pieces y)).2 hr, he⟩, rfl⟩
  obtain ⟨before, after, rfl⟩ := List.append_of_mem hx
  have uid : (deferLines k pieces before s).warp.uid = s.warp.uid := congrArg (·.uid) (deferLines_retiring k pieces before s).warp
  rw [deferLines, List.foldl_append, List.foldl_cons, ← deferLines, ← deferLines]
  refine stays after _ ⟨?_, rfl⟩
  rw [← uid]
  exact (askLine_awaited ..).1

end Sys2Proof.Machine
end

section
/-! SUPPORT. LD's own part (R101, R190, R193 to R196, R271). -/

namespace Sys2Proof.Machine

variable {s t u : State} {l : List (Nat × LaneAcc)} {late : List (Nat × Xlat)}

/-! The state in which a load reads. -/

/-- A load's pages are looked up, and the buffered stores come first where one of them is of kind SO (R271). -/
def loadFrom (s : State) (l : List (Nat × LaneAcc)) : State :=
  let u := touchLanes s l
  if touchesSo l = true ∧ u.warp.sb ≠ [] then drain u else u

theorem loadFrom_warp (s : State) (l : List (Nat × LaneAcc)) :
    ∃ sb nr kept, (loadFrom s l).warp = { s.warp with sb := sb, nonReplay := nr, kept := kept } := by
  have touched := touchLanes_touched s l
  rw [loadFrom]
  dsimp only
  split
  · exact ⟨_, _, _, touched.warp ▸ drain_warp _⟩
  · exact ⟨_, _, _, touched.warp⟩

theorem loadFrom_now (s : State) (l : List (Nat × LaneAcc)) : (loadFrom s l).now = s.now := by
  have touched := touchLanes_touched s l
  rw [loadFrom]
  split
  · exact (drain_now _).trans touched.now
  · exact touched.now

/-! Lines and lanes of a load. -/

/-- The lines of a load that are not answered: through a stream none is (R92, R101). -/
def lateOf (s : State) (k : BitVec 6) (l : List (Nat × LaneAcc)) : List (Nat × Xlat) :=
  (linesOf l).filter fun x => k ≠ 0 || !answered s s.warp.core x.2.ord x.1

theorem mem_lateOf {k : BitVec 6} {x : Nat × Xlat} :
    x ∈ lateOf s k l ↔ x ∈ linesOf l ∧ (k ≠ 0 ∨ answered s s.warp.core x.2.ord x.1 = false) := by
  simp [lateOf]

theorem lateOf_nil {k : BitVec 6} (hk : k = 0) (h : ∀ x ∈ linesOf l, answered s s.warp.core x.2.ord x.1 = true) : lateOf s k l = [] :=
  List.filter_eq_nil_iff.mpr fun x hx => by simp [hk, h x hx]

/-- The lines of a load that the core's L1 takes at once. -/
def fillsOf (late : List (Nat × Xlat)) (l : List (Nat × LaneAcc)) : List (Nat × Xlat) :=
  (linesOf l).filter fun x => !(late.any fun y => y.1 = x.1) && decide (x.2.ord ≠ .so)

/-- A word lies on a line that is not answered. -/
def onLate (late : List (Nat × Xlat)) (w : Nat × Nat × Xlat) : Bool :=
  match w.2.2.loc with
  | .dev a => late.any fun x => x.1 = a / 128
  | .host _ => false

/-- The bytes that a lane is given at once: zero for those that are still to come, and none where it is not served (R194). -/
def loadBytes (s : State) (late : List (Nat × Xlat)) : LaneAcc → List Byte
  | .ok ws => ws.flatMap fun w => if onLate late w then List.replicate w.2.1 0 else wordBytes s w.2.2 w.2.1
  | _ => []

/-- A lane's registers are written at once: not all its words are still to come. -/
def givenNow (late : List (Nat × Xlat)) : LaneAcc → Bool
  | .ok ws => !ws.all (onLate late)
  | _ => true

/-- Some word of a lane is still to come. -/
def givenLate (late : List (Nat × Xlat)) : LaneAcc → Bool
  | .ok ws => ws.any (onLate late)
  | _ => false

/-- The lanes of which nothing is still to come: their status is written at once (R194). -/
def statusMask (late : List (Nat × Xlat)) (l : List (Nat × LaneAcc)) (act : Mask) : Mask :=
  act &&& maskOf fun j => !((l.filter fun e => givenLate late e.2).any fun e => e.1 = j)

/-- The response pieces of a line of a load (R194). -/
def piecesOf (s : State) (t : Fmt) (r p : Nat) (k : BitVec 6) (l : List (Nat × LaneAcc)) (x : Nat × Xlat) : List Piece :=
  l.flatMap fun e => match e.2 with
    | .ok ws => lanePieces s t r p e.1 x.1 (k = 0) ws
    | _ => []

/-- The registers of a load written, and the lines that are answered filled into the L1. -/
def loadFilled (t : Fmt) (n r : Nat) (late : List (Nat × Xlat)) (l : List (Nat × LaneAcc)) (s : State) : State :=
  fillLines (fillsOf late l) (setWarp s (loadLanes t r n (loadBytes s late) (l.filter fun e => givenNow late e.2)))

/-- What a load reaches before its status is written: behind that, the lines that are not answered are asked for. -/
def loadReached (t : Fmt) (n r p : Nat) (k : BitVec 6) (l : List (Nat × LaneAcc)) (s : State) : State :=
  deferLines k (piecesOf s t r p k l) (lateOf s k l) (loadFilled t n r (lateOf s k l) l s)

/-- What a load comes to. -/
def loadEnd (t : Fmt) (n r : Nat) (p : Opnd) (k : BitVec 6) (act : Mask) (l : List (Nat × LaneAcc)) (s : State) : State :=
  writeStatus (loadReached t n r (predNum p) k l s) (statusMask (lateOf s k l) l act) p (servedMask l)

/-! LD's own part is made of these. -/

/-- A lane's registers written from the state reached. -/
def loadLane (t : Fmt) (n r : Nat) (late : List (Nat × Xlat)) (s : State) (e : Nat × LaneAcc) : State :=
  match e.2 with
  | .ok ws => setWarp s fun w => loadRegs w t r n e.1
      (ws.flatMap fun w => if onLate late w then List.replicate w.2.1 0 else wordBytes s w.2.2 w.2.1)
  | _ => setWarp s fun w => loadRegs w t r n e.1 []

theorem loadLane_eq (t : Fmt) (n r : Nat) (late : List (Nat × Xlat)) (s : State) (e : Nat × LaneAcc) :
    loadLane t n r late s e = setWarp s fun w => loadRegs w t r n e.1 (loadBytes s late e.2) := by
  obtain ⟨k, a⟩ := e
  cases a <;> rfl

/-- What a lane reads is the same whatever has been written to the registers. -/
theorem loadBytes_of_sb {f : Warp → Warp} (h : (f s.warp).sb = s.warp.sb) : loadBytes (setWarp s f) late = loadBytes s late := by
  have forward : forwardByte (setWarp s f) = forwardByte s := by
    funext x
    rw [forwardByte, forwardByte, setWarp_warp, h]
  funext a
  cases a with
  | ok ws =>
    simp only [loadBytes, wordBytes, forward]
    rfl
  | clamped | nores | fail => rfl

/-- The lanes written one after the other, each from the state that those before it left. -/
theorem loadLane_fold (t : Fmt) (n r : Nat) (late : List (Nat × Xlat)) (l : List (Nat × LaneAcc)) (s : State) :
    l.foldl (loadLane t n r late) s = setWarp s (loadLanes t r n (loadBytes s late) l) := by
  induction l generalizing s with
  | nil => rfl
  | cons e l ih =>
    have sb : (loadRegs s.warp t r n e.1 (loadBytes s late e.2)).sb = s.warp.sb := by rw [loadRegs_sameBut]
    rw [List.foldl_cons, ih, loadLane_eq, loadBytes_of_sb sb]
    rfl

theorem loadBody_done {t : Fmt} {cnt : Count} {disp : BitVec 5} {d : Opnd} {br : Fin 64} {b p : Opnd} {act : Mask}
    (hl : checkLanes s act (slotRec s br) (elemIndex s act b) disp.toNat (cnt.n * t.bytes) false = l)
    (hs : streamCheck s s.warp.vi (slotRec s br).glz false = none)
    (hw : walksWanted s (maskVas act (slotRec s br) (elemIndex s act b) disp.toNat (cnt.n * t.bytes)) = [])
    (hf : faultOf s.warp.helpers l = none) :
    loadBody t cnt disp d br b p s act =
      .done (loadEnd t cnt.n (vecNum d) p (slotRec s br).glz act l (loadFrom s l)) := by
  have start : (if touchesSo l && !(touchLanes s l).warp.sb.isEmpty then drain (touchLanes s l) else touchLanes s l) = loadFrom s l := by
    simp [loadFrom]
  rw [loadBody]
  dsimp only
  rw [hs]
  dsimp only
  rw [withWalks_none hw, hl, hf]
  dsimp only
  rw [start, loadEnd, loadReached, loadFilled, ← loadLane_fold]
  rfl

end Sys2Proof.Machine
end

section
/-! SUPPORT. What a load reaches: its registers, its status, and the lines that it asks for (R101, R193 to R196). -/

namespace Sys2Proof.Machine

variable {s t u : State} {l : List (Nat × LaneAcc)} {ft : Fmt} {n r p : Nat} {k : BitVec 6} {act : Mask}

/-! Registers kept. -/

theorem RegsKept.trans {m : Mask} {codes : List Nat} (h : RegsKept s t m codes) (g : RegsKept t u m codes) : RegsKept s u m codes := by
  obtain ⟨hv, hs, hp⟩ := h
  obtain ⟨gv, gs, gp⟩ := g
  exact ⟨fun x j hj hx => (gv x j hj hx).trans (hv x j hj hx), fun x hx => (gs x hx).trans (hs x hx),
    fun x j hx => (gp x j hx).trans (hp x j hx)⟩

/-- What is kept outside some lanes is kept outside more. -/
theorem RegsKept.more_lanes {m m' : Mask} {codes : List Nat} (h : RegsKept s t m codes)
    (hm : ∀ j, m'.getLsbD j = false → m.getLsbD j = false) : RegsKept s t m' codes := by
  obtain ⟨hv, hs, hp⟩ := h
  exact ⟨fun x j hj hx => hv x j hj (hx.imp_right (hm j)), hs, fun x j hx => hp x j (hx.imp_right (hm j))⟩

theorem writeStatus_pred (s : State) (m : Mask) (q : Fin 16) (served : Mask) :
    ∃ x, writeStatus s m (.p q) served = { s with warp := { s.warp with p := x } } := by
  simp only [writeStatus, writeDst, setWarp, setP]
  split <;> exact ⟨_, rfl⟩

/-- The status of the lanes of a mask, once it is written. -/
theorem writeStatus_wrote (s : State) (m : Mask) (p : Opnd) (served : Mask) :
    Wrote (writeStatus s m p served) m p 1 fun j => if served.getLsbD j then 1 else 0 := writeDst_wrote _ _ _ _ _ (.inl rfl)

theorem Followed.resps {c : Ctl} (h : Followed s t u c) : u.resps = t.resps := by
  have e := congrArg State.resps h.outside
  exact e

/-! The lanes of a load. -/

theorem mem_checkLanes {b : BufRec} {i : Nat → Nat} {d w : Nat} {wr : Bool} {j : Nat} {a : LaneAcc} :
    (j, a) ∈ checkLanes s act b i d w wr ↔ HasLane act j ∧ a = checkLane s b (i j) d w wr := by
  simp only [checkLanes, List.mem_map, Prod.mk.injEq, mem_lanesOf]
  constructor
  · rintro ⟨j, hj, rfl, rfl⟩
    exact ⟨hj, rfl⟩
  · rintro ⟨hj, rfl⟩
    exact ⟨j, hj, rfl, rfl⟩

theorem checkLanes_lanes (s : State) (act : Mask) (b : BufRec) (i : Nat → Nat) (d w : Nat) (wr : Bool) :
    (checkLanes s act b i d w wr).map (·.1) = lanesOf act := by
  rw [checkLanes, List.map_map]
  exact List.map_id _

theorem loadFilled_warp (ft : Fmt) (n r : Nat) (late : List (Nat × Xlat)) (l : List (Nat × LaneAcc)) (s : State) :
    (loadFilled ft n r late l s).warp = loadLanes ft r n (loadBytes s late) (l.filter fun e => givenNow late e.2) s.warp :=
  (fillLines_home ..).beside.warp

theorem loadReached_warp (ft : Fmt) (n r p : Nat) (k : BitVec 6) (l : List (Nat × LaneAcc)) (s : State) :
    (loadReached ft n r p k l s).warp = { loadLanes ft r n (loadBytes s (lateOf s k l))
      (l.filter fun e => givenNow (lateOf s k l) e.2) s.warp with retire := (loadReached ft n r p k l s).warp.retire } := by
  have asked := (deferLines_retiring k (piecesOf s ft r p k l) (lateOf s k l) (loadFilled ft n r (lateOf s k l) l s)).warp
  rw [loadFilled_warp] at asked
  exact asked

theorem loadReached_now (ft : Fmt) (n r p : Nat) (k : BitVec 6) (l : List (Nat × LaneAcc)) (s : State) :
    (loadReached ft n r p k l s).now = s.now :=
  (deferLines_retiring ..).now.trans (fillLines_home ..).beside.now

/-- A load changes of the warp its registers, and whether it is to retire. -/
theorem loadReached_kept (ft : Fmt) (n r p : Nat) (k : BitVec 6) (l : List (Nat × LaneAcc)) (s : State) :
    ∃ v, (loadReached ft n r p k l s).warp = { s.warp with v := v, retire := (loadReached ft n r p k l s).warp.retire } := by
  rw [loadReached_warp, loadLanes_sameBut]
  exact ⟨_, rfl⟩

/-- A load keeps the registers but those of its destination, and these in the lanes that are not its own. -/
theorem loadReached_regs (hl : l.map (·.1) = lanesOf act) {codes : List Nat}
    (hc : ∀ j < n, ∀ z < ft.regs, r + j * ft.regs + z ∈ codes) :
    RegsKept s (loadReached ft n r p k l s) act codes := by
  have below : ∀ e ∈ l, e.1 < 32 := fun e he => lt_of_mem_lanesOf (hl ▸ List.mem_map.mpr ⟨e, he, rfl⟩)
  have warp := loadReached_warp ft n r p k l s
  refine ⟨fun x y hy h => ?_, fun x _ => ?_, fun x y _ => ?_⟩
  · rw [warp]
    refine loadLanes_other s.warp (fun e he => below e (List.mem_of_mem_filter he)) hy (h.imp ?_ ?_)
    · rintro hx j hj z hz rfl
      exact hx (hc j hj z hz)
    · intro hx hm
      obtain ⟨e, he, rfl⟩ := List.mem_map.mp hm
      have lane : e.1 ∈ lanesOf act := hl ▸ List.mem_map.mpr ⟨e, List.mem_of_mem_filter he, rfl⟩
      exact absurd (mem_lanesOf.mp lane) (by simp [HasLane, hx])
  · rw [warp, loadLanes_sameBut]
  · rw [warp, loadLanes_sameBut]

/-! The lines of a load. -/

/-- Registers written and lines filled, where there is room, leave every byte, the miss entries and the requests that wait. -/
theorem loadFilled_keeps (late : List (Nat × Xlat)) (hr : L1Room s s.warp.core (linesOf l).length) :
    BytesKept s (loadFilled ft n r late l s) ∧ (loadFilled ft n r late l s).misses = s.misses ∧
    (loadFilled ft n r late l s).wbufs = s.wbufs ∧ (loadFilled ft n r late l s).waitReqs = s.waitReqs := by
  let u := setWarp s (loadLanes ft r n (loadBytes s late) (l.filter fun e => givenNow late e.2))
  have core : u.warp.core = s.warp.core := congrArg (·.core) (loadLanes_sameBut ..)
  have room : L1Room u u.warp.core (fillsOf late l).length := core ▸ L1Room.mono (s := s) hr (List.length_filter_le ..)
  obtain ⟨coh, kept⟩ := fillLines_keeps (fillsOf late l) room
  obtain ⟨hd, hh, hp⟩ := BytesKept.of_lines (fillLines_home (fillsOf late l) u) coh
  exact ⟨⟨hd, hh, hp⟩, kept⟩

/-- Where every line is answered a load changes no byte, and the warp goes on (R101). -/
theorem loadReached_answered (hl : lateOf s k l = []) : (loadReached ft n r p k l s).warp.retire = s.warp.retire ∧
    (L1Room s s.warp.core (linesOf l).length → BytesKept s (loadReached ft n r p k l s)) := by
  have reached : loadReached ft n r p k l s = loadFilled ft n r [] l s := by
    rw [loadReached, hl]
    rfl
  rw [reached]
  refine ⟨?_, fun room => (loadFilled_keeps [] room).1⟩
  rw [loadFilled_warp, loadLanes_sameBut]

/-- Where entries stay and every line reads as before but through a new entry's placement, nothing is read anew, whether or not the warp
is to retire. -/
theorem Asked.linesKept_of_retiring (h : Asked s t) (g : Retiring s t) : LinesKept s t :=
  Asked.linesKept (s := setWarp s fun w => { w with retire := t.warp.retire }) ⟨h.stays, h.reads⟩ g

/-- A load reads no line anew but under the entries that it opens (R102). -/
theorem loadReached_linesKept (hw : NoneWaits s) (hr : L1Room s s.warp.core (linesOf l).length) :
    LinesKept s (loadReached ft n r p k l s) := by
  obtain ⟨bytes, misses, wbufs, waits⟩ := loadFilled_keeps (ft := ft) (n := n) (r := r) (lateOf s k l) hr
  have asked := deferLines_asked k (piecesOf s ft r p k l) (lateOf s k l) (hw.onlyReads.of_eq wbufs waits)
  exact (asked.linesKept_of_retiring (deferLines_retiring ..)).between bytes misses (.refl _) rfl

/-- A line that is not answered leaves a response outstanding, and the warp is to retire (R101, R194). -/
theorem loadReached_awaited {x : Nat × Xlat} (hx : x ∈ lateOf s k l) :
    AwaitedBy (loadReached ft n r p k l s) s.warp.uid x.1 k ∧ (loadReached ft n r p k l s).warp.retire = true := by
  have asked := deferLines_awaited (k := k) (pieces := piecesOf s ft r p k l) hx (loadFilled ft n r (lateOf s k l) l s)
  rw [loadFilled_warp, loadLanes_sameBut] at asked
  exact asked

/-! What the lanes are given. -/

theorem onLate_nil (w : Nat × Nat × Xlat) : onLate [] w = false := by
  rw [onLate]
  split <;> rfl

/-- Where every line is answered the lanes are given all their bytes. -/
theorem loadBytes_answered (s : State) (ws : List (Nat × Nat × Xlat)) :
    loadBytes s [] (.ok ws) = ws.flatMap fun w => wordBytes s w.2.2 w.2.1 := by
  simp only [loadBytes, onLate_nil, Bool.false_eq_true, if_false]

/-- A lane of which no word is on a line that is late has nothing still to come. -/
theorem givenLate_nil (a : LaneAcc) : givenLate [] a = false := by
  cases a with
  | ok ws => simp [givenLate, onLate_nil]
  | clamped | nores | fail => rfl

/-- A served lane with no bytes still to come is given its bytes at once, and so is every lane that is not served. -/
theorem givenNow_nil {a : LaneAcc} (h : ∀ ws, a = .ok ws → ws ≠ []) : givenNow [] a = true := by
  cases a with
  | ok ws =>
    obtain ⟨w, hw⟩ := List.exists_mem_of_ne_nil _ (h ws rfl)
    simp only [givenNow, Bool.not_eq_true', List.all_eq_false]
    exact ⟨w, hw, by simp [onLate_nil]⟩
  | clamped | nores | fail => rfl

/-- Where every line is answered the status of every lane is written at once. -/
theorem statusMask_nil (l : List (Nat × LaneAcc)) {act : Mask} {j : Nat} (h : HasLane act j) : HasLane (statusMask [] l act) j := by
  have all : (l.filter fun e => givenLate [] e.2) = [] := List.filter_eq_nil_iff.mpr fun e _ => by simp [givenLate_nil]
  rw [HasLane, statusMask, all, BitVec.getLsbD_and, getLsbD_maskOf _ _ (BitVec.lt_of_getLsbD h)]
  simpa using h

/-! What a lane that is served reads. -/

theorem worstProt_none {ds : List Nat} (h : worstProt ds = none) : ds = [] := by
  cases ds with
  | nil => rfl
  | cons d ds =>
    have found : (worstProt (d :: ds)).isSome = true := by
      refine foldl_holds (fun b : Option Nat => b.isSome = true) _ ds (fun b e hb => ?_) (some d) rfl
      cases b with
      | none => cases hb
      | some x =>
        dsimp only
        split <;> rfl
    rw [h] at found
    cases found

/-- Words that come to an access that is served are each translated (R121, R122). -/
theorem joinWords_ok {ws : List (Nat × Nat × Tr)} {xs : List (Nat × Nat × Xlat)} (h : joinWords ws = .ok xs) {w : Nat × Nat × Tr}
    (hw : w ∈ ws) : ∃ x, (w.1, w.2.1, x) ∈ xs := by
  rw [joinWords] at h
  split at h
  · cases h
  next malf =>
  split at h
  · cases h
  next prot =>
  split at h
  · cases h
  next nores =>
  cases h
  cases hx : w.2.2 with
  | ok x => exact ⟨x, List.mem_filterMap.mpr ⟨w, hw, by rw [hx]⟩⟩
  | malf => exact absurd (List.any_eq_true.mpr ⟨w, hw, by simp [hx]⟩) malf
  | prot d =>
    have allowed := List.filterMap_eq_nil_iff.mp (worstProt_none prot) w hw
    rw [hx] at allowed
    cases allowed
  | nores p =>
    have resident := List.findSome?_eq_none_iff.mp nores w hw
    rw [hx] at resident
    cases resident

/-- A lane served reads some word. -/
theorem checkLane_words {b : BufRec} {i d m : Nat} {wr : Bool} {ws : List (Nat × Nat × Xlat)} (hm : 0 < m)
    (h : checkLane s b i d m wr = .ok ws) : ws ≠ [] := by
  rw [checkLane] at h
  split at h
  · split at h <;> cases h
  · split at h
    · cases h
    · have first : 0 < (m + 3) / 4 := by omega
      obtain ⟨x, hx⟩ := joinWords_ok h (List.mem_map.mpr ⟨_, List.mem_map.mpr ⟨0, List.mem_range.mpr first, rfl⟩, rfl⟩)
      exact List.ne_nil_of_mem hx

/-- Where every line is answered, the registers of a lane hold its elements (R195). -/
theorem loadReached_elements (late : lateOf s k l = []) (hl : l.map (·.1) = lanesOf act)
    (words : ∀ j ws, (j, LaneAcc.ok ws) ∈ l → ws ≠ []) {m : Nat} {a : LaneAcc} (hm : (m, a) ∈ l) {j z : Nat} (hj : j < n)
    (hz : z < ft.regs) : mget 0 (loadReached ft n r p k l s).warp.v ((r + j * ft.regs + z) * 32 + m) =
      BitVec.ofNat 32 (elemValue ft (loadBytes s [] a) j / 2 ^ (32 * z)) := by
  have below : ∀ e ∈ l, e.1 < 32 := fun e he => lt_of_mem_lanesOf (hl ▸ List.mem_map.mpr ⟨e, he, rfl⟩)
  have every : (l.filter fun e => givenNow [] e.2) = l :=
    List.filter_eq_self.mpr fun e he => givenNow_nil fun ws hws => words e.1 ws (hws ▸ he)
  rw [loadReached_warp, late, every]
  exact loadLanes_same _ below (hl ▸ lanesOf_nodup act) hm hj hz

/-- The status bit that a predicate is given for a lane. -/
theorem servedBit_iff {m : Nat} {a : LaneAcc} (below : ∀ e ∈ l, e.1 < 32) (once : (l.map (·.1)).Nodup) (hm : (m, a) ∈ l) :
    (if (servedMask l).getLsbD m then 1 else 0) % 2 = 1 ↔ ∃ ws, a = .ok ws := by
  have one : ((if (servedMask l).getLsbD m = true then 1 else 0) % 2 = 1) ↔ (servedMask l).getLsbD m = true := by
    split <;> simp [*]
  rw [one, servedMask_lane l below]
  exact ⟨fun ⟨ws, hws⟩ => ⟨ws, congrArg (·.2) (List.inj_on_of_nodup_map once hm hws rfl)⟩, fun ⟨ws, hws⟩ => ⟨ws, hws ▸ hm⟩⟩

end Sys2Proof.Machine
end

section
/-! PROOFS. LD (R101, R193 to R196, R271). -/

namespace Sys2Proof.Proofs
open Sys2Proof Sys2Proof.Machine

section
variable {c : Ctl} {t : Fmt} {n : Count} {disp : BitVec 5} {r : Fin 1536} {br : Fin 64} {b : Opnd} {q : Fin 16} {s : State}
  {l : List (Nat × LaneAcc)}

/-- The registers of the elements are among those that LD writes. -/
theorem ld_writes_elements (c : Ctl) (t : Fmt) (n : Count) (disp : BitVec 5) (r : Fin 1536) (br : Fin 64) (b p : Opnd) :
    ∀ j < n.n, ∀ z < t.regs, r.val + j * t.regs + z ∈ (Instr.ld c t n disp (.v r) br b p).writes := by
  intro j hj z hz
  refine List.mem_flatMap.mpr ⟨memUse (.v r) t n .vec false, List.mem_filter.mpr ⟨List.mem_cons_self, rfl⟩,
    List.mem_map.mpr ⟨j * t.regs + z, List.mem_range.mpr ?_, (Nat.add_assoc ..).symm⟩⟩
  have row : (j + 1) * t.regs ≤ n.n * t.regs := Nat.mul_le_mul_right _ hj
  rw [Nat.succ_mul] at row
  change j * t.regs + z < t.regs * n.n
  rw [Nat.mul_comm t.regs]
  omega

theorem ld_writes_status (c : Ctl) (t : Fmt) (n : Count) (disp : BitVec 5) (d : Opnd) (br : Fin 64) (b p : Opnd) :
    ∀ x ∈ dstCodes p 1, x ∈ (Instr.ld c t n disp d br b p).writes := by
  intro x hx
  refine List.mem_flatMap.mpr ⟨Use.dst p 1 .pred, by simp [Instr.uses, memUse, Use.src, Use.dst], ?_⟩
  cases p <;> exact hx

/-- The state that LD leaves where its lanes come to a list of accesses through a stream. -/
def loaded (c : Ctl) (t : Fmt) (n : Count) (disp : BitVec 5) (r : Fin 1536) (br : Fin 64) (b : Opnd) (q : Fin 16) (k : BitVec 6)
    (l : List (Nat × LaneAcc)) (s : State) : State :=
  finish (issued s c) (.ld c t n disp (.v r) br b (.p q)) c (acting s c)
    (.done (loadEnd t n.n r.val (.p q) k (acting s c) l (loadFrom (issued s c) l)))

theorem load_runs (hr : Runs s (.ld c t n disp (.v r) br b (.p q)) c)
    (hl : checkLanes (issued s c) (acting s c) (slotRec (issued s c) br) (elemIndex (issued s c) (acting s c) b) disp.toNat
      (n.n * t.bytes) false = l)
    (hs : streamCheck (issued s c) s.warp.vi (slotRec (issued s c) br).glz false = none)
    (hw : walksWanted (issued s c) (maskVas (acting s c) (slotRec (issued s c) br) (elemIndex (issued s c) (acting s c) b) disp.toNat
      (n.n * t.bytes)) = [])
    (hf : faultOf s.warp.helpers l = none) :
    exec (.ld c t n disp (.v r) br b (.p q)) s = .next (loaded c t n disp r br b q (slotRec (issued s c) br).glz l s) := by
  have kept := issued_warpKept s c
  rw [← kept.vi] at hs
  rw [← kept.helpers] at hf
  have body := loadBody_done (t := t) (cnt := n) (disp := disp) (d := .v r) (br := br) (b := b) (p := .p q) hl hs hw hf
  refine (issue_runs (loadBody t n disp (.v r) br b (.p q)) hr rfl).trans ?_
  rw [body]
  rfl

/-- What LD keeps, whether its lines are answered or not: the warp but its registers and whether it is to retire, the registers that it
does not write, and all else that its access reached. -/
theorem load_frame (hr : Runs s (.ld c t n disp (.v r) br b (.p q)) c) (hl : l.map (·.1) = lanesOf (acting s c)) (k : BitVec 6) :
    let i := Instr.ld c t n disp (.v r) br b (.p q)
    let u := loadFrom (issued s c) l
    let w := loadReached t n.n r.val q.val k l u
    let v := loaded c t n disp r br b q k l s
    (WarpKept { u.warp with retire := w.warp.retire } v.warp ∧ RegsKept s v (acting s c) i.writes ∧ MovedOn s v c) ∧
    (BytesKept w v ∧ v.misses = w.misses ∧ v.resps = w.resps) ∧ v.warp.v = w.warp.v ∧
    Wrote v (statusMask (lateOf u k l) l (acting s c)) (.p q) 1 fun j => if (servedMask l).getLsbD j then 1 else 0 := by
  intro i u w v
  have followed : Followed s (loadEnd t n.n r.val (.p q) k (acting s c) l u) v c := finish_followed (c := c) hr.clear _
  obtain ⟨fe, fv, fs, fp, -, -, fh, -, -, fn⟩ := issued_frame s c
  obtain ⟨sb, nr, kept, start⟩ := loadFrom_warp (issued s c) l
  obtain ⟨vec, reached⟩ := loadReached_kept t n.n r.val q.val k l u
  have now : w.now = s.now := (loadReached_now ..).trans ((loadFrom_now ..).trans fn)
  have elements : RegsKept u w (acting s c) i.writes := loadReached_regs hl (ld_writes_elements c t n disp r br b (.p q))
  have status : RegsKept w (loadEnd t n.n r.val (.p q) k (acting s c) l u) (acting s c) i.writes :=
    (writeDst_regs w _ (.p q) 1 _ (.inl rfl) _ (ld_writes_status c t n disp (.v r) br b (.p q))).more_lanes
      fun j hj => by rw [statusMask, BitVec.getLsbD_and, hj, Bool.false_and]
  have before : RegsKept s u (acting s c) i.writes := .of_eq (by rw [start, fv]) (by rw [start, fs]) (by rw [start, fp])
  have after : RegsKept (loadEnd t n.n r.val (.p q) k (acting s c) l u) v (acting s c) i.writes := .of_eq followed.v followed.sr followed.p
  have wrote := writeStatus_wrote w (statusMask (lateOf u k l) l (acting s c)) (.p q) (servedMask l)
  obtain ⟨x, ended⟩ := writeStatus_pred w (statusMask (lateOf u k l) l (acting s c)) q (servedMask l)
  have ended : loadEnd t n.n r.val (.p q) k (acting s c) l u = { w with warp := { w.warp with p := x } } := ended
  have outside : WarpKept { u.warp with retire := w.warp.retire } (loadEnd t n.n r.val (.p q) k (acting s c) l u).warp := by
    rw [ended, reached]
    constructor <;> rfl
  refine ⟨⟨outside.trans followed.kept, before.trans (elements.trans (status.trans after)), followed.moved ?_ ?_ ?_⟩,
    ⟨.trans ?_ followed.bytes, ?_, ?_⟩, ?_, followed.wrote wrote⟩
  · rw [ended, reached, start, fe]
  · rw [ended, reached, start, fh]
  · rw [ended, now]
  · rw [ended]
    exact .refl _
  · rw [followed.misses, ended]
  · rw [followed.resps, ended]
  · rw [followed.v, ended]

/-- What LD leaves where every line is answered (R193, R195). -/
theorem loaded_answered (hr : Runs s (.ld c t n disp (.v r) br b (.p q)) c) (hl : l.map (·.1) = lanesOf (acting s c))
    (words : ∀ j ws, (j, LaneAcc.ok ws) ∈ l → ws ≠ []) {k : BitVec 6} (late : lateOf (loadFrom (issued s c) l) k l = []) :
    let u := loadFrom (issued s c) l
    let v := loaded c t n disp r br b q k l s
    (∀ m a, (m, a) ∈ l → ∀ j, j < n.n → ∀ z, z < t.regs → mget 0 v.warp.v ((r.val + j * t.regs + z) * 32 + m) =
      BitVec.ofNat 32 (elemValue t (loadBytes u [] a) j / 2 ^ (32 * z))) ∧
    (q.val ≠ 15 → ∀ m a, (m, a) ∈ l → ((mget 0 v.warp.p q.val).getLsbD m = true ↔ ∃ ws, a = .ok ws)) ∧
    (L1Room u u.warp.core (linesOf l).length → BytesKept u v) ∧ WarpKept u.warp v.warp ∧
    RegsKept s v (acting s c) (Instr.ld c t n disp (.v r) br b (.p q)).writes ∧ MovedOn s v c := by
  intro u v
  obtain ⟨⟨kept, regs, moved⟩, ⟨bytes, -, -⟩, vec, status⟩ := load_frame hr hl k
  obtain ⟨goesOn, reads⟩ := loadReached_answered (ft := t) (n := n.n) (r := r.val) (p := q.val) late
  have below : ∀ e ∈ l, e.1 < 32 := fun e he => lt_of_mem_lanesOf (hl ▸ List.mem_map.mpr ⟨e, he, rfl⟩)
  refine ⟨fun m a hm j hj z hz => ?_, fun hq m a hm => ?_, fun room => (reads room).trans bytes, ?_, regs, moved⟩
  · rw [vec]
    exact loadReached_elements late hl words hm hj hz
  · have lane : HasLane (acting s c) m := mem_lanesOf.mp (hl ▸ List.mem_map.mpr ⟨_, hm, rfl⟩)
    rw [late] at status
    rw [status hq m (statusMask_nil l lane), decide_eq_true_eq]
    exact servedBit_iff below (hl ▸ lanesOf_nodup _) hm
  · rw [goesOn] at kept
    exact kept

/-- What LD leaves where a line is not answered (R101, R194). -/
theorem loaded_late (hr : Runs s (.ld c t n disp (.v r) br b (.p q)) c) (hl : l.map (·.1) = lanesOf (acting s c)) {k : BitVec 6}
    {x : Nat × Xlat} (hx : x ∈ lateOf (loadFrom (issued s c) l) k l) :
    let u := loadFrom (issued s c) l
    let v := loaded c t n disp r br b q k l s
    v.warp.retire = true ∧ AwaitedBy v u.warp.uid x.1 k ∧ (NoneWaits u → L1Room u u.warp.core (linesOf l).length → LinesKept u v) ∧
    WarpKept { u.warp with retire := true } v.warp ∧
    RegsKept s v (acting s c) (Instr.ld c t n disp (.v r) br b (.p q)).writes ∧ MovedOn s v c := by
  intro u v
  obtain ⟨⟨kept, regs, moved⟩, ⟨bytes, misses, resps⟩, -⟩ := load_frame hr hl k
  obtain ⟨awaited, retires⟩ := loadReached_awaited (ft := t) (n := n.n) (r := r.val) (p := q.val) hx
  rw [retires] at kept
  refine ⟨kept.retire, ?_, fun quiet room => (loadReached_linesKept quiet room).between (.refl u) rfl bytes misses, kept, regs, moved⟩
  rw [AwaitedBy, resps]
  exact awaited

end

/-- An LD that is well formed loads some byte. -/
theorem load_bytes_pos {c : Ctl} {t : Fmt} {n : Count} {disp : BitVec 5} {d : Opnd} {br : Fin 64} {b p : Opnd}
    (h : (Instr.ld c t n disp d br b p).wf 1536 = true) : 0 < n.n * t.bytes := by
  have types : t ∈ ldTypes := by
    simp only [Instr.wf, Bool.and_eq_true] at h
    exact of_decide_eq_true h.1.2
  have elem : ∀ f ∈ ldTypes, 0 < f.bytes := by decide
  have count : 0 < n.n := by cases n <;> decide
  exact Nat.mul_pos count (elem t types)

/-- Settles O29: what LD's own part reaches, its registers, its lines filled or asked for, and its status, and the frame of all of it. -/
theorem loads : Obligations.Loads := by
  unfold Obligations.Loads
  intro c t n disp r br b q s i u0 rec_ l u1 u hwf hr hst hw hf
  have run : exec i s = .next (loaded c t n disp r br b q rec_.glz l s) := load_runs hr rfl hst hw hf
  have lanes : l.map (·.1) = lanesOf (acting s c) := checkLanes_lanes ..
  have words : ∀ j ws, (j, LaneAcc.ok ws) ∈ l → ws ≠ [] := fun j ws h =>
    checkLane_words (load_bytes_pos hwf) (mem_checkLanes.mp h).2.symm
  obtain ⟨sb, nr, kept, start⟩ := loadFrom_warp u0 l
  have core : u.warp.core = s.warp.core := (congrArg (·.core) start).trans (issued_warpKept s c).core
  have uid : u.warp.uid = s.warp.uid := (congrArg (·.uid) start).trans (issued_warpKept s c).uid
  rw [← core, ← uid]
  refine ⟨fun hg answers => ⟨_, run, ?_⟩, fun x hx hlate => ⟨_, run, ?_⟩⟩
  · have late : lateOf u rec_.glz l = [] := lateOf_nil hg answers
    obtain ⟨elements, rest⟩ := loaded_answered (disp := disp) (br := br) (b := b) hr lanes words late
    refine ⟨fun m a hm j hj z hz => ?_, rest⟩
    refine (elements m a hm j hj z hz).trans (congrArg (fun bytes => BitVec.ofNat 32 (elemValue t bytes j / 2 ^ (32 * z))) ?_)
    cases a with
    | ok ws => exact loadBytes_answered u ws
    | clamped | nores | fail => rfl
  · exact loaded_late hr lanes (mem_lateOf.mpr ⟨hx, hlate⟩)

end Sys2Proof.Proofs
end
